-- ==== Sys2Proof/Word.lean ====
section
/-! DEFINITION. The word types of the K4 and the index types of its parts (00_scope R3, R4, R7, R8). -/

namespace Sys2Proof

/-- One byte of a record, a frame or device memory (R7). -/
abbrev Byte := BitVec 8
/-- A 32-bit register or instruction operand (R8, R86). -/
abbrev W32 := BitVec 32
/-- A 64-bit register, instruction word or accumulator entry (R8, R77, R90). -/
abbrev W64 := BitVec 64
/-- A scratchpad or APB word (R72, R152). -/
abbrev W256 := BitVec 256

/-- A global core number, 0 to 143 (R4). -/
abbrev CoreId := Fin 144
/-- A compute die, CD0 to CD3 (R3). -/
abbrev DieId := Fin 4
/-- A task slot of a core, TS0 to TS3 (R86). -/
abbrev SlotId := Fin 4
/-- A Sorzeind handle (R179). -/
abbrev HandleId := Fin 4
/-- A DDR4 channel of a die, DDR0 to DDR3 (R302). -/
abbrev ChanId := Fin 4
/-- A Korpor port, KP0 to KP3 (R311). -/
abbrev PortId := Fin 4
/-- A scratchpad bank (R152). -/
abbrev BankId := Fin 16

/-- The die of a core (R4). -/
def coreDie (c : Nat) : Nat := c / 36
/-- The local number of a core (R4). -/
def coreLocal (c : Nat) : Nat := c % 36
/-- The group of a core within its die (R4). -/
def coreGroup (c : Nat) : Nat := coreLocal c / 9
/-- The position of a core in its group (R4). -/
def corePos (c : Nat) : Nat := coreLocal c % 9
/-- The bit of GROUPS that claims a core's group (R189). -/
def coreGroupBit (c : Nat) : Nat := 4 * coreDie c + coreGroup c

/-- The largest value of a counter that stops at 0xFFFF_FFFF. -/
def max32 : Nat := 0xFFFFFFFF
/-- Adds to a counter that stops at 0xFFFF_FFFF (R63, R151, R178, R252, R278). -/
def satAdd (n k : Nat) : Nat := min (n + k) max32
/-- Adds one to a counter that stops at 0xFFFF_FFFF. -/
def satInc (n : Nat) : Nat := satAdd n 1

/-- Bits `hi` down to `lo` of a number, as the manual writes [hi:lo] (R7). -/
def bits (w hi lo : Nat) : Nat := (w >>> lo) % 2 ^ (hi + 1 - lo)
/-- Bit `k` of a number. -/
def bit (w k : Nat) : Bool := w.testBit k
/-- A number of `n` bits read as two's complement. -/
def sext (w n : Nat) : Int := if w < 2 ^ (n - 1) then (w : Int) else (w : Int) - (2 ^ n : Nat)
/-- The quotient of two numbers, rounded up. -/
def ceilDiv (a b : Nat) : Nat := (a + b - 1) / b
/-- A Bool as a number. -/
def b2n (b : Bool) : Nat := if b then 1 else 0
/-- The number a little-endian list of bytes spells (R7). -/
def leNat : List Byte → Nat
  | [] => 0
  | b :: bs => b.toNat + 256 * leNat bs
/-- The `n` little-endian bytes of a number (R7). -/
def leBytes : Nat → Nat → List Byte
  | 0, _ => []
  | n + 1, v => BitVec.ofNat 8 v :: leBytes n (v / 256)

end Sys2Proof
end

