-- ==== Sys2Proof/Syntax.lean ====
section
/-! DEFINITION. The commands of the K4: one constructor of `Instr` for each row of the operation and event table, with the
operands that the outside (the host, the BMC, a link partner, a pin, a sensor, an upset) brings to the step. What the K4 itself
holds (a program word, a record in the window, a retry entry) is read from the state and is no operand. -/
-- Log entries (notes/assumptions): DESIGN CHOICE 66, 152, 166; DEDUCED 72, 112, 151, 161.

namespace Sys2Proof

/-- A command word of the hub Headland on the mailbox and the reply to it: the command sequence, and whether each complement pair arrives
whole (R25, R26). -/
structure MboxLink where
  seq : Nat
  cmdOk : Bool
  replyOk : Bool
  deriving DecidableEq, Repr
/-- The units of a core that an instruction occupies, R72 (CTRL is never left occupied). -/
inductive UnitName | load | array | result | row | swash | move
  deriving DecidableEq, Repr
/-- Who sends a management command, R448. -/
inductive Source | host | bmc | hub
  deriving DecidableEq, Repr
/-- A path that writes registers, R405. -/
inductive Path | host | hub | mgmt
  deriving DecidableEq, Repr
/-- A path that writes registers of the register maps: those of R405, and a die Headland's to its cores' SPD_STATUS (R178). -/
inductive RegPath | host | hub | mgmt | die (d : DieId)
  deriving DecidableEq, Repr
/-- The RWC registers, R404: HUB_LOCK (R38) and BW_CEIL (R401). -/
inductive RwcReg | hubLock | bwCeil
  deriving DecidableEq, Repr
/-- A slot of the intake window, R253. -/
inductive SlotRef | stream (n : Nat) | ctrl (n : Nat)
  deriving DecidableEq, Repr
/-- The reset units of R449. -/
inductive ResetUnit | dieHeadland | hubHeadland | updateEngine | sorzeind
  deriving DecidableEq, Repr
/-- What an instruction of a unit meets while it runs: the scratchpad accesses that come late, each by the cycle from the issue in which it was due
and the cycles that it comes late (R157), and whether the core checks a word or a weight plane with an uncorrectable error (R407). -/
structure UnitEvents where
  late : List (Nat × Nat) := []
  ue : Bool := false
  deriving DecidableEq, Repr
/-- What is wrong with one of the four codewords of a stored line, R306: nothing, the symbol of one nibble lane, or more than the code
corrects. -/
inductive CwErr | none | lane (j : Fin 18) | beyond
  deriving DecidableEq, Repr
/-- The errors of a stored line: its four codewords, one for each pair of beats (R306). -/
structure DdrErr where
  w0 : CwErr := .none
  w1 : CwErr := .none
  w2 : CwErr := .none
  w3 : CwErr := .none
  deriving DecidableEq, Repr
/-- Errors that have arisen in a line that channel `chan` (4 × die + channel) stores (R306). -/
structure DdrUpset where
  chan : Nat
  ppn : Nat
  line : Nat
  err : DdrErr
  deriving DecidableEq, Repr
/-- An entry of a hub cache, or a set of the snoop filter, that has become uncorrectable (R408): a page of the map cache, a page of a die's
PTB, a stream of the stream-table cache, a set. -/
inductive CacheUpset | map (page : Nat) | ptb (d : DieId) (page : Nat) | stream (n : Nat) | snoop (set : Nat)
  deriving DecidableEq, Repr
/-- A word of the MRAM that has become uncorrectable: in a Tidemark slot, in settings bank A or B (`isB`), or in the key store. `worn` says that
its cells have failed, so that it stays so when it is written again (R414, R424, R429). -/
inductive MramUpset | slot (n : Nat) (worn : Bool) | bank (isB : Bool) (worn : Bool) | keyStore
  deriving DecidableEq, Repr
/-- The bits that time has upset in device memory, in the hub caches and in the MRAM, and whether a CRC failure on the CXL link was corrected by
retry (R359). -/
structure SoftErrors where
  ddr : List DdrUpset := []
  cache : List CacheUpset := []
  mram : List MramUpset := []
  cxlCrc : Bool := false
  deriving DecidableEq, Repr
/-- Scratchpad bits upset since a word was last written: word, number of wrong bits (R159). -/
structure Upset where
  word : Nat
  bits : Nat
  deriving DecidableEq, Repr
/-- The ranges that the die Headland writes before it starts a task slot, R109, R204. -/
structure SlotRanges where
  pbase : Nat
  pbound : Nat
  dbase : Nat
  dbound : Nat
  abase : Nat
  abound : Nat
  apbm : Nat
  stopOnFault : Bool
  deriving DecidableEq, Repr
/-- The update list of a scatter tile, of which the dispatcher takes the census: its entry numbers and their values, in
list order, and whether it is an ADD64 list (R133, R136). -/
structure SkewCensus where
  tile : Nat
  entries : List Nat
  values : List W64 := []
  wide : Bool := false
  deriving DecidableEq, Repr
/-- Bits of a stored lease entry that have changed: the entry, which of its six words (TILE, TILE_N, GEN, GEN_N, CTL, CTL_N), and the
bits (R235). -/
structure LeaseUpset where
  entry : Nat
  word : Nat
  bits : W32
  deriving DecidableEq, Repr
/-- What one unit sends and receives at the grant meeting point in an epoch, R375: what it wants, its metered draw in the epoch that ends, its
pending wakes, whether its request, its health word and the grant arrive as whole pairs, the EPOCH of the grant word that reached it where that
is another than the one just sent, and whether it has met an uncorrectable error. TIER is the unit's, R374, and is no choice of its own. -/
structure ReqWord where
  unit : Nat
  req : Nat := 0
  used : Nat := 0
  wake : Nat := 0
  pairOk : Bool := true
  healthOk : Bool := true
  grantOk : Bool := true
  grantEpoch : Option Nat := none
  ue : Bool := false
  deriving DecidableEq, Repr
/-- What a host request's MetaValue leaves the host: no copy of the line, a shared copy, or one it may modify (R349). -/
inductive HostCopy | none | shared | own
  deriving DecidableEq, Repr
/-- The controls of configuration space after the host's write of them: Cache_Enable, Mem_Enable and the enable of Viral in the CXL Device DVSEC,
Bus Master Enable, and whether the write clears the error status bits (R345, R353, R355, R359). -/
structure CfgCtl where
  cache : Bool
  mem : Bool := false
  viral : Bool := false
  busMaster : Bool := false
  clearErr : Bool := false
  deriving DecidableEq, Repr
/-- What the SPD of a module declares, R301, R302, with the codes of DDR_MODULE and DDR_SPEED (R310), a code beyond them for what the table of
R301 does not support: type, device width, density in Gb (8 or 16), package ranks, dies in a 3DS stack (1 without one), fastest
rate; whether it has ECC width; and its temperature. -/
structure DdrModule where
  type : Nat
  width : Nat
  density : Nat
  pranks : Nat
  stack : Nat
  rate : Nat
  ecc : Bool
  temp : Int
  deriving DecidableEq, Repr
/-- What port training found, R313: the lanes that locked, whether the partner allows Gen 2, whether the first 10^6 flits at Gen 2
showed a codeword that the FEC could not correct, lane reversal and polarity. -/
structure PortResult where
  locked : BitVec 4
  farGen2 : Bool
  gen2Bad : Bool
  reversed : Bool
  polinv : Nat
  deriving DecidableEq, Repr
/-- A flit, R315, R316: its header and its payload. -/
structure Flit where
  ftype : Nat
  txseq : Nat
  ackseq : Nat
  nak : Bool
  cvc : Nat
  cred : Nat
  ring : Nat
  nblk : Nat
  opid : Nat
  payload : List Byte
  deriving DecidableEq, Repr
/-- A fault of a link adder, R328: what it adds to elements of the sum, and to elements of one of the two paths after an escalation. -/
structure AdderFault where
  sum : List (Nat × Int) := []
  path : List (Nat × Int) := []
  deriving DecidableEq, Repr
/-- A HELLO message, R320, R323. -/
structure HelloMsg where
  ident : Nat
  n : Nat
  rank : Nat
  port : Nat
  deriving DecidableEq, Repr
/-- An OPEN message, R331. -/
structure OpenMsg where
  rank : Nat
  opid : Nat
  tid : Nat
  nelem : Nat
  gexp : Int
  updated : Bool
  absent : Bool
  deriving DecidableEq, Repr
/-- A ring message, R320, R331, R332. RDONE says whether a block of the owner's shard has POISON, and whether the arrays that it is to update are
poisoned (R410; notes/assumptions/86.md). -/
inductive RingMsg
  | hello (m : HelloMsg)
  | token
  | formed (wrapRank : Option Nat)
  | opening (m : OpenMsg)
  | rdone (opid rank : Nat) (poison arrays : Bool)
  | pdone (opid rank : Nat) (cand : Int)
  | abort (opid : Option Nat) (cause : Nat)
  deriving DecidableEq, Repr
/-- A BS16 block, R324. -/
structure Block where
  exp : Int
  esc : Nat
  poison : Bool
  res : Nat
  bseq : Nat
  elems : List (BitVec 16)
  deriving DecidableEq, Repr
/-- One temperature reading: the hottest sensor of a die (0 to 3 CD0 to CD3, 4 HD), R389. -/
structure TempReading where
  die : Nat
  temp : Int
  sensor : Nat
  deriving DecidableEq, Repr
/-- What cold reset finds beside the state that survives: the pins and straps, R460, R461, the modules on the sixteen channels, R302,
whether the flash shows octal support, R435, and whether the voltage writes of the two rails succeeded within three tries, R469. -/
structure BootPins where
  powerOn : Bool
  bootsrc : Nat
  sbaddr : Nat
  testEn : Bool
  warnLow : Bool
  failLow : Bool
  dimms : List (Option DdrModule) := []
  octal : Bool := true
  vddcSet : Bool := true
  vddhSet : Bool := true
  deriving DecidableEq, Repr
/-- JTAG instructions, R467. -/
inductive JtagInstr | bypass | idcode | samplePreload | extest | clamp | highz | extestPulse | extestTrain
  deriving DecidableEq, Repr
/-- I3C common command codes, R466. -/
inductive Ccc
  | entdaa (addr : Nat) | setdasa (static addr : Nat) | setnewda (addr : Nat) | rstdaa | enec (ibi : Bool) | disec (ibi : Bool)
  | getpid | getbcr | getdcr | getstatus | getmxds | unsupported
  deriving DecidableEq, Repr
/-- The two MCTP bindings, R466. -/
inductive Binding | smbus | i3c
  deriving DecidableEq, Repr
/-- MCTP control messages, and messages of the PLDM base, R466. -/
inductive MctpMsg | setEid (eid : Nat) | getEid | other (code : Nat) | pldmSetTid (tid : Nat) | pldmGetTid | pldmBase (code : Nat)
  deriving DecidableEq, Repr
/-- PLDM numeric sensors, R466. -/
inductive PldmSensor | dieTemp (d : Fin 5) | draw | fan (n : Fin 2)
  deriving DecidableEq, Repr
/-- What aborts operations, R332: a port that goes down, the loss of the hop between ranks r and r + 1, a member that leaves, or an
ABORT message that has arrived on a port, with its cause, for one operation or for all. -/
inductive RingLoss | port (p : PortId) | hop (r : Nat) | member | abortMsg (p : PortId) (opid : Option Nat) (cause : Nat)
  deriving DecidableEq, Repr
/-- What a stream rewrite covers, R219. -/
inductive RewriteScope | core (c : CoreId) | die (d : DieId)
  deriving DecidableEq, Repr
/-- A place in a unit's rail currents reading, R469: 1/4 W of package draw, 1/32 W of base; `ok` false when the read failed. -/
structure RailReading where
  base : Nat
  draw : Nat
  ok : Bool
  deriving DecidableEq, Repr

/-- The commands, one constructor a row. -/
inductive Instr
  -- tile-program instructions, R90 to R96: the core and the task slot whose program counter is fetched
  | cfgXset (c : CoreId) (t : SlotId)
  | cfgXadd (c : CoreId) (t : SlotId)
  | cfgXmad (c : CoreId) (t : SlotId)
  | cfgSetl (c : CoreId) (t : SlotId)
  | cfgSetstr (c : CoreId) (t : SlotId)
  | cfgSbarm (c : CoreId) (t : SlotId)
  | cfgLdrq (c : CoreId) (t : SlotId) (ev : UnitEvents)
  | cfgSetparam (c : CoreId) (t : SlotId)
  | ldw (c : CoreId) (t : SlotId) (slice : Nat) (ups : List Upset) (ue : Bool) (late : List (Nat × Nat))
  | strm (c : CoreId) (t : SlotId) (slice : Nat) (ups : List Upset) (ue : Bool) (late : List (Nat × Nat))
  | freezeEnd (c : CoreId)
  | gathRow (c : CoreId) (t : SlotId)
  | gathLane (c : CoreId) (t : SlotId)
  | gathPack (c : CoreId) (t : SlotId) (ev : UnitEvents)
  | gathPacku (c : CoreId) (t : SlotId) (ev : UnitEvents)
  | scatAdd32 (c : CoreId) (t : SlotId) (ev : UnitEvents)
  | scatAdd64 (c : CoreId) (t : SlotId) (ev : UnitEvents)
  | scatVadd (c : CoreId) (t : SlotId) (ev : UnitEvents)
  | scatLoad (c : CoreId) (t : SlotId) (ev : UnitEvents)
  | scatStore (c : CoreId) (t : SlotId) (ev : UnitEvents)
  | rqnt (c : CoreId) (t : SlotId) (ev : UnitEvents)
  | rowf (c : CoreId) (t : SlotId) (ev : UnitEvents)
  | cens (c : CoreId) (t : SlotId) (ev : UnitEvents)
  | pred (c : CoreId) (t : SlotId) (ev : UnitEvents)
  | delta (c : CoreId) (t : SlotId) (ev : UnitEvents)
  | deltaKey (c : CoreId) (t : SlotId) (ev : UnitEvents)
  | fill (c : CoreId) (t : SlotId) (ev : UnitEvents)
  | copyLocal (c : CoreId) (t : SlotId) (ev : UnitEvents)
  | copyWindow (c : CoreId) (t : SlotId)
  | send (c : CoreId) (t : SlotId)
  | asyncComplete (c : CoreId) (u : UnitName)
  | wait (c : CoreId) (t : SlotId)
  | waitRelease (c : CoreId) (t : SlotId)
  | waitTimeout (c : CoreId) (t : SlotId)
  | sig (c : CoreId) (t : SlotId)
  | sigRemoteDelivery (src : CoreId) (t : SlotId) (dest : CoreId)
  | take (c : CoreId) (t : SlotId)
  | takeServe (c : CoreId) (t : SlotId)
  | done (c : CoreId) (t : SlotId)
  | leaseCommit (c : CoreId) (t : SlotId) (pairOk : Bool) (upsets : List LeaseUpset)
  | doneComplete (c : CoreId) (t : SlotId)
  | loop (c : CoreId) (t : SlotId)
  | br (c : CoreId) (t : SlotId)
  | halt (c : CoreId) (t : SlotId)
  | slotRestart (c : CoreId) (t : SlotId)
  | tsStart (c : CoreId) (t : SlotId) (r : SlotRanges)
  | tsStop (c : CoreId) (t : SlotId)
  | clockGateIdle (c : CoreId)
  | hbeatAdvance (c : CoreId) (checksPass : Bool) (ue : Bool)
  -- the scratchpad
  | spdRemoteWrite (src : CoreId) (t : SlotId) (target : CoreId) (stuck : Bool)
  | spdRemoteRead (src : CoreId) (t : SlotId) (target : CoreId) (ups : List Upset) (stuck : Bool)
  | spdPatrolScrub (c : CoreId) (b : BankId) (upset : Nat)
  | spdBankReqWrite (c : CoreId) (on : BitVec 16)
  | bankWakeStart (c : CoreId) (b : BankId)
  | bankWakeDone (c : CoreId) (b : BankId)
  | bankDrainDone (c : CoreId) (b : BankId)
  | spdForcedOff (c : CoreId) (b : BankId) (reads : List (UnitName × Nat)) (writes : List Nat)
  -- tiles, leases and fencing
  | postingOpen (d : DieId) (step : Nat) (layer : Nat) (census : List SkewCensus) (halo : List (Nat × Nat)) (writer : Option Nat)
  | affwaitExpiry (d : DieId) (ctr : Nat)
  | retryAvailable (d : DieId)
  | leaseExpired (d : DieId) (e : Nat) (upsets : List LeaseUpset)
  | heartbeatTimeout (c : CoreId)
  | ce2WindowEnd
  | fenceEvent (d : DieId) (toHub : Bool) (pairOk : Bool)
  | fenceResend (d : DieId)
  | fenceAck (d : DieId) (fromHub : Bool) (pairOk : Bool)
  | joinComplete (c : CoreId)
  | fenceRelease (d : DieId) (ns : Nat)
  | selftestDone (c : CoreId) (pass : Bool) (pairOk : Bool)
  -- Estuary
  | estEnable (v : W32)
  | estDisable (v : W32)
  | estInitDone
  | estWindowRegWrite (offset : Nat) (v : W32)
  | intakeStaleWrite (slot : SlotRef)
  | streamOpen (n : Nat)
  | streamSubmit (n : Nat)
  | streamClose (n : Nat)
  | tornTimeout (slot : SlotRef)
  | biSnoopDelay (line : Nat)
  | cqHeadWrite
  | streamTableFill (n : Nat)
  | deferTimeout (n : Nat)
  | deferredReexamine
  | stepForm (h : HandleId) (cls : Fin 4)
  | stepHandoff (step : Nat) (cols : List (Nat × Nat × Nat))
  | stepComplete (step : Nat) (outLens : List Nat)
  | stepFailed (step : Nat)
  | notifyWrite
  -- the loader
  | loaderLoad (slot : Fin 15)
  | loaderReplace (slot : Fin 15)
  | loaderUnload (slot : Fin 15)
  | ctrlRecordBad (slot : Fin 15)
  | loaderCommit (h : HandleId)
  | unloadComplete (h : HandleId)
  | streamRewrite (h : HandleId) (scope : RewriteScope)
  -- CXL.mem, the Strandmap and DDR4
  | cxlMemRead (hpa : Nat) (copy : HostCopy) (err : DdrErr)
  | cxlMemWrite (hpa : Nat) (data : List Byte) (poison : Bool) (copy : HostCopy) (err : DdrErr)
  | birspReceived (line : Nat) (dirty : Option (List Byte))
  | h2dSnoop (addr : Nat)
  | zeroFillPage (d : DieId) (ch : ChanId)
  | countingWindowEnd
  | replicaCopyDone (page : Nat) (d : DieId)
  | replicaRetireDone (page : Nat) (d : DieId)
  | moveComplete (page : Nat)
  | plmRelGo
  | releaseDone
  | dieLostWalkDone (d : DieId)
  | evacuationDone (d : DieId) (ch : ChanId)
  | ddrPatrolScrub (d : DieId) (ch : ChanId)
  | ddrRefresh (d : DieId) (ch : ChanId) (temp : Int)
  | ddrTrainDone (failed : List Nat)
  | ucieRetryFail (d : DieId) (m : Nat)
  -- the Korpor ring and the update engine
  | klPortEnWrite (p : PortId) (v : W32)
  | klPortTrain (p : PortId)
  | portTrainRetry (p : PortId)
  | portTrainDone (p : PortId) (r : PortResult)
  | portTrainTimeout (p : PortId)
  | flitReceive (p : PortId) (bytes : List Byte)
  | retrainDone (p : PortId) (r : Option PortResult)
  | ackTimer (p : PortId)
  | ringForm
  | ringDissolve
  | ringBypass (on : Bool)
  | hello (p : PortId) (m : HelloMsg)
  | token (p : PortId)
  | formed (p : PortId) (wrapRank : Option Nat)
  | hopCheckTimeout (missing : List Nat)
  | formTimeout
  | tensorHandover (tid : Nat)
  | ringOpen (p : PortId) (m : OpenMsg)
  | redBlockReceive (p : PortId) (opid : Nat) (b : Nat) (u : Block) (fault : AdderFault)
  | adderLocalReady (p : PortId) (b : Nat) (fault : AdderFault)
  | rdone (p : PortId) (opid : Nat) (rank : Nat) (poison arrays : Bool)
  | updateApply
  | parBlockReceive (p : PortId) (opid : Nat) (b : Nat) (u : Block)
  | pdone (p : PortId) (opid : Nat) (rank : Nat) (cand : Int)
  | paramWrite (tid : Nat)
  | ringAbort (cause : RingLoss)
  | operationRerun
  -- CXL link, resets, registers
  | cxlLinkTrain (rate width : Nat) (latOpt pbr : Bool) (biId : Option Nat)
  | cxlLinkRecovery (rate width : Nat) (latOpt : Bool)
  | hotReset
  | dlDown
  | flr
  | cxlReset
  | hdmDecoderCommit (base size ways : Nat) (lock : Bool)
  | cacheEnableChange (ctl : CfgCtl)
  | bar0BadAccess (write : Bool)
  | registerWrite (path : RegPath) (offset : Nat) (v : W32) (hi : Option W32)
  | rwcValueWrite (path : Path) (r : RwcReg) (v : W32)
  | rwcComplementWrite (path : Path) (r : RwcReg) (v : W32)
  | rwcPendingTimeout (path : Path) (r : RwcReg)
  -- the CXL mailbox and DOE
  | getEventRecords (log : Fin 3)
  | clearEventRecords (log : Fin 3) (handles : List Nat) (all : Bool)
  | getEventInterruptPolicy
  | setEventInterruptPolicy (v : List Byte)
  | getFwInfo
  | transferFw (slot : Nat) (offset : Nat) (data : List Byte) (last : Bool)
  | activateFw (slot : Nat) (onNextColdReset : Bool)
  | getTimestamp
  | setTimestamp (v : Nat)
  | getSupportedLogs
  | getLog (log : Nat)
  | mailboxUnsupported (src : Source) (opcode : Nat) (link : MboxLink)
  | doeDiscovery (index : Nat)
  | doeCdat (entry : Nat)
  | attestReport (src : Source) (nonce : List Byte)
  | attestCert (src : Source) (nonce : List Byte)
  -- management commands, R448
  | updState (src : Source)
  | updCancel (src : Source)
  | fwConfirm (src : Source)
  | fenceCore (src : Source) (core : Nat) (link : MboxLink)
  | unbeach (src : Source) (core : Nat)
  | coreReset (src : Source) (core : Nat)
  | dieReset (src : Source) (die : Nat)
  | dieResetRelease (d : DieId)
  | unitReset (src : Source) (code : Nat) (die : Nat)
  | unitWatchdog (u : ResetUnit) (d : DieId)
  | slack (src : Source) (enter : Bool)
  | neap (src : Source) (enter : Bool)
  | bwCtrlSlackWrite (on : Bool)
  | bwCtrlNeapWrite (on : Bool)
  | settingSet (src : Source) (ident : Nat) (v : List Byte)
  | settingsBankWrite (readBackOk : Bool)
  | settingGet (src : Source) (ident : Nat)
  | factoryReset (src : Source)
  | keyEnroll (src : Source) (key : List Byte)
  | keyRevoke (src : Source) (keyId : Nat)
  | keyList (src : Source)
  | tmkRead (src : Source) (seq : Nat)
  | heartbeat (link : MboxLink)
  | heartbeatMiss
  -- PLDM, MCTP, SMBus, I3C, JTAG
  | requestUpdate
  | passComponentTable (data : List Byte)
  | updateComponent
  | firmwareDataReceived (offset : Nat) (data : List Byte) (last : Bool)
  | activateFirmware (selfContained : Bool)
  | pldmGetStatus
  | cancelUpdate
  | updateSessionTimeout
  | imageVerifyDone (flashError : Bool)
  | pldmGetSensorReading (sensor : PldmSensor)
  | mctpControl (b : Binding) (m : MctpMsg)
  | smbusAlertResponse
  | ibiAck (k : Fin 4)
  | hubAlertClear (v : W32)
  -- Breakwater, power and reset
  | budgetEpoch (reqs : List ReqWord) (errs : SoftErrors)
  | domainWakeDone (core : CoreId)
  | baseRecalibrate (r : RailReading)
  | thermalUpdate (temps : List TempReading)
  | acousticUpdate
  | fanUpdate (pulses0 pulses1 : Nat)
  | fanStall (n : Fin 2)
  | holdupSample (mv : Nat)
  | pwrWarnAssert
  | neapExit
  | pwrFailAssert (uj : Nat)
  | powerReturn
  | thermtrip (temp : Int) (die : Fin 5)
  | pllUnlock (d : Fin 5)
  | refclkLoss
  | perstAssert
  | coldReset (p : BootPins)
  | tidemarkEntryWrite (whole : Bool)
  | tmkRdSeqHiWrite (v : W32)
  | tmkSnapshotDone (src : Source)
  | pairEpisodeEnd (k : Fin 9)
  | blockingInstructionComplete (c : CoreId) (u : UnitName)
  | pwrWarnDeassert
  | warmResetComplete
  | memberSwitchedOff (p : PortId)
  | jtagInstruction (op : JtagInstr)
  | i3cCcc (c : Ccc)
  deriving DecidableEq, Repr

end Sys2Proof
end

