-- ==== Sys2Proof/Decode.lean ====
section
/-! DEFINITION. The command that a table word spells. Every row of the operation and event table has an empty list of fields, so
no word spells a command (notes/assumptions/12.md). -/
-- Log entries (notes/assumptions): DESIGN CHOICE 12.

namespace Sys2Proof

/-- The command that `nbits` bits `w` spell by the table: the table gives no row any bits, so none. -/
def decodeTableWord (_nbits _w : Nat) : Option Instr := none

end Sys2Proof
end

