-- ==== Sys2Proof/Config.lean ====
section
/-! DEFINITION. What one K4 fixes by its fuses, and the values the manual leaves open. Every constant here is opaque: no
proof can see a value of it, so a claim holds for every value (notes/assumptions/1.md and 2.md). -/
-- Log entries (notes/assumptions): DESIGN CHOICE 1, 17, 18, 40, 82, 95, 128, 171, 180; DEDUCED 120, 163, 181; PRESUMED 2, 30, 31,
--   58.

namespace Sys2Proof.Config

/-- The free values: `State.fresh` counts them and a step that needs one reads `free s.fresh` (notes/assumptions/1.md). -/
opaque free : Nat → Nat
/-- The sign and fraction of a NaN that a binary32 operation makes; R81 gives the operation as IEEE 754, which leaves them open. -/
opaque nanBits : BitVec 32 → BitVec 32 → BitVec 32
/-- The value of a user table where R82 names an entry outside T[0] to T[1024], or none: the manual states no result there. -/
opaque tableOutside : BitVec 32 → BitVec 32
/-- The outcome of decoding a word whose errors lie beyond the code's guarantee (R159): 0 detected, 1 taken for a single
correction, 2 taken for a double correction, 3 returned wrong with no count. -/
opaque eccOutcome : Nat → BitVec 256 → Nat
/-- The wrong data such a word returns (R159). -/
opaque eccData : Nat → BitVec 256 → BitVec 256

/-- Ed448 verification: public key, message, context, signature. The manual names the algorithm and gives none of it (R212, R430). -/
opaque ed448Verify : List Byte → List Byte → List Byte → List Byte → Bool
/-- Ed448 signing: private key, message, context (R428, R451). -/
opaque ed448Sign : List Byte → List Byte → List Byte → List Byte
/-- The Ed448 public key of a private key (R427). -/
opaque ed448Public : List Byte → List Byte
/-- AES-256-GCM decryption: key, IV, ciphertext, tag (R430). -/
opaque aesGcmOpen : List Byte → List Byte → List Byte → List Byte → Option (List Byte)
/-- AES-256-GCM encryption: key, IV, plaintext; ciphertext then tag (R433). -/
opaque aesGcmSeal : List Byte → List Byte → List Byte → List Byte

/-- The fuse values of this K4 (R12, R38, R343, R427, R453). -/
opaque deviceRootKey : List Byte
/-- The image class key ICK (R427). -/
opaque imageClassKey : List Byte
/-- The digests of the image-signing public keys in signing slots 0 to 3 (R427). -/
opaque signingDigest : Fin 4 → List Byte
/-- The signing slots programmed, SEC_SIGFUSE.PRESENT (R453). -/
opaque signingPresent : BitVec 4
/-- The ROM interface version, SEC_ROMAPI (R432). -/
opaque romApi : BitVec 16
/-- Ahnilo's PCI-SIG vendor ID (R343). -/
opaque vendorId : BitVec 16
/-- The DevID certificate, at most 2 KiB (R428). -/
opaque devIdCertificate : List Byte
/-- Ahnilo's JEP106 code in IDCODE (R467). -/
opaque jep106 : BitVec 11
/-- The I3C provisioned ID, and the BCR, DCR, GETSTATUS and GETMXDS answers, whose values R466 does not give. -/
opaque i3cAnswer : Nat → List Byte
/-- How the 128 W of R378 lie among the uncore units: the rated maximum of each, in 1/32 W, is not given. -/
opaque uncoreShare : Nat → Nat
/-- The rated maxima of the units from 144 up to `u`, none beyond 128 W together. -/
def uncoreUpTo (u : Nat) : Nat := min 4096 (((List.range (u - 143)).map fun i => uncoreShare (144 + i)).sum)
/-- The rated maximum of uncore unit `u`, 144 to 172, in 1/32 W: those of all units sum to 128 W (R378). -/
def uncoreRated (u : Nat) : Nat := (if u = 172 then 4096 else uncoreUpTo u) - (if u = 144 then 0 else uncoreUpTo (u - 1))
/-- The speed expected of a fan at a duty in hundredths of a percent, in revolutions a minute, which R393 does not give. -/
opaque fanSpeed : Nat → Nat
/-- The row of a repair group of a core's engine that serves no in-service row, modulo 33: the fuses of the row map, by core and group, Flat's
groups 0 to 7 and Reef's 8 to 15 (R74). -/
opaque rowRepair : Nat → Nat → Nat
/-- The fused target voltages of VDDC and VDDH, in mV (R469). -/
opaque vddcTarget : Nat
/-- That of VDDH. -/
opaque vddhTarget : Nat
/-- The parity bytes of one of a flit's two RS(160,144) codewords: R315 names the code and gives no generator. -/
opaque fecParity : List Byte → List Byte
/-- What a decoder of the code makes of the 160 bytes of a codeword that arrive: the 144 message bytes, where it finds any (R315). -/
opaque fecDecode : List Byte → Option (List Byte)
/-- The payload bytes of a ring message, whose layout the manual does not give (R316). -/
opaque ringMessage : RingMsg → List Byte
/-- The contents of a log that Get Log returns, whose format R356 does not give. -/
opaque logContents : Nat → List Byte
/-- The list of logs that Get Supported Logs returns, whose contents R356 does not give. -/
opaque supportedLogs : List Byte
/-- The tag of the key store under KSK: R429 names a keyed SHAKE256 tag and gives neither its length nor how the key enters. -/
opaque keyTag : List Byte → List Byte → List Byte
/-- Ahnilo's vendor UUID in CXL event records (R357), which has no value in the manual. -/
opaque eventUuid : List Byte
/-- The body of a PLDM base reply beyond the TID (R466 names the standard alone). -/
opaque pldmBaseReply : Nat → List Byte
/-- Ahnilo's vendor classification in PLDM for Firmware Update (R439), which has no value in the manual. -/
opaque pldmClass : BitVec 16
/-- The Ed448 context of the ROM's endorsement of AK, which R428 does not give. -/
opaque endorseContext : List Byte
/-- The CDAT table image beside the entries R352 gives. -/
opaque cdatHeader : List Byte
/-- The body of an MCTP control reply beyond the EID (R466 names the standard alone). -/
opaque mctpControlReply : Nat → List Byte

/-- The stepping this model describes: B0, HUB_ID.STEP 0x10 (R2, R38). -/
def stepping : Nat := 0x10
/-- The stepping number of R188 and R430: 0 A0, 1 A1, 2 B0. -/
def steppingNumber : Nat := 2
/-- The part number (R38, R343, R467). -/
def partNumber : Nat := 0x4B34

end Sys2Proof.Config
end

