-- ==== Sys2Proof/Machine/State.lean ====
section
/-! DEFINITION. The state of the K4 as plain data: every register, buffer, queue, table, mode and pin that the manual names,
the commands that are waiting, and the counter of the free values. The default of a field is its reset value; where the manual
states none, notes/assumptions names the one taken (entries 3 to 9). -/
-- Log entries (notes/assumptions): DESIGN CHOICE 1, 3, 4, 5, 6, 7, 8, 13, 21, 29, 52, 81, 132, 145, 149, 155, 160, 166; DEDUCED 9,
--   34, 41, 44, 48, 51, 54, 71, 73, 77, 85, 86, 87, 88, 90, 100, 109, 114, 116, 121, 130, 153, 154, 158, 161, 163, 172; PRESUMED
--   25, 31, 159.

namespace Sys2Proof.Machine

/-! ### A core (03, 02, 04, 05) -/

/-- Task slot states, R109. -/
inductive SlotSt | idle | ready | blocked | stopped | halted
  deriving DecidableEq, Repr

/-- What a slot that does not run waits for: a unit (R88), a WAIT (R103), a TAKE (R232), a DONE (R234), or its asynchronous
instructions after a fault or expiry (R107, R236). -/
inductive Blk
  | none
  | unit (u : UnitName)
  | wait (sb : Nat) (target : W32) (tmo : Nat) (since : Nat)
  | take (ctr : Nat) (exh : Int)
  | done
  | drain (restart : Bool)
  deriving DecidableEq, Repr

/-- The tile a slot holds, R86, R231, with the bounds its layer gives it (R47, R238, R239). -/
structure Held where
  tile : W32 := 0
  gen : W32 := 0
  cls : Nat := 0
  reef : Bool := false
  ctr : Nat := 0
  vm : Nat := 64
  vb : Nat := 16
  depth : Nat := 0
  deriving DecidableEq, Repr

/-- A commit on its way to the lease table, with the tile's final RQ_SAT_TILE (R63), or its answer on the way back, R234. -/
inductive CommitSt | none | sent (tile gen : W32) (ctr sat : Nat) | answered (ok : Bool)
  deriving DecidableEq, Repr

/-- A task slot, R86, R109. -/
structure TaskSlot where
  st : SlotSt := .idle
  blk : Blk := .none
  pc : Nat := 0
  pbase : Nat := 0
  pbound : Nat := 0
  dbase : Nat := 0
  dbound : Nat := 0
  abase : Nat := 0
  abound : Nat := 0
  apbm : Nat := 0
  x : Tab W32 := []
  l : Tab (BitVec 16) := []
  vstr : Nat := 0
  ostr : Nat := 0
  rowl : Nat := 0
  param : Nat := 0
  held : Option Held := none
  commit : CommitSt := .none
  async : Nat := 0
  stopOnFault : Bool := false
  stopReq : Bool := false
  faultStop : Bool := false
  variant : Option SlotRanges := none
  variantCtr : Nat := 0
  deriving DecidableEq, Repr

/-- Where a source word of a MOVE instruction goes: `n` words of the core's own scratchpad, a word on its way through a window, or device
memory. -/
inductive MoveDst | here (w n : Nat) | sent (w : Nat) | dla (a : Nat)
  deriving DecidableEq, Repr

/-- An instruction that occupies a unit: its slot, A and SB, the cycles it begins and ends, its opcode and program word, whether it runs on the
Reef engine, and the registers it writes when it completes, R88, R97. `lands` gives the cycles at which passes of the array land in accumulator
vectors: of a STRM its own, and `first` whether they replace; of a SCAT those that it meets. `ups` is the list of a SCAT ADD, `stalls` the
cycles in which it stalled, `adds` the updates of a SCAT: cycle retired, entry, value (R134, R135). `num` is the number of a MOVE instruction
among its core's, which its words on the fabric carry (R167), `moves` where its source words go (R176). -/
structure Busy where
  slot : Nat
  async : Bool
  sb : Nat
  due : Nat
  op : Nat := 0
  pc : Nat := 0
  reef : Bool := false
  wb : List (Nat × W32) := []
  lands : List (Nat × Nat) := []
  first : Bool := false
  adds : List (Nat × Nat × W64) := []
  num : Nat := 0
  start : Nat := 0
  ups : List (Nat × Int) := []
  stalls : Nat := 0
  moves : List (Nat × MoveDst) := []
  deriving DecidableEq, Repr

/-- A scoreboard entry, R102. -/
structure Sb where
  base : Nat := 0
  len : Nat := 0
  count : W32 := 0
  deriving DecidableEq, Repr

/-- A rescale entry, R71. -/
structure RqEntry where
  mult : W32 := 0
  shift : Nat := 0
  bias : W32 := 0
  deriving DecidableEq, Repr

/-- The weight tile in an engine, R39, R74, R76, R110: plane p of physical row r, 0 to 263, at 8r + p, its IDX words at 2r and 2r + 1; the
mantissas of in-service row r, held beside the rows, at 16r + g. -/
structure EngineSt where
  planes : Tab W256 := []
  idx : Tab W256 := []
  mant : Tab Nat := []
  deriving DecidableEq, Repr

/-- A partition, R162. -/
structure Part where
  valid : Bool := false
  base : Nat := 0
  bound : Nat := 0
  wgt : Bool := false
  resident : Bool := false
  rwr : Bool := false
  rrd : Bool := false
  tag : Nat := 0
  deriving DecidableEq, Repr

/-- A window, R166: KIND 0 OFF, 1 CORE, 2 MCAST, 3 DLA. -/
structure Win where
  kind : Nat := 0
  rd : Bool := false
  wr : Bool := false
  tcore : Nat := 0
  base : Nat := 0
  size : Nat := 0
  mask : Nat := 0
  deriving DecidableEq, Repr

/-- Bank states, R172. -/
inductive BankSt | off | waking | on | draining
  deriving DecidableEq, Repr


/-- Where a word that was read through a window lands: one word, or one lane of the 256 rows of a gathered tile (R128, R129). -/
inductive Landing | word (dst : Nat) | lane (base ostr plane lane : Nat)
  deriving DecidableEq, Repr

/-- What a bank has accepted: a write of a word, or a read and where its answer lands (R173). -/
inductive QBody | write (data : W256) (poison : Bool) | read (landing : Landing)
  deriving DecidableEq, Repr

/-- A request that a bank has accepted and that has not retired, R173, R176; `src` is 4 × core + slot, `sigs` the SIGs of its task to this
core that were issued before it and have not been delivered (R104). -/
structure QReq where
  src : Nat
  word : Nat
  body : QBody
  sigs : Nat := 0
  deriving DecidableEq, Repr

/-- A bank, R172 to R177; `queue` holds the accepted requests that have not retired, oldest first. -/
structure Bank where
  st : BankSt := .off
  queue : List QReq := []
  episode : Bool := false
  fenced : Bool := false
  since : Nat := 0
  scrubRow : Nat := 0
  deriving DecidableEq, Repr

/-- The scratchpad and its SPD_ registers, R152 to R178; `lost` marks the banks whose content has been lost since the partitions were filled
(R164). -/
structure Spad where
  words : Tab W256 := []
  errs : Tab Nat := []
  poison : Tab Bool := []
  ilv : Nat := 0
  scrubEn : Bool := true
  bankReq : BitVec 16 := 0
  banks : Tab Bank := []
  unpwr : Bool := false
  forced : Bool := false
  ueSeen : Bool := false
  rej : Bool := false
  ce1 : Nat := 0
  ce2 : Nat := 0
  ue : Nat := 0
  ueWord : Nat := 0
  ueValid : Bool := false
  unpwrDisc : Nat := 0
  unpwrRet : Nat := 0
  starve : Nat := 0
  remoteRej : Nat := 0
  scrubPass : Nat := 0
  parts : Tab Part := []
  wins : Tab Win := []
  lost : BitVec 16 := 0
  deriving DecidableEq, Repr

/-- The sparsity counters, R151. -/
structure SparseCnt where
  packDrop : Nat := 0
  predLast : Nat := 0
  predCand : Nat := 0
  predAct : Nat := 0
  scatUpd : Nat := 0
  scatStall : Nat := 0
  swZero : Nat := 0
  swBelow : Nat := 0
  swAppl : Nat := 0
  swVskip : Nat := 0
  gathItems : Nat := 0
  deriving DecidableEq, Repr

/-- The fault record, R107, R109. -/
structure FaultRec where
  valid : Bool := false
  code : Nat := 0
  task : Nat := 0
  op : Nat := 0
  pc : Nat := 0
  tile : W32 := 0
  gen : W32 := 0
  count : Nat := 0
  deriving DecidableEq, Repr

/-- A core. `lastIssue` is the task slot that issued last, R88; `rowMap` the row of each repair group that serves nothing, Flat's groups at 0 to
7 and Reef's at 8 to 15 (R74); `frzMarks` the cycle and length of the freezes begun and not yet past (R99); `moveSeq` numbers its MOVE
instructions. -/
structure Core where
  slots : Tab TaskSlot := []
  prog : Tab W64 := []
  acc : Tab W64 := []
  tags : Tab W32 := []
  apb : Tab W256 := []
  row : Tab W32 := []
  flat : EngineSt := {}
  reef : EngineSt := {}
  rowMap : Tab Nat := []
  engIn : Tab W32 := []
  engOut : Tab W32 := []
  cb : Tab Byte := []
  rq : Tab RqEntry := []
  rqTag : W32 := 0
  satTile : Nat := 0
  satTotal : Nat := 0
  censExp : Nat := 0
  rowfSat : Nat := 0
  sb : Tab Sb := []
  busy : Tab (Option Busy) := []
  moveSeq : Nat := 1
  lastIssue : Nat := 3
  cycle : Nat := 0
  frzEvents : Nat := 0
  frzCycles : Nat := 0
  freeze : Nat := 0
  frzMarks : List (Nat × Nat) := []
  fault : FaultRec := {}
  cnt : SparseCnt := {}
  spd : Spad := {}
  hbeat : BitVec 8 := 0
  progress : Bool := false
  ue : Bool := false
  gstall : Bool := false
  pfreeze : Bool := false
  ballast : Bool := false
  gated : Bool := false
  inReset : Bool := false
  logicOff : Bool := false
  inc : Nat := 0
  account : Int := 0
  deriving DecidableEq, Repr

/-- The role of a core, CORE_ID.ROLE, R109. -/
inductive Role | standby | inService | beached | disabled
  deriving DecidableEq, Repr

/-- A word or signal on the fabric, in issue order: R104, R167, R169. `num` is the number of the MOVE instruction it belongs to. -/
inductive Flight
  | write (src slot target word : Nat) (data : W256) (poison : Bool) (num : Nat)
  | read (src slot target word : Nat) (landing : Landing) (num : Nat)
  | sig (src slot dest sb n : Nat)
  deriving DecidableEq, Repr

/-! ### A compute die: tile counters, leases, fencing (07) -/

/-- Tile counter states, R229. -/
inductive CtrSt | idle | open | closed | drained | failed
  deriving DecidableEq, Repr

/-- The role of a split tile, R240: KIND 1 PART or 2 MERGE, the tiles it depends on, the updates of the tile's list that a part runs, by
their place in the list (R136), and where in AUX its share and its region of the merge area lie. -/
structure SplitTile where
  tile : Nat
  kind : Nat
  part : Nat
  k : Nat
  base : Nat
  deps : List Nat
  share : List Nat := []
  listAt : Nat := 0
  mergeAt : Nat := 0
  deriving DecidableEq, Repr

/-- A posting that waits for its counter, R222. -/
structure PostReq where
  step : Nat
  handle : Nat
  layer : Nat
  deriving DecidableEq, Repr

/-- A tile counter and its posting, R222 to R231, R252. `faults` holds the last fault code of each tile that a fault stopped (R237),
`sats` the final RQ_SAT_TILE of each committed tile (R63), `rowPrefer` the core that committed tile i of the layer whose halo slots this
posting reads (R228), `keyTiles` the tiles to be reissued with the key-frame variant (R148), `tagBy` 1 + the core whose TAG_MISMATCH a tile's retry is to
decide, or 1000 once two cores have raised it (R244). -/
structure Counter where
  st : CtrSt := .idle
  held : Bool := false
  cls : Nat := 0
  handle : Nat := 0
  svc : Nat := 0
  bucket : Nat := 0
  layer : Nat := 0
  step : Nat := 0
  i : Nat := 0
  jcnt : Nat := 0
  j0 : Nat := 0
  total : Nat := 0
  committed : List Nat := []
  taken : List Nat := []
  vm : Nat := 0
  vb : Nat := 0
  tm : Nat := 0
  tn : Nat := 0
  pseq : Nat := 0
  opened : Nat := 0
  affOver : Bool := false
  prog : Nat := 0
  keyTiles : List Nat := []
  reefCols : List Nat := []
  committer : Tab Nat := []
  prefer : Tab Nat := []
  rowPrefer : Option (Tab Nat) := none
  sats : Tab Nat := []
  splits : List SplitTile := []
  faults : Tab Nat := []
  tagBy : Tab Nat := []
  queue : List PostReq := []
  deriving DecidableEq, Repr

/-- A lease table entry: three words, each with its complement, R233. -/
structure Lease where
  tile : W32 := 0
  tileN : W32 := 0xFFFFFFFF
  gen : W32 := 0
  genN : W32 := 0xFFFFFFFF
  ctl : W32 := 0
  ctlN : W32 := 0xFFFFFFFF
  deriving DecidableEq, Repr

/-- A retry entry, R230, R236. -/
structure Retry where
  ctr : Nat
  tile : Nat
  gen : Nat
  excl : Nat
  since : Nat
  avail : Bool
  deriving DecidableEq, Repr

/-- How a fence event stands with one of the two Headlands that it is sent to, R23: under way, received, acknowledged. -/
structure FenceLink where
  onWay : Bool := true
  received : Bool := false
  acked : Bool := false
  deriving DecidableEq, Repr

/-- A fence event that the die Headland or the hub Headland has not acknowledged, R23; `lost` is the cores that were in service when
the die Headland received it, `sent` the microsecond in which it was last sent (R26). -/
structure FenceEvt where
  seq : Nat
  mask : Nat
  causes : Tab Nat
  lost : List Nat := []
  die : FenceLink := {}
  hub : FenceLink := {}
  sent : Nat := 0
  deriving DecidableEq, Repr

/-- A compute die's control plane. `heldCls` is the handle and class of each class that a fence holds (R246); `resetDue` is the cause of a die reset whose cores still let their grants fall (R399), `handed` what the dispatcher
handed out under each lease entry: counter, tile, generation (R230, R235); `joining` the standbys whose data is still being written (R249). -/
structure Die where
  ctrs : Tab Counter := []
  leases : Tab Lease := []
  retry : List Retry := []
  postSeq : Nat := 0
  fencing : Bool := false
  holdSince : Nat := 0
  retryMax : Nat := 3
  affwait : Nat := 2
  leaseTmo : Nat := 0x400
  fenceMask : Nat := 0
  fenceSeq : Nat := 0
  fenceCause : Tab Nat := []
  stbyGone : Tab Bool := []
  stbyLocal : Tab Nat := [(0, 8), (1, 17), (2, 26), (3, 35)]
  statStale : Nat := 0
  statRevoked : Nat := 0
  statRetries : Nat := 0
  statFailed : Nat := 0
  holdLast : Nat := 0
  holdMax : Nat := 0
  evts : List FenceEvt := []
  heldCls : List (Nat × Nat) := []
  handed : Tab (Option (Nat × Nat × W32)) := []
  joining : List Nat := []
  isolated : Bool := false
  inReset : Bool := false
  inc : Nat := 0
  resetDue : Nat := 0
  rstCause : Nat := 0
  rstCount : Nat := 0
  pllLosses : List Nat := []
  hubMods : BitVec 2 := 3
  headInc : Nat := 0
  ptb : List Nat := []
  counts : Tab (Nat × Nat) := []
  deriving DecidableEq, Repr

/-! ### The Sorzeind loader (06) -/

/-- CLASS, R189. -/
structure ClassRec where
  cls : Nat
  stbyData : Bool
  groups : Nat
  minCores : Nat
  frame : Nat
  deriving DecidableEq, Repr
/-- SLOT, R192. -/
structure SlotRec where
  cls : Nat
  slot : Nat
  win : W32
  wout : W32
  frame : Nat
  deriving DecidableEq, Repr
/-- CODEBOOK, R193. -/
structure CbRec where
  cls : Nat
  cb : Nat
  count : Nat
  levels : List Byte
  frame : Nat
  deriving DecidableEq, Repr
/-- BANKCFG, R194. -/
structure BankRec where
  cls : Nat
  ilv : Nat
  bankon : Nat
  scrub : Bool
  frame : Nat
  deriving DecidableEq, Repr
/-- PARTITION, R195. -/
structure PartRec where
  cls : Nat
  part : Nat
  attr : Nat
  base : Nat
  bound : Nat
  tag : Nat
  preload : Nat
  pwords : Nat
  frame : Nat
  deriving DecidableEq, Repr
/-- DATA, R196. -/
structure DataRec where
  cls : Nat
  kind : Nat
  word : Nat
  data : List Byte
  frame : Nat
  deriving DecidableEq, Repr
/-- SWASH, R197. -/
structure SwashRec where
  cls : Nat
  ba : Nat
  word : Nat
  thr : Nat
  nv : Nat
  count : Nat
  frame : Nat
  deriving DecidableEq, Repr
/-- WINDOW, R198. -/
structure WinRec where
  cls : Nat
  win : Nat
  core : Nat
  flags : Nat
  tcore : Nat
  base : Nat
  size : Nat
  mask : Nat
  frame : Nat
  deriving DecidableEq, Repr
/-- RANDBIND, R202. -/
structure RandRec where
  consumer : Nat
  cls : Nat
  unit : Nat
  src : Nat
  seed : Nat
  frame : Nat
  deriving DecidableEq, Repr
/-- PROGRAM, R204. -/
structure ProgRec where
  cls : Nat
  prog : Nat
  pbase : Nat
  len : Nat
  dpart : Nat
  npart : Nat
  abase : Nat
  abound : Nat
  apbm : Nat
  words : List W64
  frame : Nat
  deriving DecidableEq, Repr
/-- LAYER, R207. -/
structure LayerRec where
  index : Nat
  cls : Nat
  kind : Nat
  svc : Nat
  wclass : Nat
  cut : Nat
  skew : Nat
  pfused : Nat
  punfused : Nat
  pkey : Nat
  slot : Nat
  ctr : Nat
  pwsel : Nat
  nbucket : Nat
  masked : Bool
  depth : Nat
  nout : Nat
  weights : Nat
  mask : Nat
  aux : Nat
  auxlen : Nat
  frame : Nat
  deriving DecidableEq, Repr
/-- BUCKET, R210. -/
structure BucketRec where
  layer : Nat
  bucket : Nat
  mmax : Nat
  tm : Nat
  tn : Nat
  base0 : Nat
  si0 : Nat
  sj0 : Nat
  base1 : Nat
  si1 : Nat
  sj1 : Nat
  frame : Nat
  deriving DecidableEq, Repr
/-- A checked stream, R186 to R213. -/
structure Stream where
  ident : Nat := 0
  signed : Bool := false
  keyId : Nat := 0
  digest : List Byte := []
  frames : Nat := 0
  classes : List ClassRec := []
  slots : List SlotRec := []
  cbs : List CbRec := []
  banks : List BankRec := []
  parts : List PartRec := []
  datas : List DataRec := []
  swash : List SwashRec := []
  wins : List WinRec := []
  rands : List RandRec := []
  progs : List ProgRec := []
  layers : List LayerRec := []
  buckets : List BucketRec := []
  deriving DecidableEq, Repr
/-- Handle states, R181. -/
inductive HandleSt | empty | loading | loaded | replacing | unloading
  deriving DecidableEq, Repr
/-- A handle, R179 to R183, R221. `next` is a stream that passed its checks and awaits commit, `copying`
that the staging copy is still to be taken; `ctrlSlot` and `ctrlRec` are the control
record that the loader works on. -/
structure Handle where
  st : HandleSt := .empty
  op : Nat := 3
  code : Nat := 0
  section_ : Nat := 0
  busy : Bool := false
  frame : Nat := 0xFFFFFFFF
  ident : Nat := 0
  groups : Nat := 0
  frames : Nat := 0
  signed : Bool := false
  key : Nat := 0
  stream : Option Stream := none
  next : Option Stream := none
  copying : Bool := false
  ctrlSlot : Nat := 0
  ctrlRec : List Byte := []
  deriving DecidableEq, Repr
/-- The loader, R182, R221, and the census and copies it leaves with the dispatchers, R120, R139, R225: handle and layer, column,
Z, P, conformity. `rewrite` is the claimed cores that a reset has left for the configuration engine to write again (R219). -/
structure Loader where
  handles : Tab Handle := []
  accepted : Nat := 0
  refused : Nat := 0
  census : List (Nat × Nat × Nat × Nat × Nat × Bool) := []
  transposable : List (Nat × Nat) := []
  rewrite : List Nat := []
  deriving DecidableEq, Repr

/-! ### Estuary (08) -/

/-- Stream states, R261. -/
inductive StreamSt | closed | idle | deferred | admitted | inStep | closing
  deriving DecidableEq, Repr
/-- A stream table entry, R261. `closeSeq` and `closeUser` are those of a CLOSE that waits, R269. -/
structure StreamEnt where
  st : StreamSt := .closed
  cls : Nat := 0
  handle : Nat := 0
  op : Nat := 0
  seq : W32 := 0
  ctx : Nat := 0
  pos : Nat := 0
  inDla : Nat := 0
  outDla : Nat := 0
  outMax : Nat := 0
  inLen : Nat := 0
  user : Nat := 0
  tadm : Nat := 0
  step : Nat := 0
  reqSeq : W32 := 0
  closeSeq : W32 := 0
  closeUser : Nat := 0
  reason : Nat := 0
  deriving DecidableEq, Repr
/-- A write to a slot that awaits examination, R258: the record as the write left it, whether its line was poisoned (R410), whether the
write covers the sequence word, and the microsecond in which it came. -/
structure Exam where
  slot : SlotRef
  rec_ : List Byte
  poison : Bool
  covers : Bool := true
  since : Nat := 0
  deriving DecidableEq, Repr
/-- A torn slot, R258: since when. -/
structure Pending where
  slot : SlotRef
  since : Nat
  seq : W32
  deriving DecidableEq, Repr
/-- One stream's place in a step list, R271. -/
structure StepReq where
  stream : Nat
  pos : Nat
  inLen : Nat
  ctx : Nat
  inDla : Nat
  outDla : Nat
  outMax : Nat
  deriving DecidableEq, Repr
/-- A request in a step in flight whose stream has closed (R255): the stream's entry as it was and the DLA of its STATUS. -/
structure Orphan where
  stream : Nat
  status : Nat
  ent : StreamEnt
  deriving DecidableEq, Repr
/-- A step, R270, R271, R222, R224: its step list and the list's DLA, its columns per layer and die, the layers posted and closed per
die, its place in the order in which steps were handed over, and its requests whose streams a disable has closed. -/
structure EStep where
  num : Nat
  handle : Nat
  cls : Nat
  streams : List Nat
  m : Nat
  listDla : Nat := 0
  list : List StepReq := []
  handed : Bool := false
  cols : List (Nat × Nat × Nat) := []
  posted : List (Nat × Nat) := []
  closed : List (Nat × Nat) := []
  fail : Nat := 0
  place : Nat := 0
  orphans : List Orphan := []
  deriving DecidableEq, Repr
/-- A completion entry, R273. -/
structure CqEntry where
  slot : Nat
  op : Nat
  ctrl : Bool
  answer : Nat
  reason : Nat
  seq : W32
  outLen : Nat
  user : Nat
  pos : Nat
  deriving DecidableEq, Repr
/-- The registers of one service class, R278. -/
structure EstClass where
  activeMax : Nat := 0x200
  openMax : Nat := 0x100000
  batch : Nat := 0x40
  mtok : Nat := 0x100
  wait : Nat := 0x14
  deferTmo : Nat := 0x32
  deferMax : Nat := 0x400
  inflight : Nat := 2
  deriving DecidableEq, Repr
/-- Estuary's statistics, R278. -/
structure EstStat where
  live : Nat := 0
  torn : Nat := 0
  stale : Nat := 0
  seqBad : Nat := 0
  early : Nat := 0
  admits : Nat := 0
  defer : Nat := 0
  refCap : Nat := 0
  refPol : Nat := 0
  steps : Nat := 0
  failed : Nat := 0
  cacheMiss : Nat := 0
  deriving DecidableEq, Repr
/-- Estuary, R253 to R278. -/
structure Est where
  en : Bool := false
  biDelay : Nat := 5
  tornWait : Nat := 10
  ready : Bool := false
  cfgErr : Bool := false
  cqFull : Bool := false
  winWrite : Bool := false
  base : Nat := 0
  size : Nat := 0
  winBase : Nat := 0
  winSize : Nat := 0
  streams : Nat := 0
  cqBase : Nat := 0
  log2n : Nat := 8
  tail : W32 := 0
  head : W32 := 0
  notifyEn : Bool := false
  notifyAddr : Nat := 0
  notifyGap : Nat := 4
  classes : Tab EstClass := []
  stat : EstStat := {}
  lastBadSlot : Nat := 0
  lastBadCtrl : Bool := false
  lastBadSeq : W32 := 0
  table : Tab StreamEnt := []
  ctrlSeq : Tab W32 := []
  examine : List Exam := []
  pend : List Pending := []
  cache : List Nat := []
  misses : List Nat := []
  ctrlQueue : List (Nat × List Byte) := []
  steps : List EStep := []
  nextStep : Nat := 0
  cqWait : List CqEntry := []
  notifyDue : Bool := false
  notifyLast : Nat := 0
  biWait : List (Nat × Nat) := []
  deriving DecidableEq, Repr

/-! ### Strandmap and DDR4 (09) -/

/-- Page states, R280. -/
inductive PageSt | unmapped | mapped | moving | lost
  deriving DecidableEq, Repr
/-- A page entry, R280. -/
structure PageEnt where
  st : PageSt := .unmapped
  die : Nat := 0
  chan : Nat := 0
  ppn : Nat := 0
  rmask : Nat := 0
  ridx : Nat := 0
  pin : Bool := false
  quiet : Bool := false
  lastw : Nat := 0
  deriving DecidableEq, Repr
/-- A copy held or being made on a die: a replica-table word (R280) or a move record (R293). -/
structure CopyRec where
  page : Nat
  die : Nat
  chan : Nat
  ppn : Nat
  deriving DecidableEq, Repr
/-- Channel states, R303. -/
inductive ChanSt | absent | training | ready | failed | retired | evacuating
  deriving DecidableEq, Repr
/-- A DDR4 channel, R303, R310; `damage` holds the errors of its stored lines, by 512 × PPN + line (R306). -/
structure Chan where
  st : ChanSt := .absent
  ref2x : Bool := false
  trainStep : Nat := 0
  type : Nat := 0
  width : Nat := 0
  density : Nat := 0
  pranks : Nat := 0
  stack : Nat := 0
  gib : Nat := 0
  rate : Nat := 0
  temp : Int := 0
  tempValid : Bool := false
  ce : Nat := 0
  ue : Nat := 0
  ceLane : Nat := 0
  ceValid : Bool := false
  uePpn : Nat := 0
  ueLine : Nat := 0
  ueValid : Bool := false
  scrubPeriod : Nat := 0x18
  scrubPass : Nat := 0
  ueLimit : Nat := 0x40
  rdLines : Nat := 0
  wrLines : Nat := 0
  used : Tab Bool := []
  zeroing : List Nat := []
  ueTimes : List Nat := []
  damage : Tab DdrErr := []
  selfRefresh : Bool := false
  deriving DecidableEq, Repr
/-- A reserved region, R282, R309. -/
structure Region where
  valid : Bool := false
  base : Nat := 0
  size : Nat := 0
  kind : Nat := 0
  hostWr : Bool := false
  deriving DecidableEq, Repr
/-- The weight range of a layer that the map engine registers at commit, R296: handle, layer, DLA, bytes of one column of tiles, columns. -/
structure WeightRange where
  handle : Nat
  layer : Nat
  base : Nat
  colBytes : Nat
  cols : Nat
  deriving DecidableEq, Repr
/-- Device memory, the Strandmap and its registers, R279 to R309. `walks` holds the walks of region 0 for lost dies, each with its count of
LOST pages (R298), `relRun` the first DLA and the pages of the release in progress (R297), `windowSince` and `windowLen` the start and
the length of the counting window (R289). -/
structure Plm where
  mem : List Host.Cell := []
  poison : Tab Bool := []
  map : Tab PageEnt := []
  replicas : List CopyRec := []
  copying : List CopyRec := []
  retiring : List CopyRec := []
  moves : List CopyRec := []
  recent : List (Nat × Nat) := []
  idle : Tab Nat := []
  lastReads : Tab Nat := []
  cache : List Nat := []
  hostWrites : Tab Nat := []
  window : Nat := 0
  windowSince : Nat := 0
  windowLen : Nat := 0x3E8
  ranges : List WeightRange := []
  migEn : Bool := true
  repEn : Bool := true
  ready : Bool := false
  walks : List (Nat × Nat) := []
  full : Bool := false
  windowUs : Nat := 0x3E8
  repQuiet : Nat := 8
  repIdle : Nat := 0x10
  migMin : Nat := 0x200
  repMin : Nat := 0x100
  migRatio : Nat := 8
  migBw : Nat := 1
  migHold : Nat := 0x10
  repReserve : Nat := 0x10000
  hdmGib : Nat := 0
  statMove : Nat := 0
  statRepl : Nat := 0
  statRetire : Nat := 0
  statLost : Nat := 0
  statRsvWr : Nat := 0
  cacheMiss : Nat := 0
  ptbMiss : Nat := 0
  relBase : Nat := 0
  relPages : Nat := 0
  relBusy : Bool := false
  relRun : Nat × Nat := (0, 0)
  relErr : Bool := false
  queryPage : Nat := 0
  regions : Tab Region := []
  chans : Tab Chan := []
  deriving DecidableEq, Repr

/-! ### The Korpor ring and the update engine (10) -/

/-- Port states, R314. -/
inductive PortSt | disabled | down | training | up | retrain
  deriving DecidableEq, Repr
/-- What a port has to send: a reduction or parameter block, a ring message, or a flit that bypass passes on (R316, R323). -/
inductive TxBody
  | red (opid b : Nat) (u : Block)
  | par (opid b : Nat) (u : Block)
  | msg (m : RingMsg)
  | raw (f : Flit)
  deriving DecidableEq, Repr
/-- One item that waits at a port, on its ring. -/
structure TxItem where
  ring : Nat
  body : TxBody
  deriving DecidableEq, Repr
/-- A flit in the replay buffer: its TXSEQ, what it carries, and how often it has been replayed (R314, R317). -/
structure TxFlit where
  seq : Nat
  items : List TxItem
  replays : Nat := 0
  deriving DecidableEq, Repr
/-- A receive buffer that a delivered flit holds: its channel (0 RED, 1 PAR, 2 CTRL), ring and operation, and its blocks that are not
consumed yet (R317, R318). -/
structure RxBuf where
  chan : Nat
  ring : Nat
  opid : Nat
  blocks : List Block
  deriving DecidableEq, Repr
/-- A Korpor port, R311 to R318, R341. `rxSeq` is the TXSEQ expected next, `txSeq` the next to be sent; `txq` holds what waits for a
credit, `replayBuf` the flits sent and not acknowledged, `rx` the receive buffers in use, `credDue` the buffers freed and not yet
returned, `sinceIdle` the flits sent since an IDLE flit, `wire` the flits sent. -/
structure Port where
  en : Bool := true
  maxgen : Bool := true
  st : PortSt := .down
  gen : Bool := false
  width : Nat := 0
  reversed : Bool := false
  polinv : Nat := 0
  farOk : Bool := false
  farRank : Nat := 0
  fec : Nat := 0
  crcErr : Nat := 0
  replay : Nat := 0
  retrain : Nat := 0
  rxSeq : Nat := 0
  ackDue : Nat := 0
  txSeq : Nat := 0
  txq : List TxItem := []
  replayBuf : List TxFlit := []
  naks : List Nat := []
  retrains : List Nat := []
  credits : List Nat := [64, 64, 8]
  rx : List RxBuf := []
  credDue : List Nat := [0, 0, 0]
  sinceIdle : Nat := 0
  wire : List Flit := []
  since : Nat := 0
  hello : Option HelloMsg := none
  deriving DecidableEq, Repr
/-- Ring states, R321. -/
inductive RingSt | idle | forming | formed | wrapped | broken
  deriving DecidableEq, Repr
/-- Phases of an operation, KL_OP_STATUS.PHASE, R341. -/
inductive OpPhase | none | reduce | update | send | aborted
  deriving DecidableEq, Repr
/-- A ring operation, R329 to R332. `desc` is the descriptor as step 1 read it, `member` the membership it ran under, `applied` that
its owner has updated its shard, `ended` that only its tensor's write remains, `counted` that STEPC and GEXP have been written,
`written` that the tensor has been; `rdones` holds each owner's two flags, `early` those that arrive before a rerun is decided, `starts` whether
the chunks that start here are still to be sent; `heldUp` is the block that the adder of each port holds. -/
structure RingOp where
  opid : Nat := 0
  tid : Nat := 0
  step : Nat := 0
  phase : OpPhase := .reduce
  handed : Bool := false
  desc : List Byte := []
  gexp : Int := 0
  opens : List OpenMsg := []
  rdones : List (Nat × Bool × Bool) := []
  early : List (Nat × Bool × Bool) := []
  starts : Bool := false
  pdones : List (Nat × Int) := []
  updated : Bool := false
  applied : Bool := false
  skipped : Bool := false
  poisonHere : Bool := false
  rerun : Bool := false
  ended : Bool := false
  counted : Bool := false
  written : Bool := false
  cand : Int := 0
  finished : Tab Block := []
  heldUp : List (Nat × Nat × Block) := []
  params : List Nat := []
  member : Nat × Nat := (1, 0)
  deriving DecidableEq, Repr
/-- The ring, its adders and the update engine, R319 to R341. `given` is the operations aborted for good since the ring was formed (R331), `formFail` is the first failure of the formation in progress, `formWrap`
the hop it found missing, `tokens` the laps rank 0 has seen end; `queued` holds the tensors handed over that no operation has taken, each
with its step. -/
structure Kl where
  ports : Tab Port := []
  bypass : Bool := false
  n : Nat := 1
  rank : Nat := 0
  ident : Nat := 0
  st : RingSt := .idle
  wrapRank : Nat := 0
  members : Nat := 0
  failcode : Nat := 0
  formSince : Nat := 0
  formFail : Nat := 0
  formWrap : Option Nat := none
  tokens : BitVec 2 := 0
  srmiss : Bool := false
  tdescBase : Nat := 0
  opSeq : Nat := 0
  opCause : Nat := 0
  ops : List RingOp := []
  given : List Nat := []
  queued : List (Nat × Nat) := []
  statOps : Nat := 0
  statEsc : Nat := 0
  statExpsat : Nat := 0
  statPoison : Nat := 0
  statReserr : Nat := 0
  statAbort : Nat := 0
  updElems : Nat := 0
  updSat : Nat := 0
  updNonfinite : Nat := 0
  updSkip : Nat := 0
  updSkipEl : Nat := 0
  writeHeld : List Nat := []
  deriving DecidableEq, Repr

/-! ### CXL (11) -/

/-- An event record, R357. -/
structure EvRec where
  handle : Nat
  seq : Nat
  type : Nat
  wall : Nat
  deriving DecidableEq, Repr
/-- An event log, R357. -/
structure EvLog where
  recs : List EvRec := []
  overflow : Nat := 0
  deriving DecidableEq, Repr
/-- A request that waits for the BIRsp of a line, R349 to R351: a write of the host or of a unit of the K4, or a host read. `src` is 0
for the host, 1 + 4 * core + slot for a core's SEND, and 1000 for a unit of the hub die. -/
structure BiWait where
  line : Nat
  addr : Nat
  data : List Byte := []
  poison : Bool := false
  isRead : Bool := false
  copy : HostCopy := .none
  src : Nat := 0
  err : DdrErr := {}
  deriving DecidableEq, Repr
/-- An entry of the MSI-X table, R342, R355: message address, message data, and its mask bit. -/
structure MsixEnt where
  addr : Nat := 0
  data : W32 := 0
  masked : Bool := true
  deriving DecidableEq, Repr
/-- The registers of HDM decoder 0 in the component block: size, interleave ways, Lock On Commit, and Error Not Committed (R347). -/
structure HdmDecoder where
  size : Nat := 0
  ways : Nat := 1
  lockOn : Bool := false
  notCommitted : Bool := false
  deriving DecidableEq, Repr
/-- A CXL.cache write request: ItoMWr of a full line, or WOWrInv with the bytes of the line that it writes (R353). -/
inductive D2hReq | itoMWr (line : Nat) | woWrInv (line : Nat) (mask : BitVec 64)
  deriving DecidableEq, Repr
/-- The CXL port, R342 to R366. `dec` holds the decoder's own registers, `busMaster` and `viralEn` controls of configuration space, `viral` whether
the K4 has raised Viral, `aerInternal`, `aerCorrected` and `rasCorrectable` the error status bits (R359). `held` is the requests of the host and the writes of the K4's units that wait for a grant (R24), `biId` the BI-ID that a switch has
assigned (R342), `msixPend` the pending bits of the MSI-X table. `filter` holds the tracked lines, most recently granted first, and whether the host may hold each
modified; `snoops` the back-invalidates in flight, true for BISnpInv and false for BISnpData. -/
structure Cxl where
  rate : Nat := 0
  width : Nat := 0
  flit : Nat := 0
  mode : Nat := 0
  cacheEn : Bool := false
  memEn : Bool := false
  busMaster : Bool := false
  viralEn : Bool := false
  dec : HdmDecoder := {}
  pbr : Bool := false
  biId : Option Nat := none
  msixTable : Tab MsixEnt := []
  msixPend : BitVec 4 := 0
  held : List BiWait := []
  committed : Bool := false
  sizeErr : Bool := false
  locked : Bool := false
  base : Nat := 0
  bisnp : Nat := 0
  biConflict : Nat := 0
  poisonTx : Nat := 0
  poisonRx : Nat := 0
  d2hWr : Nat := 0
  linkDown : Nat := 0
  recovery : Nat := 0
  badAcc : Nat := 0
  filter : List (Nat × Bool) := []
  snoops : List (Nat × Bool) := []
  waiting : List BiWait := []
  logs : Tab EvLog := []
  evtPolicy : List Byte := [0, 0, 0, 0]
  aerInternal : Bool := false
  aerCorrected : Bool := false
  rasCorrectable : Bool := false
  viral : Bool := false
  memInfoValid : Bool := false
  deriving DecidableEq, Repr

/-! ### Breakwater (12) -/

/-- Package states, R383. -/
inductive PkgSt | spring | neap | slackWater
  deriving DecidableEq, Repr
/-- A unit's last grant and last valid request, R26, R375, R379; `floorNow` is the FLOOR of the grant in force, `slackSeen` whether the last
valid grant word showed slack water, `ramp` 64 times the draw to which an uncore unit has ramped (R378), `metered` the unit's draw in the
epoch before, USED of its next request. -/
structure Grant where
  grant : Nat := 0
  floor : Nat := 0
  answer : Nat := 0
  reason : Nat := 0
  state : Nat := 0
  slackSeen : Bool := false
  epoch : Nat := 0
  lastReq : Nat := 0
  lastTier : Nat := 0
  reqMiss : Nat := 0
  inForce : Nat := 0
  floorNow : Nat := 0
  grantMiss : Nat := 0
  ramp : Nat := 0
  metered : Nat := 0
  deriving DecidableEq, Repr
/-- A tier's registers, R401. -/
structure Tier where
  grant : Nat := 0
  req : Nat := 0
  reduced : Nat := 0
  deferred : Nat := 0
  refused : Nat := 0
  reason : Nat := 0
  deriving DecidableEq, Repr
/-- A fan, R391, R393, R401. Duty in hundredths of a percent; `slowSince` the microsecond since which its speed stays below 10% of what its duty
lets expect. -/
structure Fan where
  duty : Nat := 0
  stall : Bool := false
  rpm : Nat := 0
  slowSince : Option Nat := none
  deriving DecidableEq, Repr
/-- Breakwater, clocks and reset, R367 to R401. Power in 1/32 W. `coreGrant` and `uncoreGrant` are the fields of BW_ENVELOPE, `coreDraw` and
`uncoreDraw` the totals of the epoch in force, Cprev and Uprev (R376); `fallCores` is the grants of the cores beached since the last epoch, which
may fall beside the limit, and `fallDebt` those of the epoch before, made up in the next (R381). `pll` is the PLLs that are locked and `memSrc`
the source of DCLK, which BW_CLK_STATUS shows in `lock` and `dsrc`. -/
structure Bw where
  slackReg : Bool := false
  neapReg : Bool := false
  slack105 : Bool := false
  slackWarm : Bool := false
  warn : Bool := false
  warnNeap : Bool := false
  warnHighSince : Nat := 0
  neapSince : Nat := 0
  pfail : Bool := false
  pfailUs : Nat := 0
  fallFree : Bool := false
  parked : Bool := false
  failHigh : Bool := false
  holdupLow : Bool := false
  fanStall : Bool := false
  ceilErr : Bool := false
  slewMiss : Bool := false
  limit : Nat := 0
  ceil : Nat := 350
  slew : Nat := 32
  base : Nat := 0
  draw : Nat := 0
  coreGrant : Nat := 0
  uncoreGrant : Nat := 0
  coreDraw : Nat := 0
  uncoreDraw : Nat := 0
  fallCores : Nat := 0
  fallDebt : Nat := 0
  tiers : Tab Tier := []
  target : Nat := 90
  tmax : Int := 0
  temps : Tab (Option Int) := []
  fT : Nat × Nat := (1, 1)
  acoustic : Option Nat := none
  fanMin : Nat := 20
  fanMax : Nat := 100
  tlo : Nat := 50
  fans : Tab Fan := []
  holdCap : Nat := 0
  holdVmin : Nat := 0
  holdMv : Nat := 0
  holdMj : Nat := 0
  statNeap : Nat := 0
  statDip : Nat := 0
  ballast : Nat := 0
  statStale : Nat := 0
  lock : BitVec 5 := 0
  dsrc : Nat := 0
  pll : BitVec 5 := 0
  memSrc : Nat := 0
  rstCause : Nat := 0
  rstWarm : Nat := 0
  epoch : Nat := 0
  grants : Tab Grant := []
  ce2Prev : Tab Nat := []
  ce2Cur : Tab Nat := []
  ce2Last : Tab Nat := []
  hbeatSeen : Tab (Nat × Nat) := []
  wakes : Tab Nat := []
  wakeGranted : Tab Nat := []
  thermtrip : Bool := false
  vddc : Nat := 750
  vddh : Nat := 750
  deriving DecidableEq, Repr

/-! ### Integrity, Tidemark, settings (13) -/

/-- A Tidemark entry, R413. -/
structure TmkEntry where
  type : Nat
  sev : Nat
  hv : Bool
  src : Nat
  core : Nat := 0xFF
  unit : Nat := 0
  payload : List Byte := []
  time : Nat := 0
  boot : Nat := 0
  wall : Nat := 0
  deriving DecidableEq, Repr
/-- A Tidemark slot in MRAM: the entry and sequence last written, whether the write completed, and the state of its words, R414. -/
structure TmkSlot where
  entry : Option TmkEntry := none
  seq : Nat := 0
  complete : Bool := false
  bad : Bool := false
  stuck : Bool := false
  deriving DecidableEq, Repr
/-- A snapshot read, R418, R419. -/
structure Snap where
  seq : Nat := 0
  busy : Bool := false
  result : Nat := 0
  data : List Byte := []
  deriving DecidableEq, Repr
/-- A settings bank in MRAM, R421: its header fields, its payload, and whether a word of it is uncorrectable, from an upset or from cells that have
failed. -/
structure SetBank where
  magic : List Byte := []
  format : Nat := 0
  seq : W32 := 0
  seqN : W32 := 0
  len : Nat := 0
  crc : Nat := 0
  payload : List Byte := []
  bad : Bool := false
  stuck : Bool := false
  deriving DecidableEq, Repr
/-- What a bank write waiting to be made is for, R423, R436, R444, R445, R447, R450. -/
inductive BankJob
  | setting (src : Source) (ident : Nat) (v : List Byte)
  | factory (src : Source)
  | activate (slot : Nat)
  | confirm (src : Source)
  | format
  | boot
  | romBoot
  | erase
  deriving DecidableEq, Repr
/-- A bank write in progress or queued: its job, the payload it carries, whether it is the repeat of R424, whether it has started, and whether a warm
reset has discarded its command (R366). -/
structure BankWrite where
  job : BankJob
  payload : List Byte := []
  format : Nat := 0
  repeated : Bool := false
  started : Bool := false
  quiet : Bool := false
  deriving DecidableEq, Repr
/-- Tidemark and the settings store, R402 to R426; `bmc` is the snapshot of TMK_READ, for `readSrc`, and `cacheBad` is the entries and sets of the hub caches that have become uncorrectable (R408). -/
structure Tmk where
  slots : Tab TmkSlot := []
  floor : Nat := 0
  bootCount : Nat := 0
  head : Nat := 0
  queue : List TmkEntry := []
  writing : Bool := false
  dropped : Nat := 0
  drops : List Nat := [0, 0, 0]
  cacheUe : Nat := 0
  cacheBad : List CacheUpset := []
  rdLo : W32 := 0
  rdHi : W32 := 0
  host : Snap := {}
  bmc : Snap := {}
  readSrc : Source := .bmc
  readQuiet : Bool := false
  bankA : SetBank := {}
  bankB : SetBank := {}
  selB : Bool := false
  anySel : Bool := false
  defaulted : Bool := false
  writeFail : Bool := false
  writes : Nat := 0
  jobs : List BankWrite := []
  pair : BitVec 9 := 0
  pairCount : Nat := 0
  episodes : BitVec 9 := 0
  pairLast : Tab Nat := []
  rwc : Tab (Option (W32 × Nat)) := []
  stamp : Option (Nat × Nat) := none
  inForce : List (Nat × List Byte) := []
  deriving DecidableEq, Repr

/-! ### Firmware, keys (14) and sideband (15) -/

/-- A stream-signing key, R429. -/
structure KeyEnt where
  key : List Byte
  revoked : Bool
  deriving DecidableEq, Repr
/-- Update session stages, SEC_UPD_STATUS.STAGE, R453. -/
inductive Stage | idle | download | verify | ready | pending
  deriving DecidableEq, Repr
/-- PLDM for Firmware Update: where a BMC session stands (R439). -/
inductive PldmSt | idle | learn | readyXfer | download | verify | apply | activate
  deriving DecidableEq, Repr
/-- The security and update unit, R427 to R453. `held` is image data that waits for its slot's erase, `cmds` the commands that wait for the one in
service (R448), `started` the components that have started (R431); `sk`, `ksk`, `ak`, `devIdPub` and `endorsement` are derived at cold reset, before
DRK and DevID are locked (R428); `keyTag` is the key store's tag, once it has one (R429). -/
structure Sec where
  stage : Stage := .idle
  holder : Nat := 0
  pldm : PldmSt := .idle
  comp : Nat := 0
  code : Nat := 0
  bytes : Nat := 0
  target : Nat := 0
  header : List Byte := []
  total : Nat := 0
  erasing : Bool := false
  held : List Byte := []
  heldLast : Bool := false
  lastTraffic : Nat := 0
  flash0 : List Byte := []
  flash1 : List Byte := []
  active : Nat := 0
  trial : Nat := 0xFF
  attempts : Nat := 0
  slotst0 : Nat := 0
  slotst1 : Nat := 0
  running : Nat := 0
  trialRun : Bool := false
  mode : Nat := 0
  version : Nat := 0
  svn : Nat := 0
  setFmt : Nat := 1
  revokeHdr : Nat := 0
  rollback : Nat := 0
  signedOnly : Bool := false
  keys : List KeyEnt := []
  tagFail : Bool := false
  keyTag : Option (List Byte) := none
  sk : List Byte := []
  ksk : List Byte := []
  ak : List Byte := []
  devIdPub : List Byte := []
  endorsement : List Byte := []
  rootLocked : Bool := false
  started : List Nat := []
  sigRevoked : BitVec 4 := 0
  cmdLast : Nat := 0
  cmdStatus : Nat := 0
  cmdSource : Nat := 0
  cmdCount : Nat := 0
  recovery : Bool := false
  ce2Limit : Nat := 64
  maxRate : Nat := 0
  subsys : Nat := 0
  cmds : List Instr := []
  deriving DecidableEq, Repr

/-- Pins, straps, identity and lock, R38, R459 to R467, R476, and the planes that run, R28, R397. `mbxLast` is the sequence and status of the hub
Headland's last command that was carried out, `mbxReissue` the sequence of one whose reply did not arrive whole (R26). -/
structure Hub where
  lockedWrite : Bool := false
  lock : Bool := false
  bootsrc : Nat := 0
  sbaddr : Nat := 0
  testEn : Bool := false
  alert : BitVec 4 := 0
  ibi : List Nat := []
  ibiEn : Bool := false
  i3cAddr : Option Nat := none
  eidSmb : Nat := 0
  eidI3c : Nat := 0
  pldmTid : Nat := 0
  jtag : JtagInstr := .bypass
  perst : Bool := false
  mgmtUp : Bool := false
  hubUp : Bool := false
  endOfService : Bool := false
  hbMissed : Nat := 0
  hbLast : Nat := 0
  silent : Bool := false
  fenceSeq : Nat := 0
  mbxLast : Option (Nat × Nat) := none
  mbxReissue : Option Nat := none
  selftest : List Nat := []
  resetAfterFence : List Nat := []
  warm : Bool := false
  warmCause : Nat := 0
  pkgInc : Nat := 0
  hubInc : Nat := 0
  updInc : Nat := 0
  sorzInc : Nat := 0
  uciePeer : BitVec 4 := 0xF
  deriving DecidableEq, Repr

/-- A PLDM request that the K4 sends the BMC (R439): for a piece of the image, or that a stage is over with a result. -/
inductive PldmReq
  | requestFirmwareData (offset length : Nat)
  | transferComplete (result : Nat)
  | verifyComplete (result : Nat)
  | applyComplete (result : Nat)
  deriving DecidableEq, Repr
/-- What the K4 last gave the outside on each path: CXL.mem data and its Poison bit, the bad access answer, mailbox, BMC and DOE
replies, PLDM, MCTP, SMBus, I3C and JTAG answers, H2D snoop answers, MSI-X vectors, and the bytes it wrote to host memory. -/
structure Out where
  memData : List Byte := []
  memPoison : Bool := false
  bar0 : W32 := 0
  hostStatus : Nat := 0
  hostReply : List Byte := []
  bmcStatus : Nat := 0
  bmcReply : List Byte := []
  hubStatus : Nat := 0
  doe : List Byte := []
  pldm : List Byte := []
  pldmReq : List PldmReq := []
  mctp : List Byte := []
  smbus : Nat := 0
  i3c : List Byte := []
  tdo : List Byte := []
  snpRsp : Nat := 0
  msix : List Nat := []
  d2h : List D2hReq := []
  hostMem : List Host.Cell := []
  deriving DecidableEq, Repr

/-! ### The package -/

/-- The whole K4: its units, the words on its fabric, the microseconds since cold reset (R261, R413), the counter of the free
values, and the commands that are waiting, first in first out. -/
structure State where
  cores : Tab Core := []
  roles : Tab (Option Role) := []
  fabric : List Flight := []
  dies : Tab Die := []
  ldr : Loader := {}
  est : Est := {}
  plm : Plm := {}
  kl : Kl := {}
  cxl : Cxl := {}
  bw : Bw := {}
  tmk : Tmk := {}
  sec : Sec := {}
  hub : Hub := {}
  out : Out := {}
  us : Nat := 0
  fresh : Nat := 0
  pending : List Instr := []
  deriving DecidableEq, Repr

/-- Why a step stops the machine with a fault. -/
inductive Fault where
  /-- Raised by CXL_MEM_READ and CXL_MEM_WRITE: the host physical address lies outside the committed decoder, so no address of the
  K4 exists there (R347). Safe: the model stops where another device would answer. -/
  | noSuchAddress
  deriving DecidableEq, Repr

/-- Why a command has no meaning in the model. -/
inductive Refusal where
  /-- Raised by an arm whose command has no meaning yet. Safe: the model stops. -/
  | notModelled (mnemonic : String)
  deriving DecidableEq, Repr

/-- The state right after reset: every register at the value its map gives, every other field at the value its log entry names. -/
def State.reset : State := {}

end Sys2Proof.Machine
end

