-- ==== Sys2Proof/Machine/Ops.lean ====
section
/-! DEFINITION. The operations every family shares: reading and writing a unit's record, free values, the Tidemark queue
(R413, R416, R417), alerts (R463) and complement-pair mismatches (R403). -/
-- Log entries (notes/assumptions): DESIGN CHOICE 1, 4, 13, 150; DEDUCED 57, 101, 122, 181.

namespace Sys2Proof.Machine

/-- What a meaning answers. -/
abbrev Res := Host.Outcome State Fault Refusal

/-! ### Units by number -/

/-- Core `c`. -/
def State.core (s : State) (c : Nat) : Core := Tab.get {} s.cores c
/-- Writes core `c`. -/
def State.setCore (c : Nat) (k : Core) (s : State) : State := { s with cores := Tab.insert s.cores c k }
/-- Applies a function to core `c`. -/
def State.modCore (c : Nat) (f : Core → Core) (s : State) : State := s.setCore c (f (s.core c))
/-- Die `d`. -/
def State.die (s : State) (d : Nat) : Die := Tab.get {} s.dies d
/-- Writes die `d`. -/
def State.setDie (d : Nat) (x : Die) (s : State) : State := { s with dies := Tab.insert s.dies d x }
/-- Applies a function to die `d`. -/
def State.modDie (d : Nat) (f : Die → Die) (s : State) : State := s.setDie d (f (s.die d))
/-- A core's task slot. -/
def Core.slot (k : Core) (t : Nat) : TaskSlot := Tab.get {} k.slots t
/-- Writes a core's task slot. -/
def Core.setSlot (t : Nat) (ts : TaskSlot) (k : Core) : Core := { k with slots := Tab.insert k.slots t ts }
/-- Applies a function to a core's task slot. -/
def Core.modSlot (t : Nat) (f : TaskSlot → TaskSlot) (k : Core) : Core := k.setSlot t (f (k.slot t))
/-- Applies a function to a core's scratchpad. -/
def Core.modSpd (f : Spad → Spad) (k : Core) : Core := { k with spd := f k.spd }
/-- Applies a function to one task slot of one core. -/
def State.modSlot (c t : Nat) (f : TaskSlot → TaskSlot) (s : State) : State := s.modCore c (Core.modSlot t f)
/-- Applies a function to one core's scratchpad. -/
def State.modSpd (c : Nat) (f : Spad → Spad) (s : State) : State := s.modCore c (Core.modSpd f)
/-- A core's role, CORE_ID.ROLE: at reset position 8 of a group is the standby and the other cores are in service (R5). -/
def State.role (s : State) (c : Nat) : Role :=
  match Tab.get none s.roles c with
  | some r => r
  | none => if corePos c = 8 then .standby else .inService
/-- Writes a core's role (R109). -/
def State.setRole (c : Nat) (r : Role) (s : State) : State := { s with roles := Tab.insert s.roles c (some r) }
/-- Tile counter `n` of a die. -/
def Die.ctr (x : Die) (n : Nat) : Counter := Tab.get {} x.ctrs n
/-- Writes tile counter `n` of a die. -/
def Die.setCtr (n : Nat) (v : Counter) (x : Die) : Die := { x with ctrs := Tab.insert x.ctrs n v }
/-- Applies a function to tile counter `n` of die `d`. -/
def State.modCtr (d n : Nat) (f : Counter → Counter) (s : State) : State := s.modDie d fun x => x.setCtr n (f (x.ctr n))
/-- Lease entry `e` of a die (R233). -/
def Die.lease (x : Die) (e : Nat) : Lease := Tab.get {} x.leases e
/-- Writes lease entry `e`. -/
def Die.setLease (e : Nat) (v : Lease) (x : Die) : Die := { x with leases := Tab.insert x.leases e v }
/-- A channel of a die, DDR0 to DDR3 (R303). -/
def State.chan (s : State) (d ch : Nat) : Chan := Tab.get {} s.plm.chans (4 * d + ch)
/-- Applies a function to a channel. -/
def State.modChan (d ch : Nat) (f : Chan → Chan) (s : State) : State :=
  { s with plm := { s.plm with chans := Tab.insert s.plm.chans (4 * d + ch) (f (s.chan d ch)) } }
/-- A Korpor port. -/
def State.port (s : State) (p : Nat) : Port := Tab.get {} s.kl.ports p
/-- Applies a function to a Korpor port. -/
def State.modPort (p : Nat) (f : Port → Port) (s : State) : State :=
  { s with kl := { s.kl with ports := Tab.insert s.kl.ports p (f (s.port p)) } }
/-- A Sorzeind handle. -/
def State.handle (s : State) (h : Nat) : Handle := Tab.get {} s.ldr.handles h
/-- Applies a function to a handle. -/
def State.modHandle (h : Nat) (f : Handle → Handle) (s : State) : State :=
  { s with ldr := { s.ldr with handles := Tab.insert s.ldr.handles h (f (s.handle h)) } }

/-! ### Grants of the uncore units (R24, R374, R377) -/

/-- A unit's grant record. -/
def Bw.grantOf (b : Bw) (u : Nat) : Grant := Tab.get {} b.grants u
/-- The DDR4 controller of channel `i`, the first of the uncore units; how many units each entry of R374 has the manual does not give, and
the numbers from 160 on are the model's (DESIGN CHOICE, notes/assumptions/150.md). -/
def ddrUnit (i : Nat) : Nat := 144 + i
/-- The on-package fabric and UCIe modules. -/
def fabricUnit : Nat := 160
/-- The CXL interface. -/
def cxlUnit : Nat := 161
/-- The Strandmap engine; the PTB and counting unit of die d follow at 163 + d. -/
def strandmapUnit : Nat := 162
/-- The PTB and counting unit of die `d`. -/
def ptbUnit (d : Nat) : Nat := 163 + d
/-- Korpor port `p`. -/
def portUnit (p : Nat) : Nat := 167 + p
/-- The link adders and ring packer. -/
def adderUnit : Nat := 171
/-- The update engine. -/
def updateUnit : Nat := 172
/-- Whether an uncore unit may issue work: it holds a grant in force. -/
def State.works (s : State) (u : Nat) : Bool := decide (0 < (s.bw.grantOf u).inForce)
/-- The number of uncore units. -/
def uncoreUnits : Nat := 29
/-- The tier of an uncore unit: 1 RING for the ports, the adders and ring packer and the update engine, 0 MGMT for the others (R374). -/
def uncoreTier (u : Nat) : Nat := if u < 167 then 0 else 1
/-- Whether some uncore unit waits for a grant. -/
def State.uncoreWaits (s : State) : Bool := (List.range uncoreUnits).any fun u => !s.works (144 + u)
/-- Whether the on-package fabric may carry a transfer between two dies; within one die it is not asked. -/
def State.carries (s : State) (d e : Nat) : Bool := d = e || s.works fabricUnit

/-- The rated maximum of a core: 2.4 W, in whole units of 1/32 W. -/
def coreRated : Nat := 76
/-- 0.25 W, what a pending wake adds (R372). -/
def wakeUnits : Nat := 8
/-- What the cores of a die hold in grants. -/
def State.dieGrants (s : State) (d : Nat) : Nat := ((List.range 36).map fun l => (s.bw.grantOf (36 * d + l)).grant).sum
/-- Whether a core's die lets its grants fall before it is reset: its cores have stopped issue (R399). -/
def State.falling (s : State) (c : Nat) : Bool := (s.die (coreDie c)).resetDue ≠ 0

/-! ### Free values -/

/-- The free value of this moment and the state that has used it (notes/assumptions/1.md). -/
def State.draw (s : State) : Nat × State := (Config.free s.fresh, { s with fresh := s.fresh + 1 })

/-! ### Tidemark -/

/-- MCLK cycles since cold reset: 600 a microsecond (R13, R413). -/
def State.mclk (s : State) : Nat := 600 * s.us
/-- The host time in ns now; 0 if never set since cold reset (R413). -/
def State.wall (s : State) : Nat := match s.tmk.stamp with | some (t, since) => t + 1000 * (s.us - since) | none => 0

/-- SEV and HV of an entry type (R417, R452). -/
def eventClass (ty : Nat) : Nat × Bool :=
  if ty = 0x0031 ∨ ty = 0x0042 then (0, false)
  else if ty ∈ [0x0001, 0x0003, 0x0021, 0x0040, 0x0041, 0x0061, 0x0070, 0x0073, 0x0075, 0x0078, 0x0079] then (0, true)
  else if ty ∈ [0x0010, 0x0015, 0x0018, 0x0026, 0x0035, 0x0037, 0x0039, 0x0053, 0x0076, 0x007C] then (2, true)
  else (1, true)

/-- The 64 most entries that wait (R416). -/
def tmkDepth : Nat := 64

/-- Counts one entry of a severity as dropped (R416). -/
def Tmk.drop (sev : Nat) (t : Tmk) : Tmk :=
  { t with dropped := satInc t.dropped, drops := t.drops.modify sev (· + 1) }

/-- Removes the last Informational entry of a queue, if there is one. -/
def dropLastInfo : List TmkEntry → Option (List TmkEntry)
  | [] => none
  | e :: es => match dropLastInfo es with
    | some es' => some (e :: es')
    | none => if e.sev = 0 then some es else none

/-- Queues an entry under R416: a full queue drops a new Informational or Warning entry, and a new Failure entry takes the place
of the most recently queued Informational entry. -/
def Tmk.enqueue (e : TmkEntry) (t : Tmk) : Tmk :=
  if t.queue.length < tmkDepth then { t with queue := t.queue ++ [e] }
  else if e.sev < 2 then t.drop e.sev
  else match dropLastInfo t.queue with
    | some q => { t.drop 0 with queue := q ++ [e] }
    | none => t.drop e.sev

/-- An entry raised now (R413). UNIT is the code of R449: 1 where the entry names a core. -/
def State.entry (ty src : Nat) (payload : List Byte) (s : State) (core : Nat := 0xFF) (unit : Nat := 0) : TmkEntry :=
  { type := ty, sev := (eventClass ty).1, hv := (eventClass ty).2, src := src, core := core,
    unit := if unit = 0 ∧ core ≠ 0xFF then 1 else unit, payload := payload,
    time := s.mclk, boot := s.tmk.bootCount, wall := s.wall }

/-- Raises a Tidemark entry. -/
def State.record (ty src : Nat) (payload : List Byte) (s : State) (core : Nat := 0xFF) (unit : Nat := 0) : State :=
  { s with tmk := s.tmk.enqueue (s.entry ty src payload core unit) }

/-- One byte of a payload. -/
def b8 (n : Nat) : List Byte := [BitVec.ofNat 8 n]

/-! ### Alerts, R463: bit 0 CONTROL_SILENT, 1 CLASS_SHORT, 2 POWER_RETURN, 3 FAN_STALL -/

/-- Sets an alert cause bit; a newly set bit raises an IBI while IBIs are enabled. -/
def State.alert (k : Nat) (s : State) : State :=
  { s with hub := { s.hub with alert := s.hub.alert ||| (1#4 <<< k), ibi := if s.hub.ibiEn && !s.hub.alert.getLsbD k then s.hub.ibi ++ [k] else s.hub.ibi } }

/-- Cores that a reset leaves for the configuration engine to write again (R219). -/
def State.awaitRewrite (cs : List Nat) (s : State) : State :=
  { s with ldr := { s.ldr with rewrite := s.ldr.rewrite ++ cs.filter fun c => !(c ∈ s.ldr.rewrite) } }

/-- The management plane watches cores' heartbeats from now on (R242). -/
def State.watch (cs : List Nat) (s : State) : State :=
  { s with bw := { s.bw with hbeatSeen := cs.foldl (fun t c => Tab.insert t c (0, s.us)) s.bw.hbeatSeen } }

/-! ### Complement pairs -/

/-- A mismatch at bit `k` of TMK_PAIR_STATUS (R403): the bit is set, the count rises, and the first of an episode is recorded. -/
def State.pairError (k : Nat) (s : State) : State :=
  let t := s.tmk
  let opened := t.episodes.getLsbD k
  let s := { s with tmk := { t with pair := t.pair ||| (1#9 <<< k), pairCount := satInc t.pairCount,
                                    episodes := t.episodes ||| (1#9 <<< k), pairLast := Tab.insert t.pairLast k s.us } }
  if opened then s else s.record 0x0027 4 (b8 k)

/-- The module of the square CD0-CD1, CD1-CD3, CD3-CD2, CD2-CD0 (0 to 3) that module 2 or 3 of a die is an end of (R17); modules 0 and 1 of a die lead
to the hub. Which of the two is 2 the manual does not say (DESIGN CHOICE, notes/assumptions/181.md). -/
def dieEdge (d m : Nat) : Nat := ([[0, 3], [0, 1], [2, 3], [1, 2]].getD d []).getD (m - 2) 0

end Sys2Proof.Machine
end

