-- ==== Sys2Proof/Machine/Lease.lean ====
section
/-! DEFINITION. The lease table, revocation, the retry list (R233 to R237) and the fence event that beaches a core (R23, R246). -/
-- Log entries (notes/assumptions): DESIGN CHOICE 145; DEDUCED 53, 56, 114, 129, 130.

namespace Sys2Proof.Machine

/-! ### Lease entries (R233) -/

/-- Entry 4 × local number + task slot belongs to one task slot. -/
def leaseIx (c t : Nat) : Nat := 4 * coreLocal c + t
/-- The core of entry `e` of die `d`. -/
def leaseCore (d e : Nat) : Nat := 36 * d + e / 4
/-- STATE, CTR and AGE of CTL. -/
def Lease.st (l : Lease) : Nat := bits l.ctl.toNat 1 0
/-- CTR of CTL. -/
def Lease.ctr (l : Lease) : Nat := bits l.ctl.toNat 7 2
/-- AGE of CTL, in microseconds. -/
def Lease.age (l : Lease) : Nat := bits l.ctl.toNat 31 8
/-- A CTL word. -/
def leaseCtl (st ctr age : Nat) : W32 := BitVec.ofNat 32 (st + 4 * ctr + 256 * age)
/-- An entry with each word beside its complement. -/
def Lease.make (tile gen ctl : W32) : Lease := ⟨tile, ~~~tile, gen, ~~~gen, ctl, ~~~ctl⟩
/-- Whether the three stored pairs match. -/
def Lease.pairOk (l : Lease) : Bool := decide (l.tileN = ~~~l.tile) && decide (l.genN = ~~~l.gen) && decide (l.ctlN = ~~~l.ctl)
/-- The entry in another state. -/
def Lease.withSt (st : Nat) (l : Lease) : Lease := Lease.make l.tile l.gen (leaseCtl st l.ctr l.age)
/-- The generation with its retry number raised (R233, R236). -/
def nextGen (g : W32) : W32 := g + 1
/-- The retry number of a generation. -/
def retryOf (g : W32) : Nat := g.toNat % 256
/-- DIE_POLICY.RETRY_MAX, 0 treated as 1 (R252). -/
def Die.retryLimit (x : Die) : Nat := if x.retryMax = 0 then 1 else x.retryMax
/-- RETRY_LOW: fewer than 144 of the 512 retry entries are free (R237). -/
def Die.retryLow (x : Die) : Bool := decide (512 - x.retry.length < 144)

/-! ### Failing a tile (R237) -/

/-- The postings of a step that still wait for their counters are dropped: a layer of a failed step is never posted (R222, R250). -/
def State.dropPostings (n : Nat) (s : State) : State :=
  { s with dies := s.dies.map fun x => (x.1, { x.2 with ctrs := x.2.ctrs.map fun q => (q.1, { q.2 with queue := q.2.queue.filter fun p => p.step ≠ n }) }) }

/-- Marks a step as failed, for the hub Headland and Estuary: 1 TILE_FAILED, 2 RESET_LOST (R272). -/
def State.failStep (n code : Nat) (s : State) : State :=
  ({ s with est := { s.est with steps := s.est.steps.map fun (e : EStep) => if e.num = n && e.fail = 0 then { e with fail := code } else e } } : State).dropPostings n

/-- A tile fails: its counter enters FAILED, Tidemark records it, and the step is reported failed. -/
def State.failTile (d ctr tile code : Nat) (s : State) : State :=
  let step := ((s.die d).ctr ctr).step
  let s := s.modDie d fun x => { x.setCtr ctr { x.ctr ctr with st := .failed } with statFailed := satInc x.statFailed }
  (s.record 0x0025 d (b8 d ++ b8 ctr ++ b8 code ++ b8 0 ++ leBytes 4 tile)).failStep step 1

/-- Whether a layer of a handle is a SWASH layer, whose stopped tiles restart from a key frame (R148). -/
def State.layerOf (s : State) (h layer : Nat) : Option LayerRec :=
  match (s.handle h).stream with
  | some st => st.layers.find? fun l => l.index = layer
  | none => none

/-- The revocation of a HELD lease `l` of entry `e` of die `d` (R236): the tile goes to the retry list with its retry number raised, or
fails. A lease of a posting that has ended joins no list. -/
def State.revokeLease (d e : Nat) (l : Lease) (code : Option Nat) (s : State) : State :=
  let x := s.die d
  if l.gen.toNat / 256 ≠ (x.ctr l.ctr).pseq then
    s.modDie d fun x => { x.setLease e (l.withSt 2) with statRevoked := satInc x.statRevoked, handed := Tab.erase x.handed e }
  else
    let n := l.ctr
    let q := x.ctr n
    let tile := l.tile.toNat
    let key := match s.layerOf q.handle q.layer with | some r => r.kind = 3 | none => false
    let q := { q with faults := match code with | some f => Tab.set 0 q.faults tile f | none => q.faults,
                      tagBy := if code = some 0x22 then
                          Tab.set 0 q.tagBy tile (if Tab.get 0 q.tagBy tile = 0 then 1 + leaseCore d e else 1000) else q.tagBy,
                      keyTiles := if key && !(tile ∈ q.keyTiles) then q.keyTiles ++ [tile] else q.keyTiles }
    let s := s.modDie d fun x => { (x.setLease e (l.withSt 2)).setCtr n q with statRevoked := satInc x.statRevoked, handed := Tab.erase x.handed e }
    if retryOf l.gen + 1 > x.retryLimit then s.failTile d n tile (Tab.get 0 q.faults tile)
    else s.modDie d fun x => { x with retry := x.retry ++ [⟨n, tile, (nextGen l.gen).toNat, leaseCore d e, s.us, false⟩] }

/-- A stored entry whose pair fails its check: treated as REVOKED, the mismatch counted and recorded (R235, R403). The tile that the dispatcher
handed out under it is reissued (DESIGN CHOICE, notes/assumptions/145.md). -/
def State.leasePairFault (d e : Nat) (code : Option Nat) (s : State) : State :=
  let s := match Tab.get none (s.die d).handed e with
    | some (n, tile, gen) => s.revokeLease d e (Lease.make (BitVec.ofNat 32 tile) gen (leaseCtl 1 n 0)) code
    | none => s.modDie d fun x => x.setLease e (Lease.make 0 0 (leaseCtl 2 0 0))
  (s.pairError 5).record 0x0023 d (b8 d ++ b8 e)

/-- Revokes the lease of entry `e` of die `d`: the stored pair is checked, and an entry that is not HELD is left as it is (R235, R236). -/
def State.revoke (d e : Nat) (code : Option Nat) (s : State) : State :=
  let l := (s.die d).lease e
  if !l.pairOk then s.leasePairFault d e code
  else if l.st ≠ 1 then s
  else s.revokeLease d e l code

/-- One word of an entry with bits changed. -/
def Lease.upset (w : Nat) (m : W32) (l : Lease) : Lease :=
  match w with
  | 0 => { l with tile := l.tile ^^^ m }
  | 1 => { l with tileN := l.tileN ^^^ m }
  | 2 => { l with gen := l.gen ^^^ m }
  | 3 => { l with genN := l.genN ^^^ m }
  | 4 => { l with ctl := l.ctl ^^^ m }
  | 5 => { l with ctlN := l.ctlN ^^^ m }
  | _ => l
/-- The lease table of a die once upsets have struck it. -/
def State.upsetLeases (d : Nat) (us : List LeaseUpset) (s : State) : State :=
  us.foldl (fun (s : State) u => if u.entry < 144 then s.modDie d fun x => x.setLease u.entry ((x.lease u.entry).upset u.word u.bits) else s) s

/-! ### Fence events (R23, R246) -/

/-- Whether the management plane has beached a core: its role says so, or a fence event that names it is on its way. -/
def State.fenced (s : State) (c : Nat) : Bool :=
  s.role c = .beached || (s.die (coreDie c)).evts.any fun v => bit v.mask (coreLocal c)

/-- An event as a Headland that is reset leaves it: one not acknowledged is received anew. -/
def FenceLink.forget (v : FenceLink) : FenceLink := if v.acked then v else { v with onWay := false, received := false }
/-- A fence between steps 3 and 4 of R246: received by the die Headland and not acknowledged. -/
def FenceEvt.open_ (v : FenceEvt) : Bool := v.die.received && !v.die.acked

/-- The management plane beaches cores of one die: it gates them and sends one fence event, to the die Headland and the hub Headland (R23,
R246 step 2). Their grants may fall beside the limit of R381. -/
def State.beach (d : Nat) (locals : List Nat) (cause : Nat) (s : State) : State :=
  let ls := locals.filter fun l => !s.fenced (36 * d + l)
  if ls = [] then s
  else
    let seq := (s.hub.fenceSeq + 1) % 65536
    let v : FenceEvt := { seq := seq, mask := (ls.map fun l => 2 ^ l).sum, causes := ls.map fun l => (l, cause), sent := s.us }
    let fall := (ls.map fun l => min coreRated (s.bw.grantOf (36 * d + l)).grant).sum
    let s := { s with hub := { s.hub with fenceSeq := seq }, bw := { s.bw with fallCores := s.bw.fallCores + fall } }
    (ls.foldl (fun s l => s.modCore (36 * d + l) fun k => { k with gated := true }) s).modDie d fun x => { x with evts := x.evts ++ [v] }

end Sys2Proof.Machine
end

