-- ==== Sys2Proof/Machine/Spad.lean ====
section
/-! DEFINITION. The scratchpad of a core: banks and the interleave (R153), decoding a word under its class (R158, R159), reads and
writes of a word in each bank state (R175, R176), scoreboard counts (R102) and the freeze (R98, R99). -/
-- Log entries (notes/assumptions): DESIGN CHOICE 17, 46, 52, 142, 167; DEDUCED 34, 43, 48.

namespace Sys2Proof.Machine

/-- Bit k of a 256-bit word as a number. -/
def bitAt (w : W256) (k : Nat) : Nat := if w.getLsbD k then 1 else 0

/-! ### Partitions and banks -/

/-- The valid partition of a word (R162). -/
def Spad.partOf (m : Spad) (w : Nat) : Option Part := (m.parts.map (·.2)).find? fun p => p.valid && decide (p.base ≤ w) && decide (w < p.bound)
/-- Whether a word has the weight class; a word in no partition is kept as ACT (R158). -/
def Spad.isWgt (m : Spad) (w : Nat) : Bool := match m.partOf w with | some p => p.wgt | none => false
/-- log2 of the interleave span: 16, 8 or 4 banks (R153); the reserved code is taken as 16. -/
def Spad.spanLog (m : Spad) : Nat := if m.ilv = 1 then 3 else if m.ilv = 2 then 2 else 4
/-- The bank of a word (R153). -/
def Spad.bankOf (m : Spad) (a : Nat) : Nat :=
  let k := m.spanLog
  let l := a % (2 ^ k * 1024)
  a / (2 ^ k * 1024) * 2 ^ k + (List.range 14).foldl (fun o i => if i % k = 0 && decide (i < 10 + k) then o ^^^ (l >>> i) % 2 ^ k else o) 0
/-- The row of a word in its bank (R153). -/
def Spad.rowOf (m : Spad) (a : Nat) : Nat := (a % (2 ^ m.spanLog * 1024)) >>> m.spanLog
/-- The word at a row of a bank: the one word of that row whose bank is `b`. -/
def Spad.wordAt (m : Spad) (b row : Nat) : Nat :=
  let w := 2 ^ m.spanLog
  let base := b / w * (w * 1024) + row * w
  match (List.range w).find? fun i => m.bankOf (base + i) = b with
  | some i => base + i
  | none => base
/-- A bank. -/
def Spad.bank (m : Spad) (b : Nat) : Bank := Tab.get {} m.banks b
/-- Writes a bank. -/
def Spad.setBank (b : Nat) (x : Bank) (m : Spad) : Spad := { m with banks := Tab.insert m.banks b x }
/-- Applies a function to a bank. -/
def Spad.modBank (b : Nat) (f : Bank → Bank) (m : Spad) : Spad := m.setBank b (f (m.bank b))
/-- Whether the bank of a word is ON. -/
def Spad.isOn (m : Spad) (w : Nat) : Bool := (m.bank (m.bankOf w)).st = .on
/-- The stored word. -/
def Spad.word (m : Spad) (w : Nat) : W256 := Tab.get 0 m.words w
/-- Stores a whole word: its wrong bits and its mark go (R159, R409). -/
def Spad.put (w : Nat) (d : W256) (poison : Bool) (m : Spad) : Spad :=
  { m with words := Tab.set 0 m.words w d, errs := Tab.set 0 m.errs w 0, poison := Tab.set false m.poison w poison }
/-- Zeroes the words of a bank. -/
def Spad.clearBank (b : Nat) (m : Spad) : Spad :=
  { m with words := m.words.filter fun x => decide (m.bankOf x.1 ≠ b), errs := m.errs.filter fun x => decide (m.bankOf x.1 ≠ b),
           poison := m.poison.filter fun x => decide (m.bankOf x.1 ≠ b) }

/-! ### Scoreboards -/

/-- A scoreboard entry of a core. -/
def Core.sbEnt (k : Core) (n : Nat) : Sb := Tab.get {} k.sb n
/-- Adds to a scoreboard count (R102). -/
def Core.sbAdd (n : Nat) (v : W32) (k : Core) : Core :=
  { k with sb := Tab.set {} k.sb n { k.sbEnt n with count := (k.sbEnt n).count + v } }
/-- A word that lands counts in every entry whose range holds it (R102). -/
def Core.landed (w : Nat) (k : Core) : Core :=
  (List.range 16).foldl (fun k n => if (k.sbEnt n).base ≤ w ∧ w < (k.sbEnt n).base + (k.sbEnt n).len then k.sbAdd n 1 else k) k

/-! ### Decoding a word (R159) -/

/-- What decoding found. -/
inductive EccOut | clean | ce1 | ce2 | ue
  deriving DecidableEq, Repr

/-- Decodes a word with `n` wrong bits under its class. Beyond the code's guarantee a free value says which of the outcomes the
manual allows comes about (notes/assumptions/17.md). -/
def eccDecode (wgt : Bool) (n fresh : Nat) (d : W256) : W256 × EccOut :=
  if n = 0 then (d, .clean)
  else if n = 1 then (d, .ce1)
  else if n = 2 then if wgt then (d, .ce2) else (0, .ue)
  else if n = 3 && wgt then (0, .ue)
  else
    let silent := !((!wgt && n = 3) || (wgt && (n = 4 || n = 5)))
    match Config.eccOutcome fresh d % 4 with
    | 1 => (Config.eccData fresh d, .ce1)
    | 2 => (Config.eccData fresh d, if wgt then .ce2 else .ce1)
    | 3 => if silent then (Config.eccData fresh d, .clean) else (0, .ue)
    | _ => (0, .ue)

/-- A word read: its data, whether it is poisoned, and whether it took a double-bit correction. -/
structure SpdRead where
  data : W256
  poison : Bool
  ce2 : Bool
  deriving DecidableEq, Repr

/-- Counts what decoding a stored word found and marks an uncorrectable word (R159, R178). -/
def State.spdCount (c w : Nat) (o : EccOut) (s : State) : State :=
  match o with
  | .clean => s
  | .ce1 => s.modSpd c fun m => { m with ce1 := satInc m.ce1 }
  | .ce2 => s.modSpd c fun m => { m with ce2 := satInc m.ce2 }
  | .ue =>
    let b := (s.core c).spd.bankOf w
    let s := s.modSpd c fun m => { m with ue := satInc m.ue, ueSeen := true, ueWord := w, ueValid := true,
                                          errs := Tab.set 0 m.errs w 0, poison := Tab.set false m.poison w true }
    s.record 0x0030 (coreDie c) (leBytes 2 w ++ b8 b) c

/-- Reads a word of an ON bank: a marked word returns poison, any other word decodes under its class. -/
def State.spdReadOn (c w : Nat) (s : State) : SpdRead × State :=
  let m := (s.core c).spd
  if Tab.get false m.poison w then (⟨0, true, false⟩, s)
  else
    let n := Tab.get 0 m.errs w
    let (d, o) := eccDecode (m.isWgt w) n s.fresh (m.word w)
    let s := if n > 2 then { s with fresh := s.fresh + 1 } else s
    (⟨d, o = .ue, o = .ce2⟩, s.spdCount c w o)

/-! ### Writes -/

/-- A write that meets a bank that is not ON: discarded, counted, and the first of the episode recorded (R175, R176). -/
def State.spdDiscard (c requester w : Nat) (s : State) : State :=
  let m := (s.core c).spd
  let b := m.bankOf w
  let s' := s.modSpd c fun m => { m.modBank b fun x => { x with episode := true } with unpwrDisc := satInc m.unpwrDisc, unpwr := true }
  if (m.bank b).episode then s' else s'.record 0x0031 (coreDie c) (b8 b ++ b8 requester ++ leBytes 2 w) c

/-- A bank takes a write of a whole word; true when the word landed (R102, R175). -/
def State.storeWord (c requester w : Nat) (d : W256) (poison : Bool) (s : State) : State × Bool :=
  if (s.core c).spd.isOn w then (s.modCore c fun k => Core.landed w (k.modSpd (Spad.put w d poison)), true)
  else (s.spdDiscard c requester w, false)

/-- A bank takes a write under a mask: a read-modify-write (R161), which leaves a poisoned word poisoned (R159); `poison` marks what is
written. A double-bit correction of the read inside the bank counts, and does not freeze the core, whose units do not wait for that word
(DESIGN CHOICE: the manual does not say whether R98's 'any read by this core' takes it in; notes/assumptions/167.md). -/
def State.storeMask (c requester w : Nat) (d mask : W256) (s : State) (poison : Bool := false) : State × Bool :=
  if (s.core c).spd.isOn w then
    let (r, s) := s.spdReadOn c w
    (s.modCore c fun k => Core.landed w (k.modSpd (Spad.put w ((r.data &&& ~~~mask) ||| (d &&& mask)) (r.poison || poison))), true)
  else (s.spdDiscard c requester w, false)

/-! ### What a bank has accepted (R173) -/

/-- A word that was read through a window lands at the requester (R128, R129, R175): a word, or one bit of each row of a gathered plane, a
write under a mask (R161). `pre` comes before each. -/
def State.landWith (pre : Nat → Nat → State → State) (c : Nat) (l : Landing) (d : W256) (poison : Bool) (s : State) : State :=
  match l with
  | .word dst => ((pre c dst s).storeWord c c dst d poison).1
  | .lane base ostr plane lane => (List.range 256).foldl (fun s r =>
      let w := base + r * ostr + plane
      ((pre c w s).storeMask c c w (BitVec.ofNat 256 (bitAt d r) <<< lane) (BitVec.ofNat 256 (2 ^ lane)) poison).1) s

/-- A bank serves a request that it accepted: the word is written, or read and its answer lands at the requester. -/
def State.serveWith (pre : Nat → Nat → State → State) (c : Nat) (q : QReq) (s : State) : State :=
  match q.body with
  | .write d p => (s.storeWord c (q.src / 4) q.word d p).1
  | .read l => let (r, s) := s.spdReadOn c q.word; s.landWith pre (q.src / 4) l r.data r.poison

/-- The requests that a bank has accepted retire, oldest first (R173). A write that it accepted while ON completes through DRAINING (R175). An
answer that lands in a bank which holds requests of its own comes after those: `fuel` bounds how many banks wait on one another. -/
def State.emptyBank : Nat → Nat → Nat → State → State
  | 0, _, _, s => s
  | fuel + 1, c, b, s =>
    let x := (s.core c).spd.bank b
    if x.queue.isEmpty then s
    else
      let s := s.modSpd c (Spad.modBank b fun x => { x with queue := [], st := .on })
      let s := x.queue.foldl (fun s q => s.serveWith (fun c w s =>
        if (s.core c).spd.isOn w then State.emptyBank fuel c ((s.core c).spd.bankOf w) s else s) c q) s
      s.modSpd c (Spad.modBank b fun y => { y with st := x.st })
/-- The banks of the package, each of which empties its queue once. -/
def bankCount : Nat := 2304
/-- A bank's queue empties. -/
def State.bankRetire (c b : Nat) (s : State) : State := s.emptyBank bankCount c b
/-- A request at the bank of a word comes after those that the bank has accepted before it (R173); one that is not ON takes none. -/
def State.retireAt (c w : Nat) (s : State) : State :=
  if (s.core c).spd.isOn w then s.bankRetire c ((s.core c).spd.bankOf w) else s
/-- A window word that was read lands at the requester. -/
def State.land (c : Nat) (l : Landing) (d : W256) (poison : Bool) (s : State) : State := s.landWith State.retireAt c l d poison
/-- A bank serves a request. -/
def State.bankServe (c : Nat) (q : QReq) (s : State) : State := s.serveWith State.retireAt c q

/-! ### Local accesses -/

/-- A local read: a bank that is not ON returns a poisoned word (R175). -/
def State.spdRead (c w : Nat) (s : State) : SpdRead × State :=
  if (s.core c).spd.isOn w then (s.retireAt c w).spdReadOn c w else (⟨0, true, false⟩, s)

/-- Local reads of words in order, with the positions at which a double-bit correction fell. -/
def State.spdReads (c : Nat) (ws : List Nat) (s : State) : List SpdRead × State :=
  ws.foldl (fun r w => let (x, s) := r.2.spdRead c w; (r.1 ++ [x], s)) ([], s)

/-- A write of a whole word at core `c`; true when the word landed. -/
def State.spdWrite (c requester w : Nat) (d : W256) (poison : Bool) (s : State) : State × Bool :=
  (s.retireAt c w).storeWord c requester w d poison

/-- A write under a mask. -/
def State.spdWriteMask (c requester w : Nat) (d mask : W256) (s : State) (poison : Bool := false) : State × Bool :=
  (s.retireAt c w).storeMask c requester w d mask poison

/-- Words are zeroed ahead of the lanes that land in them, which count instead: no scoreboard counts these (R102, R129). -/
def State.clearWords (c : Nat) (ws : List Nat) (s : State) : State :=
  ws.foldl (fun s w => (s.retireAt c w).modSpd c fun m => if m.isOn w then m.put w 0 false else m) s

/-- Local writes of whole words, in order. -/
def State.spdWrites (c : Nat) (ws : List (Nat × W256)) (s : State) : State :=
  ws.foldl (fun s x => (s.spdWrite c c x.1 x.2 false).1) s

/-- Bits upset since the words were last written (R159). -/
def State.upset (c : Nat) (ups : List Upset) (s : State) : State :=
  s.modSpd c fun m => { m with errs := ups.foldl (fun e u => Tab.set 0 e u.word (Tab.get 0 e u.word + u.bits)) m.errs }

/-! ### The freeze -/

/-- The cycles that intervals (start, length) in ascending order of start cover from `upto` on. -/
def coverFrom : Nat → List (Nat × Nat) → Nat
  | _, [] => 0
  | upto, (a, n) :: rest => (a + n - max upto a) + coverFrom (max upto (a + n)) rest
/-- The cycles frozen by freezes that begin at given cycles for given lengths: those that overlap merge (R99). -/
def mergedFreeze (fs : List (Nat × Nat)) : Nat := coverFrom 0 (fs.insertionSort fun x y => x.1 ≤ y.1)

/-- Freezes a core for double-bit corrections due at the given cycles from now, 6 cycles each (R98), and for accesses that came late: the
cycle from now at which each was due and by how much (R157). Freezes merge with one another and with those begun before (R99). The
counts stop at 0xFFFF_FFFF (DESIGN CHOICE, notes/assumptions/142.md). -/
def Core.freezeFor (due : List Nat) (late : List (Nat × Nat)) (k : Core) : Core :=
  match due.map (fun d => (k.cycle + d, 6)) ++ late.map fun l => (k.cycle + l.1, l.2) with
  | [] => k
  | new =>
    let old := k.frzMarks.filter fun x => decide (k.cycle < x.1 + x.2)
    { k with frzEvents := satAdd k.frzEvents due.length, freeze := k.freeze + (mergedFreeze (old ++ new) - mergedFreeze old),
             frzMarks := old ++ new, spd := { k.spd with starve := satAdd k.spd.starve late.length } }

/-- What comes late of an instruction's accesses in a unit: those of RESULT and SWASH at any span, those of the others only with a span narrower
than 16 banks (R157). -/
def Core.lateOf (u : UnitName) (late : List (Nat × Nat)) (k : Core) : List (Nat × Nat) :=
  if u = .result ∨ u = .swash ∨ k.spd.spanLog ≠ 4 then late.filter fun l => decide (0 < l.2) else []
/-- An instruction meets late accesses beside the reads whose corrections freeze the core (R157). -/
def State.starve (c : Nat) (u : UnitName) (late : List (Nat × Nat)) (s : State) : State :=
  s.modCore c fun k => k.freezeFor [] (k.lateOf u late)
/-- A core checks a word or plane with an uncorrectable error: its commits and outbound writes end (R245, R407). -/
def State.sawUe (c : Nat) (ue : Bool) (s : State) : State := s.modCore c fun k => { k with ue := k.ue || ue }

/-- The data of reads. -/
def datas (rs : List SpdRead) : List W256 := rs.map fun r => r.data
/-- Whether a read was poisoned. -/
def poisoned (rs : List SpdRead) : Bool := rs.any fun r => r.poison
/-- The positions in a list of reads that took a double-bit correction. -/
def ce2At (rs : List SpdRead) : List Nat := (List.range rs.length).filter fun i => match rs[i]? with | some r => r.ce2 | none => false

/-- Whether a core is frozen: by corrections, or until its energy account is positive again (R98, R385). -/
def Core.frozen (k : Core) : Bool := decide (0 < k.freeze) || k.pfreeze

end Sys2Proof.Machine
end

