-- ==== Sys2Proof/Machine/Operands.lean ====
section
/-! DEFINITION. The tile-program instruction words of R90 to R96: which row of the table a word is, and the operand forms of R79,
R87, R91 to R96. -/
-- Log entries (notes/assumptions): DESIGN CHOICE 12, 140; DEDUCED 35, 38, 39.

namespace Sys2Proof.Machine

/-- The instructions of a tile program, one for each row of the table. -/
inductive Kind
  | xset | xadd | xmad | setl | setstr | sbarm | ldrq | setparam | ldw | strm
  | gathRow | gathLane | gathPack | gathPacku | scatAdd32 | scatAdd64 | scatVadd | scatLoad | scatStore
  | rqnt | rowf | cens | pred | delta | deltaKey | fill | copyLocal | copyWindow | send
  | wait | sig | take | done | loop | br | halt
  deriving DecidableEq, Repr

/-- Bits hi to lo of a word that must read zero (R90). -/
def clear (w hi lo : Nat) : Bool := bits w hi lo = 0

/-- The opcode of a word. -/
def opOf (w : Nat) : Nat := bits w 63 58
/-- A. -/
def asyncOf (w : Nat) : Bool := bit w 57
/-- SB of an instruction of a unit. -/
def sbOf (w : Nat) : Nat := bits w 56 53

/-- CFG, by SUB (R96). -/
def cfgKind (w : Nat) : Option Kind :=
  match bits w 52 49 with
  | 0 => if clear w 45 32 then some .xset else none
  | 1 => if clear w 42 32 then some .xadd else none
  | 2 => if clear w 39 16 then some .xmad else none
  | 3 => if clear w 46 16 then some .setl else none
  | 4 => if clear w 48 48 && clear w 13 0 then some .setstr else none
  | 5 => if clear w 12 0 then some .sbarm else none
  | 6 => if clear w 31 0 then some .ldrq else none
  | 7 => if clear w 31 0 then some .setparam else none
  | _ => none

/-- GATH, by MODE (R127). -/
def gathKind (w : Nat) : Option Kind :=
  match bits w 52 49 with
  | 0 => some .gathRow
  | 1 => some .gathLane
  | 2 => if clear w 2 0 && decide (1 ≤ bits w 14 3 ∧ bits w 14 3 ≤ 256) then some .gathPack else none
  | 3 => if clear w 2 0 && decide (1 ≤ bits w 14 3 ∧ bits w 14 3 ≤ 256) then some .gathPacku else none
  | _ => none

/-- SCAT, by MODE (R133). -/
def scatKind (w : Nat) : Option Kind :=
  if !clear w 2 0 then none
  else
    let blocks := decide (1 ≤ bits w 14 3 ∧ bits w 14 3 ≤ 16)
    match bits w 52 49 with
    | 0 => some .scatAdd32
    | 1 => some .scatAdd64
    | 2 => if clear w 48 46 && clear w 45 36 then some .scatVadd else none
    | 3 => if clear w 31 29 && clear w 28 19 && blocks then some .scatLoad else none
    | 4 => if clear w 31 29 && clear w 28 19 && blocks then some .scatStore else none
    | _ => none

/-- The instruction that a program word is; none where the core raises ILLEGAL_OP for the word itself: an undefined opcode,
sub-operation or field value, or a reserved bit set (R90 to R96, R122, R127, R133, R144). -/
def kindOf (w : Nat) : Option Kind :=
  match opOf w with
  | 0x01 => cfgKind w
  | 0x02 => if clear w 29 19 && clear w 1 0 && bits w 48 47 ≠ 3 then some .ldw else none
  | 0x03 => if clear w 0 0 && bits w 48 47 ≠ 3 then some .strm else none
  | 0x04 => gathKind w
  | 0x05 => scatKind w
  | 0x06 => if clear w 23 0 && bits w 52 51 ≠ 3 then some .rqnt else none
  | 0x07 => if clear w 13 0 && decide (bits w 52 49 < 8) then some .rowf else none
  | 0x08 => if clear w 23 23 && clear w 0 0 && decide (bits w 42 41 < 2) && decide (bits w 5 1 ≤ 16) then some .cens else none
  | 0x09 => if clear w 2 0 && !(bit w 52 && !bit w 51) && decide (1 ≤ bits w 14 3 ∧ bits w 14 3 ≤ if bit w 52 then 4 else 8) then some .pred else none
  | 0x0A => if clear w 2 0 && clear w 52 51 then (match bits w 50 49 with | 0 => some .delta | 1 => some .deltaKey | _ => none) else none
  | 0x0B => if clear w 52 48 && clear w 30 28 then some .fill else none
  | 0x0C => match bits w 52 51 with
    | 0 => if clear w 50 48 then some .copyLocal else none
    | 1 => some .copyWindow
    | _ => none
  | 0x0D => if clear w 52 51 then some .send else none
  | 0x0E => if clear w 19 0 then some .wait else none
  | 0x0F => if clear w 24 0 && !(decide (144 ≤ bits w 48 41 ∧ bits w 48 41 ≤ 254)) then some .sig else none
  | 0x10 => if clear w 34 0 then some .take else none
  | 0x11 => if clear w 52 0 then some .done else none
  | 0x12 => if clear w 0 0 then some .loop else none
  | 0x13 => if clear w 31 0 && bits w 52 50 ≠ 7 then some .br else none
  | 0x14 => if clear w 52 0 then some .halt else none
  | _ => none

/-- The unit an instruction occupies; none for the CTRL unit (R72). -/
def Kind.unit : Kind → Option UnitName
  | .ldrq | .ldw => some .load
  | .strm | .pred => some .array
  | .gathRow | .gathLane | .gathPack | .gathPacku | .fill | .copyLocal | .copyWindow | .send => some .move
  | .scatAdd32 | .scatAdd64 | .scatVadd | .scatLoad | .scatStore | .rqnt => some .result
  | .rowf | .cens => some .row
  | .delta | .deltaKey => some .swash
  | _ => none

/-- The instructions whose issue a withheld grant stops (R101). -/
def Kind.heavy : Kind → Bool
  | .ldw | .strm | .gathRow | .gathLane | .gathPack | .gathPacku | .scatAdd32 | .scatAdd64 | .scatVadd | .scatLoad | .scatStore
  | .rqnt | .rowf | .cens | .pred | .delta | .deltaKey => true
  | _ => false

/-! ### Registers of a slot (R86) -/

/-- Reads an index register; X0 reads zero. -/
def TaskSlot.getX (ts : TaskSlot) (n : Nat) : W32 := if n = 0 then 0 else Tab.get 0 ts.x n
/-- Writes an index register; X0 ignores writes. -/
def TaskSlot.setX (n : Nat) (v : W32) (ts : TaskSlot) : TaskSlot := if n = 0 then ts else { ts with x := Tab.set 0 ts.x n v }
/-- Reads a loop counter. -/
def TaskSlot.getL (ts : TaskSlot) (n : Nat) : BitVec 16 := Tab.get 0 ts.l n
/-- Writes a loop counter. -/
def TaskSlot.setL (n : Nat) (v : BitVec 16) (ts : TaskSlot) : TaskSlot := { ts with l := Tab.set 0 ts.l n v }
/-- ROWL in blocks, 0 meaning 64. -/
def TaskSlot.blocks (ts : TaskSlot) : Nat := if ts.rowl = 0 then 64 else ts.rowl
/-- Vectors of a field in which 0 means 64. -/
def nvecOf (n : Nat) : Nat := if n = 0 then 64 else n
/-- The vectors in bound of the held tile (R238); without a tile there is no bound. -/
def TaskSlot.vm (ts : TaskSlot) : Nat := match ts.held with | some h => h.vm | none => 64

/-! ### Operands (R87, R163) -/

/-- A scratchpad operand of `n` words at DBASE + X + IMM: its first word, or none where it breaks the data range. -/
def TaskSlot.spOperand (ts : TaskSlot) (xr imm n : Nat) : Option Nat :=
  let a := ts.dbase + (ts.getX xr).toNat + imm
  if a + n ≤ ts.dbound then some a else none
/-- Whether every word of a range lies in a valid partition (R163). -/
def Spad.mapped (m : Spad) (a n : Nat) : Bool := (List.range n).all fun i => (m.partOf (a + i)).isSome
/-- A scratchpad operand that lies in valid partitions. -/
def spRange (ts : TaskSlot) (m : Spad) (xr imm n : Nat) : Option Nat :=
  match ts.spOperand xr imm n with
  | some a => if m.mapped a n then some a else none
  | none => none
/-- A strided scratchpad operand: `nv` vectors of `n` words, `stride` words apart. -/
def spVectors (ts : TaskSlot) (m : Spad) (xr imm n nv stride : Nat) : Option Nat :=
  match ts.spOperand xr imm ((nv - 1) * stride + n) with
  | some a => if (List.range nv).all fun v => m.mapped (a + v * stride) n then some a else none
  | none => none
/-- A strided APB operand: it takes no base, lies below 2,048 and only in halves whose mask bit is set. -/
def apbVectors (ts : TaskSlot) (xr imm n nv stride : Nat) : Option Nat :=
  let a := (ts.getX xr).toNat + imm
  if (List.range nv).all fun v => decide (a + v * stride + n ≤ 2048) &&
      (List.range n).all fun i => bit ts.apbm ((a + v * stride + i) / 1024) then some a else none
/-- Whether accumulator blocks lie within ABASE to ABOUND and the file. -/
def TaskSlot.accOk (ts : TaskSlot) (blk n : Nat) : Bool := decide (ts.abase ≤ blk) && decide (blk + n ≤ ts.abound) && decide (blk + n ≤ 16)
/-- A branch target at a signed 12-bit offset, or none where it leaves the program range. -/
def TaskSlot.target (ts : TaskSlot) (off : Nat) : Option Nat :=
  let p := (ts.pc : Int) + sext off 12
  if (ts.pbase : Int) ≤ p ∧ p < (ts.pbound : Int) then some p.toNat else none

/-! ### Engine configuration slots (R70) -/

/-- An engine configuration slot, unpacked. -/
structure SlotCfg where
  num : Nat
  valid : Bool
  wfmt : Nat
  afmt : Nat
  bw : Nat
  ba : Nat
  cbsel : Nat
  cbsgn : Bool
  wscale : Bool
  ascale : Bool
  gsize : Nat
  cens : Bool
  ofmt : Nat
  bo : Nat
  symm : Bool
  ocbsel : Nat
  ocbsgn : Bool
  deriving DecidableEq, Repr

/-- The slot that two register words spell. -/
def slotCfg (n i o : Nat) : SlotCfg :=
  { num := n, valid := bit i 31, wfmt := bits i 3 0, afmt := bits i 7 4, bw := bits i 11 8, ba := bits i 15 12,
    cbsel := bits i 17 16, cbsgn := bit i 18, wscale := bits i 20 19 % 2 = 1 && bits i 22 21 ≠ 0,
    ascale := bits i 20 19 / 2 = 1 && bits i 22 21 ≠ 0, gsize := bits i 22 21, cens := bit i 23,
    ofmt := bits o 3 0, bo := bits o 8 4, symm := bit o 9, ocbsel := bits o 11 10, ocbsgn := bit o 12 }
/-- A core's slot. -/
def Core.cfg (k : Core) (n : Nat) : SlotCfg := slotCfg n (Tab.get 0 k.engIn n).toNat (Tab.get 0 k.engOut n).toNat
/-- The group size: 32, 64 or 128; 0 for none. -/
def SlotCfg.group (q : SlotCfg) : Nat := if q.gsize = 0 then 0 else 16 * 2 ^ q.gsize
/-- Whether a weight format is signed: INT, or a codebook with CBSGN. -/
def SlotCfg.wsigned (q : SlotCfg) : Bool := q.wfmt = 0 || (decide (3 ≤ q.wfmt) && q.cbsgn)
/-- Whether weights are BIN. -/
def SlotCfg.wbin (q : SlotCfg) : Bool := q.wfmt = 2
/-- Weight planes; BIN has one (R45). -/
def SlotCfg.planesW (q : SlotCfg) : Nat := if q.wfmt = 2 then 1 else q.bw
/-- Activation planes; BIN has one (R45). -/
def SlotCfg.planesA (q : SlotCfg) : Nat := if q.afmt = 2 then 1 else q.ba
/-- The words of one vector's 256-element output block (R49). -/
def SlotCfg.outWords (q : SlotCfg) : Nat :=
  match q.ofmt with | 2 => 1 | 3 => 4 | 4 => 8 | 5 => 32 | 6 => 32 | _ => q.bo
/-- The precision tag of a slot's passes (R65). -/
def SlotCfg.tag (q : SlotCfg) (exp : Nat) : W32 :=
  BitVec.ofNat 32 (q.num + 16 * q.wfmt + 256 * q.afmt + 4096 * q.bw + 65536 * q.ba + 1048576 * q.gsize + 4194304 * (if q.cens then exp else 0))

/-! ### Elements of words (R49) -/

/-- Field i of n bits of a word. -/
def fieldAt (w : W256) (n i : Nat) : Nat := (w.toNat >>> (n * i)) % 2 ^ n
/-- A word from fields of n bits, field 0 lowest. -/
def packFields (n : Nat) (fs : List Nat) : W256 := BitVec.ofNat 256 (fs.foldr (fun f a => f % 2 ^ n + 2 ^ n * a) 0)
/-- The value of position k of plane words, plane 0 first; a signed format weighs its last plane negatively (R41). -/
def planeVal (ps : List W256) (signed : Bool) (k : Nat) : Int :=
  let u := ps.foldr (fun p a => bitAt p k + 2 * a) 0
  if signed then sext u ps.length else (u : Int)
/-- The `b` plane words of a list of 256 values. -/
def toPlanes (b : Nat) (vs : List Int) : List W256 :=
  (List.range b).map fun p => packFields 1 (vs.map fun v => ((v / 2 ^ p) % 2).toNat)
/-- The 256 elements of `n` bits that element-major words hold. -/
def elements (n : Nat) (ws : List W256) : List Nat := ws.flatMap fun w => (List.range (256 / n)).map fun i => fieldAt w n i
/-- Element-major words of elements of `n` bits. -/
def toElements (n : Nat) : Nat → List Nat → List W256
  | 0, _ => []
  | k + 1, es => packFields n (es.take (256 / n)) :: toElements n k (es.drop (256 / n))

/-- Whether an instruction runs on the Reef engine: by its ENG field, or by the tile's descriptor for 2; BIN and codebook weights
always run on Flat (R48, R75, R113). -/
def onReef (q : SlotCfg) (eng : Nat) (held : Option Held) : Bool :=
  decide (q.wfmt < 2) && (decide (eng = 1) || (decide (eng = 2) && match held with | some h => h.reef | none => false))

end Sys2Proof.Machine
end

