-- ==== Sys2Proof/Machine/Seq.lean ====
section
/-! DEFINITION. The sequencer: faults (R106, R107), the issue of an instruction (R88, R89) and its occupation of a unit (R97). -/
-- Log entries (notes/assumptions): DESIGN CHOICE 140, 141; DEDUCED 10, 32, 41.

namespace Sys2Proof.Machine

/-! ### Faults -/

/-- The lowest fault of several that one instruction raises (R106). -/
def lowest (fs : List (Bool × Nat)) : Option Nat :=
  fs.foldl (fun b f => if f.1 then match b with | none => some f.2 | some c => some (min c f.2) else b) none

/-- Writes the fault record, or counts only when an older one is valid (R107). Where the slot holds no tile, the record's TILE and GEN are 0
(DESIGN CHOICE, notes/assumptions/141.md). -/
def Core.recordFault (t code op pc : Nat) (k : Core) : Core :=
  let ts := k.slot t
  let (tile, gen) := match ts.held with | some h => (h.tile, h.gen) | none => (0, 0)
  let n := satInc k.fault.count
  { k with fault := if k.fault.valid then { k.fault with count := n } else ⟨true, code, t, op, pc, tile, gen, n⟩ }

/-- A slot stops: it waits for its asynchronous instructions, and restarts then when `restart` (R107, R236). A commit that is on its
way stays on its way. -/
def TaskSlot.stop (restart : Bool) (ts : TaskSlot) : TaskSlot :=
  { ts with st := .stopped, blk := .drain restart, held := none }

/-- A fault stops the task's tile: the record, the stop and the revocation of the lease (R107, R236). -/
def State.faultAt (c t code op pc : Nat) (s : State) : State :=
  let ts := (s.core c).slot t
  let s := s.modCore c fun k => (k.recordFault t code op pc).modSlot t fun ts =>
    { ts.stop (!ts.stopOnFault) with faultStop := ts.stopOnFault }
  if ts.held.isSome then s.revoke (coreDie c) (leaseIx c t) (some code) else s

/-- The program word at a slot's program counter. -/
def Core.wordAt (k : Core) (t : Nat) : Nat := (Tab.get 0 k.prog ((k.slot t).pc % 4096)).toNat

/-- A fault that the instruction at the slot's program counter raises at its issue, which takes the core's issue cycle (R88, R89). -/
def State.fault (c t code : Nat) (s : State) : State :=
  (s.modCore c fun k => { k with lastIssue := t, cycle := k.cycle + 1 }).faultAt c t code (opOf ((s.core c).wordAt t)) ((s.core c).slot t).pc

/-! ### Units -/

/-- A unit's number. -/
def unitIx : UnitName → Nat
  | .load => 0 | .array => 1 | .result => 2 | .row => 3 | .swash => 4 | .move => 5
/-- The instruction in a unit. -/
def Core.inUnit (k : Core) (u : UnitName) : Option Busy := Tab.get none k.busy (unitIx u)
/-- Puts an instruction into a unit, or frees the unit. -/
def Core.setUnit (u : UnitName) (b : Option Busy) (k : Core) : Core := { k with busy := Tab.insert k.busy (unitIx u) b }

/-! ### Issue -/

/-- Whether a core's sequencer issues: not beached, gated, off, in reset or frozen, its die not about to be reset (R98, R246, R370, R373, R399,
R400). -/
def State.canIssue (s : State) (c : Nat) : Bool :=
  let k := s.core c
  !k.inReset && !k.logicOff && !k.gated && !k.frozen && !s.fenced c && !s.falling c

/-- Whether a core's slot `u` would issue at its turn: it is READY, and its next word faults, or has its energy and its unit, an LDW also
the engine (R75). A window access that may wait for a BIRsp (R350) or for an uncore unit's grant (R24) holds up no other slot. -/
def State.wantsIssue (s : State) (c u : Nat) : Bool :=
  let k := s.core c
  let ts := k.slot u
  let w := k.wordAt u
  decide (ts.st = .ready) && (decide (ts.pc < ts.pbase ∨ ts.pbound ≤ ts.pc) || match kindOf w with
    | none => true
    | some kd =>
      (!kd.heavy || (!k.gstall && decide (0 < k.account))) &&
        (match kd.unit with | some x => (k.inUnit x).isNone | none => true) &&
        !(kd = .ldw && match k.inUnit .array with | some b => b.reef == onReef (k.cfg (bits w 52 49)) (bits w 48 47) ts.held | none => false) &&
        !((kd = .copyWindow || kd = .gathRow || kd = .gathLane) && !s.cxl.snoops.isEmpty) &&
        !((kd = .copyWindow || kd = .gathRow || kd = .gathLane || kd = .send) && s.uncoreWaits))
/-- Whether it is slot `t`'s turn: no slot between the one that issued last and `t` would issue (R88). -/
def State.turn (s : State) (c t : Nat) : Bool :=
  let after := fun u : Nat => (u + 3 - (s.core c).lastIssue) % 4
  (List.range 4).all fun u => !(decide (after u < after t) && s.wantsIssue c u)

/-- The instruction that a slot issues next: READY, at its turn, in its program range, of kind `want`, its unit free and its energy granted.
A program counter out of range and a word that is no instruction fault in place of issuing (R87, R90); where the slot's next
instruction is another, or must wait, nothing happens (notes/assumptions/10.md). A word with an undefined field value or a reserved bit set is
ILLEGAL_OP before its slot is looked at, also where that slot is invalid (DESIGN CHOICE, notes/assumptions/140.md). -/
def State.issue (c t : Nat) (want : Kind) (go : Nat → State → State) (s : State) : State :=
  let k := s.core c
  let ts := k.slot t
  let w := k.wordAt t
  if !s.canIssue c || ts.st ≠ .ready || !s.turn c t then s
  else if ts.pc < ts.pbase ∨ ts.pbound ≤ ts.pc then s.fault c t 0x32
  else match kindOf w with
    | none => s.fault c t 0x31
    | some kd =>
      if kd ≠ want || (kd.heavy && (k.gstall || decide (k.account ≤ 0))) then s
      else match kd.unit with
        | some u => if (k.inUnit u).isSome then s else go w s
        | none => go w s

/-- After an instruction that the CTRL unit ends at once: `n` cycles pass and the slot goes on at `pc` (R97). -/
def Core.ctrlEnd (t n pc : Nat) (k : Core) : Core :=
  { k.modSlot t (fun ts => { ts with pc := pc }) with cycle := k.cycle + n, progress := true, lastIssue := t }

/-- A CTRL-unit instruction that changes its slot and goes on to the next word. -/
def State.ctrl (c t : Nat) (f : TaskSlot → TaskSlot) (s : State) : State :=
  s.modCore c fun k => (k.modSlot t f).ctrlEnd t 1 ((k.slot t).pc + 1)

/-- An instruction enters its unit for `dur` cycles; its issue takes the core's cycle, and a blocking one blocks its slot (R88). `f` gives what
the unit holds beside. -/
def State.occupy (c t : Nat) (u : UnitName) (w dur : Nat) (s : State) (f : Busy → Busy := id) : State :=
  s.modCore c fun k =>
    let ts := k.slot t
    let b : Busy := f { slot := t, async := asyncOf w, sb := sbOf w, start := k.cycle, due := k.cycle + dur, op := opOf w, pc := ts.pc,
                        num := k.moveSeq }
    let k := { k.setUnit u (some b) with progress := true, lastIssue := t, cycle := k.cycle + 1,
                                         moveSeq := if u = UnitName.move then k.moveSeq + 1 else k.moveSeq }
    if asyncOf w then k.setSlot t { ts with pc := ts.pc + 1, async := ts.async + 1 }
    else k.setSlot t { ts with pc := ts.pc + 1, st := .blocked, blk := .unit u }

/-- A MOVE instruction stops partway: the words that it has sent keep its number, and the next one has another (R167). -/
def State.partway (c : Nat) (s : State) : State := s.modCore c fun k => { k with moveSeq := k.moveSeq + 1 }

/-- Runs `go`, or the lowest of the faults that hold. -/
def State.checked (c t : Nat) (fs : List (Bool × Nat)) (go : State → State) (s : State) : State :=
  match lowest fs with
  | some code => s.fault c t code
  | none => go s

end Sys2Proof.Machine
end

