-- ==== Sys2Proof/Machine/Conflict.lean ====
section
/-! DEFINITION. The conflict queues of SCAT (R134) and what the array's adds do to them (R135). -/
-- Log entries (notes/assumptions): DEDUCED 47.

namespace Sys2Proof.Machine

/-- Sixteen bank queues after a cycle in which every bank that is not empty retires the update at its head, unless the array adds to that
entry in this cycle (R135); and the entries retired. -/
def retireOne (held : Nat → Bool) (qs : List (List Nat)) : List (List Nat) × List Nat :=
  let out := fun q : List Nat => match q with | e :: _ => !held e | [] => false
  (qs.map fun q => if out q then q.drop 1 else q, (qs.filter out).map fun q => q.headD 0)
/-- Takes up to `n` updates whose bank queues have room: the queues, what is left, and whether a full queue stopped the intake. -/
def intake : Nat → List (List Nat) → List Nat → List (List Nat) × List Nat × Bool
  | 0, qs, rest => (qs, rest, false)
  | _, qs, [] => (qs, [], false)
  | n + 1, qs, e :: rest =>
    if 16 ≤ (qs.getD (e % 16) []).length then (qs, e :: rest, true) else intake n (qs.modify (e % 16) (· ++ [e])) rest
/-- What the conflict queues did: the cycle of the last retirement, the cycles in which a full queue stopped the intake, and the cycle and
entry of every retirement, in order. -/
structure ScatRun where
  last : Nat
  stalls : Nat
  done : List (Nat × Nat)
  deriving DecidableEq, Repr
/-- The conflict queues of R134 run from a cycle until the list is taken and every queue is empty; `held cycle e` says that the array adds to
entry `e` in that cycle (R135). A list without an update is as one whose last retired in cycle 1. -/
def scatQueues (held : Nat → Nat → Bool) : Nat → Nat → ScatRun → List (List Nat) → List Nat → ScatRun
  | 0, _, x, _, _ => x
  | fuel + 1, cycle, x, qs, rest =>
    if rest = [] ∧ qs.all (· = []) then x
    else
      let (qs, out) := retireOne (held cycle) qs
      let (qs, rest, full) := intake 16 qs rest
      scatQueues held fuel (cycle + 1)
        ⟨if out = [] then x.last else cycle, if full then x.stalls + 1 else x.stalls, x.done ++ out.map fun e => (cycle, e)⟩ qs rest
/-- Whether the array adds to an entry in a cycle: a pass lands in its vector then. -/
def arrayAdds (lands : List (Nat × Nat)) (cycle e : Nat) : Bool := lands.any fun x => x.1 = cycle && x.2 = e / 256
/-- The queues run over a list of entries from the cycle `start` in which a SCAT issues, with the array's landings. -/
def scatRun (lands : List (Nat × Nat)) (start : Nat) (es : List Nat) : ScatRun :=
  scatQueues (fun cycle e => arrayAdds lands (start + cycle) e) (2 * es.length + lands.length + 40) 1 ⟨1, 0, []⟩ (List.replicate 16 []) es

/-- Pairs updates with the cycles at which the queues retired them: an entry's updates retire in list order. -/
def pairRetired : List (Nat × Nat) → List (Nat × Int) → List (Nat × Nat × Int)
  | _, [] => []
  | done, (e, v) :: us => match done.find? fun d => d.2 = e with
    | some d => (d.1, e, v) :: pairRetired (done.erase d) us
    | none => pairRetired done us

/-- The updates of a SCAT ADD that began in a cycle, each with the cycle in which it retires. -/
def ScatRun.adds (r : ScatRun) (start : Nat) (us : List (Nat × Int)) : List (Nat × Nat × W64) :=
  (pairRetired r.done us).map fun u => (start + u.1, u.2.1, BitVec.ofInt 64 u.2.2)

/-- What a SCAT in the RESULT unit still adds to an entry at or after a cycle: its update waits for the array's add (R135). -/
def Core.scatAfter (k : Core) (cycle i : Nat) : W64 :=
  match k.inUnit .result with
  | some b => (b.adds.filter fun x => decide (cycle ≤ x.1) && x.2.1 = i).foldl (fun a x => a + x.2.2) 0
  | none => 0

/-- A pass of the array lands in vector `v` of the accumulators in a cycle: a SCAT ADD in the RESULT unit runs its queues with it, so that its
updates wait, its list may stall and it may complete later (R134, R135). -/
def Core.arrayLands (cycle v : Nat) (k : Core) : Core :=
  match k.inUnit .result with
  | some b =>
    if b.ups.isEmpty then k
    else
      let lands := b.lands ++ [(cycle, v)]
      let run := scatRun lands b.start (b.ups.map (·.1))
      { k.setUnit .result (some { b with lands := lands, adds := run.adds b.start b.ups, due := b.start + run.last + 8, stalls := run.stalls }) with
        cnt := { k.cnt with scatStall := satAdd k.cnt.scatStall (run.stalls - b.stalls) } }
  | none => k

end Sys2Proof.Machine
end

