-- ==== Sys2Proof/Machine/Engine.lean ====
section
/-! DEFINITION. The LOAD and ARRAY units: LDW and STRM on the Flat and Reef engines (R39 to R56, R65 to R69, R75 to R77, R91,
R110 to R116, R238). -/
-- Log entries (notes/assumptions): DESIGN CHOICE 19, 132, 133, 134; DEDUCED 32, 34, 38, 163.

namespace Sys2Proof.Machine

/-- Group segments of a slice (R52, R112). -/
def segments (q : SlotCfg) (reef : Bool) : Nat := if q.group = 0 then 1 else (if reef then 512 else 256) / q.group

/-- The engine of a core. -/
def Core.engine (k : Core) (reef : Bool) : EngineSt := if reef then k.reef else k.flat
/-- The physical row that serves in-service row `r` of an engine: its repair group has 33 rows, of which one, by the row map, serves nothing
(R74). -/
def physRow (map : Nat → Nat) (r : Nat) : Nat :=
  let g := r / 32
  33 * g + (if r % 32 < map g then r % 32 else r % 32 + 1)
/-- The row map of an engine of a core: the row of each repair group that serves nothing; 32 is the group's last. -/
def Core.rows (k : Core) (reef : Bool) (g : Nat) : Nat := Tab.get 32 k.rowMap ((if reef then 8 else 0) + g)
/-- Writes the engine of a core. -/
def Core.setEngine (reef : Bool) (e : EngineSt) (k : Core) : Core := if reef then { k with reef := e } else { k with flat := e }

/-- Scale entry i of words of 16 entries: its mantissa and its BSEQ (R53). -/
def scaleEntry (ws : List W256) (i : Nat) : Nat × Nat :=
  let e := fieldAt (ws.getD (i / 16) 0) 16 (i % 16)
  (bits e 7 0, bits e 11 8)

/-! ### LDW -/

/-- Words of one row of a weight tile (R76, R114). -/
def rowWords (q : SlotCfg) (reef : Bool) : Nat :=
  if reef then q.bw + 2 else match q.wfmt with | 3 => 4 | 4 => 8 | _ => q.planesW
/-- The duration of an LDW (R76, R112). -/
def ldwCycles (q : SlotCfg) (reef : Bool) : Nat :=
  let w := if reef then q.bw + 2 else match q.wfmt with | 3 => max 4 q.bw | 4 => max 8 q.bw | _ => q.planesW
  256 * w + 12 + (if q.wscale then 256 * segments q reef / 16 else 0)

/-- The planes of a codebook row: each index decoded into its level, written in Bc bits (R51). -/
def codebookPlanes (cb : Tab Byte) (q : SlotCfg) (ws : List W256) : List W256 :=
  let idx := elements (if q.wfmt = 3 then 4 else 8) ws
  toPlanes q.bw (idx.map fun i => ((Tab.get 0 cb (256 * q.cbsel + i)).toNat : Int))

/-- A weight tile read into an engine whose rows are mapped by `map`: its planes, its indices on Reef, and its mantissas. -/
def loadEngine (cb : Tab Byte) (q : SlotCfg) (reef : Bool) (map : Nat → Nat) (ws sc : List W256) (e : EngineSt) : EngineSt :=
  let rw := rowWords q reef
  let row := fun r => (ws.drop (r * rw)).take rw
  let planes := fun r => if !reef && decide (3 ≤ q.wfmt) then codebookPlanes cb q (row r) else (row r).take (if reef then q.bw else rw)
  let n := segments q reef
  let rows := List.range 256
  { planes := Tab.setAll 0 e.planes (rows.flatMap fun r => (planes r).mapIdx fun p x => (8 * physRow map r + p, x)),
    idx := if reef then Tab.setAll 0 e.idx (rows.flatMap fun r => [(2 * physRow map r, (row r).getD q.bw 0), (2 * physRow map r + 1, (row r).getD (q.bw + 1) 0)]) else e.idx,
    mant := if q.wscale then Tab.setAll 0 e.mant (rows.flatMap fun r => (List.range n).map fun g => (16 * r + g, (scaleEntry sc (r * n + g)).1)) else e.mant }

/-- LDW: reads one weight tile and its scales, checks every scale's BSEQ against its group's tag, and writes the engine (R56, R76).
`slice` is the slice of the reduction that the tile covers: its base gives the tags (notes/assumptions/19.md). `late` gives the accesses that
came late, which only a narrower span than 16 banks allows (R157). -/
def execLdw (c : CoreId) (t : SlotId) (slice : Nat) (ups : List Upset) (ue : Bool) (late : List (Nat × Nat)) (s : State) : Res :=
  .next (s.issue c t .ldw fun w s =>
    let k := s.core c
    let ts := k.slot t
    let q := k.cfg (bits w 52 49)
    let reef := onReef q (bits w 48 47) ts.held
    let n := segments q reef
    let tile := spRange ts k.spd (bits w 46 44) (bits w 43 30) (256 * rowWords q reef)
    let scal := if q.wscale then spRange ts k.spd (bits w 18 16) (bits w 15 2) (16 * n) else some 0
    if (match k.inUnit .array with | some b => b.reef == reef | none => false) then s
    else match lowest [(!q.valid, 0x23), (tile.isNone || scal.isNone, 0x32)] with
    | some f => s.fault c t f
    | none =>
      let s := (s.upset c ups).sawUe c ue
      let (rs, s) := s.spdReads c (((List.range (256 * rowWords q reef)).map ((tile.getD 0) + ·)) ++
        (if q.wscale then (List.range (16 * n)).map ((scal.getD 0) + ·) else []))
      let s := s.modCore c (Core.freezeFor (ce2At rs) (k.lateOf .load late))
      let (tw, sw) := rs.splitAt (256 * rowWords q reef)
      let skew := q.wscale && (List.range 256).any fun r => (List.range n).any fun g =>
        let i := r * n + g
        !(match sw[i / 16]? with | some x => x.poison | none => true) &&
          (scaleEntry (datas sw) i).2 ≠ (slice * n + g) % 16
      s.checked c t [(skew, 0x21), (poisoned rs, 0x35)] fun s =>
        (s.modCore c fun k => k.setEngine reef (loadEngine k.cb q reef (k.rows reef) (datas tw) (datas sw) (k.engine reef))).occupy
          c t .load w (ldwCycles q reef) fun b => { b with reef := reef })

/-! ### STRM -/

/-- The stored weight of a lane of physical row `r`: ±1 for BIN, otherwise the value of its planes (R39, R46, R110). -/
def EngineSt.weight (e : EngineSt) (q : SlotCfg) (r lane : Nat) : Int :=
  let v := planeVal ((List.range q.planesW).map fun p => Tab.get 0 e.planes (8 * r + p)) q.wsigned lane
  if q.wbin then 2 * v - 1 else v
/-- IDX of a Reef lane (R114). -/
def EngineSt.index (e : EngineSt) (r lane : Nat) : Nat := fieldAt (Tab.get 0 e.idx (2 * r + lane / 128)) 2 (lane % 128)

/-- The activation at a position of a slice whose planes are given, block by block: ±1 for BIN against BIN weights (R46). -/
def activation (q : SlotCfg) (blocks : List (List W256)) (pos : Nat) : Int :=
  let v := planeVal (blocks.getD (pos / 256) []) (decide (q.afmt = 0)) (pos % 256)
  if q.afmt = 2 && q.wbin then 2 * v - 1 else v

/-- The partial of one row over segment g of n (R41, R47, R112, R116): `bound` positions of the slice lie below the reduction bound. -/
def partialSum (e : EngineSt) (q : SlotCfg) (reef : Bool) (blocks : List (List W256)) (bound n r g : Nat) : Int :=
  ((List.range (256 / n)).map fun i =>
    let lane := g * (256 / n) + i
    let pos := if reef then 4 * (lane / 2) + e.index r lane else lane
    if pos < bound then e.weight q r lane * activation q blocks pos else 0).sum

/-- What one pass adds to each of the 256 in-service rows: Σ over segments of mw × ma × partial (R54). -/
def passSums (e : EngineSt) (q : SlotCfg) (reef : Bool) (map : Nat → Nat) (blocks : List (List W256)) (bound : Nat) (ma : Nat → Nat) : List Int :=
  let n := segments q reef
  (List.range 256).map fun r => ((List.range n).map fun g =>
    ((if q.wscale then Tab.get 0 e.mant (16 * r + g) else 1 : Nat) : Int) * (ma g : Int) * partialSum e q reef blocks bound n (physRow map r) g).sum

/-- Entry number of channel n of vector v of a block (R132). -/
def accIx (block v n : Nat) : Nat := 2048 * block + 256 * v + n

/-- Adds, or writes when `first`, 256 sums into vector v of an accumulator tile at ABLK; `first` sets the block's tag (R77) and replaces what
was there, but for the updates of a SCAT that retire at or after `cycle`, in which the pass lands (R135). -/
def Core.accumulate (blk v : Nat) (first : Bool) (tag : W32) (cycle : Nat) (sums : List Int) (k : Core) : Core :=
  let b := blk + v / 8
  { k with acc := Tab.setAll 0 k.acc (sums.mapIdx fun n x =>
             let i := accIx b (v % 8) n
             (i, (if first then k.scatAfter cycle i else Tab.get 0 k.acc i) + BitVec.ofInt 64 x)),
           tags := if first then Tab.set 0 k.tags b tag else k.tags }

/-- A STRM in hand. -/
structure Strm where
  q : SlotCfg
  reef : Bool
  apb : Bool
  plane : Nat
  scale : Nat
  stride : Nat
  blk : Nat
  first : Bool
  tag : W32
  vm : Nat
  bound : Nat
  slice : Nat

/-- The words of one pass: its scale word, when the slot has activation scales, and its planes, block by block. Of the scale word the pass
takes the entries that CENS gives its groups: group g of the reduction at entry g mod 16 (R49, R53, R83). -/
def Strm.reads (m : Strm) (v : Nat) : List Nat :=
  (if m.q.ascale then [m.scale + v * m.stride] else []) ++
    (List.range ((if m.reef then 2 else 1) * m.q.planesA)).map (m.plane + v * m.stride + ·)
/-- Cycles of a pass (R42). -/
def Strm.passCycles (m : Strm) : Nat := m.q.planesA * m.q.planesW + 6
/-- The cycles at which the words of pass v fall due, in the order of `reads`. -/
def Strm.due (m : Strm) (v : Nat) : List Nat :=
  let b := v * m.passCycles
  (if m.q.ascale then [b + 1] else []) ++
    (List.range ((if m.reef then 2 else 1) * m.q.planesA)).map fun i => b + 4 + i % m.q.planesA

/-- The cycle, from the issue, in which the add of pass v lands: setup cycle 1 of the next pass (R42). -/
def Strm.landsAt (m : Strm) (v : Nat) : Nat := (v + 1) * m.passCycles + 1

/-- The scale entry of group `g` of the pass's slice. -/
def Strm.scaleOf (m : Strm) (sc : List W256) (g : Nat) : Nat × Nat := scaleEntry sc ((m.slice * segments m.q m.reef + g) % 16)

/-- One pass: the fault that cancels it, or the sums added; with the cycles of its double-bit corrections. -/
def Strm.pass (m : Strm) (c v : Nat) (s : State) : Option Nat × List Nat × State :=
  let n := segments m.q m.reef
  let nb := if m.reef then 2 else 1
  if m.vm ≤ v then
    let zero := List.replicate nb (List.replicate m.q.planesA (0 : W256))
    if !m.first && Tab.get 0 (s.core c).tags (m.blk + v / 8) ≠ m.tag then (some 0x22, [], s)
    else (none, [], s.modCore c fun k =>
      (k.arrayLands (k.cycle + m.landsAt v) (8 * m.blk + v)).accumulate m.blk v m.first m.tag (k.cycle + m.landsAt v)
        (passSums (k.engine m.reef) m.q m.reef (k.rows m.reef) zero m.bound fun _ => 1))
  else
    let ws := m.reads v
    let (rs, s) := if m.apb then (ws.map fun a => (⟨Tab.get 0 (s.core c).apb a, false, false⟩ : SpdRead), s) else s.spdReads c ws
    let due := (ce2At rs).map fun i => (m.due v).getD i 0
    let sc := if m.q.ascale then datas (rs.take 1) else []
    let pl := if m.q.ascale then rs.drop 1 else rs
    let tagBad := !m.first && Tab.get 0 (s.core c).tags (m.blk + v / 8) ≠ m.tag
    let skew := m.q.ascale && !(poisoned (rs.take 1)) && (List.range n).any fun g => (m.scaleOf sc g).2 ≠ (m.slice * n + g) % 16
    match lowest [(skew, 0x21), (tagBad, 0x22), (poisoned rs, 0x35)] with
    | some f => (some f, due, s)
    | none =>
      let blocks := (List.range nb).map fun b => datas ((pl.drop (b * m.q.planesA)).take m.q.planesA)
      (none, due, s.modCore c fun k => (k.arrayLands (k.cycle + m.landsAt v) (8 * m.blk + v)).accumulate m.blk v m.first m.tag (k.cycle + m.landsAt v)
        (passSums (k.engine m.reef) m.q m.reef (k.rows m.reef) blocks m.bound fun g => if m.q.ascale then (m.scaleOf sc g).1 else 1))

/-- Passes back to back, up to the first that a fault cancels. -/
def Strm.run (m : Strm) (c : Nat) : List Nat → List Nat → State → Option Nat × List Nat × State
  | [], due, s => (none, due, s)
  | v :: vs, due, s => match m.pass c v s with
    | (some f, d, s) => (some f, due ++ d, s)
    | (none, d, s) => m.run c vs (due ++ d) s

/-- STRM: NVEC passes, one per vector, into accumulator blocks (R77, R91). `late` gives the accesses that came late, which only a narrower
span than 16 banks and a scratchpad source allow (R157), `slice` the slice of the reduction, `ue` an uncorrectable error in the core's logic
(R407). DESIGN CHOICES: a slot that holds no tile enables every position (notes/assumptions/133.md); the E of the tag is that of the CENS tile
that the core made last, for its four slots together (132.md); an invalid slot is recorded at issue, before any tag is compared (134.md). -/
def execStrm (c : CoreId) (t : SlotId) (slice : Nat) (ups : List Upset) (ue : Bool) (late : List (Nat × Nat)) (s : State) : Res :=
  .next (s.issue c t .strm fun w s =>
    let k := s.core c
    let ts := k.slot t
    let q := k.cfg (bits w 52 49)
    let reef := onReef q (bits w 48 47) ts.held
    let nv := nvecOf (bits w 24 19)
    let apb := bit w 25
    let words := (if reef then 2 else 1) * q.planesA
    let rng := fun xr imm n => if apb then apbVectors ts xr imm n nv ts.vstr else spVectors ts k.spd xr imm n nv ts.vstr
    let pl := rng (bits w 46 44) (bits w 43 30) words
    let sc := if q.ascale then rng (bits w 18 16) (bits w 15 2) 1 else some 0
    let blk := bits w 29 26
    s.checked c t [(!q.valid, 0x23), (pl.isNone || sc.isNone || !ts.accOk blk (ceilDiv nv 8), 0x32)] fun s =>
      let depth := match ts.held with | some h => h.depth - slice * (if reef then 512 else 256) | none => 512
      let m : Strm := ⟨q, reef, apb, pl.getD 0, sc.getD 0, ts.vstr, blk, bit w 1, q.tag k.censExp, ts.vm, depth, slice⟩
      let s := (s.upset c ups).sawUe c ue
      let (f, due, s) := m.run c (List.range nv) [] s
      let s := s.modCore c (Core.freezeFor due (if apb then [] else k.lateOf .array late))
      match f with
      | some code => s.fault c t code
      | none => s.occupy c t .array w (nv * m.passCycles) fun b =>
          { b with reef := reef, first := bit w 1, lands := (List.range nv).map fun v => (k.cycle + m.landsAt v, 8 * blk + v) })

end Sys2Proof.Machine
end

