-- ==== Sys2Proof/Machine/F32.lean ====
section
/-! DEFINITION. IEEE 754 binary32 as R81 uses it: every operation exact and then rounded to nearest with ties to even. -/
-- Log entries (notes/assumptions): DESIGN CHOICE 18.

namespace Sys2Proof.Machine.F32

/-- +0. -/
def zero : W32 := 0
/-- +∞. -/
def inf : W32 := 0x7F800000
/-- The sign bit. -/
def neg (x : W32) : Bool := x.getLsbD 31
/-- The magnitude bits. -/
def mag (x : W32) : Nat := x.toNat % 2 ^ 31
/-- Whether a value is a NaN. -/
def isNan (x : W32) : Bool := decide (0x7F800000 < mag x)
/-- Whether a value is infinite. -/
def isInf (x : W32) : Bool := decide (mag x = 0x7F800000)
/-- Whether a value is a zero of either sign. -/
def isZero (x : W32) : Bool := decide (mag x = 0)
/-- The opposite value. -/
def negate (x : W32) : W32 := x ^^^ 0x80000000
/-- A NaN made from two operands (log entry 18). -/
def nan (a b : W32) : W32 := Config.nanBits a b ||| 0x7FC00000
/-- The value of a sign. -/
def withSign (n : Bool) (m : Nat) : W32 := BitVec.ofNat 32 (m + if n then 2 ^ 31 else 0)

/-- The integer m and exponent e of a finite magnitude m × 2^e. -/
def parts (x : W32) : Nat × Int :=
  let e : Nat := mag x / 2 ^ 23
  if e = 0 then (mag x, -149) else (mag x % 2 ^ 23 + 2 ^ 23, (e : Int) - 150)

/-- The number of bits of a number. -/
def bitlen (n : Nat) : Nat := if n = 0 then 0 else Nat.log2 n + 1

/-- The binary32 value nearest ± (m × 2^e plus a part below its last bit when `sticky`), ties to even. -/
def round (n : Bool) (m : Nat) (e : Int) (sticky : Bool) : W32 :=
  if m = 0 then withSign n 0
  else
    let q := max (e + (bitlen m : Int) - 24) (-149)
    let keep :=
      if q ≤ e then m * 2 ^ (e - q).toNat
      else
        let k := (q - e).toNat
        let r := m % 2 ^ k
        let half := 2 ^ (k - 1)
        if r > half || (r = half && (sticky || (m / 2 ^ k) % 2 = 1)) then m / 2 ^ k + 1 else m / 2 ^ k
    withSign n (min ((q + 149).toNat * 2 ^ 23 + keep) 0x7F800000)

/-- A signed integer times a power of two, rounded once; an exact zero is +0 (R64). -/
def ofInt (v : Int) (e : Int) : W32 := round (decide (v < 0)) v.natAbs e false

/-- The signed integer and exponent of a finite value. -/
def signed (x : W32) : Int × Int := let (m, e) := parts x; (if neg x then -(m : Int) else (m : Int), e)

/-- Addition. -/
def add (a b : W32) : W32 :=
  if isNan a || isNan b then nan a b
  else if isInf a then (if isInf b && neg a != neg b then nan a b else a)
  else if isInf b then b
  else
    let (x, i) := signed a
    let (y, j) := signed b
    let e := min i j
    let v := x * 2 ^ (i - e).toNat + y * 2 ^ (j - e).toNat
    if v = 0 then (if neg a && neg b then 0x80000000 else 0) else ofInt v e
/-- Subtraction. -/
def sub (a b : W32) : W32 := if isNan a || isNan b then nan a b else add a (negate b)
/-- Multiplication. -/
def mul (a b : W32) : W32 :=
  if isNan a || isNan b then nan a b
  else if isInf a || isInf b then (if isZero a || isZero b then nan a b else withSign (neg a != neg b) 0x7F800000)
  else
    let (x, i) := parts a
    let (y, j) := parts b
    round (neg a != neg b) (x * y) (i + j) false
/-- Division. -/
def div (a b : W32) : W32 :=
  if isNan a || isNan b then nan a b
  else if isInf a then (if isInf b then nan a b else withSign (neg a != neg b) 0x7F800000)
  else if isInf b then withSign (neg a != neg b) 0
  else if isZero b then (if isZero a then nan a b else withSign (neg a != neg b) 0x7F800000)
  else
    let (x, i) := parts a
    let (y, j) := parts b
    round (neg a != neg b) (x * 2 ^ 64 / y) (i - j - 64) (decide (x * 2 ^ 64 % y ≠ 0))
/-- 1 / x. -/
def recip (x : W32) : W32 := div 0x3F800000 x

/-- The integer square root, by bits from 2^(k-1) down. -/
def isqrt (n : Nat) : Nat → Nat → Nat
  | 0, r => r
  | k + 1, r => if (r + 2 ^ k) * (r + 2 ^ k) ≤ n then isqrt n k (r + 2 ^ k) else isqrt n k r

/-- Square root, correctly rounded (R334). -/
def sqrt (x : W32) : W32 :=
  if isNan x then nan x x
  else if isZero x then x
  else if neg x then nan x x
  else if isInf x then x
  else
    let (m, e) := parts x
    let (m, e) := if e % 2 = 0 then (m, e) else (2 * m, e - 1)
    let r := isqrt (m * 2 ^ 64) 50 0
    round false r (e / 2 - 32) (decide (r * r ≠ m * 2 ^ 64))
/-- The reciprocal of the square root, correctly rounded (R81). -/
def rsqrt (x : W32) : W32 :=
  if isNan x then nan x x
  else if isZero x then withSign (neg x) 0x7F800000
  else if neg x then nan x x
  else if isInf x then 0
  else
    let (m, e) := parts x
    let (m, e) := if e % 2 = 0 then (m, e) else (2 * m, e - 1)
    let r := isqrt (2 ^ 120 / m) 62 0
    round false r (-(e / 2) - 60) (decide (r * r * m ≠ 2 ^ 120))

/-- A key whose order is the order of values that are no NaN; the two zeros share a key. -/
def key (x : W32) : Int := if neg x then -(mag x : Int) else (mag x : Int)
/-- a < b, ordered. -/
def lt (a b : W32) : Bool := !(isNan a) && !(isNan b) && decide (key a < key b)
/-- a ≥ b, ordered. -/
def ge (a b : W32) : Bool := !(isNan a) && !(isNan b) && decide (key b ≤ key a)

/-- The integer nearest v × 2^e, ties to even. -/
def rneShift (v e : Int) : Int :=
  if 0 ≤ e then v * 2 ^ e.toNat
  else
    let k := (-e).toNat
    let q := v / 2 ^ k
    let r := v % 2 ^ k
    if 2 * r > 2 ^ k || (2 * r = 2 ^ k && q % 2 = 1) then q + 1 else q

/-- The floor of a finite value. -/
def floor (x : W32) : Int := let (v, e) := signed x; if 0 ≤ e then v * 2 ^ e.toNat else v / 2 ^ (-e).toNat

/-- The integer nearest n / d, ties to even; d is positive. -/
def rneDiv (n : Int) (d : Nat) : Int :=
  let q := n / (d : Int)
  let r := n % (d : Int)
  if 2 * r > d || (2 * r = d && q % 2 = 1) then q + 1 else q

end Sys2Proof.Machine.F32
end

