-- ==== Sys2Proof/Machine/Result.lean ====
section
/-! DEFINITION. The RESULT unit: RQNT (R59 to R64, R77 to R79, R92) and SCAT (R132 to R135). -/
-- Log entries (notes/assumptions): DESIGN CHOICE 136; DEDUCED 32, 38, 47, 168.

namespace Sys2Proof.Machine

/-! ### Narrowing -/

/-- A signed or unsigned codebook level (R50). -/
def levelOf (b : Byte) (signed : Bool) : Int := if signed then sext b.toNat 8 else (b.toNat : Int)
/-- The used levels of a codebook: 16 for CB16, 256 for CB256. -/
def levelsOf (cb : Tab Byte) (sel fmt : Nat) (signed : Bool) : List Int :=
  (List.range (if fmt = 3 then 16 else 256)).map fun i => levelOf (Tab.get 0 cb (256 * sel + i)) signed

/-- Narrowing num / 2^k to a codebook grid: the index and whether it saturates (R62). -/
def narrowGrid (levels : List Int) (num : Int) (k : Nat) : Nat × Bool :=
  let last := levels.length - 1
  if num > levels.getD last 0 * 2 ^ k then (last, true)
  else if num < levels.getD 0 0 * 2 ^ k then (0, true)
  else
    let dist := fun i => (num - levels.getD i 0 * 2 ^ k).natAbs
    ((List.range levels.length).foldl (fun b i => if dist i < dist b || (dist i = dist b && i % 2 = 0) then i else b) 0, false)

/-- Clamps a value and says whether it lay outside. -/
def clampTo (lo hi v : Int) : Int × Bool := if v < lo then (lo, true) else if v > hi then (hi, true) else (v, false)

/-- The exact value t × 2^(−s) + B as a numerator over 2^k (R62, R64). -/
def exactNum (t : Int) (sh : Int) (b : Int) : Int × Nat := let k := sh.toNat; (t * 2 ^ (-sh).toNat + b * 2 ^ k, k)

/-- One output of the requantiser: the bits written and whether it counts as a saturation (R59 to R64). -/
def requant (q : SlotCfg) (levels : List Int) (e : RqEntry) (exp : Nat) (acc : W64) : Nat × Bool :=
  let t := acc.toInt * e.mult.toInt
  let sh : Int := (e.shift : Int) - (exp : Int)
  let v := F32.rneShift t (-sh) + e.bias.toInt
  let put := fun (x : Int × Bool) => ((x.1 % 2 ^ 32).toNat, x.2)
  match q.ofmt with
  | 0 => put (clampTo (if q.symm then -(2 ^ (q.bo - 1) - 1) else -2 ^ (q.bo - 1)) (2 ^ (q.bo - 1) - 1) v)
  | 1 => put (clampTo 0 (2 ^ q.bo - 1) v)
  | 2 => (if 0 ≤ v then 1 else 0, false)
  | 5 => put (clampTo (-2 ^ 31) (2 ^ 31 - 1) v)
  | 6 => let (n, k) := exactNum t sh e.bias.toInt; ((F32.ofInt n (-(k : Int))).toNat, false)
  | _ => let (n, k) := exactNum t sh e.bias.toInt; narrowGrid levels n k

/-- The words of one output block (R49). -/
def outBlock (q : SlotCfg) (vs : List Nat) : List W256 :=
  match q.ofmt with
  | 3 => toElements 4 4 vs
  | 4 => toElements 8 8 vs
  | 5 => toElements 32 32 vs
  | 6 => toElements 32 32 vs
  | _ => toPlanes q.outWords (vs.map fun v => (v : Int))

/-- Counts saturations (R63). -/
def Core.saturate (n : Nat) (k : Core) : Core := { k with satTile := satAdd k.satTile n, satTotal := satAdd k.satTotal n }

/-- Writes to the APB. -/
def Core.apbWrites (ws : List (Nat × W256)) (k : Core) : Core := { k with apb := Tab.setAll 0 k.apb ws }

/-- The service class Train (R85). -/
def classTrain : Nat := 2
/-- Whether an APB destination raises CLASS_FUSED: the held tile is a Train-class one (R85). -/
def TaskSlot.fusedBarred (ts : TaskSlot) : Bool := match ts.held with | some h => h.cls = classTrain | none => false

/-- RQNT: requantises an accumulator tile under its blocks' tag and writes it to the scratchpad, the APB or the ROW buffer. The block number
X[XA] + ADDR of R79 is formed without wrapping, so that one past 32 bits raises ILLEGAL_OP (DESIGN CHOICE, notes/assumptions/136.md). -/
def execRqnt (c : CoreId) (t : SlotId) (ev : UnitEvents) (s : State) : Res :=
  .next (s.issue c t .rqnt fun w s =>
    let k := s.core c
    let ts := k.slot t
    let nv := nvecOf (bits w 29 24)
    let blk := bits w 33 30
    let nb := ceilDiv nv 8
    let tag := Tab.get 0 k.tags blk
    let q := k.cfg (bits tag.toNat 3 0)
    let exp := bits tag.toNat 26 22
    let dst := bits w 52 51
    let b := (ts.getX (bits w 50 48)).toNat + bits w 47 34
    let rowBad := dst = 2 && (q.ofmt ≠ 6 || decide (ts.blocks ≤ b) || decide (16384 < ts.blocks * 256 * nv))
    let where_ := match dst with
      | 0 => spVectors ts k.spd (bits w 50 48) (bits w 47 34) q.outWords nv ts.ostr
      | 1 => apbVectors ts (bits w 50 48) (bits w 47 34) q.outWords nv ts.ostr
      | _ => some 0
    s.checked c t [(!ts.accOk blk nb || where_.isNone, 0x32), ((List.range nb).any fun i => Tab.get 0 k.tags (blk + i) ≠ tag, 0x22),
        (!q.valid || bits tag.toNat 15 12 = 0, 0x23), (rowBad, 0x31), (dst = 1 && ts.fusedBarred, 0x34)] fun s =>
      let levels := levelsOf k.cb q.ocbsel q.ofmt q.ocbsgn
      let outs : List (Nat × List (Nat × Bool)) := (List.range (min nv ts.vm)).map fun v =>
        (v, (List.range 256).map fun n => requant q levels (Tab.get {} k.rq n) exp (Tab.get 0 k.acc (accIx (blk + v / 8) (v % 8) n)))
      let words := outs.flatMap fun (o : Nat × List (Nat × Bool)) => (outBlock q (o.2.map (·.1))).mapIdx fun i x => (where_.getD 0 + o.1 * ts.ostr + i, x)
      let s := s.modCore c fun k => { (k.saturate ((outs.map fun o => (o.2.filter (·.2)).length).sum)) with rqTag := tag, ue := k.ue || ev.ue }
      let s := match dst with
        | 0 => (s.starve c .result ev.late).spdWrites c words
        | 1 => s.modCore c (Core.apbWrites words)
        | _ => s.modCore c fun k => { k with row := Tab.setAll 0 k.row (outs.flatMap fun (o : Nat × List (Nat × Bool)) =>
            o.2.mapIdx fun n (y : Nat × Bool) => (o.1 * (ts.blocks * 256) + b * 256 + n, BitVec.ofNat 32 y.1)) }
      s.occupy c t .result w ((if (q.ofmt = 5 || q.ofmt = 6) && dst ≠ 2 then 32 else 16) * nv + 10))

/-! ### SCAT -/

/-- Entry i of an index list or a list of 32-bit values held in words, eight a word (R125). -/
def listEntry (ws : List W256) (i : Nat) : Nat := fieldAt (ws.getD (i / 8) 0) 32 (i % 8)
/-- Words of a list of `n` items and its count. -/
def listWords (n : Nat) : Nat := ceilDiv (n + 1) 8

/-- The updates of a list up to the first whose entry lies outside the slot's blocks (R133), and whether there is one. -/
def TaskSlot.scatGood (ts : TaskSlot) (us : List (Nat × Int)) : List (Nat × Int) × Bool :=
  let good := us.takeWhile fun u => decide (u.1 < 32768) && ts.accOk (u.1 / 2048) 1
  (good, good.length < us.length)

/-- Whether a STRM with FIRST that is in the array still replaces an entry after a cycle: an update that retires before is lost (R135). -/
def Core.replacedAfter (k : Core) (cycle e : Nat) : Bool :=
  match k.inUnit .array with
  | some b => b.first && b.lands.any fun x => decide (cycle < x.1) && x.2 = e / 256
  | none => false

/-- The passes of the array that land while a STRM is in it. -/
def Core.arrayPasses (k : Core) : List (Nat × Nat) := match k.inUnit .array with | some b => b.lands | none => []
/-- An entry takes what is added to it in a cycle, unless the array replaces it later. -/
def Core.addAt (cycle i : Nat) (v : W64) (k : Core) : Core :=
  { k with acc := if k.replacedAfter cycle i then k.acc else Tab.set 0 k.acc i (Tab.get 0 k.acc i + v) }
/-- Adds updates into accumulator entries, each in the cycle in which it retires. -/
def scatAdds (us : List (Nat × Nat × W64)) (k : Core) : Core :=
  us.foldl (fun k u => let k := k.addAt u.1 u.2.1 u.2.2; { k with cnt := { k.cnt with scatUpd := satInc k.cnt.scatUpd } }) k

/-- The items of the index list at `a`, or the fault that it raises: a poisoned list word is no value (R108), and a count above the
capacity is out of bounds (R131, R133). Each list word is read once, and its double-bit corrections freeze the core, whatever comes of
the list (R98, R155). -/
def State.indexList (c a cap : Nat) (s : State) : Except Nat (List Nat) × State :=
  let (h, s) := s.spdReads c [a]
  let s := s.modCore c (Core.freezeFor (ce2At h) [])
  let n := listEntry (datas h) 0
  if poisoned h then (.error 0x35, s)
  else if cap < n then (.error 0x32, s)
  else
    let (rs, s) := s.spdReads c ((List.range (listWords n - 1)).map (a + 1 + ·))
    let s := s.modCore c (Core.freezeFor ((ce2At rs).map (1 + ·)) [])
    if poisoned rs then (.error 0x35, s)
    else (.ok ((List.range n).map fun i => listEntry (datas (h ++ rs)) (i + 1)), s)

/-- The values of a SCAT list, of `n` bits each. -/
def scatValues (n cnt : Nat) (ws : List W256) : List Int :=
  (List.range cnt).map fun i => sext (fieldAt (ws.getD (i * n / 256) 0) n (i % (256 / n))) n

/-- SCAT ADD32 and ADD64 over values of `n` bits. -/
def State.scatAdd (c t n : Nat) (ev : UnitEvents) (w : Nat) (s : State) : State :=
  let k := s.core c
  let ts := k.slot t
  let cap := bits w 14 3
  let vals := spRange ts k.spd (bits w 48 46) (bits w 45 32) (ceilDiv (cap * n) 256)
  let list := spRange ts k.spd (bits w 31 29) (bits w 28 15) (listWords cap)
  s.checked c t [(vals.isNone || list.isNone, 0x32)] fun s =>
    match s.indexList c (list.getD 0) cap with
    | (.error f, s) => s.fault c t f
    | (.ok es, s) =>
      let (rs, s) := s.spdReads c ((List.range (ceilDiv (es.length * n) 256)).map ((vals.getD 0) + ·))
      let s := s.modCore c (Core.freezeFor ((ce2At rs).map (listWords es.length + ·)) (k.lateOf .result ev.late))
      s.checked c t [(poisoned rs, 0x35)] fun s =>
        let (us, out) := ts.scatGood (es.zip (scatValues n es.length (datas rs)))
        let s := s.sawUe c ev.ue
        let k := s.core c
        let lands := k.arrayPasses
        let run := scatRun lands k.cycle (us.map (·.1))
        let adds := run.adds k.cycle us
        let s := s.setCore c (let k := scatAdds adds k; { k with cnt := { k.cnt with scatStall := satAdd k.cnt.scatStall run.stalls } })
        if out then s.fault c t 0x32
        else s.occupy c t .result w (run.last + 8) fun b => { b with lands := lands, adds := adds, ups := us, stalls := run.stalls }

/-- SCAT ADD32. -/
def execScatAdd32 (c : CoreId) (t : SlotId) (ev : UnitEvents) (s : State) : Res := .next (s.issue c t .scatAdd32 (State.scatAdd c t 32 ev))
/-- SCAT ADD64. -/
def execScatAdd64 (c : CoreId) (t : SlotId) (ev : UnitEvents) (s : State) : Res := .next (s.issue c t .scatAdd64 (State.scatAdd c t 64 ev))

/-- What item `i` of a VADD adds to vector `u` from vector `i` of the source tile, 16 channels a cycle (R134): it has no queue in which an add
would wait for the array's (notes/assumptions/168.md). -/
def Core.vaddItem (src i u : Nat) (k : Core) : List (Nat × Nat × W64) :=
  (List.range 256).map fun n => (k.cycle + 16 * i + n / 16 + 2, 256 * u + n, Tab.get 0 k.acc (256 * (8 * src + i) + n))

/-- Adds source vectors into the vectors of a list, up to the first that is out of bounds or whose tags differ: the fault, what was added, and the
core. -/
def scatVadds (ts : TaskSlot) (src : Nat) : List (Nat × Nat) → List (Nat × Nat × W64) → Core → Option Nat × List (Nat × Nat × W64) × Core
  | [], adds, k => (none, adds, k)
  | (i, u) :: us, adds, k =>
    if 128 ≤ u || !ts.accOk (u / 8) 1 || !ts.accOk (src + i / 8) 1 then (some 0x32, adds, k)
    else if Tab.get 0 k.tags (src + i / 8) ≠ Tab.get 0 k.tags (u / 8) then (some 0x22, adds, k)
    else
      let add := k.vaddItem src i u
      scatVadds ts src us (adds ++ add) (add.foldl (fun k x => k.addAt x.1 x.2.1 x.2.2) k)

/-- SCAT VADD. -/
def execScatVadd (c : CoreId) (t : SlotId) (ev : UnitEvents) (s : State) : Res :=
  .next (s.issue c t .scatVadd fun w s =>
    let k := s.core c
    let ts := k.slot t
    let cap := bits w 14 3
    let list := spRange ts k.spd (bits w 31 29) (bits w 28 15) (listWords cap)
    s.checked c t [(list.isNone, 0x32)] fun s =>
      match s.indexList c (list.getD 0) cap with
      | (.error f, s) => s.fault c t f
      | (.ok us, s) =>
        let s := (s.starve c .result ev.late).sawUe c ev.ue
        let (out, adds, k) := scatVadds ts (bits w 35 32) (us.mapIdx fun i u => (i, u)) [] (s.core c)
        let s := s.setCore c k
        match out with
        | some f => s.fault c t f
        | none => s.occupy c t .result w (16 * us.length + 9) fun b => { b with adds := adds })

/-- Words of a block image (R133). -/
def imageWords : Nat := 513

/-- The blocks of a SCAT LOAD or STORE up to the first that lies outside the slot's blocks (R133). -/
def TaskSlot.goodBlocks (ts : TaskSlot) (blk n : Nat) : Nat := ((List.range n).takeWhile fun i => ts.accOk (blk + i) 1).length

/-- Restores `n` accumulator blocks and their tags from block images. -/
def Core.loadBlocks (blk n : Nat) (ws : List W256) (k : Core) : Core :=
  { k with tags := Tab.setAll 0 k.tags ((List.range n).map fun i => (blk + i, BitVec.ofNat 32 (fieldAt (ws.getD (imageWords * i) 0) 32 0))),
           acc := Tab.setAll 0 k.acc ((List.range n).flatMap fun i => (List.range 2048).map fun e =>
             (2048 * (blk + i) + e, BitVec.ofNat 64 (fieldAt (ws.getD (imageWords * i + 1 + e / 4) 0) 64 (e % 4)))) }

/-- SCAT LOAD: restores accumulator blocks and their tags from block images, in order, up to a block out of bounds. -/
def execScatLoad (c : CoreId) (t : SlotId) (ev : UnitEvents) (s : State) : Res :=
  .next (s.issue c t .scatLoad fun w s =>
    let k := s.core c
    let ts := k.slot t
    let n := bits w 14 3
    let blk := bits w 18 15
    let good := ts.goodBlocks blk n
    let a := spRange ts k.spd (bits w 48 46) (bits w 45 32) (imageWords * n)
    s.checked c t [(a.isNone, 0x32)] fun s =>
      let (rs, s) := s.spdReads c ((List.range (imageWords * good)).map ((a.getD 0) + ·))
      let s := (s.modCore c (Core.freezeFor (ce2At rs) (k.lateOf .result ev.late))).sawUe c ev.ue
      s.checked c t [(poisoned rs, 0x35)] fun s =>
        let s := s.modCore c (Core.loadBlocks blk good (datas rs))
        if good < n then s.fault c t 0x32 else s.occupy c t .result w (64 * n + 9))

/-- The image of an accumulator block. -/
def Core.blockImage (k : Core) (b : Nat) : List W256 :=
  BitVec.ofNat 256 (Tab.get 0 k.tags b).toNat ::
    (List.range 512).map fun i => packFields 64 ((List.range 4).map fun j => (Tab.get 0 k.acc (2048 * b + 4 * i + j)).toNat)

/-- SCAT STORE: writes accumulator blocks and their tags as block images, in order, up to a block out of bounds. -/
def execScatStore (c : CoreId) (t : SlotId) (ev : UnitEvents) (s : State) : Res :=
  .next (s.issue c t .scatStore fun w s =>
    let k := s.core c
    let ts := k.slot t
    let n := bits w 14 3
    let blk := bits w 18 15
    let good := ts.goodBlocks blk n
    let a := spRange ts k.spd (bits w 48 46) (bits w 45 32) (imageWords * n)
    s.checked c t [(a.isNone, 0x32)] fun s =>
      let ws := (List.range good).flatMap fun i => k.blockImage (blk + i)
      let s := ((s.starve c .result ev.late).sawUe c ev.ue).spdWrites c (ws.mapIdx fun i x => (a.getD 0 + i, x))
      if good < n then s.fault c t 0x32 else s.occupy c t .result w (64 * n + 9))

end Sys2Proof.Machine
end

