-- ==== Sys2Proof/Machine/Ddr.lean ====
section
/-! DEFINITION. The DDR4 channels: the modules that R301 supports, where a line lies in the devices (R304), symbol ECC (R306), the counts and
records of reads and writes (R307, R310) and the start of training (R302, R303). -/
-- Log entries (notes/assumptions): DESIGN CHOICE 152; DEDUCED 72, 151.

namespace Sys2Proof.Machine

/-- Channel `i` = 4 × die + channel. -/
def State.chanAt (s : State) (i : Nat) : Chan := Tab.get {} s.plm.chans i
/-- Writes channel `i`. -/
def State.setChan (i : Nat) (x : Chan) (s : State) : State := { s with plm := { s.plm with chans := Tab.insert s.plm.chans i x } }

/-! ### Where a line lies (R304) -/

/-- The row bits of a channel's devices: R of R304, by density code (0 8 Gb, 1 16 Gb) and width code (0 x4, 1 x8). -/
def Chan.rowBits (x : Chan) : Nat := 17 + x.density - x.width
/-- A DRAM address: its bank group, bank, column and row, and the logical rank as package rank and 3DS chip. -/
structure DramAddr where
  group : Nat
  bank : Nat
  column : Nat
  row : Nat
  rank : Nat
  chip : Nat
  deriving DecidableEq, Repr
/-- The DRAM address of line `line` of physical page `ppn`. -/
def Chan.dramAddr (x : Chan) (ppn line : Nat) : DramAddr :=
  let hi := ppn >>> (x.rowBits + 2)
  { group := bits line 1 0, bank := bits line 3 2, column := 8 * (32 * bits ppn 1 0 + bits line 8 4), row := bits ppn (x.rowBits + 1) 2,
    rank := hi % (x.pranks + 1), chip := hi / (x.pranks + 1) }

/-! ### Symbol ECC (R306) -/

end Sys2Proof.Machine

namespace Sys2Proof

/-- Errors of one codeword that come together. -/
def CwErr.join : CwErr → CwErr → CwErr
  | .none, x => x
  | x, .none => x
  | .lane i, .lane j => if i = j then .lane i else .beyond
  | _, _ => .beyond
/-- Errors of one line that come together. -/
def DdrErr.join (a b : DdrErr) : DdrErr := ⟨a.w0.join b.w0, a.w1.join b.w1, a.w2.join b.w2, a.w3.join b.w3⟩

end Sys2Proof

namespace Sys2Proof.Machine

/-- What the controller makes of a line. -/
inductive DdrMeet | clean | corrected (lane : Nat) | uncorrectable
  deriving DecidableEq, Repr
/-- A codeword added to what the codewords before it needed: corrections in different lanes make the line uncorrectable. -/
def DdrMeet.next (m : DdrMeet) (w : CwErr) : DdrMeet :=
  match m, w with
  | m, .none => m
  | .clean, .lane j => .corrected j
  | .corrected i, .lane j => if i = j then .corrected i else .uncorrectable
  | _, _ => .uncorrectable
/-- The outcome of a line's four codewords. -/
def meets (e : DdrErr) : DdrMeet := [e.w0, e.w1, e.w2, e.w3].foldl DdrMeet.next .clean

/-- The errors of a stored line. -/
def Chan.errAt (x : Chan) (ppn line : Nat) : DdrErr := Tab.get {} x.damage (512 * ppn + line)
/-- A line as a write leaves it: without errors. -/
def State.mendLine (i ppn line : Nat) (s : State) : State :=
  s.setChan i { s.chanAt i with damage := Tab.set {} (s.chanAt i).damage (512 * ppn + line) {} }
/-- Errors arise in a stored line. -/
def State.spoil (s : State) (u : DdrUpset) : State :=
  let x := s.chanAt u.chan
  s.setChan u.chan { x with damage := Tab.set {} x.damage (512 * u.ppn + u.line) ((x.errAt u.ppn u.line).join u.err) }

/-! ### Counts and records (R299, R307, R310) -/

/-- Adds to a 64-bit counter of lines, which stops at its top (notes/assumptions/152.md). -/
def addLines (n k : Nat) : Nat := min (n + k) (2 ^ 64 - 1)
/-- Counts `n` lines at a channel, DDR_RD_LINES or DDR_WR_LINES. -/
def State.countLines (i : Nat) (isWrite : Bool) (n : Nat) (s : State) : State :=
  let x := s.chanAt i
  s.setChan i (if isWrite then { x with wrLines := addLines x.wrLines n } else { x with rdLines := addLines x.rdLines n })
/-- Counts one line. -/
def State.countLine (i : Nat) (isWrite : Bool) (s : State) : State := s.countLines i isWrite 1

/-- A corrected read at channel `i`. -/
def State.ddrCe (i lane : Nat) (s : State) : State :=
  s.setChan i { s.chanAt i with ce := satInc (s.chanAt i).ce, ceLane := lane, ceValid := true }

/-- Microseconds in 24 hours. -/
def dayUs : Nat := 86400000000

/-- An uncorrectable read at channel `i`: the counts, the record, and evacuation at DDR_UE_LIMIT within 24 hours. -/
def State.ddrUe (i ppn line : Nat) (s : State) : State :=
  let x := s.chanAt i
  let times := s.us :: x.ueTimes.filter fun t => s.us < t + dayUs
  let x := { x with ue := satInc x.ue, uePpn := ppn, ueLine := line, ueValid := true, ueTimes := times,
                    st := if x.st = .ready ∧ x.ueLimit ≤ times.length then .evacuating else x.st }
  (s.setChan i x).record 0x0033 (i / 4) (b8 (i / 4) ++ b8 (i % 4) ++ leBytes 2 0 ++ leBytes 4 ppn ++ leBytes 2 line)

/-- A controller reads a stored line: whether it is uncorrectable. A corrected line is written back. -/
def State.meetLine (i ppn line : Nat) (s : State) : Bool × State :=
  match meets ((s.chanAt i).errAt ppn line) with
  | .clean => (false, s)
  | .corrected lane => (false, ((s.ddrCe i lane).countLine i true).mendLine i ppn line)
  | .uncorrectable => (true, s.ddrUe i ppn line)

/-! ### Modules (R301 to R303) -/

/-- The data capacity of a module in GiB. -/
def moduleGib (m : DdrModule) : Nat := (if m.width = 0 then 16 else 8) * (m.density / 8) * m.pranks * m.stack
/-- Whether R301 supports a module. -/
def moduleOk (m : DdrModule) : Bool :=
  decide (m.type ≤ 2) && decide (m.width ≤ 1) && (m.density = 8 || m.density = 16) && decide (m.rate ≤ 2) && m.ecc && decide (1 ≤ m.pranks) &&
    decide (m.pranks ≤ if m.type = 1 then 4 else 2) && (if m.type = 2 then m.stack = 2 || m.stack = 4 else m.stack = 1) &&
    decide (moduleGib m ≤ 128)
/-- The first present module in the order CD0 DDR0 to CD3 DDR3, supported or not, which sets the module type and device width (R302). -/
def firstModule (ms : List (Option DdrModule)) : Option DdrModule := (ms.filterMap id).head?
/-- Whether a module is accepted: supported, and of the first module's type and width. -/
def accepted (ms : List (Option DdrModule)) (m : DdrModule) : Bool :=
  moduleOk m && match firstModule ms with | some f => m.type = f.type && m.width = f.width | none => false
/-- The package's rate: the lowest of the maxima that the accepted modules declare and DDR_MAXRATE; a higher code is a lower rate. -/
def packageRate (ms : List (Option DdrModule)) (setting : Nat) : Nat :=
  (ms.filterMap fun m => m.bind fun m => if accepted ms m then some m.rate else none).foldl max setting
/-- What the SPD of channel `i` leaves: ABSENT, FAILED with an entry for another type or width, or TRAINING at the package's rate. -/
def State.findModule (ms : List (Option DdrModule)) (s : State) (x : Nat × Option DdrModule) : State :=
  let i := x.1
  let c := s.chanAt i
  match x.2 with
  | none => s.setChan i { c with st := .absent }
  | some m =>
    if accepted ms m then
      s.setChan i { c with st := .training, type := m.type, width := m.width, density := m.density / 8 - 1, pranks := m.pranks - 1,
                           stack := m.stack / 2, gib := moduleGib m, rate := packageRate ms s.sec.maxRate, temp := m.temp, tempValid := true,
                           ref2x := decide (85 < m.temp) }
    else
      let s := s.setChan i { c with st := .failed }
      match firstModule ms with
      | some f => if m.type = f.type ∧ m.width = f.width then s else s.record 0x0034 (i / 4) (b8 (i / 4) ++ b8 (i % 4))
      | none => s
/-- The dies read the SPDs of the sixteen channels and training starts. -/
def State.findModules (dimms : List (Option DdrModule)) (s : State) : State :=
  let ms := (List.range 16).map fun i => dimms.getD i none
  (ms.mapIdx fun i m => (i, m)).foldl (State.findModule ms) s

end Sys2Proof.Machine
end

