-- ==== Sys2Proof/Machine/Strand.lean ====
section
/-! DEFINITION. Device memory: the Strandmap's pages, their allocation, and reads and writes of one line (R279 to R289, R298,
R307, R409). Content is held by device logical address, so a move or a copy changes none of it (R33). -/
-- Log entries (notes/assumptions): DESIGN CHOICE 15, 16; DEDUCED 9, 20, 153, 154, 161.

namespace Sys2Proof.Machine

/-- Who reads or writes device memory (R284, R286): the host, a unit of the hub die, or a unit of a compute die. -/
inductive Agent | host | hub | die (d : Nat)
  deriving DecidableEq, Repr

/-- The page of a DLA (R279). -/
def pageOf (dla : Nat) : Nat := dla >>> 15
/-- The 64-byte line of a DLA, counted from DLA 0. -/
def lineOf (dla : Nat) : Nat := dla >>> 6
/-- Pages in a GiB. -/
def gibPages : Nat := 32768
/-- The HDM size in bytes (R279). -/
def State.hdmBytes (s : State) : Nat := s.plm.hdmGib * 2 ^ 30
/-- The HDM size in pages. -/
def State.hdmPages (s : State) : Nat := s.plm.hdmGib * gibPages
/-- A die that its map engine still reaches (R20). -/
def State.dieUp (s : State) (d : Nat) : Bool := !(s.die d).isolated
/-- The channels that were READY at cold reset, in the order of R282. -/
def State.hdmChans (s : State) : List Nat :=
  (List.range 16).filter fun i => (s.chanAt i).st = .ready || (s.chanAt i).st = .retired || (s.chanAt i).st = .evacuating

/-! ### Reserved regions 0 to 4 (R282) -/

/-- A page's index in the order in which the pages of regions 0 to 4 are mapped. -/
def pinIndex (total p : Nat) : Nat :=
  let b := total - p
  if b ≤ 16384 then 16384 - b
  else if b ≤ 20480 then 16384 + (20480 - b)
  else if b ≤ 22528 then 20480 + (22528 - b)
  else if b ≤ 30720 then 22528 + (30720 - b)
  else 30720 + (32768 - b)

/-- Whether a page lies in regions 0 to 4. -/
def State.pinned (s : State) (p : Nat) : Bool :=
  s.plm.ready && decide (s.hdmPages - gibPages ≤ p) && decide (p < s.hdmPages)

/-- The entry that READY gives a pinned page. -/
def State.pinEntry (s : State) (p : Nat) : PageEnt :=
  let q := pinIndex s.hdmPages p
  let n := s.hdmChans.length
  let i := s.hdmChans.getD (q % n) 0
  { st := .mapped, die := i / 4, chan := i % 4, ppn := (s.chanAt i).gib * gibPages - 1 - q / n, pin := true }

/-- The pages of a channel that regions 0 to 4 hold, at its top. -/
def State.pinnedOf (s : State) (i : Nat) : Nat :=
  let n := s.hdmChans.length
  match s.hdmChans.findIdx? (· = i) with
  | some k => if s.plm.ready then gibPages / n + (if k < gibPages % n then 1 else 0) else 0
  | none => 0

/-! ### Entries -/

/-- A page's entry (R280). -/
def State.page (s : State) (p : Nat) : PageEnt :=
  match s.plm.map.lookup p with
  | some e => e
  | none => if s.pinned p then s.pinEntry p else {}
/-- Writes a page's entry. -/
def State.setPage (p : Nat) (e : PageEnt) (s : State) : State := { s with plm := { s.plm with map := Tab.set {} s.plm.map p e } }

/-- H(P), the exclusive or of the seven 4-bit chunks of a page number (R284). -/
def pageHash (p : Nat) : Nat := (List.range 7).foldl (fun h i => h ^^^ bits p (4 * i + 3) (4 * i)) 0

/-! ### Physical pages -/

/-- The physical pages of a channel that allocation can give: those below its pinned pages. -/
def State.chanCap (s : State) (i : Nat) : Nat := (s.chanAt i).gib * gibPages - s.pinnedOf i
/-- Free physical pages of a channel. -/
def State.chanFree (s : State) (i : Nat) : Nat :=
  if (s.chanAt i).st = .ready && s.dieUp (i / 4) then s.chanCap i - (s.chanAt i).used.length else 0
/-- Free physical pages of the package, PLM_PAGES_FREE. -/
def State.pagesFree (s : State) : Nat := ((List.range 16).map s.chanFree).sum

/-- A free page at or after a place, wrapping; `avoid` first keeps clear of pages that wait for their zero fill. -/
def findFree (x : Chan) (cap start : Nat) (avoid : Bool) : Nat → Option Nat
  | 0 => none
  | fuel + 1 =>
    let p := start % cap
    if !Tab.get false x.used p && !(avoid && p ∈ x.zeroing) then some p else findFree x cap (start + 1) avoid fuel

/-- A channel whose physical page `p` has been zero-filled: whole lines are written, without errors (R281, R285). -/
def Chan.zeroed (p : Nat) (x : Chan) : Chan :=
  { x with zeroing := x.zeroing.filter (· ≠ p), wrLines := addLines x.wrLines 512, damage := x.damage.filter fun e => decide (e.1 / 512 ≠ p) }

/-- Takes a free physical page of channel `i`. Which one the manual leaves open: a free value says (notes/assumptions/15.md). One
that still waits for its zero fill is filled first (R285). -/
def State.takePage (i : Nat) (s : State) : Option (Nat × State) :=
  if s.chanFree i = 0 then none
  else
    let x := s.chanAt i
    let cap := s.chanCap i
    let (v, s') := s.draw
    let fuel := x.used.length + x.zeroing.length + 1
    match (findFree x cap v true fuel).orElse fun _ => findFree x cap v false (fuel + cap) with
    | some p => 
      let x := if p ∈ x.zeroing then x.zeroed p else x
      some (p, s'.setChan i { x with used := Tab.set false x.used p true })
    | none => none

/-- Frees a physical page: it waits for its zero fill (R285). -/
def State.freePage (i p : Nat) (s : State) : State :=
  let x := s.chanAt i
  s.setChan i { x with used := Tab.set false x.used p false, zeroing := x.zeroing ++ [p] }

/-- The channels in the order in which an allocation tries them (R284). -/
def allocOrder (a : Agent) (p : Nat) : List Nat :=
  let h := pageHash p
  let d0 := match a with | .die d => d | _ => (h >>> 2) % 4
  (List.range 4).flatMap fun k => (List.range 4).map fun j => 4 * ((d0 + k) % 4) + (h + j) % 4

/-- Takes a page from the first channel of a list that has one. -/
def State.takeFirst : List Nat → State → Option (Nat × Nat × State)
  | [], _ => none
  | i :: is, s => match s.takePage i with
    | some (p, s') => some (i, p, s')
    | none => State.takeFirst is s

/-- The DLA of a page's entry in region 0 (R280, R282). -/
def State.entryDla (s : State) (p : Nat) : Nat := s.hdmBytes - 2 ^ 29 + 8 * p
/-- A hub table in regions 0 to 2 is read or written at a DLA: the controller of the line's home takes the line, a part of one as a
read-modify-write (R288, R310). Whether the line that it read is uncorrectable. -/
def State.tableLine (dla : Nat) (isWrite whole : Bool) (s : State) : Bool × State :=
  let e := s.page (pageOf dla)
  let i := 4 * e.die + e.chan
  let l := lineOf dla % 512
  if e.st ≠ .mapped then (false, s)
  else if isWrite then
    let (ue, s) := if whole then (false, s) else (s.countLine i false).meetLine i e.ppn l
    (ue, (s.countLine i true).mendLine i e.ppn l)
  else (s.countLine i false).meetLine i e.ppn l
/-- A page's entry is written through to region 0 (R293, R408). -/
def State.writePageEntry (p : Nat) (s : State) : State := (s.tableLine (s.entryDla p) true false).2
/-- Writes a page's entry in the map and in region 0. -/
def State.putPage (p : Nat) (e : PageEnt) (s : State) : State := if e = s.page p then s else (s.setPage p e).writePageEntry p

/-- Clears RMASK bit `d` of a page. -/
def State.dropReplicaBit (p d : Nat) (s : State) : State :=
  let e := s.page p
  s.putPage p { e with rmask := if bit e.rmask d then e.rmask - 2 ^ d else e.rmask }

/-- Every PTB drops its translation of a page. -/
def State.dropPtb (p : Nat) (s : State) : State :=
  { s with dies := s.dies.map fun x => (x.1, { x.2 with ptb := x.2.ptb.filter (· ≠ p) }) }

/-- Retires a replica whole: its bit goes, its translations go, its page is freed (R292). -/
def State.retire (r : CopyRec) (s : State) : State :=
  let s := (s.dropReplicaBit r.page r.die).dropPtb r.page
  let s := { s with plm := { s.plm with replicas := s.plm.replicas.filter (· ≠ r), statRetire := satInc s.plm.statRetire,
                                        idle := Tab.erase s.plm.idle (4 * r.page + r.die) } }
  s.freePage (4 * r.die + r.chan) r.ppn

/-- The replica with the fewest reads in the last window (R285, R292). -/
def State.coldest (s : State) : Option CopyRec :=
  s.plm.replicas.foldl (fun b r => match b with
    | none => some r
    | some q => if Tab.get 0 s.plm.lastReads (4 * r.page + r.die) < Tab.get 0 s.plm.lastReads (4 * q.page + q.die) then some r
                else some q) none

/-- A retirement ends: reads sent to the replica have ended, and its page is freed (R292 steps 3 and 4). -/
def State.endRetire (r : CopyRec) (s : State) : State :=
  let s := { s with plm := { s.plm with retiring := s.plm.retiring.filter (· ≠ r), statRetire := satInc s.plm.statRetire,
                                        idle := Tab.erase s.plm.idle (4 * r.page + r.die) } }
  s.freePage (4 * r.die + r.chan) r.ppn
/-- A physical page for a first write: while none is free the write waits for a replica that retires already, or else the coldest replica is
retired. The fuel is the number of both. -/
def State.allocateN (a : Agent) (p : Nat) : Nat → State → Option (Nat × Nat × State)
  | 0, s => s.takeFirst (allocOrder a p)
  | n + 1, s => match s.takeFirst (allocOrder a p) with
    | some x => some x
    | none => match s.plm.retiring with
      | r :: _ => (s.endRetire r).allocateN a p n
      | [] => match s.coldest with
        | some r => (s.retire r).allocateN a p n
        | none => none
/-- A physical page for a first write (R284, R285). -/
def State.allocate (a : Agent) (p : Nat) (s : State) : Option (Nat × Nat × State) :=
  s.allocateN a p (s.plm.replicas.length + s.plm.retiring.length)

/-- A replica's retirement starts: its RMASK bit goes and its translations are dropped (R292 steps 1 and 2). -/
def State.startRetire (r : CopyRec) (s : State) : State :=
  let s := (s.dropReplicaBit r.page r.die).dropPtb r.page
  { s with plm := { s.plm with replicas := s.plm.replicas.filter (· ≠ r), retiring := s.plm.retiring ++ [r] } }

/-- The replicas with the fewest reads retire until REP_RESERVE is met (R292); a page that is being freed counts towards it. -/
def State.meetReserve : Nat → State → State
  | 0, s => s
  | fuel + 1, s =>
    if s.plm.repReserve ≤ s.pagesFree + s.plm.retiring.length then s
    else match s.coldest with
      | some r => State.meetReserve fuel (s.startRetire r)
      | none => s

/-! ### Accesses -/

/-- The set of eight ways that a page falls in, for a store of `n` entries: the page number modulo the sets (log entry 16). -/
def sameSet (sets p q : Nat) : Bool := decide (p % sets = q % sets)

/-- Brings a page into a cache of eight ways, most recent first, dropping the least recent of a full set. -/
def cacheTouch (sets p : Nat) (c : List Nat) : List Nat :=
  let rest := c.filter (· ≠ p)
  let mine := rest.filter (sameSet sets p)
  if mine.length < 8 then p :: rest
  else match mine.getLast? with
    | some v => p :: rest.filter (· ≠ v)
    | none => p :: rest

/-- The counts of a die's counting unit, with one access of a page added (R289). -/
def countAccess (p : Nat) (isWrite : Bool) (c : Tab (Nat × Nat)) : Tab (Nat × Nat) :=
  let (r, w) := Tab.get (0, 0) c p
  let v := if isWrite then (r, min (w + 1) 255) else (min (r + 1) 65535, w)
  if (c.lookup p).isSome then Tab.insert c p v
  else
    let mine := c.filter fun x => sameSet 2048 p x.1
    if mine.length < 8 then Tab.insert c p v
    else match mine.foldl (fun b x => match b with
        | none => some x
        | some y => if x.2.1 < y.2.1 then some x else some y) (none : Option (Nat × Nat × Nat)) with
      | some y => Tab.insert (Tab.erase c y.1) p v
      | none => Tab.insert c p v

/-- An uncorrectable entry or set of a hub cache is dealt with: counted and recorded (R408). `cache` is 0 map cache, 1 PTB, 2 stream table,
3 snoop filter. -/
def State.cacheUe (u : CacheUpset) (cache src set : Nat) (s : State) : State :=
  ({ s with tmk := { s.tmk with cacheBad := s.tmk.cacheBad.filter (· ≠ u), cacheUe := satInc s.tmk.cacheUe } }).record 0x0028 src
    (b8 cache ++ leBytes 3 0 ++ leBytes 4 set)

/-- An entry or set that is fetched or cleared afresh is good (R408). -/
def State.fresh_ (u : CacheUpset) (s : State) : State := { s with tmk := { s.tmk with cacheBad := s.tmk.cacheBad.filter (· ≠ u) } }

/-- A page whose entry in region 0 reads as poison becomes LOST, and its replicas are dropped (R298, R410). -/
def State.loseEntry (p : Nat) (s : State) : State :=
  let keep := fun r : CopyRec => decide (r.page ≠ p)
  let s := s.putPage p { st := .lost, pin := (s.page p).pin }
  { s with plm := { s.plm with statLost := satInc s.plm.statLost, replicas := s.plm.replicas.filter keep, copying := s.plm.copying.filter keep,
                               moves := s.plm.moves.filter keep } }

/-- The entry of a page is read from region 0 (R280, R282, R286). -/
def State.readEntry (p : Nat) (s : State) : State :=
  let dla := s.entryDla p
  match (s.page (pageOf dla)).st with
  | .mapped =>
    let (ue, s) := s.tableLine dla false false
    if ue then s.loseEntry p else s
  | .lost => if (s.page p).st = .lost then s else s.loseEntry p
  | _ => s

/-- An uncorrectable entry of the map cache is discarded and counted (R408). -/
def State.mapDiscard (p : Nat) (s : State) : State :=
  if CacheUpset.map p ∈ s.tmk.cacheBad ∧ p ∈ s.plm.cache then
    State.cacheUe (.map p) 0 4 (p % 8192) { s with plm := { s.plm with cache := s.plm.cache.filter (· ≠ p) } }
  else s
/-- A miss in the map cache reads the entry from region 0 (R286). -/
def State.mapFetch (p : Nat) (s : State) : State :=
  if p ∈ s.plm.cache then s else State.fresh_ (.map p) (State.readEntry p { s with plm := { s.plm with cacheMiss := satInc s.plm.cacheMiss } })
/-- A look-up in the map cache (R286, R408). -/
def State.hubLookup (p : Nat) (s : State) : State :=
  let s := (s.mapDiscard p).mapFetch p
  { s with plm := { s.plm with cache := cacheTouch 8192 p s.plm.cache } }

/-- Whether an upset is that of a page's entry in a die's PTB. -/
def ptbUpset (d p : Nat) (u : CacheUpset) : Bool := match u with | .ptb e q => decide ((e : Nat) = d) && decide (q = p) | _ => false
/-- An uncorrectable entry of a PTB is discarded and counted (R408). -/
def State.ptbDiscard (d p : Nat) (s : State) : State :=
  match s.tmk.cacheBad.find? (ptbUpset d p) with
  | some u => if p ∈ (s.die d).ptb then (s.modDie d fun x => { x with ptb := x.ptb.filter (· ≠ p) }).cacheUe u 1 d (p % 256) else s
  | none => s
/-- An entry of a PTB that is fetched afresh is good. -/
def State.ptbFresh (d p : Nat) (s : State) : State := { s with tmk := { s.tmk with cacheBad := s.tmk.cacheBad.filter (!ptbUpset d p ·) } }
/-- A look-up in a die's PTB, which asks the map cache on a miss (R286, R408). -/
def State.ptbLookup (d p : Nat) (s : State) : State :=
  let s := s.ptbDiscard d p
  if p ∈ (s.die d).ptb then s
  else (State.hubLookup p { s with plm := { s.plm with ptbMiss := satInc s.plm.ptbMiss } }).ptbFresh d p

/-- Translation and counting of one access (R286, R289). The hub's counting unit counts the writes of the host and of the units of the hub
die, as the worked example after R308 has a parameter write retire replicas (DEDUCED, notes/assumptions/153.md). -/
def State.translate (a : Agent) (p : Nat) (isWrite : Bool) (s : State) : State :=
  match a with
  | .die d =>
    (s.ptbLookup d p).modDie d fun x => { x with ptb := cacheTouch 256 p x.ptb, counts := countAccess p isWrite x.counts }
  | _ =>
    let s := s.hubLookup p
    if isWrite then { s with plm := { s.plm with hostWrites := Tab.insert s.plm.hostWrites p (Tab.get 0 s.plm.hostWrites p + 1) } }
    else s

/-- The copy that serves a read: its channel and physical page (R286). -/
def PageEnt.copy (e : PageEnt) (a : Agent) (rs : List CopyRec) (p : Nat) : Nat × Nat :=
  match a with
  | .die d => if bit e.rmask d then match rs.find? fun r => r.page = p && r.die = d with
      | some r => (4 * r.die + r.chan, r.ppn)
      | none => (4 * e.die + e.chan, e.ppn)
    else (4 * e.die + e.chan, e.ppn)
  | _ => (4 * e.die + e.chan, e.ppn)

/-- The byte of device memory at a DLA; an unlisted byte reads zero (R281, R285). -/
def Plm.byte (m : Plm) (dla : Nat) : Byte := Tab.get 0 m.mem dla
/-- The canonical form of device memory: addresses strictly rising, and no byte that reads as an unlisted one does. -/
abbrev Memory.wf (m : List Host.Cell) : Bool := Tab.wf 0 m
/-- `n` bytes from a DLA. -/
def Plm.bytes (m : Plm) (dla n : Nat) : List Byte := (List.range n).map fun i => m.byte (dla + i)
/-- Writes bytes from a DLA on. -/
def putMem (mem : List Host.Cell) (dla : Nat) : List Byte → List Host.Cell
  | [] => mem
  | b :: bs => putMem (Tab.set 0 mem dla b) (dla + 1) bs
/-- Writes bytes of one line: a whole line takes the poison of the write, a part of a line keeps its mark (R409). -/
def Plm.put (dla : Nat) (bs : List Byte) (poison : Bool) (m : Plm) : Plm :=
  { m with mem := putMem m.mem dla bs,
           poison := if poison || bs.length = 64 then Tab.set false m.poison (lineOf dla) poison else m.poison }
/-- Forgets a page's content. -/
def Plm.erasePage (p : Nat) (m : Plm) : Plm :=
  { m with mem := m.mem.filter fun c => decide (pageOf c.1 ≠ p), poison := m.poison.filter fun c => decide (c.1 / 512 ≠ p) }
/-- Marks every line of a page poisoned. -/
def Plm.poisonPage (p : Nat) (m : Plm) : Plm :=
  { m with poison := (List.range 512).foldl (fun t l => Tab.set false t (512 * p + l) true) m.poison }

/-- A write's note in the page's entry: LASTW takes the window and QUIET clears (R288). -/
def State.noteWrite (p : Nat) (s : State) : State :=
  s.putPage p { s.page p with lastw := s.plm.window % 256, quiet := false }

/-- One copy's controller takes a line, or a part of one as a read-modify-write: whether the line that it read is uncorrectable. The home's
such line is written whole, poisoned; a replica's keeps its errors (R288, R307). -/
def State.landCopy (i ppn line : Nat) (whole home : Bool) (s : State) : Bool × State :=
  let (ue, s) := if whole then (false, s) else (s.countLine i false).meetLine i ppn line
  let s := s.countLine i true
  (ue, if ue && !home then s else s.mendLine i ppn line)

/-- Bytes of one line land in a page that has a home: every copy's controller takes the line (R288). -/
def State.landLine (dla : Nat) (bs : List Byte) (poison : Bool) (s : State) : State :=
  let p := pageOf dla
  let e := s.page p
  let line := lineOf dla % 512
  let whole := decide (bs.length = 64)
  let (ue, s) := s.landCopy (4 * e.die + e.chan) e.ppn line whole true
  let s := (s.plm.replicas.filter fun r => r.page = p).foldl (fun s r => (s.landCopy (4 * r.die + r.chan) r.ppn line whole false).2) s
  State.noteWrite p { s with plm := s.plm.put dla bs (poison || ue) }

/-- A write into one line (R281, R284, R285, R288, R298): allocates where the page has no home, and finds no page to store in
only when neither a free page nor a replica exists. An allocation that takes the free pages below REP_RESERVE retires replicas (R292). -/
def State.writeLine (a : Agent) (dla : Nat) (bs : List Byte) (poison : Bool) (s : State) : State :=
  let p := pageOf dla
  let s := s.translate a p true
  let e := s.page p
  let home := fun (i ppn : Nat) (s : State) =>
    let s := (s.putPage p { st := .mapped, die := i / 4, chan := i % 4, ppn := ppn, pin := e.pin, lastw := s.plm.window % 256 }).landLine dla bs poison
    s.meetReserve s.plm.replicas.length
  match e.st with
  | .mapped => s.landLine dla bs poison
  | .moving => s.landLine dla bs poison
  | .unmapped => match s.allocate a p with
    | some (i, ppn, s') => home i ppn { s' with plm := s'.plm.erasePage p }
    | none => let t := s.putPage p { st := .lost }; { t with plm := { t.plm with full := true, statLost := satInc t.plm.statLost } }
  | .lost => match s.allocate a p with
    | some (i, ppn, s') => home i ppn { s' with plm := (s'.plm.erasePage p).poisonPage p }
    | none => { s with plm := { s.plm with full := true } }

/-- A read of part of one line: its bytes, whether they are poisoned, and the state after (R281, R286, R298, R307). The second part of a line
that one instruction reads in parts, `again`, is no access of its own (notes/assumptions/151.md). -/
def State.readLine (a : Agent) (dla n : Nat) (s : State) (again : Bool := false) : List Byte × Bool × State :=
  let p := pageOf dla
  let s := if again then s else s.translate a p false
  let e := s.page p
  match e.st with
  | .unmapped => (List.replicate n 0, false, s)
  | .lost => (List.replicate n 0, true, s)
  | _ =>
    let c := e.copy a s.plm.replicas p
    let line := lineOf dla % 512
    let marked := Tab.get false s.plm.poison (lineOf dla)
    if again then (s.plm.bytes dla n, marked || decide (meets ((s.chanAt c.1).errAt c.2 line) = .uncorrectable), s)
    else
      let r := (s.countLine c.1 false).meetLine c.1 c.2 line
      (s.plm.bytes dla n, marked || r.1, r.2)

/-- Whether the units that a die's access to a range needs may issue work: its PTB, and the controller and the fabric of each page (R24). -/
def State.dlaWorks (s : State) (d dla n : Nat) : Bool :=
  s.works (ptbUnit d) && (List.range (pageOf (dla + n - 1) + 1 - pageOf dla)).all fun k =>
    let e := s.page (pageOf dla + k)
    let c := (e.copy (.die d) s.plm.replicas (pageOf dla + k)).1
    e.st = .unmapped || e.st = .lost || (s.works (ddrUnit c) && s.carries d (c / 4))

/-- The same for an access of the host or of a unit of the hub die: the map engine, the fabric and the controller of each page (R24). -/
def State.hubWorks (s : State) (dla n : Nat) : Bool :=
  s.works strandmapUnit && s.works fabricUnit && (List.range (pageOf (dla + n - 1) + 1 - pageOf dla)).all fun k =>
    let e := s.page (pageOf dla + k)
    e.st = .unmapped || e.st = .lost || s.works (ddrUnit (4 * e.die + e.chan))
/-- The same for any requester. -/
def State.agentWorks (s : State) (a : Agent) (dla n : Nat) : Bool := match a with | .die d => s.dlaWorks d dla n | _ => s.hubWorks dla n

/-- Bytes cut at the 64-byte lines they fall in; the fuel is their number. -/
def cutLines : Nat → Nat → List Byte → List (Nat × List Byte)
  | 0, _, _ => []
  | _, _, [] => []
  | fuel + 1, dla, bs =>
    let n := 64 - dla % 64
    (dla, bs.take n) :: cutLines fuel (dla + n) (bs.drop n)

/-- A write of any length. -/
def State.devWrite (a : Agent) (dla : Nat) (bs : List Byte) (s : State) : State :=
  (cutLines bs.length dla bs).foldl (fun s c => s.writeLine a c.1 c.2 false) s

/-- Line pieces of a read of `n` bytes. -/
def cutRead : Nat → Nat → Nat → List (Nat × Nat)
  | 0, _, _ => []
  | fuel + 1, dla, n => if n = 0 then [] else
    let k := min n (64 - dla % 64)
    (dla, k) :: cutRead fuel (dla + k) (n - k)

/-- A read of any length: bytes and whether any line was poisoned. -/
def State.devRead (a : Agent) (dla n : Nat) (s : State) : List Byte × Bool × State :=
  (cutRead (n / 64 + 2) dla n).foldl (fun r c =>
    let (bs, p, s) := r.2.2.readLine a c.1 c.2
    (r.1 ++ bs, r.2.1 || p, s)) ([], false, s)

/-- A read of any length, each byte with its line's poison. The second time that one instruction reads, `again`, is no access of its own. -/
def State.markedRead (a : Agent) (dla n : Nat) (s : State) (again : Bool := false) : List (Byte × Bool) × State :=
  (cutRead (n / 64 + 2) dla n).foldl (fun r c =>
    let (bs, p, s) := r.2.readLine a c.1 c.2 again
    (r.1 ++ bs.map (·, p), s)) ([], s)
/-- Element `j` of `w` bytes of such a read, and whether it is poisoned. -/
def markedElem (w : Nat) (ms : List (Byte × Bool)) (j : Nat) : Nat × Bool :=
  let x := (ms.drop (w * j)).take w
  (leNat (x.map (·.1)), x.any (·.2))

/-! ### The column census (R296) -/

/-- Whether die `d` holds a copy of a page: its home or a replica. -/
def State.copyOn (s : State) (p d : Nat) : Bool :=
  let e := s.page p
  (e.st = .mapped || e.st = .moving) && (e.die = d || s.plm.replicas.any fun r => r.page = p && r.die = d)
/-- The column census of R296: the weight pages that hold a byte of column `j` of a range and have a copy on die `d`. It is counted from the
entries themselves, so that every change of home and of replicas is in it (DEDUCED, notes/assumptions/154.md). -/
def State.columnPages (s : State) (r : WeightRange) (j d : Nat) : Nat :=
  let a := r.base + j * r.colBytes
  let lo := pageOf a
  ((List.range (pageOf (a + r.colBytes - 1) + 1 - lo)).filter fun k => s.copyOn (lo + k) d).length
/-- The weight pages of a layer's columns on die `d`. -/
def State.diePages (s : State) (r : WeightRange) (d : Nat) : Nat := ((List.range r.cols).map fun j => s.columnPages r j d).sum

/-! ### Back-invalidates (R349 to R351) -/

/-- Issues a back-invalidate for a line unless one is in flight. -/
def State.snoop (line : Nat) (inv : Bool) (s : State) : State :=
  if s.cxl.snoops.any fun q => q.1 = line then s
  else { s with cxl := { s.cxl with snoops := s.cxl.snoops ++ [(line, inv)], bisnp := satInc s.cxl.bisnp } }

/-- Whether the snoop filter tracks a line. -/
def Cxl.tracks (x : Cxl) (line : Nat) : Bool := x.filter.any fun q => q.1 = line
/-- Whether the host may hold a line modified. -/
def Cxl.mayHoldModified (x : Cxl) (line : Nat) : Bool := x.filter.any fun q => q.1 = line && q.2

/-- The set of the snoop filter that tracks a line. -/
def filterSet (line : Nat) : Nat := line % 65536
/-- The lines of HDM that a set of the snoop filter could track. -/
def State.setLines (s : State) (set : Nat) : List Nat := (List.range (ceilDiv (s.hdmBytes / 64 - set) 65536)).map fun k => set + 65536 * k
/-- Issues BISnpInv for lines. -/
def State.snoopInv (ls : List Nat) (s : State) : State := ls.foldl (fun s l => s.snoop l true) s
/-- Clears a set of the snoop filter. -/
def State.clearSet (set : Nat) (s : State) : State := { s with cxl := { s.cxl with filter := s.cxl.filter.filter fun q => filterSet q.1 ≠ set } }
/-- A set of the snoop filter is looked up. An uncorrectable one is given up: BISnpInv goes out for every line of HDM that it could track, and
the set is cleared (R408). -/
def State.filterLookup (line : Nat) (s : State) : State :=
  if CacheUpset.snoop (filterSet line) ∈ s.tmk.cacheBad then
    ((s.snoopInv (s.setLines (filterSet line))).clearSet (filterSet line)).cacheUe (.snoop (filterSet line)) 3 4 (filterSet line)
  else s

/-- The `src` of the units of the hub die. -/
def hubSrc : Nat := 1000
/-- The `src` of a core's task slot. -/
def coreSrc (c t : Nat) : Nat := 1 + 4 * c + t
/-- The `src` of a compute die's Headland. -/
def dieSrc (d : Nat) : Nat := 1001 + d
/-- The agent of a `src`. -/
def agentOf (src : Nat) : Agent :=
  if src = 0 then .host else if src = hubSrc then .hub else if hubSrc < src then .die (src - 1001) else .die (coreDie ((src - 1) / 4))

/-- A write by a unit of the K4 to one line: at once when the host holds no copy and none is being called back, else after the BIRsp of its own
snoop (R350). It waits while a unit on its way holds no grant, or an access of the line waits so (R24). -/
def State.ownWriteLine (src dla : Nat) (bs : List Byte) (poison : Bool) (s : State) : State :=
  if !s.agentWorks (agentOf src) dla bs.length || s.cxl.held.any fun w => w.line = lineOf dla then
    { s with cxl := { s.cxl with held := s.cxl.held ++ [{ line := lineOf dla, addr := dla, data := bs, poison := poison, src := src }] } }
  else
  let s := s.filterLookup (lineOf dla)
  if s.cxl.tracks (lineOf dla) || (s.cxl.snoops.any fun q => q.1 = lineOf dla) || s.cxl.waiting.any fun w => w.line = lineOf dla then
    let s := s.snoop (lineOf dla) true
    let w : BiWait := { line := lineOf dla, addr := dla, data := bs, poison := poison, src := src }
    { s with cxl := { s.cxl with waiting := s.cxl.waiting ++ [w] } }
  else s.writeLine (agentOf src) dla bs poison

/-- A write by a unit of the K4 of any length. -/
def State.ownWrite (src dla : Nat) (bs : List Byte) (s : State) : State :=
  (cutLines bs.length dla bs).foldl (fun s c => s.ownWriteLine src c.1 c.2 false) s

/-- Whether the memory copy of a line may be out of date: the host may hold the line modified, it is being called back, or the set of the
filter that would say so is uncorrectable. -/
def State.outOfDate (s : State) (line : Nat) : Bool :=
  s.cxl.mayHoldModified line || (s.cxl.snoops.any fun q => q.1 = line) || decide (CacheUpset.snoop (filterSet line) ∈ s.tmk.cacheBad)
/-- The lines of a range that the host may hold modified: a unit's read of them takes BISnpData first (R350). -/
def State.dirtyLines (dla n : Nat) (s : State) : List Nat :=
  ((cutRead (n / 64 + 2) dla n).map fun c => lineOf c.1).filter s.outOfDate

/-- The lines that a unit's read must first have back from the host or from its own waiting writes (R350). -/
def State.unread (dla n : Nat) (s : State) : List Nat :=
  s.dirtyLines dla n ++ ((cutRead (n / 64 + 2) dla n).map fun c => lineOf c.1).filter fun l => (s.cxl.waiting ++ s.cxl.held).any fun w => w.line = l
/-- The same for several ranges, each a DLA and a length. -/
def State.rangesUnread (rs : List (Nat × Nat)) (s : State) : List Nat := rs.flatMap fun r => s.unread r.1 r.2
/-- Whether the units that reads of ranges need hold grants (R24). -/
def State.rangesWork (rs : List (Nat × Nat)) (s : State) : Bool := rs.all fun r => s.hubWorks r.1 r.2

/-- Issues BISnpData for lines. -/
def State.snoopData (ls : List Nat) (s : State) : State := ls.foldl (fun s l => (s.filterLookup l).snoop l false) s

end Sys2Proof.Machine
end

