-- ==== Sys2Proof/Machine/Move.lean ====
section
/-! DEFINITION. The MOVE unit: FILL, COPY and SEND (R95, R171), GATH (R127 to R131) and the packing rule (R117), and the windows they
read and write through (R165 to R169). -/
-- Log entries (notes/assumptions): DESIGN CHOICE 138; DEDUCED 20, 32, 47, 48, 49, 151.

namespace Sys2Proof.Machine

/-! ### Windows, R166, R167 -/

/-- A window access at an offset that passes the requester's checks. -/
def Spad.window (m : Spad) (win off : Nat) (wr : Bool) : Option Win :=
  let w := Tab.get {} m.wins win
  let dir := if wr then w.wr && w.kind ≠ 0 else w.rd && (w.kind = 1 || w.kind = 3)
  if off < w.size && dir then some w else none

/-- Whether `n` bytes from a DLA lie in HDM and outside the reserved regions (R167, R282). -/
def State.openDla (s : State) (dla n : Nat) : Bool :=
  decide (dla + n ≤ s.hdmBytes) && !s.plm.regions.any fun r => r.2.valid && decide (r.2.base < dla + n) && decide (dla < r.2.base + r.2.size)

/-- A word that a window access names: its offset in the window, and where it lands when read. -/
abbrev Fetch := Nat × Landing

/-- The fetches that the unit makes before it meets an offset the window does not allow, and whether it meets one. For DLA windows the
memory's own check counts as well, since it answers within the step. -/
def State.fetchable (c win : Nat) (fs : List Fetch) (s : State) : List Fetch × Bool :=
  let ok := fun f : Fetch => match (s.core c).spd.window win f.1 false with
    | some w => w.kind = 1 || s.openDla (w.base + 32 * f.1) 32
    | none => false
  let good := fs.takeWhile ok
  (good, good.length < fs.length)

/-- The lines of device memory that fetches read. -/
def State.fetchLines (c win : Nat) (fs : List Fetch) (s : State) : List Nat :=
  let w := Tab.get {} (s.core c).spd.wins win
  if w.kind = 3 then (fs.flatMap fun f => s.dirtyLines (w.base + 32 * f.1) 32).eraseDups else []

/-- Whether a fetch reads the same line of a DLA window as the fetch before it, so that both are one access. -/
def Win.sameLine (w : Win) (prev : Option Fetch) (f : Fetch) : Bool :=
  match prev with | some g => lineOf (w.base + 32 * g.1) = lineOf (w.base + 32 * f.1) | none => false
/-- One fetch: device memory answers at once, a core when SPD_REMOTE_READ serves the word. -/
def State.fetchWord (c t win : Nat) (s : State) (x : Option Fetch × Fetch) : State :=
  let w := Tab.get {} (s.core c).spd.wins win
  let f := x.2
  if w.kind = 3 then
    let (bs, p, s) := s.readLine (.die (coreDie c)) (w.base + 32 * f.1) 32 (w.sameLine x.1 f)
    s.land c f.2 (BitVec.ofNat 256 (leNat bs)) p
  else { s with fabric := s.fabric ++ [.read c t w.tcore (w.base + f.1) f.2 (s.core c).moveSeq] }

/-- Whether the units that fetches from device memory need may issue work. -/
def State.fetchWorks (c win : Nat) (fs : List Fetch) (s : State) : Bool :=
  let w := Tab.get {} (s.core c).spd.wins win
  w.kind ≠ 3 || fs.all fun f => s.dlaWorks (coreDie c) (w.base + 32 * f.1) 32

/-- Reads words through a window: BOUND once a word breaks the window (R131, R167), words before it stay. A line that the host may
hold modified is first called back, and the instruction issues after its BIRsp (R350, notes/assumptions/20.md); so it does once the uncore
units it needs hold a grant (R24). -/
def State.fetchAll (c t win w : Nat) (fs : List Fetch) (s : State) : State :=
  let (good, bad) := s.fetchable c win fs
  if !s.fetchWorks c win good then s
  else match s.fetchLines c win good with
  | [] =>
    let s := ((none :: good.map some).zip good).foldl (State.fetchWord c t win) s
    if bad then (s.partway c).fault c t 0x32 else s.occupy c t .move w 1
  | ls => s.snoopData ls

/-! ### FILL, COPY and SEND -/

/-- The words of a COUNT field, 0 meaning 4,096 (R95). -/
def wordCount (w : Nat) : Nat := if bits w 11 0 = 0 then 4096 else bits w 11 0

/-- FILL: COUNT words of a repeated 16-bit pattern. -/
def execFill (c : CoreId) (t : SlotId) (ev : UnitEvents) (s : State) : Res :=
  .next (s.issue c t .fill fun w s =>
    let n := wordCount w
    match spRange ((s.core c).slot t) (s.core c).spd (bits w 47 45) (bits w 44 31) n with
    | none => s.fault c t 0x32
    | some a =>
      let d := packFields 16 (List.replicate 16 (bits w 27 12))
      ((s.starve c .move ev.late).spdWrites c ((List.range n).map fun i => (a + i, d))).occupy c t .move w (n + 8))

/-- Writes words that were read before, marks included. -/
def State.writeReads (c a : Nat) (rs : List SpdRead) (s : State) : State :=
  (rs.mapIdx fun i r => (i, r)).foldl (fun s x => (s.spdWrite c c (a + x.1) x.2.data x.2.poison).1) s

/-- COPY with DIR 0: every source word as if read before any destination word is written (R171). -/
def execCopyLocal (c : CoreId) (t : SlotId) (ev : UnitEvents) (s : State) : Res :=
  .next (s.issue c t .copyLocal fun w s =>
    let n := wordCount w
    let ts := (s.core c).slot t
    match spRange ts (s.core c).spd (bits w 47 45) (bits w 44 31) n, spRange ts (s.core c).spd (bits w 30 28) (bits w 27 12) n with
    | some a, some b =>
      let (rs, s) := s.spdReads c ((List.range n).map (b + ·))
      ((s.modCore c fun k => k.freezeFor (ce2At rs) (k.lateOf .move ev.late)).writeReads c a rs).occupy c t .move w (n + 14) fun x =>
        { x with moves := (List.range n).map fun i => (b + i, .here (a + i) 1) }
    | _, _ => s.fault c t 0x32)

/-- COPY with DIR 1: words of a window's target into the local scratchpad. The window offset X[XB] + WOFF is formed without wrapping, so that one
past 32 bits lies outside every window (DESIGN CHOICE, notes/assumptions/138.md). -/
def execCopyWindow (c : CoreId) (t : SlotId) (s : State) : Res :=
  .next (s.issue c t .copyWindow fun w s =>
    let n := wordCount w
    let ts := (s.core c).slot t
    match spRange ts (s.core c).spd (bits w 47 45) (bits w 44 31) n with
    | none => s.fault c t 0x32
    | some a =>
      let off := (ts.getX (bits w 30 28)).toNat + bits w 27 12
      s.fetchAll c t (bits w 50 48) w ((List.range n).map fun i => (off + i, .word (a + i))))

/-- Where word `i` of a SEND goes that starts at an offset of a window. -/
def State.sendDst (s : State) (c win off i : Nat) : MoveDst :=
  let w := Tab.get {} (s.core c).spd.wins win
  if w.kind = 3 then .dla (w.base + 32 * (off + i)) else .sent (w.base + off + i)

/-- One word sent through a window (R167, R169): on its way to each target core, or into device memory. A word outside the window or
outside open device memory answers none. -/
def State.sendWord (c t win off : Nat) (r : SpdRead) (s : State) : Option State :=
  match (s.core c).spd.window win off true with
  | none => none
  | some w =>
    if (s.core c).ue then some s
    else if w.kind = 3 then
      let dla := w.base + 32 * off
      if s.openDla dla 32 then some (s.ownWriteLine (coreSrc c t) dla (leBytes 32 r.data.toNat) r.poison) else none
    else
      let targets := if w.kind = 1 then [w.tcore] else ((List.range 36).filter fun l => bit w.mask l).map (36 * coreDie c + ·)
      some { s with fabric := s.fabric ++ targets.map fun k => .write c t k (w.base + off) r.data r.poison (s.core c).moveSeq }

/-- Two words of one line sent through a DLA window, as one write. -/
def State.sendLine (c t win off : Nat) (r q : SpdRead) (s : State) : Option State :=
  match (s.core c).spd.window win off true, (s.core c).spd.window win (off + 1) true with
  | some w, some _ =>
    let dla := w.base + 32 * off
    if w.kind ≠ 3 ∨ dla % 64 ≠ 0 ∨ !s.openDla dla 64 then none
    else if (s.core c).ue then some s
    else some (s.ownWriteLine (coreSrc c t) dla (leBytes 32 r.data.toNat ++ leBytes 32 q.data.toNat) (r.poison || q.poison))
  | _, _ => none

/-- Words sent in order up to the first that its window or device memory does not take: true when there was one. -/
def State.sendAll (c t win : Nat) : Nat → List SpdRead → State → Bool × State
  | _, [], s => (false, s)
  | off, [r], s => match s.sendWord c t win off r with
    | none => (true, s)
    | some s => (false, s)
  | off, r :: q :: rs, s => match s.sendLine c t win off r q with
    | some s => s.sendAll c t win (off + 2) rs
    | none => match s.sendWord c t win off r with
      | none => (true, s)
      | some s => s.sendAll c t win (off + 1) (q :: rs)

/-- Whether the units that a SEND into device memory needs may issue work (R24). -/
def State.sendWorks (c win off n : Nat) (s : State) : Bool :=
  match (s.core c).spd.window win off true with
  | some w => w.kind ≠ 3 || s.dlaWorks (coreDie c) (w.base + 32 * off) (32 * min n (w.size - off))
  | none => true

/-- SEND: local words through a window to a core, to cores or to device memory (R95, R166 to R169, R245). -/
def execSend (c : CoreId) (t : SlotId) (s : State) : Res :=
  .next (s.issue c t .send fun w s =>
    let n := wordCount w
    let ts := (s.core c).slot t
    match spRange ts (s.core c).spd (bits w 47 45) (bits w 44 31) n with
    | none => s.fault c t 0x32
    | some a =>
      let off := (ts.getX (bits w 30 28)).toNat + bits w 27 12
      if !s.sendWorks c (bits w 50 48) off n then s
      else
      let (rs, s) := s.spdReads c ((List.range n).map (a + ·))
      let s := s.modCore c (Core.freezeFor (ce2At rs) [])
      match s.sendAll c t (bits w 50 48) off rs with
      | (true, s) => (s.partway c).fault c t 0x32
      | (false, s) => s.occupy c t .move w 1 fun x => { x with moves := (List.range n).map fun i => (a + i, s.sendDst c (bits w 50 48) off i) })

/-! ### GATH -/

/-- A ROW or LANE gather: `dest` words are checked at issue, `fetch` names the fetches of the list's items, as many for each, `clear` the words that
are zeroed ahead of the lanes that land in them, `zero` the words that are written as zero after the items. Items from the first whose words the
window does not hold are not fetched (R131, R151). -/
def State.gather (c t w dest : Nat) (bad : Bool) (fetch : Nat → List Nat → List Fetch) (clear zero : Nat → List Nat → List Nat) (s : State) :
    State :=
  let ts := (s.core c).slot t
  let m := (s.core c).spd
  let cap := bits w 14 3
  let win := bits w 2 0
  let list := spRange ts m (bits w 48 46) (bits w 45 32) (listWords cap)
  let dst := spRange ts m (bits w 31 29) (bits w 28 15) dest
  s.checked c t [(bad, 0x31), (list.isNone || dst.isNone, 0x32)] fun s0 =>
    match s0.indexList c (list.getD 0) cap with
    | (.error f, s) => s.fault c t f
    | (.ok items, s) =>
      let b := dst.getD 0
      let fs := fetch b items
      let (good, short) := s.fetchable c win fs
      if !s.fetchWorks c win good then s0
      else match s.fetchLines c win good with
      | [] =>
        let whole := good.length / max 1 (fs.length / max 1 items.length)
        let s := s.modCore c fun k => { k with cnt := { k.cnt with gathItems := satAdd k.cnt.gathItems whole } }
        let s := s.clearWords c (clear b items)
        let s := if short then s else s.spdWrites c ((zero b items).map fun a => (a, (0 : W256)))
        s.fetchAll c t win w fs
      | ls => s0.snoopData ls

/-- GATH ROW: slice s of list item i becomes row i mod 256 of tile (i / 256, s) (R128). -/
def execGathRow (c : CoreId) (t : SlotId) (s : State) : Res :=
  .next (s.issue c t .gathRow fun w s =>
    let ts := (s.core c).slot t
    let o := ts.ostr
    let sl := ts.blocks
    let tiles := fun n : Nat => ceilDiv n 256
    let row := fun b i l : Nat => b + (i / 256 * sl + l) * 256 * o + i % 256 * o
    s.gather c t w (tiles (bits w 14 3) * sl * 256 * o) (decide (o < 1 ∨ 18 < o))
      (fun b items => (items.mapIdx fun i n => (i, n)).flatMap fun (x : Nat × Nat) =>
        (List.range sl).flatMap fun l => (List.range o).map fun j => (x.2 * ts.vstr + l * o + j, .word (row b x.1 l + j)))
      (fun _ _ => [])
      (fun b items => (List.range (256 * tiles items.length - items.length)).flatMap fun i =>
        (List.range sl).flatMap fun l => (List.range o).map fun j => row b (items.length + i) l + j))

/-- GATH LANE: output block b of list item i becomes lane i mod 256 of Flat tile (b, i / 256) (R129). -/
def execGathLane (c : CoreId) (t : SlotId) (s : State) : Res :=
  .next (s.issue c t .gathLane fun w s =>
    let ts := (s.core c).slot t
    let o := ts.ostr
    let tiles := fun n : Nat => ceilDiv n 256
    s.gather c t w (tiles (bits w 14 3) * ts.blocks * 256 * o) (decide (o < 1 ∨ 8 < o))
      (fun b items => (items.mapIdx fun i n => (i, n)).flatMap fun (x : Nat × Nat) =>
        (List.range ts.blocks).flatMap fun k => (List.range o).map fun p =>
          (x.2 * ts.vstr + k * o + p, .lane (b + (k * tiles items.length + x.1 / 256) * 256 * o) o p (x.1 % 256)))
      (fun b items => (List.range (tiles items.length * ts.blocks * 256 * o)).map (b + ·))
      (fun _ _ => []))

/-! ### PACK and PACKU (R117, R130) -/

/-- The two candidates kept of up to four, by magnitude and then by index, and whether one was dropped. -/
def keepTwo (cs : List (Nat × Int)) : List (Nat × Int) × Bool :=
  if cs.length ≤ 2 then (cs, false)
  else
    let beats := fun (a b : Nat × Int) => decide (b.2.natAbs < a.2.natAbs) || (a.2.natAbs = b.2.natAbs && decide (a.1 < b.1))
    (cs.filter fun x => (cs.filter fun y => beats y x).length < 2, true)

/-- The lanes 2j and 2j + 1 of a group: value and IDX of each, and whether a candidate was dropped. -/
def packGroup (vs : List Int) (mask : List Bool) : (Int × Nat) × (Int × Nat) × Bool :=
  let cs := ((List.range 4).filter fun i => mask.getD i false && vs.getD i 0 ≠ 0).map fun i => (i, vs.getD i 0)
  let (kept, drop) := keepTwo cs
  match kept with
  | [] => ((0, 0), (0, 1), drop)
  | [(i, v)] => ((v, i), (0, i ^^^ 1), drop)
  | (i, v) :: (j, u) :: _ => ((v, i), (u, j), drop)

/-- One packed row: its B planes and two IDX words, and how many groups dropped a candidate. -/
def packRow (b : Nat) (signed : Bool) (ws : List W256) : List W256 × Nat :=
  let lo := ws.take b
  let hi := (ws.drop b).take b
  let val := fun p : Nat => if p < 256 then planeVal lo signed p else planeVal hi signed (p - 256)
  let msk := fun p : Nat => if p < 256 then bitAt (ws.getD (2 * b) 0) p = 1 else bitAt (ws.getD (2 * b + 1) 0) (p - 256) = 1
  let gs := (List.range 128).map fun j => packGroup ((List.range 4).map fun i => val (4 * j + i)) ((List.range 4).map fun i => msk (4 * j + i))
  let lanes := gs.flatMap fun g => [g.1, g.2.1]
  (toPlanes b (lanes.map (·.1)) ++ [packFields 2 ((lanes.take 128).map (·.2)), packFields 2 ((lanes.drop 128).map (·.2))],
    (gs.filter fun g => g.2.2).length)

/-- A PACK or PACKU gather: COUNT dense rows of each slice become a packed tile of 256 rows. -/
def State.pack (c t w : Nat) (signed : Bool) (ev : UnitEvents) (s : State) : State :=
  let ts := (s.core c).slot t
  let m := (s.core c).spd
  let o := ts.ostr
  let sl := ts.blocks
  let n := bits w 14 3
  let per := 2 * o + 2
  let src := spVectors ts m (bits w 48 46) (bits w 45 32) (sl * per) n ts.vstr
  let dst := spRange ts m (bits w 31 29) (bits w 28 15) (sl * 256 * (o + 2))
  s.checked c t [(decide (o < (if signed then 2 else 1) ∨ 8 < o), 0x31), (src.isNone || dst.isNone, 0x32)] fun s =>
    let from_ := (List.range sl).flatMap fun l => (List.range n).flatMap fun r =>
      (List.range per).map fun j => (src.getD 0 + r * ts.vstr + l * per + j, dst.getD 0 + (l * 256 + r) * (o + 2))
    let (rs, s) := s.spdReads c (from_.map (·.1))
    let s := s.modCore c fun k => k.freezeFor (ce2At rs) (k.lateOf .move ev.late)
    let rows := (List.range (sl * 256)).map fun i =>
      let mine := if i % 256 < n then (rs.drop ((i / 256 * n + i % 256) * per)).take per else []
      (packRow o signed (datas mine), poisoned mine)
    let s := s.modCore c fun k => { k with cnt := { k.cnt with packDrop := satAdd k.cnt.packDrop ((rows.map fun r => r.1.2).sum) } }
    (s.writeReads c (dst.getD 0) (rows.flatMap fun r => r.1.1.map fun x => ⟨x, r.2, false⟩)).occupy c t .move w (sl * 256 * (3 * o + 4) + 12)
      fun b => { b with moves := from_.map fun x => (x.1, .here x.2 (o + 2)) }

/-- GATH PACK: dense INT weights and a mask into the Reef layout. -/
def execGathPack (c : CoreId) (t : SlotId) (ev : UnitEvents) (s : State) : Res := .next (s.issue c t .gathPack fun w s => s.pack c t w true ev)

/-- GATH PACKU: dense UINT weights and a mask into the Reef layout. -/
def execGathPacku (c : CoreId) (t : SlotId) (ev : UnitEvents) (s : State) : Res := .next (s.issue c t .gathPacku fun w s => s.pack c t w false ev)

end Sys2Proof.Machine
end

