-- ==== Sys2Proof/Machine/Cfg.lean ====
section
/-! DEFINITION. CFG and the CTRL-unit instructions that decide where a task goes on: LOOP, BR and HALT (R89, R96, R97). -/
-- Log entries (notes/assumptions): DESIGN CHOICE 139; DEDUCED 35, 42, 54.

namespace Sys2Proof.Machine

/-- CFG XSET: X[XD] = IMM. -/
def execCfgXset (c : CoreId) (t : SlotId) (s : State) : Res :=
  .next (s.issue c t .xset fun w s => s.ctrl c t fun ts => ts.setX (bits w 48 46) (BitVec.ofNat 32 (bits w 31 0)))

/-- CFG XADD: X[XD] = X[XA] + IMM modulo 2^32. -/
def execCfgXadd (c : CoreId) (t : SlotId) (s : State) : Res :=
  .next (s.issue c t .xadd fun w s => s.ctrl c t fun ts =>
    ts.setX (bits w 48 46) (ts.getX (bits w 45 43) + BitVec.ofNat 32 (bits w 31 0)))

/-- CFG XMAD: X[XD] = X[XA] × IMM + X[XB] modulo 2^32. -/
def execCfgXmad (c : CoreId) (t : SlotId) (s : State) : Res :=
  .next (s.issue c t .xmad fun w s => s.ctrl c t fun ts =>
    ts.setX (bits w 48 46) (ts.getX (bits w 45 43) * BitVec.ofNat 32 (bits w 15 0) + ts.getX (bits w 42 40)))

/-- CFG SETL: L[LC] = IMM. -/
def execCfgSetl (c : CoreId) (t : SlotId) (s : State) : Res :=
  .next (s.issue c t .setl fun w s => s.ctrl c t fun ts => ts.setL (bits w 48 47) (BitVec.ofNat 16 (bits w 15 0)))

/-- CFG SETSTR: VSTR, OSTR and ROWL. -/
def execCfgSetstr (c : CoreId) (t : SlotId) (s : State) : Res :=
  .next (s.issue c t .setstr fun w s => s.ctrl c t fun ts =>
    { ts with vstr := bits w 47 34, ostr := bits w 33 20, rowl := bits w 19 14 })

/-- CFG SBARM: entry SB covers LEN words from DBASE + X[XA] + BASE, and its count is 0. A LEN above 16,384 cannot fit a data range and raises
BOUND (DESIGN CHOICE, notes/assumptions/139.md). -/
def execCfgSbarm (c : CoreId) (t : SlotId) (s : State) : Res :=
  .next (s.issue c t .sbarm fun w s =>
    match ((s.core c).slot t).spOperand (bits w 44 42) (bits w 41 28) (bits w 27 13) with
    | none => s.fault c t 0x32
    | some a => (s.modCore c fun k => { k with sb := Tab.set {} k.sb (bits w 48 45) ⟨a, bits w 27 13, 0⟩ }).ctrl c t id)

/-- A rescale entry from its 16 bytes, laid out as RQ_MULTn to the reserved word (R71). -/
def rqEntryOf (w : W256) (h : Nat) : RqEntry :=
  ⟨BitVec.ofNat 32 (fieldAt w 32 (4 * h)), fieldAt w 32 (4 * h + 1) % 64, BitVec.ofNat 32 (fieldAt w 32 (4 * h + 2))⟩

/-- CFG LDRQ: the LOAD unit reads the 256 rescale entries from 128 words; a poisoned word stops the tile before any entry changes
(R108). -/
def execCfgLdrq (c : CoreId) (t : SlotId) (ev : UnitEvents) (s : State) : Res :=
  .next (s.issue c t .ldrq fun w s =>
    match spRange ((s.core c).slot t) (s.core c).spd (bits w 48 46) (bits w 45 32) 128 with
    | none => s.fault c t 0x32
    | some a =>
      let (rs, s) := s.spdReads c ((List.range 128).map (a + ·))
      let s := (s.modCore c fun k => k.freezeFor (ce2At rs) (k.lateOf .load ev.late)).sawUe c ev.ue
      s.checked c t [(poisoned rs, 0x35)] fun s =>
        let es := rs.flatMap fun r => [rqEntryOf r.data 0, rqEntryOf r.data 1]
        (s.modCore c fun k => { k with rq := Tab.setAll {} k.rq (es.mapIdx fun i e => (i, e)) }).occupy c t .load w 256)

/-- CFG SETPARAM: the ROWF and PRED parameter address. -/
def execCfgSetparam (c : CoreId) (t : SlotId) (s : State) : Res :=
  .next (s.issue c t .setparam fun w s =>
    match ((s.core c).slot t).spOperand (bits w 48 46) (bits w 45 32) 0 with
    | none => s.fault c t 0x32
    | some a => s.ctrl c t fun ts => { ts with param := a })

/-- LOOP: steps X[XI] and X[XJ], decrements L[LC] when it is not zero, and branches while it is then not zero. -/
def execLoop (c : CoreId) (t : SlotId) (s : State) : Res :=
  .next (s.issue c t .loop fun w s =>
    let ts := (s.core c).slot t
    match ts.target (bits w 50 39) with
    | none => s.fault c t 0x32
    | some p =>
      let lc := bits w 52 51
      let n : BitVec 16 := if ts.getL lc = 0 then 0 else ts.getL lc - 1
      let inc := fun (hi lo : Nat) => BitVec.ofInt 32 (sext (bits w hi lo) 16)
      let ts1 := ts.setX (bits w 38 36) (ts.getX (bits w 38 36) + inc 35 20)
      let ts2 := (ts1.setX (bits w 19 17) (ts1.getX (bits w 19 17) + inc 16 1)).setL lc n
      s.modCore c fun k => (k.setSlot t ts2).ctrlEnd t (if n = 0 then 1 else 2) (if n = 0 then ts.pc + 1 else p))

/-- The condition of a BR: always, EQ, NE, LT, GE signed, LTU, GEU. -/
def brTaken (cond : Nat) (a b : W32) : Bool :=
  match cond with
  | 0 => true
  | 1 => a = b
  | 2 => a ≠ b
  | 3 => a.slt b
  | 4 => !a.slt b
  | 5 => a.ult b
  | _ => !a.ult b

/-- BR: branches on the condition. -/
def execBr (c : CoreId) (t : SlotId) (s : State) : Res :=
  .next (s.issue c t .br fun w s =>
    let ts := (s.core c).slot t
    match ts.target (bits w 43 32) with
    | none => s.fault c t 0x32
    | some p =>
      let b := brTaken (bits w 52 50) (ts.getX (bits w 49 47)) (ts.getX (bits w 46 44))
      s.modCore c (Core.ctrlEnd t (if b then 2 else 1) (if b then p else ts.pc + 1)))

/-- A slot starts at PBASE with ranges `r`: X1 to X7, L0 to L3 and the strides are zero (R86). A variant left for the slot stays left until it
reaches HALTED (R226). -/
def TaskSlot.start (r : SlotRanges) (ts : TaskSlot) : TaskSlot :=
  { ts with st := .ready, blk := .none, pc := r.pbase, pbase := r.pbase, pbound := r.pbound, dbase := r.dbase, dbound := r.dbound,
            abase := r.abase, abound := r.abound, apbm := r.apbm, stopOnFault := r.stopOnFault, x := [], l := [], vstr := 0,
            ostr := 0, rowl := 0, held := none, stopReq := false, faultStop := false }

/-- The ranges a slot has. -/
def TaskSlot.ranges (ts : TaskSlot) : SlotRanges :=
  ⟨ts.pbase, ts.pbound, ts.dbase, ts.dbound, ts.abase, ts.abound, ts.apbm, ts.stopOnFault⟩

/-- A slot that reached HALTED takes up the program variant that a posting still being served left for it (R226). -/
def State.variantRestart (c t : Nat) (s : State) : State :=
  let ts := (s.core c).slot t
  match ts.variant with
  | none => s
  | some r =>
    let q := ((s.die (coreDie c)).ctr ts.variantCtr).st
    s.modSlot c t fun ts => if q = .open ∨ q = .closed then { ts.start r with variant := none } else { ts with variant := none }

/-- HALT: ILLEGAL_OP while the slot holds a tile; otherwise the slot is HALTED. -/
def execHalt (c : CoreId) (t : SlotId) (s : State) : Res :=
  .next (s.issue c t .halt fun _ s =>
    s.checked c t [(((s.core c).slot t).held.isSome, 0x31)] fun s =>
      (s.ctrl c t fun ts => { ts with st := .halted }).variantRestart c t)

end Sys2Proof.Machine
end

