-- ==== Sys2Proof/Machine/Sync.lean ====
section
/-! DEFINITION. Completion of instructions, scoreboards, WAIT, SIG, the freeze, and the starts and stops of task slots (R86, R88, R98
to R104, R107, R236, R242, R370). -/
-- Log entries (notes/assumptions): DESIGN CHOICE 33; DEDUCED 32, 44, 45, 162.

namespace Sys2Proof.Machine

/-! ### Completion (R88, R97) -/

/-- Whether words of a core's slot are still on their way through a window or wait for a BIRsp. -/
def State.inFlight (s : State) (c t : Nat) : Bool :=
  (s.fabric.any fun f => match f with
    | .write src sl _ _ _ _ _ => decide (src = c ∧ sl = t)
    | .read src sl _ _ _ _ => decide (src = c ∧ sl = t)
    | .sig .. => false) || (s.cxl.waiting.any fun w => w.src = coreSrc c t) ||
  s.cores.any fun k => k.2.spd.banks.any fun b => b.2.queue.any fun q => q.src = 4 * c + t

/-- Whether the instruction in a unit may complete now: the core is not frozen (the MOVE unit runs on, R100), and a transfer's last
word has landed or been acknowledged. -/
def State.mayComplete (s : State) (c : Nat) (u : UnitName) (b : Busy) : Bool :=
  if u = .move then !s.inFlight c b.slot else !(s.core c).frozen

/-- An instruction leaves its unit, its registers are written, and the core's counter has reached the cycle it ends; the counter of a frozen
core, whose MOVE unit runs on, stands still (R98, R100). -/
def Core.leave (u : UnitName) (b : Busy) (k : Core) : Core :=
  let k := { k.setUnit u none with cycle := if k.frozen then k.cycle else max k.cycle b.due }
  k.modSlot b.slot fun ts => b.wb.foldl (fun ts x => ts.setX x.1 x.2) ts

/-- ASYNC_COMPLETE: an asynchronous instruction completes and adds one to its scoreboard entry, unless a target's answer has stopped it
(R88, R102). -/
def execAsyncComplete (c : CoreId) (u : UnitName) (s : State) : Res :=
  .next (match (s.core c).inUnit u with
    | none => s
    | some b =>
      if b.async && s.mayComplete c u b then
        s.modCore c fun k =>
          let k := k.leave u b
          (if b.op = 0 then k else k.sbAdd b.sb 1).modSlot b.slot fun ts => { ts with async := ts.async - 1 }
      else s)

/-- BLOCKING_INSTRUCTION_COMPLETE: the unit becomes free and the task it blocked is READY again, or STOPPED at this instruction boundary where
the die Headland has asked for it (R109). -/
def execBlockingInstructionComplete (c : CoreId) (u : UnitName) (s : State) : Res :=
  .next (match (s.core c).inUnit u with
    | none => s
    | some b =>
      if !b.async && s.mayComplete c u b then
        s.modCore c fun k => (k.leave u b).modSlot b.slot fun ts =>
          if ts.st = .blocked ∧ ts.blk = .unit u then
            (if ts.stopReq then { ts with st := .stopped, blk := .drain false } else { ts with st := .ready, blk := .none })
          else ts
      else s)

/-- FREEZE_END: the frozen cycles are counted and the core resumes in lockstep (R99). -/
def execFreezeEnd (c : CoreId) (s : State) : Res :=
  .next (s.modCore c fun k => { k with frzCycles := satAdd k.frzCycles k.freeze, freeze := 0 })

/-! ### WAIT (R103) -/

/-- Whether an entry's count has reached a target: the 32-bit difference, taken as signed, is at least zero. -/
def Core.reached (k : Core) (n : Nat) (target : W32) : Bool := (0 : W32).sle ((k.sbEnt n).count - target)

/-- The microseconds of a TMO code; none for 0. -/
def waitLimit (tmo : Nat) : Option Nat := match tmo with | 1 => some 10 | 2 => some 100 | 3 => some 1000 | _ => none

/-- WAIT: goes on when the count has reached the target, and otherwise blocks the task. -/
def execWait (c : CoreId) (t : SlotId) (s : State) : Res :=
  .next (s.issue c t .wait fun w s =>
    let k := s.core c
    let target := (k.slot t).getX (bits w 48 46) + BitVec.ofNat 32 (bits w 45 22)
    if k.reached (bits w 52 49) target then s.ctrl c t id
    else s.modCore c fun k => { k.modSlot t fun ts =>
      { ts with st := .blocked, blk := .wait (bits w 52 49) target (bits w 21 20) s.us } with progress := true, lastIssue := t, cycle := k.cycle + 1 })

/-- WAIT_RELEASE: a blocked WAIT finds its condition met, and the task resumes. -/
def execWaitRelease (c : CoreId) (t : SlotId) (s : State) : Res :=
  .next (match ((s.core c).slot t).blk with
    | .wait n target _ _ =>
      if s.canIssue c && (s.core c).reached n target then
        s.modSlot c t fun ts => { ts with st := .ready, blk := .none, pc := ts.pc + 1 }
      else s
    | _ => s)

/-- WAIT_TIMEOUT: the timeout of a blocked WAIT has run out before its condition, and the task raises WAIT_TIMEOUT. -/
def execWaitTimeout (c : CoreId) (t : SlotId) (s : State) : Res :=
  .next (match ((s.core c).slot t).blk with
    | .wait n target tmo since =>
      match waitLimit tmo with
      | some lim => if !(s.core c).reached n target && decide (since + lim ≤ s.us) then s.faultAt c t 0x33 (opOf ((s.core c).wordAt t)) ((s.core c).slot t).pc else s
      | none => s
    | _ => s)

/-! ### SIG (R104) -/

/-- SIG: adds N to an entry of this core in its issue cycle, or sends the signal to a remote core; a core with an uncorrectable
error in its logic sends nothing out (R245). -/
def execSig (c : CoreId) (t : SlotId) (s : State) : Res :=
  .next (s.issue c t .sig fun w s =>
    let n := bits w 40 25
    let dest := bits w 48 41
    if dest = 0xFF ∨ dest = c then (s.modCore c (Core.sbAdd (bits w 52 49) (BitVec.ofNat 32 n))).ctrl c t id
    else
      let s := if (s.core c).ue then s else { s with fabric := s.fabric ++ [.sig c t dest (bits w 52 49) n] }
      s.ctrl c t id)

/-- The first signal of a task to a core that no earlier word of the task to that core precedes, and the fabric without it. -/
def takeSig (src slot dest : Nat) : List Flight → Option ((Nat × Nat) × List Flight)
  | [] => none
  | .write a b tgt w d p i :: fs =>
    if a = src ∧ b = slot ∧ tgt = dest then none
    else (takeSig src slot dest fs).map fun r => (r.1, .write a b tgt w d p i :: r.2)
  | .sig a b tgt n v :: fs =>
    if a = src ∧ b = slot ∧ tgt = dest then some ((n, v), fs)
    else (takeSig src slot dest fs).map fun r => (r.1, .sig a b tgt n v :: r.2)
  | f :: fs => (takeSig src slot dest fs).map fun r => (r.1, f :: r.2)

/-- Whether a bank's queue holds a word of a task's SEND issued before its next undelivered SIG. -/
def Spad.sendQueued (m : Spad) (src : Nat) : Bool :=
  m.banks.any fun b => b.2.queue.any fun q => q.src = src && q.sigs = 0 && match q.body with | .write .. => true | .read _ => false
/-- One SIG of a task has been delivered: the queued words issued after it wait for one SIG less. -/
def Spad.sigDelivered (src : Nat) (m : Spad) : Spad :=
  { m with banks := m.banks.map fun b => (b.1, { b.2 with queue := b.2.queue.map fun q => if q.src = src then { q with sigs := q.sigs - 1 } else q }) }

/-- SIG_REMOTE_DELIVERY: a remote SIG lands after every word of the task's earlier SENDs to that core has landed, those that a bank there has
accepted and not yet written included; at a core that is beached or in reset it is lost. -/
def execSigRemoteDelivery (src : CoreId) (t : SlotId) (dest : CoreId) (s : State) : Res :=
  .next (match takeSig src t dest s.fabric with
    | none => s
    | some ((n, v), fs) =>
      if (s.core dest).spd.sendQueued (4 * src + t) || !s.carries (coreDie src) (coreDie dest) then s
      else
      let s := ({ s with fabric := fs }).modSpd dest (Spad.sigDelivered (4 * src + t))
      if s.fenced dest || (s.core dest).inReset then s else s.modCore dest (Core.sbAdd n (BitVec.ofNat 32 v)))

/-! ### Starts and stops -/

/-- TS_START: the die Headland starts a slot that does not run at PBASE, with its ranges written and its registers cleared; the
idle clock gate opens (R86, R109, R370). -/
def execTsStart (c : CoreId) (t : SlotId) (r : SlotRanges) (s : State) : Res :=
  .next (let ts := (s.core c).slot t
    if s.fenced c || (s.core c).inReset || (s.core c).logicOff || ts.st = .ready || ts.st = .blocked then s
    else s.modCore c fun k => { k.modSlot t (fun ts => { ts.start r with variant := none }) with gated := false })

/-- A slot's blocking instruction is abandoned: its unit becomes free (R236). -/
def Core.abandon (t : Nat) (k : Core) : Core :=
  match (k.slot t).blk with
  | .unit u => k.setUnit u none
  | _ => k

/-- A slot is stopped at once, with no fault record, and its lease revoked: by expiry or by the die Headland (R236). -/
def State.stopSlot (c t : Nat) (restart : Bool) (s : State) : State :=
  let held := ((s.core c).slot t).held.isSome
  let s := s.modCore c fun k => (k.abandon t).modSlot t (TaskSlot.stop restart)
  if held then s.revoke (coreDie c) (leaseIx c t) none else s

/-- The die Headland stops a slot, which then stays STOPPED: at once where it holds a tile, whose lease is revoked (R236), and otherwise at the
next instruction boundary, so that a blocking instruction in a unit completes first (R109). A WAIT or TAKE that waits is left at once
(notes/assumptions/33.md). -/
def State.tsStop (c t : Nat) (s : State) : State :=
  let ts := (s.core c).slot t
  let inUnit := match ts.blk with | .unit _ => true | _ => false
  if ts.st = .blocked && ts.held.isNone && inUnit then s.modSlot c t fun ts => { ts with stopReq := true, variant := none }
  else if ts.st = .ready || ts.st = .blocked then
    (s.stopSlot c t false).modSlot c t fun ts => { ts with stopReq := true, variant := none }
  else s.modSlot c t fun ts => { ts with stopReq := true, blk := .none, variant := none }

/-- TS_STOP: the die Headland stops a slot. -/
def execTsStop (c : CoreId) (t : SlotId) (s : State) : Res := .next (s.tsStop c t)

/-- SLOT_RESTART: once its asynchronous instructions have completed, a slot stopped by a fault or an expiry restarts at PBASE; the idle clock
gate opens (R370). -/
def execSlotRestart (c : CoreId) (t : SlotId) (s : State) : Res :=
  .next (let ts := (s.core c).slot t
    if ts.st = .stopped ∧ ts.blk = .drain true ∧ ts.async = 0 ∧ !s.fenced c ∧ !(s.core c).inReset then
      s.modCore c fun k => { k.modSlot t (fun ts => TaskSlot.start ts.ranges ts) with gated := false }
    else s)

/-- Whether a core has a slot READY or BLOCKED (CORE_STATUS.RUN). -/
def Core.running (k : Core) : Bool := (List.range 4).any fun t => (k.slot t).st = .ready || (k.slot t).st = .blocked

/-- CLOCK_GATE_IDLE: with no slot READY or BLOCKED for 64 cycles, the core's ACLK is gated (R370). -/
def execClockGateIdle (c : CoreId) (s : State) : Res :=
  .next (if (s.core c).running then s else s.modCore c fun k => { k with gated := true })

/-- Whether a blocking instruction runs in a unit. -/
def Core.blocksIn (k : Core) (u : UnitName) : Bool := match k.inUnit u with | some b => !b.async | none => false
/-- Whether a READY slot waits behind a blocking instruction that runs in its unit, or in the array whose engine its LDW loads (R88, R75), or
for its energy (R101). -/
def Core.heldReady (k : Core) (t : Nat) : Bool :=
  let w := k.wordAt t
  match kindOf w with
  | none => false
  | some kd =>
    (match kd.unit with | some u => k.blocksIn u | none => false) || (kd.heavy && (k.gstall || decide (k.account ≤ 0))) ||
      (kd = .ldw && k.blocksIn .array && match k.inUnit .array with
        | some b => b.reef == onReef (k.cfg (bits w 52 49)) (bits w 48 47) (k.slot t).held | none => false)

/-- Whether every runnable slot of a core is blocked in a way that keeps its heartbeat going: behind a blocking instruction that runs in its
unit, in WAIT, in TAKE, in a freeze or behind a withheld grant (R242). -/
def Core.blockedWell (k : Core) : Bool :=
  k.frozen || (List.range 4).all fun t =>
    let ts := k.slot t
    match ts.st with
    | .ready => k.heldReady t
    | .blocked => match ts.blk with
      | .unit u => k.blocksIn u
      | .wait .. => true
      | .take .. => true
      | _ => false
    | _ => true

/-- HBEAT_ADVANCE: in every 2 µs the sequencer advances HBEAT when its state checks pass and the core has issued an instruction, or is blocked in
one of the ways that R242 names. `ue` says that the sequencer has met an uncorrectable word in the program store or a slot's state (R407). -/
def execHbeatAdvance (c : CoreId) (checksPass : Bool) (ue : Bool) (s : State) : Res :=
  .next (if s.fenced c || (s.core c).inReset || (s.core c).logicOff then s
    else s.modCore c fun k =>
      { k with hbeat := if checksPass && (k.progress || k.blockedWell) then k.hbeat + 1 else k.hbeat, progress := false, ue := k.ue || ue })

end Sys2Proof.Machine
end

