-- ==== Sys2Proof/Machine/Bank.lean ====
section
/-! DEFINITION. A target's side of the windows (R167, R175, R176), bank power (R172 to R176) and the patrol scrub (R177). -/
-- Log entries (notes/assumptions): DESIGN CHOICE 52, 165, 170; DEDUCED 50, 51, 124.

namespace Sys2Proof.Machine

/-! ### Remote requests -/

/-- A word on its way to a target: what a bank there is asked, and the number of the instruction it belongs to. -/
structure Arrival where
  word : Nat
  body : QBody
  num : Nat
  sigs : Nat := 0

/-- The first write of a task to a target, in issue order, with the task's SIGs to it that were issued before, and the fabric without
it. R169 holds that order for the words of one window; of words through different windows it says that no order holds, and the model
keeps issue order there too (DESIGN CHOICE, notes/assumptions/170.md). -/
def takeWrite (src slot target : Nat) : Nat → List Flight → Option (Arrival × List Flight)
  | _, [] => none
  | sigs, .write a b tgt w d p i :: fs =>
    if a = src ∧ b = slot ∧ tgt = target then some (⟨w, .write d p, i, sigs⟩, fs)
    else (takeWrite src slot target sigs fs).map fun r => (r.1, .write a b tgt w d p i :: r.2)
  | sigs, .sig a b tgt n v :: fs =>
    (takeWrite src slot target (if a = src ∧ b = slot ∧ tgt = target then sigs + 1 else sigs) fs).map fun r => (r.1, .sig a b tgt n v :: r.2)
  | sigs, f :: fs => (takeWrite src slot target sigs fs).map fun r => (r.1, f :: r.2)

/-- The first read of a task at a target, in issue order, and the fabric without it. -/
def takeRead (src slot target : Nat) : List Flight → Option (Arrival × List Flight)
  | [] => none
  | .read a b tgt w l i :: fs =>
    if a = src ∧ b = slot ∧ tgt = target then some (⟨w, .read l, i, 0⟩, fs)
    else (takeRead src slot target fs).map fun r => (r.1, .read a b tgt w l i :: r.2)
  | f :: fs => (takeRead src slot target fs).map fun r => (r.1, f :: r.2)

/-- A target rejects a word of instruction `num` of a task: it counts, and that instruction, once and while it runs, raises BOUND (R167). -/
def State.reject (src slot num target : Nat) (s : State) : State :=
  let s := s.modSpd target fun m => { m with remoteRej := satInc m.remoteRej, rej := true }
  match (s.core src).inUnit .move with
  | some b =>
    if b.slot = slot ∧ b.num = num ∧ b.op ≠ 0 then
      (s.modCore src (Core.setUnit .move (some { b with op := 0 }))).faultAt src slot 0x32 b.op b.pc
    else s
  | none => s

/-- A requester counts an UNPOWERED answer (R175). -/
def State.unpowered (src : Nat) (s : State) : State := s.modSpd src fun m => { m with unpwrRet := satInc m.unpwrRet }

/-- Whether a word lies in a valid partition that grants remote writes, or reads. -/
def Spad.grants (m : Spad) (w : Nat) (wr : Bool) : Bool := match m.partOf w with | some p => if wr then p.rwr else p.rrd | none => false

/-- A request arrives at a target: its bank's state comes first, then the partition's permission (R167, R175). `stuck` says that the bank accepts
it into its queue of eight and it has not retired yet; otherwise the bank retires what it holds and then this one, in order (R169, R173). -/
def State.arrive (src slot target : Nat) (a : Arrival) (stuck : Bool) (s : State) : State :=
  let m := (s.core target).spd
  let b := m.bankOf a.word
  let q : QReq := ⟨4 * src + slot, a.word, a.body, a.sigs⟩
  let wr := match a.body with | .write .. => true | .read _ => false
  if 16384 ≤ a.word then s.reject src slot a.num target
  else if !m.isOn a.word then
    match a.body with
    | .write .. => (s.spdDiscard target src a.word).unpowered src
    | .read l => (s.unpowered src).land src l 0 true
  else if !m.grants a.word wr then s.reject src slot a.num target
  else if stuck then s.modSpd target (Spad.modBank b fun x => { x with queue := x.queue ++ [q] })
  else (s.bankRetire target b).bankServe target q

/-- Whether a bank's queue is full, so that a request on its way waits (R173). -/
def Spad.queueFull (m : Spad) (w : Nat) : Bool := decide (8 ≤ (m.bank (m.bankOf w)).queue.length)

/-- Whether a request on its way waits: the fabric has no grant, the target is in reset and answers NACK_RETRY (R395), or the bank that would
accept it into its queue is full. -/
def State.turnedAway (s : State) (src target w : Nat) (stuck : Bool) : Bool :=
  !s.carries (coreDie src) (coreDie target) || (s.core target).inReset || (stuck && (s.core target).spd.queueFull w)

/-- SPD_REMOTE_WRITE: a word sent to a core arrives. -/
def execSpdRemoteWrite (src : CoreId) (t : SlotId) (target : CoreId) (stuck : Bool) (s : State) : Res :=
  .next (match takeWrite src t target 0 s.fabric with
    | none => s
    | some (a, fs) => if s.turnedAway src target a.word stuck then s else ({ s with fabric := fs }).arrive src t target a stuck)

/-- SPD_REMOTE_READ: a window read arrives at its target; its answer lands at the requester, poisoned where the bank is not ON. -/
def execSpdRemoteRead (src : CoreId) (t : SlotId) (target : CoreId) (ups : List Upset) (stuck : Bool) (s : State) : Res :=
  .next (match takeRead src t target s.fabric with
    | none => s
    | some (a, fs) =>
      if s.turnedAway src target a.word stuck then s
      else (({ s with fabric := fs }).upset target ups).arrive src t target a stuck)

/-! ### Patrol scrub, R177 -/

/-- SPD_PATROL_SCRUB: an ON bank reads the word of its next row and writes back what it corrects. `upset` counts bits of that word
upset since it was written. -/
def execSpdPatrolScrub (c : CoreId) (b : BankId) (upset : Nat) (s : State) : Res :=
  .next (let m := (s.core c).spd
    let x := m.bank b
    if !m.scrubEn || x.st ≠ .on then s
    else
      let w := m.wordAt b x.scrubRow
      let s := s.upset c [⟨w, upset⟩]
      let marked := Tab.get false m.poison w
      let (r, s) := s.spdReadOn c w
      let s := if r.poison || marked then s else s.modSpd c (Spad.put w r.data false)
      s.modSpd c fun m =>
        { m.modBank b fun x => { x with scrubRow := (x.scrubRow + 1) % 1024 } with
          scrubPass := if x.scrubRow = 1023 then satInc m.scrubPass else m.scrubPass })

/-! ### Bank power, R172 to R174 -/

/-- An ON bank starts to drain: its episode begins (R176). -/
def Bank.drain (now : Nat) (fence : Bool) (x : Bank) : Bank := { x with st := .draining, since := now, fenced := fence, episode := false }
/-- A bank enters ON, where its episode ends, or DRAINING while it is not requested, in the same episode (R174, R176). -/
def Bank.enterOn (req : Bool) (now : Nat) (x : Bank) : Bank :=
  if req then { x with st := .on, fenced := false, episode := false, since := now }
  else { x with st := .draining, since := now, fenced := false }
/-- A bank switched OFF loses its content, and what drained it. -/
def Spad.bankOff (b now : Nat) (m : Spad) : Spad :=
  { (m.clearBank b).modBank b fun x => { x with st := .off, queue := [], since := now, fenced := false } with lost := m.lost ||| (1#16 <<< b) }

/-- SPD_BANK_REQ takes a value: ON banks no longer requested drain, and a drain that no fence set ends when its bank is requested. -/
def Spad.request (on : BitVec 16) (now : Nat) (fence : Bool) (m : Spad) : Spad :=
  (List.range 16).foldl (fun m b => m.modBank b fun x =>
    match x.st with
    | .on => if on.getLsbD b then x else x.drain now fence
    | .draining => if on.getLsbD b && !x.fenced then x.enterOn true now else x
    | _ => x) { m with bankReq := on }

/-- SPD_BANK_REQ_WRITE: the configuration engine or the die Headland writes the requested states. -/
def execSpdBankReqWrite (c : CoreId) (on : BitVec 16) (s : State) : Res := .next (s.modSpd c (Spad.request on s.us false))

/-- BANK_WAKE_START: an OFF bank that is requested starts its ramp, in an epoch whose answer granted its core's wakes and in which its
die has woken fewer than 16 domains (R372). -/
def execBankWakeStart (c : CoreId) (b : BankId) (s : State) : Res :=
  .next (let m := (s.core c).spd
    let left := Tab.get 0 s.bw.wakeGranted c
    let die := Tab.get 0 s.bw.wakes (coreDie c)
    if (m.bank b).st = .off && m.bankReq.getLsbD b && s.role c ≠ .disabled && decide (0 < left) && decide (die < 16) then
      let s := { s with bw := { s.bw with wakeGranted := Tab.set 0 s.bw.wakeGranted c (left - 1),
                                          wakes := Tab.set 0 s.bw.wakes (coreDie c) (die + 1) } }
      s.modSpd c fun m => m.modBank b fun x => { x with st := .waking, since := s.us, fenced := false }
    else s)

/-- BANK_WAKE_DONE: the ramp and the zero fill are done, and the bank is ON, or drains if it is not requested. -/
def execBankWakeDone (c : CoreId) (b : BankId) (s : State) : Res :=
  .next (let m := (s.core c).spd
    if (m.bank b).st ≠ .waking then s
    else s.modSpd c fun m => (m.clearBank b).modBank b (Bank.enterOn (m.bankReq.getLsbD b) s.us))

/-- A core whose logic domain is switched off: its registers and stores are lost (R372); its banks are OFF, its incarnation and its account are
the reset unit's and Breakwater's. -/
def Core.logicLost (k : Core) : Core :=
  { rowMap := k.rowMap, gated := true, logicOff := true, inReset := k.inReset, inc := k.inc, account := k.account, moveSeq := k.moveSeq,
    spd := { banks := k.spd.banks } }
/-- A beached core's logic domain is switched off once its banks have reached OFF (R373). -/
def State.logicCheck (c : Nat) (s : State) : State :=
  if s.role c = .beached ∧ (List.range 16).all (fun b => ((s.core c).spd.bank b).st = .off) ∧ !(c ∈ s.hub.selftest) then
    s.modCore c Core.logicLost
  else s

/-- BANK_DRAIN_DONE: the requests that a draining bank accepted have retired, and it switches OFF. -/
def execBankDrainDone (c : CoreId) (b : BankId) (s : State) : Res :=
  .next (if ((s.core c).spd.bank b).st = .draining then ((s.bankRetire c b).modSpd c (Spad.bankOff b s.us)).logicCheck c else s)

/-- A queued request of a bank that is forced OFF: a write is discarded and a read answered UNPOWERED (R176). -/
def State.forcedAnswer (c : Nat) (s : State) (q : QReq) : State :=
  match q.body with
  | .write .. => (s.spdDiscard c (q.src / 4) q.word).unpowered (q.src / 4)
  | .read l => (s.unpowered (q.src / 4)).land (q.src / 4) l 0 true

/-- Whether an instruction of a unit other than MOVE reads the scratchpad as it runs: a word that one of these reads poisoned stops the tile
(R410). -/
def readsSpad (w : Nat) : Bool :=
  match kindOf w with
  | some .ldrq | some .ldw | some .scatAdd32 | some .scatAdd64 | some .scatVadd | some .scatLoad | some .cens | some .pred | some .delta
  | some .deltaKey => true
  | some .strm => !bit w 25
  | some .rowf => decide (bits w 52 49 = 3 ∨ bits w 52 49 = 4 ∨ bits w 52 49 = 7)
  | _ => false

/-- The words on the fabric with one of a MOVE instruction's poisoned. -/
def poisonFlight (c t num w : Nat) (f : Flight) : Flight :=
  match f with
  | .write src slot target word d p n => if src = c ∧ slot = t ∧ word = w ∧ n = num then .write src slot target word 0 true n else .write src slot target word d p n
  | f => f
/-- A source word of a MOVE instruction turns out poisoned: so is what it goes into (R410). -/
def State.poisonMove (c : Nat) (b : Busy) (s : State) (d : MoveDst) : State :=
  match d with
  | .here w n => s.modSpd c fun m => (List.range n).foldl (fun m i => if m.isOn (w + i) then m.put (w + i) 0 true else m) m
  | .sent w => { s with fabric := s.fabric.map (poisonFlight c b.slot b.num w) }
  | .dla a => s.ownWriteLine (coreSrc c b.slot) a (leBytes 32 0) true

/-- A local read of a unit's instruction that was still queued at bank `b` returns a poisoned word (R176, R410). What the instruction had written
into other banks stays there. -/
def State.forcedRead (c b : Nat) (s : State) (r : UnitName × Nat) : State :=
  match (s.core c).inUnit r.1 with
  | some x =>
    if (s.core c).spd.bankOf r.2 ≠ b then s
    else if r.1 = .move then (x.moves.filter fun m => m.1 = r.2).foldl (fun s m => s.poisonMove c x m.2) s
    else if x.op ≠ 0 && readsSpad (Tab.get 0 (s.core c).prog (x.pc % 4096)).toNat then
      (s.modCore c (Core.setUnit r.1 (some { x with op := 0 }))).faultAt c x.slot 0x35 x.op x.pc
    else s
  | none => s

/-- A local write that was still queued is discarded: it counts as no word that landed (R102, R176). -/
def State.forcedWrite (c : Nat) (s : State) (w : Nat) : State :=
  (s.modCore c fun k => (List.range 16).foldl (fun k n => if (k.sbEnt n).base ≤ w ∧ w < (k.sbEnt n).base + (k.sbEnt n).len then k.sbAdd n (-1) else k) k).spdDiscard
    c c w

/-- SPD_FORCED_OFF: after 20 µs of draining with requests in flight, a bank is forced OFF, and the event is recorded with their number. The
queued remote requests are answered, and the local ones that a fault still held are named by their words in the bank: `reads` with the unit
whose instruction waits, `writes` (R174, R176). -/
def execSpdForcedOff (c : CoreId) (b : BankId) (reads : List (UnitName × Nat)) (writes : List Nat) (s : State) : Res :=
  .next (let m := (s.core c).spd
    let x := m.bank b
    let writes := writes.filter fun w => m.bankOf w = b
    let reads := reads.filter fun r => m.bankOf r.2 = b
    let n := x.queue.length + reads.length + writes.length
    if x.st = .draining ∧ 0 < n ∧ n ≤ 8 ∧ x.since + 20 ≤ s.us then
      let s := s.record 0x0032 (coreDie c) (b8 b ++ b8 n) c
      let s := x.queue.foldl (State.forcedAnswer c) s
      let s := writes.foldl (State.forcedWrite c) s
      let s := reads.foldl (State.forcedRead c b) s
      (s.modSpd c fun m => { m.bankOff b s.us with forced := true }).logicCheck c
    else s)

end Sys2Proof.Machine
end

