-- ==== Sys2Proof/Machine/Setup.lean ====
section
/-! DEFINITION. What the configuration engine writes into one core from a checked stream (R188 to R204, R216): bank requests, the
scratchpad's partitions, windows, engine slots, codebooks, programs, preloads and initial data. -/
-- Log entries (notes/assumptions): DEDUCED 54.

namespace Sys2Proof.Machine

/-! ### Classes and their cores -/

/-- A class of a stream. -/
def Stream.cls (st : Stream) (n : Nat) : Option ClassRec := st.classes.find? fun r => r.cls = n
/-- Whether a class claims a core's group (R189). -/
def ClassRec.claims (r : ClassRec) (c : Nat) : Bool := bit r.groups (coreGroupBit c)
/-- The cores that a class claims, ascending. -/
def ClassRec.cores (r : ClassRec) : List Nat := (List.range 144).filter r.claims
/-- The groups of a stream. -/
def Stream.groups (st : Stream) : Nat := st.classes.foldl (fun g r => g ||| r.groups) 0
/-- The class of a stream that claims a core. -/
def Stream.classOf (st : Stream) (c : Nat) : Option ClassRec := st.classes.find? fun r => r.claims c
/-- The handle whose stream in force claims a core, its stream and the class. -/
def State.claimOf (s : State) (c : Nat) : Option (Nat × Stream × ClassRec) :=
  (List.range 4).findSome? fun h => match (s.handle h).stream with
    | some st => (st.classOf c).map fun r => (h, st, r)
    | none => none
/-- Whether a core receives preloads and data under R191: every claimed core but a standby of a class with STBYDATA 0. -/
def State.takesData (s : State) (r : ClassRec) (c : Nat) : Bool := r.stbyData || s.role c ≠ .standby

/-! ### A core's configuration -/

/-- A partition as its record gives it (R195). -/
def PartRec.toPart (p : PartRec) : Part :=
  { valid := true, base := p.base, bound := p.bound, wgt := bit p.attr 0, resident := bit p.attr 1, rwr := bit p.attr 2,
    rrd := bit p.attr 3, tag := p.tag }

/-- Whether an old partition is kept by a record (R164). -/
def Part.keptBy (q : Part) (p : PartRec) : Bool :=
  q.valid && q.resident && bit p.attr 1 && q.base = p.base && q.bound = p.bound && q.wgt = bit p.attr 0 && q.tag = p.tag
/-- Whether a record's partition is kept from the scratchpad as it stood: none of its banks has been OFF since it was filled (R154, R164). -/
def Spad.keeps (m : Spad) (ilv : Nat) (p : PartRec) : Bool :=
  m.ilv = ilv && (m.parts.any fun q => q.2.keptBy p) && (List.range (p.bound - p.base)).all fun i => !m.lost.getLsbD (m.bankOf (p.base + i))
/-- The banks that are not ON hold no content of the partitions; the others are filled. -/
def Spad.filled (m : Spad) : Spad := { m with lost := BitVec.ofNat 16 (((List.range 16).filter fun b => (m.bank b).st ≠ .on).map fun b => 2 ^ b).sum }

/-- A window as a record gives it to core `c` (R198). -/
def WinRec.image (w : WinRec) (c : Nat) : Win :=
  { kind := w.flags % 4, rd := bit w.flags 2, wr := bit w.flags 3,
    tcore := if bit w.flags 4 then ((c : Int) + sext w.tcore 16).toNat else w.tcore, base := w.base, size := w.size, mask := w.mask % 2 ^ 36 }

/-- The records that configure one core. -/
structure CoreRecs where
  ilv : Nat
  bankon : Nat
  scrub : Bool
  parts : List PartRec
  wins : List WinRec
  slots : List SlotRec
  cbs : List CbRec
  progs : List ProgRec
  datas : List DataRec
  swash : List SwashRec

/-- The records of a stream that configure core `c` of class `r`. -/
def Stream.recsOf (st : Stream) (r : ClassRec) (c : Nat) : CoreRecs :=
  let b := st.banks.find? fun x => x.cls = r.cls
  { ilv := match b with | some x => x.ilv | none => 0, bankon := match b with | some x => x.bankon | none => 0,
    scrub := match b with | some x => x.scrub | none => true,
    parts := st.parts.filter fun x => x.cls = r.cls, wins := st.wins.filter fun x => x.cls = r.cls && (x.core = 0xFF || x.core = c),
    slots := st.slots.filter fun x => x.cls = r.cls, cbs := st.cbs.filter fun x => x.cls = r.cls,
    progs := st.progs.filter fun x => x.cls = r.cls, datas := st.datas.filter fun x => x.cls = r.cls,
    swash := st.swash.filter fun x => x.cls = r.cls }

/-- Step 4 on the scratchpad: SPD_CFG, the partitions and the zero fill of R154, R160 and R164, and the windows. A word in no declared
partition keeps its content unless its class changes. -/
def Spad.configure (q : CoreRecs) (c : Nat) (m : Spad) : Spad :=
  let keep := fun w : Nat => match q.parts.find? fun p => decide (p.base ≤ w) && decide (w < p.bound) with
    | some p => m.keeps q.ilv p
    | none => !m.isWgt w
  { m with ilv := q.ilv, scrubEn := q.scrub, parts := q.parts.foldl (fun t p => Tab.insert t p.part p.toPart) [],
           wins := q.wins.foldl (fun t w => Tab.insert t w.win (w.image c)) [],
           words := m.words.filter fun x => keep x.1, errs := m.errs.filter fun x => keep x.1, poison := m.poison.filter fun x => keep x.1 }

/-- Step 4 on the rest of the core: engine slots, codebooks and the program store; what the stream does not declare is zero. -/
def Core.configure (q : CoreRecs) (c : Nat) (k : Core) : Core :=
  { k with
    spd := k.spd.configure q c
    engIn := q.slots.foldl (fun t x => Tab.insert t x.slot x.win) []
    engOut := q.slots.foldl (fun t x => Tab.insert t x.slot x.wout) []
    cb := q.cbs.foldl (fun t x => Tab.setAll 0 t (x.levels.mapIdx fun i b => (256 * x.cb + i, b))) []
    prog := q.progs.foldl (fun t x => Tab.setAll 0 t (x.words.mapIdx fun i w => (x.pbase + i, w))) [] }

/-- A 256-bit word from its 32 bytes. -/
def wordOf (bs : List Byte) : W256 := BitVec.ofNat 256 (leNat bs)
/-- The words of a list of bytes. -/
def wordsOf (bs : List Byte) : List W256 := (List.range (bs.length / 32)).map fun i => wordOf ((bs.drop (32 * i)).take 32)

/-- The preloads that a core makes: the partitions it does not keep (R195). -/
def CoreRecs.preloads (q : CoreRecs) (m : Spad) : List PartRec := q.parts.filter fun p => decide (0 < p.pwords) && !m.keeps q.ilv p

/-- One preload: the image's words, poison marks included, into the partition. -/
def State.preload (c : Nat) (s : State) (p : PartRec) : State :=
  (List.range p.pwords).foldl (fun s i =>
    let (bs, po, s) := s.readLine .hub (p.preload + 32 * i) 32 (0 < i && decide ((p.preload + 32 * i) % 64 = 32))
    (s.spdWrite c c (p.base + i) (wordOf bs) po).1) s

/-- The header word of a Swash state record at load (R141, R197). -/
def SwashRec.header (x : SwashRec) : W256 := BitVec.ofNat 256 (x.thr + 65536 * x.ba)

/-- Step 5: the preloads, then DATA, then the SWASH headers (R195 to R197). -/
def State.fillData (c : Nat) (q : CoreRecs) (pre : List PartRec) (s : State) : State :=
  let s := pre.foldl (State.preload c) s
  let s := q.datas.foldl (fun s d => s.spdWrites c ((wordsOf d.data).mapIdx fun i w => (d.word + i, w))) s
  (q.swash.foldl (fun s x => s.spdWrites c [(x.word, x.header)]) s).modSpd c Spad.filled

/-- The ranges that preloads read. -/
def preloadRanges (ps : List PartRec) : List (Nat × Nat) := ps.map fun p => (p.preload, 32 * p.pwords)
/-- The lines of device memory that preloads read and the host may hold modified. -/
def State.preloadLines (ps : List PartRec) (s : State) : List Nat := ps.flatMap fun p => s.dirtyLines p.preload (32 * p.pwords)

/-- Steps 4 and 5 of R216 on one core. -/
def State.writeCore (st : Stream) (r : ClassRec) (c : Nat) (s : State) : State :=
  let q := st.recsOf r c
  let pre := q.preloads (s.core c).spd
  let s := s.modCore c (Core.configure q c)
  if s.takesData r c then s.fillData c q pre else s.modSpd c fun m => { m with lost := BitVec.allOnes 16 }

/-- Step 3 of R216 on one core: the bank requests. A standby of a class with STBYDATA 0 keeps its banks OFF (R191), and a beached
core's banks stay as its fence left them (R174). -/
def State.requestBanks (st : Stream) (r : ClassRec) (c : Nat) (s : State) : State :=
  if s.fenced c then s
  else s.modSpd c (Spad.request (if s.takesData r c then BitVec.ofNat 16 (st.recsOf r c).bankon else 0) s.us false)

/-- Whether a core's requested banks are all ON. A beached core's are not waited for. -/
def State.banksReady (s : State) (c : Nat) : Bool :=
  s.fenced c || (List.range 16).all fun b => !(s.core c).spd.bankReq.getLsbD b || ((s.core c).spd.bank b).st = .on

/-! ### Programs and task slots (R204, R226) -/

/-- A program of a class. -/
def Stream.program (st : Stream) (cls n : Nat) : Option ProgRec := if n = 0xFF then none else st.progs.find? fun p => p.cls = cls && p.prog = n

/-- The ranges that a program gives a task slot (R204). -/
def Stream.rangesOf (st : Stream) (p : ProgRec) (stopOnFault : Bool) : SlotRanges :=
  let part := fun n => st.parts.find? fun x => x.cls = p.cls && x.part = n
  { pbase := p.pbase, pbound := p.pbase + p.len, dbase := match part p.dpart with | some x => x.base | none => 0,
    dbound := match part (p.dpart + p.npart - 1) with | some x => x.bound | none => 0,
    abase := p.abase, abound := p.abound, apbm := p.apbm % 4, stopOnFault := stopOnFault }

/-- Whether a task slot is free for a posting: IDLE, HALTED, or STOPPED for any reason but a fault with STOPONFAULT set (R226). -/
def TaskSlot.isFree (ts : TaskSlot) : Bool :=
  match ts.st with
  | .idle => true
  | .halted => true
  | .stopped => !ts.faultStop
  | _ => false

/-- A posting's program starts in a core's free slots, and is left for its other slots to take up when they halt (R226). -/
def State.startProgram (st : Stream) (p : ProgRec) (ctr c : Nat) (s : State) : State :=
  (List.range 4).foldl (fun s t =>
    let ts := (s.core c).slot t
    let r := st.rangesOf p ts.stopOnFault
    if ts.isFree then s.modCore c fun k => { k.modSlot t (fun ts => { ts.start r with variant := none }) with gated := false }
    else if ts.faultStop then s
    else s.modSlot c t fun ts => { ts with variant := some r, variantCtr := ctr }) s

/-- The program that a step's class runs for a layer (R226): 0 Interactive, 1 Batch, 2 Train, 3 Background. -/
def LayerRec.variant (l : LayerRec) (svc : Nat) : Nat := if svc < 2 ∧ l.pfused ≠ 0xFF then l.pfused else l.punfused

end Sys2Proof.Machine
end

