-- ==== Sys2Proof/Machine/Tiles.lean ====
section
/-! DEFINITION. Postings and tile counters (R222 to R232, R238 to R240), TAKE and DONE (R96, R231, R234), and leases (R233 to R237). -/
-- Log entries (notes/assumptions): DESIGN CHOICE 21, 24, 66, 137, 145, 146, 147, 174, 177; DEDUCED 35, 44, 53, 54, 55, 56, 129,
--   130, 157, 179.

namespace Sys2Proof.Machine

/-! ### Steps and their layers -/

/-- A step in the hands of the die Headlands. -/
def State.step? (s : State) (n : Nat) : Option EStep := s.est.steps.find? fun e => e.num = n
/-- Applies a function to a step. -/
def State.modStep (n : Nat) (f : EStep → EStep) (s : State) : State :=
  { s with est := { s.est with steps := s.est.steps.map fun e => if e.num = n then f e else e } }
/-- The layers that a step runs: those whose SVC includes its class, in ascending INDEX (R30). -/
def State.stepLayers (s : State) (e : EStep) : List LayerRec :=
  match (s.handle e.handle).stream with
  | some st => st.layers.filter fun l => bit l.svc e.cls
  | none => []
/-- The dies on which a step's layer has columns, and whether it has closed on all of them. -/
def EStep.layerClosed (e : EStep) (layer : Nat) : Bool :=
  e.cols.all fun x => x.1 ≠ layer || x.2.2 = 0 || e.closed.any fun y => y.1 = layer && y.2 = x.2.1
/-- The columns of a layer on a die: the first, and how many (R224). -/
def EStep.colsOn (e : EStep) (layer d : Nat) : Nat × Nat :=
  let mine := e.cols.filter fun x => x.1 = layer
  (((mine.filter fun x => x.2.1 < d).map fun x => x.2.2).sum, ((mine.filter fun x => x.2.1 = d).map fun x => x.2.2).sum)

/-! ### The shape of a posting -/

/-- A bucket's vectors a tile, 0 meaning 64. -/
def BucketRec.vectors (b : BucketRec) : Nat := if b.tm = 0 then 64 else b.tm
/-- The bucket that serves M vectors (R223): the lowest with MMAX at least M, else the last. -/
def Stream.bucketFor (st : Stream) (layer m : Nat) : Option BucketRec :=
  let bs := st.buckets.filter fun b => b.layer = layer
  (bs.find? fun b => m ≤ b.mmax).orElse fun _ => bs.getLast?

/-- Z, P and the conformity of a posting's column, summed over its 256-channel blocks (R120, R225). -/
def Loader.columnCensus (x : Loader) (h layer first last : Nat) : Nat × Nat × Bool :=
  (x.census.filter fun r => r.1 = h && r.2.1 = layer && decide (first ≤ r.2.2.1) && decide (r.2.2.1 < last)).foldl
    (fun a r => (a.1 + r.2.2.2.1, a.2.1 + r.2.2.2.2.1, a.2.2 && r.2.2.2.2.2)) (0, 0, true)

/-- Bytes of the Reef copies of a layer (R208, R211). -/
def LayerRec.copyBytes (l : LayerRec) (q : SlotCfg) : Nat := ceilDiv l.nout 256 * ceilDiv l.depth 512 * 256 * (q.bw + 2) * 32
/-- Whether a layer keeps transposes (R140, R208). -/
def LayerRec.keepsTranspose (l : LayerRec) : Bool := l.masked && (l.wclass = 1 || l.wclass = 2) && bit l.svc 2
/-- The declared slots of a class. -/
def Stream.slotOf (st : Stream) (cls n : Nat) : Option SlotCfg :=
  (st.slots.find? fun x => x.cls = cls && x.slot = n).map fun x => slotCfg n x.win.toNat x.wout.toNat
/-- The slot of a layer. -/
def Stream.layerSlot (st : Stream) (l : LayerRec) : SlotCfg := (st.slotOf l.cls l.slot).getD (slotCfg 0 0 0)
/-- The area of AUX that holds a layer's transposes: what lies beyond its Reef copies (R208). -/
def LayerRec.transposeArea (l : LayerRec) (q : SlotCfg) : Nat × Nat :=
  let used := if l.wclass = 2 then l.copyBytes q else 0
  (l.aux + used, l.auxlen - used)
/-- The layer whose input-gradient pass a layer is: the one whose transpose is its WEIGHTS (R140; DEDUCED, notes/assumptions/179.md). -/
def Stream.gradientOf (st : Stream) (l : LayerRec) : Option LayerRec :=
  st.layers.find? fun x => x.keepsTranspose && x.weights ≠ 0 && l.weights = (x.transposeArea (st.layerSlot x)).1
/-- Whether a column's tiles run on the Reef engine (R225); an input-gradient pass, by the mask of its layer (R140). ENGINE_CUT is taken as its
formula says: 0 also passes a column whose few non-zero weights round to 0 (DESIGN CHOICE, notes/assumptions/177.md). -/
def State.onReefColumn (s : State) (h : Nat) (st : Stream) (l : LayerRec) (tn j : Nat) : Bool :=
  match st.gradientOf l with
  | some x => (h, x.index) ∈ s.ldr.transposable
  | none => match l.wclass with
    | 0 => false
    | 1 => true
    | _ =>
      let (z, p, ok) := s.ldr.columnCensus h l.index (j * tn / 256) (min ((j + 1) * tn) l.nout / 256)
      ok && decide (p ≠ 0) && decide (256 * z / p ≤ l.cut)

/-- The updates of a list that fall in bank `b`, by their place in it: bank b holds the entries of the channels that are b modulo 16 (R77). -/
def bankUpdates (es : List Nat) (b : Nat) : List Nat := (es.zipIdx.filter fun x => x.1 % 16 = b).map (·.2)
/-- The busiest bank of a list; of equal counts, the lowest (DESIGN CHOICE, notes/assumptions/146.md). -/
def busiestBank (es : List Nat) : Nat :=
  (List.range 16).foldl (fun b k => if (bankUpdates es b).length < (bankUpdates es k).length then k else b) 0
/-- The census of R136: the skew, 256 × H / N. -/
def skewOf (es : List Nat) : Nat := if es = [] then 0 else 256 * (bankUpdates es (busiestBank es)).length / es.length
/-- The updates that part `p` of `k` runs (R136, R240): its share of the busiest bank in list order, the first parts one more where the division
is not exact; part 0 also every update outside that bank. -/
def partShare (es : List Nat) (k p : Nat) : List Nat :=
  let hot := bankUpdates es (busiestBank es)
  let mine := (hot.drop (p * (hot.length / k) + min p (hot.length % k))).take (hot.length / k + if p < hot.length % k then 1 else 0)
  if p = 0 then (List.range es.length).filter fun i => !(i ∈ hot) || i ∈ mine else mine

/-- The split tiles that a census gives (R136, R240): for each split tile its parts, the first keeping its number, and the merge. -/
def splitTiles (skew next : Nat) : List SkewCensus → List SplitTile × Nat
  | [] => ([], next)
  | x :: xs =>
    let sk := skewOf x.entries
    if skew = 0 ∨ sk ≤ skew then splitTiles skew next xs
    else
      let k := min 8 (ceilDiv sk skew)
      let parts := x.tile :: (List.range (k - 1)).map (next + ·)
      let mine := (parts.mapIdx fun p t => ({ tile := t, kind := 1, part := p, k := k, base := x.tile, deps := [], share := partShare x.entries k p } : SplitTile)) ++
        [{ tile := next + k - 1, kind := 2, part := 0, k := k, base := x.tile, deps := parts }]
      let (rest, n) := splitTiles skew (next + k) xs
      (mine ++ rest, n)

/-- An address in a layer's AUX area, at a place that the manual does not give: a free value (notes/assumptions/21.md). -/
def State.auxPlace (l : LayerRec) (s : State) : Nat × State :=
  let (v, s) := s.draw
  (l.aux + 32 * (v % max 1 (l.auxlen / 32)), s)
/-- The parts of a posting's splits take their places in AUX (R240). -/
def State.placeSplits (l : LayerRec) (xs : List SplitTile) (s : State) : List SplitTile × State :=
  xs.foldl (fun (r : List SplitTile × State) x =>
    if x.kind = 1 then
      let (a, s) := r.2.auxPlace l
      let (m, s) := s.auxPlace l
      (r.1 ++ [{ x with listAt := a, mergeAt := m }], s)
    else (r.1 ++ [x], r.2)) ([], s)
/-- The bytes of a share: its index list (R125), filled up to whole words, and its values in list order, of 64 bits for ADD64 and else of 32. -/
def shareBytes (x : SkewCensus) (share : List Nat) : List Byte :=
  let n := share.length + 1
  leBytes 4 share.length ++ share.flatMap (fun i => leBytes 4 (x.entries.getD i 0)) ++ List.replicate (32 * ceilDiv n 8 - 4 * n) 0 ++
    share.flatMap fun i => leBytes (if x.wide then 8 else 4) (x.values.getD i 0).toNat
/-- The dispatcher lays each part's share of the update list into AUX (R136, R240). -/
def State.layShares (d : Nat) (census : List SkewCensus) (xs : List SplitTile) (s : State) : State :=
  xs.foldl (fun (s : State) x => match census.find? fun y => y.tile = x.base with
    | some y => if x.kind = 1 then s.ownWrite (dieSrc d) x.listAt (shareBytes y x.share) else s
    | none => s) s

/-- The key of a tile's place in the grid, for R227. -/
def placeKey (i j : Nat) : Nat := i + 65536 * j
/-- A tile's number in the grid: its own, or that of the tile it was split from. -/
def Counter.baseTile (q : Counter) (t : Nat) : Nat := match q.splits.find? fun x => x.tile = t with | some x => x.base | none => t
/-- The place (i, j) of a tile (R223). -/
def Counter.place (q : Counter) (t : Nat) : Nat × Nat :=
  let b := q.baseTile t
  (b % max 1 q.i, b / max 1 q.i + q.j0)

/-! ### Counters -/

/-- Whether an in-service core of a class is left on any die. -/
def State.classAlive (s : State) (r : ClassRec) : Bool := r.cores.any fun c => s.role c = .inService
/-- The in-service cores of a class on a die. -/
def State.classCores (s : State) (r : ClassRec) (d : Nat) : List Nat := r.cores.filter fun c => coreDie c = d && s.role c = .inService
/-- Those on which a posting's program starts: not the standbys whose banks and data are still being made ready (R191, R249). -/
def State.startCores (s : State) (r : ClassRec) (d : Nat) : List Nat := (s.classCores r d).filter fun c => !(c ∈ (s.die d).joining)
/-- The class record of a counter's posting. -/
def State.ctrClass (s : State) (q : Counter) : Option (Stream × ClassRec) :=
  match (s.handle q.handle).stream with
  | some st => (st.cls q.cls).map fun r => (st, r)
  | none => none

/-- A counter all of whose tiles have committed is DRAINED, and its layer has closed on the die (R229). -/
def State.drainCheck (d n : Nat) (s : State) : State :=
  let q := (s.die d).ctr n
  if q.st = .closed ∧ q.total ≤ q.committed.length then
    (s.modCtr d n fun q => { q with st := .drained }).modStep q.step fun e => { e with closed := e.closed ++ [(q.layer, d)] }
  else s

/-- The lowest-numbered tile of a posting that has not committed. -/
def Counter.lowestOpen (q : Counter) : Nat := ((List.range q.total).find? fun t => !(t ∈ q.committed)).getD 0

/-- A posting of a class with no in-service core fails (R250). -/
def State.failPosting (d n : Nat) (s : State) : State := s.failTile d n ((s.die d).ctr n).lowestOpen 0

/-- Whether a die's fence holds a class: a fence event of an in-service core of its groups is between steps 3 and 5 (R246). -/
def State.classHeld (s : State) (d : Nat) (h cls : Nat) : Bool := (h, cls) ∈ (s.die d).heldCls

/-- The cores that committed tile i of the layer whose halo slots a posting reads, by i (R228): tile i is that of the writing posting's first
column on the die (DESIGN CHOICE, notes/assumptions/147.md). None where its counter no longer shows the posting. -/
def State.haloPrefer (s : State) (d : Nat) (e : EStep) (st : Stream) (writer : Option Nat) : Option (Tab Nat) :=
  match writer.bind fun w => st.layers.find? fun l => l.index = w with
  | none => none
  | some l =>
    let q := (s.die d).ctr l.ctr
    if q.step = e.num && q.handle = e.handle && q.layer = l.index then
      some ((q.committer.filter fun x => decide (x.1 / 65536 = q.j0)).map fun x => (x.1 % 65536, x.2))
    else none

/-- A posting opens on its counter (R222 to R229, R233): shape, engines, preferred cores and splits are fixed, and the program starts on the
class's in-service cores. With no split the counter is CLOSED at once; otherwise it is OPEN until the split tiles are added. -/
def State.openPosting (d : Nat) (e : EStep) (st : Stream) (l : LayerRec) (r : ClassRec) (b : BucketRec) (census : List SkewCensus)
    (writer : Option Nat) (s : State) : State :=
  let x := s.die d
  let old := x.ctr l.ctr
  let tm := b.vectors
  let i := ceilDiv e.m tm
  let cols := ceilDiv l.nout b.tn
  let (j0, jn) := e.colsOn l.index d
  let grid := i * jn
  let (splits, s) := s.placeSplits l (if l.kind = 2 then (splitTiles l.skew grid (census.filter fun x => x.tile < grid)).1 else [])
  let seq := (x.postSeq + 1) % 2 ^ 24
  let q : Counter :=
    { st := if splits = [] then .closed else .open, held := s.classHeld d e.handle l.cls, cls := l.cls, handle := e.handle, svc := e.cls, bucket := b.bucket,
      layer := l.index, step := e.num, i := i, jcnt := jn, j0 := j0, total := grid, vm := e.m - (i - 1) * tm,
      vb := (l.nout - (cols - 1) * b.tn) / 256, tm := tm, tn := b.tn, pseq := seq, opened := s.us,
      prog := l.variant e.cls, reefCols := ((List.range jn).map (j0 + ·)).filter (s.onReefColumn e.handle st l b.tn), prefer := old.committer,
      rowPrefer := s.haloPrefer d e st writer, splits := splits, queue := old.queue.filter fun p => !(p.step = e.num && p.layer = l.index) }
  let s := s.modDie d fun x => { x.setCtr l.ctr q with postSeq := seq, retry := x.retry.filter fun y => y.ctr ≠ l.ctr }
  let s := s.modStep e.num fun e => { e with posted := e.posted ++ [(l.index, d)] }
  let s := s.layShares d census splits
  if !s.classAlive r then s.failPosting d l.ctr
  else
    let s := match st.program l.cls q.prog with
      | some p => (s.startCores r d).foldl (fun (s : State) c => s.startProgram st p l.ctr c) s
      | none => s
    s.drainCheck d l.ctr

/-- The split tiles of an OPEN posting are added and its counter is CLOSED (R229, R240). -/
def State.addSplits (d n : Nat) (s : State) : State :=
  (s.modCtr d n fun q => { q with st := .closed, total := q.splits.foldl (fun m x => max m (x.tile + 1)) q.total }).drainCheck d n

/-- Whether a step's earlier layers have closed everywhere, and no step handed over before it still runs a layer of the class on the die (R30, R222).
R30 orders the layers that one die Headland runs; that a die waits until the earlier layers have closed on every die of the step is the
model's choice (DESIGN CHOICE, notes/assumptions/137.md). -/
def State.mayOpen (s : State) (d : Nat) (e : EStep) (l : LayerRec) : Bool :=
  (s.stepLayers e).all (fun y => decide (l.index ≤ y.index) || e.layerClosed y.index) &&
    s.est.steps.all fun f => decide (e.place ≤ f.place) || f.handle ≠ e.handle || f.fail ≠ 0 || !f.handed ||
      (s.stepLayers f).all fun y => y.cls ≠ l.cls || (f.colsOn y.index d).2 = 0 || f.closed.any fun z => z.1 = y.index && z.2 = d

/-- POSTING_OPEN: the die Headland posts a layer of a step. A posting behind another on its counter, or one whose turn has not come, is
queued and opens with a later event; for a posting that is OPEN, its split tiles are added and the counter closes (R229). `census` gives the
update list of each scatter tile (R136), `halo` the slots that are zero-filled and `writer` the layer that writes the halo slots which
this one reads (R228). -/
def execPostingOpen (d : DieId) (step : Nat) (layer : Nat) (census : List SkewCensus) (halo : List (Nat × Nat)) (writer : Option Nat)
    (s : State) : Res :=
  .next (match s.step? step with
    | none => s
    | some e => match (s.handle e.handle).stream, (s.stepLayers e).find? fun l => l.index = layer with
      | some st, some l => match st.cls l.cls, st.bucketFor layer e.m with
        | some r, some b =>
          let q := (s.die d).ctr l.ctr
          let isQueued := q.queue.any fun p => p.step = step && p.layer = layer
          if q.st = .open && q.step = step && q.layer = layer then s.addSplits d l.ctr
          else if !e.handed || e.fail ≠ 0 || (e.colsOn layer d).2 = 0 || (e.posted.any fun y => y.1 = layer && y.2 = d) then s
          else if s.mayOpen d e l && q.st ≠ .open && q.st ≠ .closed && (match q.queue with | [] => true | p :: _ => p.step = step && p.layer = layer) then
            let s := s.openPosting d e st l r b census writer
            halo.foldl (fun (s : State) z => s.ownWrite (dieSrc d) z.1 (List.replicate z.2 0)) s
          else if isQueued || decide (15 ≤ q.queue.length) then s
          else s.modCtr d l.ctr fun q => { q with queue := q.queue ++ [⟨step, e.handle, layer⟩] }
        | _, _ => s
      | _, _ => s)

/-- AFFWAIT_EXPIRY: AFFWAIT microseconds after a posting opened, its preferred tiles are free to every core (R227). -/
def execAffwaitExpiry (d : DieId) (ctr : Nat) (s : State) : Res :=
  .next (let x := s.die d
    let q := x.ctr ctr
    if (q.st = .open ∨ q.st = .closed) ∧ q.opened + x.affwait ≤ s.us then s.modCtr d ctr fun q => { q with affOver := true } else s)

/-- RETRY_AVAILABLE: the oldest retry entry that waits becomes available 2 µs after its revocation (R230). -/
def execRetryAvailable (d : DieId) (s : State) : Res :=
  .next (let rec go : List Retry → List Retry
      | [] => []
      | r :: rs => if !r.avail && decide (r.since + 2 ≤ s.us) then { r with avail := true } :: rs else r :: go rs
    s.modDie d fun x => { x with retry := go x.retry })

/-! ### TAKE (R96, R230 to R232) -/

/-- TAKE: asks the counter of the core's die for a tile; the task waits in the counter. -/
def execTake (c : CoreId) (t : SlotId) (s : State) : Res :=
  .next (s.issue c t .take fun w s =>
    let ts := (s.core c).slot t
    s.checked c t [(ts.held.isSome, 0x31), ((ts.target (bits w 46 35)).isNone, 0x32)] fun s =>
      s.modCore c fun k => { k.modSlot t fun ts =>
        { ts with st := .blocked, blk := .take (bits w 52 47) (sext (bits w 46 35) 12) } with progress := true, lastIssue := t, cycle := k.cycle + 1 })

/-- The program-store word at which the layer's key-frame variant begins, if it has one. -/
def Stream.keyBase (st : Stream) (l : LayerRec) : Option Nat := (st.program l.cls l.pkey).map fun p => p.pbase

/-- The parts of a split that a core has run or holds. -/
def State.ranPart (s : State) (c n : Nat) (q : Counter) (base : Nat) : Bool :=
  q.splits.any fun x => x.base = base && x.kind = 1 &&
    (Tab.get 0 q.committer (x.tile + 2 ^ 40) = c + 1 ||
      (List.range 4).any fun t => match ((s.core c).slot t).held with | some h => h.ctr = n && h.tile.toNat = x.tile | none => false)

/-- Whether a part, new or reissued, waits for another core: this one has run a part of the split, and a free core of the class has not
(R240). When a core is free the manual does not say: the model takes one none of whose slots holds a tile (DESIGN CHOICE,
notes/assumptions/174.md). -/
def State.partBarred (s : State) (c n : Nat) (q : Counter) (t : Nat) : Bool :=
  match q.splits.find? fun x => x.tile = t && x.kind = 1, s.ctrClass q with
  | some x, some (_, r) => s.ranPart c n q x.base && (s.classCores r (coreDie c)).any fun y => y ≠ c && !s.ranPart y n q x.base &&
      (List.range 4).all fun u => ((s.core y).slot u).held.isNone
  | _, _ => false

/-- Whether a core may have a retry entry of a counter (R230, R148, R240). -/
def State.mayRetry (s : State) (c t n : Nat) (q : Counter) (r : Retry) : Bool :=
  r.ctr = n && r.avail && !s.partBarred c n q r.tile &&
    (r.excl ≠ c || (match s.ctrClass q with | some (_, k) => (s.classCores k (coreDie c)).all fun y => y = c | none => true)) &&
    (!(r.tile ∈ q.keyTiles) || match (s.handle q.handle).stream with
      | some st => match st.layers.find? fun l => l.index = q.layer with
        | some l => st.keyBase l = some ((s.core c).slot t).pbase
        | none => true
      | none => true)

/-- Whether R227 reserves a tile for another core: its preferred core, by R228 for a posting that reads halo slots, is in service and AFFWAIT has
not passed. Of a split, part 0 keeps the tile's number and its preferred core. -/
def State.reserved (s : State) (c : Nat) (q : Counter) (t : Nat) : Bool :=
  let (i, j) := q.place t
  let p := match q.rowPrefer with | some r => Tab.get 0 r i | none => Tab.get 0 q.prefer (placeKey i j)
  !q.affOver && p ≠ 0 && p ≠ c + 1 && s.role (p - 1) = .inService && (q.splits.all fun x => x.tile ≠ t || (x.kind = 1 && x.part = 0))

/-- The new or dependent tile that a core may have (R230): never-taken tiles in ascending order, a merge tile once its parts have
committed. While RETRY_LOW holds there is none (R237). -/
def State.newTile (s : State) (c n : Nat) (q : Counter) : Option Nat :=
  if (s.die (coreDie c)).retryLow then none
  else
    let fresh := (List.range q.total).filter fun t => !(t ∈ q.taken)
    let merge := fun t => q.splits.find? fun x => x.tile = t && x.kind = 2
    (fresh.find? fun t => (merge t).isNone && !s.reserved c q t && !s.partBarred c n q t).orElse fun _ =>
      fresh.find? fun t => match merge t with | some x => x.deps.all fun y => y ∈ q.committed | none => false

/-- The first entry that a counter may hand a core: a tile with its generation's retry number, and the retry entry it empties. -/
def State.nextTile (s : State) (c t n : Nat) (q : Counter) : Option (Nat × Nat × Option Retry) :=
  match (s.die (coreDie c)).retry.find? (s.mayRetry c t n q) with
  | some r => some (r.tile, r.gen % 256, some r)
  | none => (s.newTile c n q).map fun x => (x, 0, none)

/-- The DLA that PWSEL puts into a parameter word (R211): the first weight tile of posting column j in the copy its engine reads; an
input-gradient pass, `grad`, has the one copy (R140). -/
def weightDla (l : LayerRec) (cfg : SlotCfg) (reef grad : Bool) (tn j : Nat) : Nat :=
  let s := if reef then 512 else 256
  let w := if reef then cfg.bw + 2 else if cfg.wfmt = 3 then 4 else if cfg.wfmt = 4 then 8 else cfg.bw
  (if l.wclass = 2 ∧ reef ∧ !grad then l.aux else l.weights) + j * tn / 256 * ceilDiv l.depth s * 256 * w * 32

/-- PW0 and PW1 of a tile (R211). Those of a split's part point to its share of the update list and to its region of the merge area (R240). -/
def State.paramPair (s : State) (q : Counter) (t : Nat) : W32 × W32 :=
  match q.splits.find? fun x => x.tile = t && x.kind = 1 with
  | some x => (BitVec.ofNat 32 x.listAt, BitVec.ofNat 32 x.mergeAt)
  | none =>
    let (i, j) := q.place t
    match (s.handle q.handle).stream with
    | none => (0, 0)
    | some st => match st.layers.find? (fun l => l.index = q.layer), st.buckets.find? fun b => b.layer = q.layer && b.bucket = q.bucket with
      | some l, some b =>
        let cfg := match st.slots.find? fun x => x.cls = l.cls && x.slot = l.slot with | some x => slotCfg l.slot x.win.toNat x.wout.toNat | none => slotCfg 0 0 0
        let dla := BitVec.ofNat 32 (weightDla l cfg (j ∈ q.reefCols) (st.gradientOf l).isSome q.tn j)
        (if l.pwsel = 1 then dla else BitVec.ofNat 32 (b.base0 + i * b.si0 + j * b.sj0),
          if l.pwsel = 2 then dla else BitVec.ofNat 32 (b.base1 + i * b.si1 + j * b.sj1))
      | _, _ => (0, 0)

/-- X4 of a TAKE (R231). -/
def takeX4 (vm vb kind part k retry : Nat) : W32 :=
  BitVec.ofNat 32 (vm + 256 * vb + 2 ^ 13 * kind + 2 ^ 16 * part + 2 ^ 20 * k + 2 ^ 24 * retry)

/-- A tile goes to a waiting task: the lease, the registers and the slot's tile (R231, R233). -/
def State.handOut (c t n : Nat) (q : Counter) (tile retry : Nat) (entry : Option Retry) (s : State) : State :=
  let d := coreDie c
  let gen : W32 := BitVec.ofNat 32 (q.pseq * 256 + retry)
  let (i, j) := q.place tile
  let (pw0, pw1) := s.paramPair q tile
  let l := s.layerOf q.handle q.layer
  let jl := match l with | some l => ceilDiv l.nout q.tn | none => 0
  let vm := if i + 1 = q.i then q.vm else q.tm
  let vb := if j + 1 = jl then q.vb else q.tn / 256
  let sp := q.splits.find? fun x => x.tile = tile
  let x4 := match sp with | some x => takeX4 vm vb x.kind x.part x.k retry | none => takeX4 vm vb 0 0 0 retry
  let s := s.modDie d fun x =>
    let x := { x.setLease (leaseIx c t) (Lease.make (BitVec.ofNat 32 tile) gen (leaseCtl 1 n 0)) with
      handed := Tab.insert x.handed (leaseIx c t) (some (n, tile, gen)) }
    let x := x.setCtr n { x.ctr n with taken := if entry.isSome then (x.ctr n).taken else (x.ctr n).taken ++ [tile] }
    match entry with
    | some r => { x with retry := x.retry.erase r, statRetries := satInc x.statRetries }
    | none => x
  s.modCore c fun k =>
    let k := { k with satTile := 0, progress := true }
    k.modSlot t fun ts =>
      let ts := (((ts.setX 7 (BitVec.ofNat 32 tile)).setX 5 pw0).setX 6 pw1).setX 4 x4
      { ts with st := .ready, blk := .none, pc := ts.pc + 1,
                held := some ⟨BitVec.ofNat 32 tile, gen, q.svc, j ∈ q.reefCols, n, vm, vb, match l with | some l => l.depth | none => 0⟩ }

/-- TAKE_SERVE: the counter serves a waiting TAKE: EXH when it is IDLE, DRAINED or FAILED, otherwise the first entry the core may have, unless it
is held (R230, R232). A standby whose join is not complete is handed no tile (R249). -/
def execTakeServe (c : CoreId) (t : SlotId) (s : State) : Res :=
  .next (let ts := (s.core c).slot t
    match ts.blk with
    | .take n exh =>
      let q := (s.die (coreDie c)).ctr n
      if !s.canIssue c || (c : Nat) ∈ (s.die (coreDie c)).joining then s
      else if q.st ≠ .open ∧ q.st ≠ .closed then
        s.modCore c fun k => { k.modSlot t fun ts => { ts with st := .ready, blk := .none, pc := ((ts.pc : Int) + exh).toNat } with progress := true }
      else if q.held then s
      else match s.nextTile c t n q with
        | some (tile, retry, entry) => s.handOut c t n q tile retry entry
        | none => s
    | _ => s)

/-! ### DONE and commits (R234, R235) -/

/-- DONE: the core sends the commit of its tile, with the tile's final RQ_SAT_TILE (R63); a core with an uncorrectable error in its logic sends none (R245). -/
def execDone (c : CoreId) (t : SlotId) (s : State) : Res :=
  .next (s.issue c t .done fun _ s =>
    match ((s.core c).slot t).held with
    | none => s.fault c t 0x31
    | some h => s.modCore c fun k => { k.modSlot t fun ts =>
        { ts with st := .blocked, blk := .done, commit := if k.ue then .none else .sent h.tile h.gen h.ctr k.satTile } with
          progress := true, lastIssue := t, cycle := k.cycle + 1 })

/-- A commit that passes: the entry is FREE and the tile counts, reported with its saturations (R63). A core whose TAG_MISMATCH this retry was to decide is beached (R244). -/
def State.commitTile (c t n tile : Nat) (gen : W32) (sat : Nat) (s : State) : State :=
  let d := coreDie c
  let q := (s.die d).ctr n
  let s := s.modDie d fun x => { x.setLease (leaseIx c t) ((x.lease (leaseIx c t)).withSt 0) with handed := Tab.erase x.handed (leaseIx c t) }
  if gen.toNat / 256 ≠ q.pseq then s
  else
    let (i, j) := q.place tile
    let blame := Tab.get 0 q.tagBy tile
    let s := s.modCtr d n fun q =>
      { q with committed := q.committed ++ [tile], committer := Tab.insert (Tab.insert q.committer (placeKey i j) (c + 1)) (tile + 2 ^ 40) (c + 1),
               sats := Tab.set 0 q.sats tile sat }
    let s := if blame ≠ 0 ∧ blame < 1000 ∧ blame ≠ c + 1 then s.beach d [coreLocal (blame - 1)] 4 else s
    s.drainCheck d n

/-- LEASE_COMMIT: the lease table checks a commit: the pair, that the entry is HELD, and that tile, generation and counter agree.
`pairOk` says whether the commit's pair arrived whole, `upsets` which stored bits of the die's lease table have changed (R235). -/
def execLeaseCommit (c : CoreId) (t : SlotId) (pairOk : Bool) (upsets : List LeaseUpset) (s : State) : Res :=
  .next (match ((s.core c).slot t).commit with
    | .sent tile gen n sat =>
      let d := coreDie c
      let e := leaseIx c t
      let s := s.upsetLeases d upsets
      let answer := fun (ok : Bool) (s : State) => s.modSlot c t fun ts => { ts with commit := .answered ok }
      let discard := fun (s : State) => answer false
        ((s.modDie d fun x => { x with statStale := satInc x.statStale }).revoke d e none)
      let l := (s.die d).lease e
      if !pairOk then discard (s.pairError 6)
      else if l.pairOk ∧ l.st = 1 ∧ l.tile = tile ∧ l.gen = gen ∧ l.ctr = n then answer true (s.commitTile c t n tile.toNat gen sat)
      else discard s
    | _ => s)

/-- DONE_COMPLETE: the reply returns, and the slot holds no tile. -/
def execDoneComplete (c : CoreId) (t : SlotId) (s : State) : Res :=
  .next (match ((s.core c).slot t).commit with
    | .answered _ =>
      if ((s.core c).slot t).blk = .done ∧ s.canIssue c then
        s.modCore c fun k => { k.modSlot t fun ts =>
          { ts with st := .ready, blk := .none, pc := ts.pc + 1, held := none, commit := .none } with progress := true }
      else s
    | _ => s)

/-- LEASE_EXPIRED: a lease whose AGE has reached LEASE_TMO, in units of 16 µs, is revoked and recorded, and its slot stops at once and
restarts later (R236); one whose stored pair fails its check is REVOKED and reissued (R235). -/
def execLeaseExpired (d : DieId) (e : Nat) (upsets : List LeaseUpset) (s : State) : Res :=
  .next (let s := s.upsetLeases d upsets
    let x := s.die d
    let l := x.lease e
    if !l.pairOk then s.leasePairFault d e none
    else if l.st = 1 ∧ x.leaseTmo ≠ 0 ∧ 16 * x.leaseTmo ≤ l.age then
      let s := s.record 0x0024 d (b8 d ++ b8 l.ctr ++ b8 0 ++ b8 0 ++ leBytes 4 l.tile.toNat ++ leBytes 4 l.gen.toNat) (leaseCore d e)
      s.stopSlot (leaseCore d e) (e % 4) true
    else s)

end Sys2Proof.Machine
end

