-- ==== Sys2Proof/Machine/Fence.lean ====
section
/-! DEFINITION. Beaching, the fencing sequence and the join of a standby (R23, R26, R241 to R251), and core reset (R394 to R396, R400). -/
-- Log entries (notes/assumptions): DESIGN CHOICE 22, 165, 173; DEDUCED 57, 68, 74.

namespace Sys2Proof.Machine

/-! ### Core reset -/

/-- A core after core reset: every register at its reset value, its ON banks in their zero fill and bank power unchanged (R109, R164,
R174, R178); its incarnation advances (R395). -/
def Core.reset (now : Nat) (k : Core) : Core :=
  let keep := fun w : Nat => decide ((k.spd.bank (k.spd.bankOf w)).st ≠ .on)
  { spd := { bankReq := k.spd.bankReq,
             banks := k.spd.banks.map fun b => (b.1, if b.2.st = .on then { b.2 with st := .waking, since := now, queue := [] } else { b.2 with queue := [] }),
             words := k.spd.words.filter fun w => keep w.1, errs := k.spd.errs.filter fun w => keep w.1, poison := k.spd.poison.filter fun w => keep w.1 },
    rowMap := k.rowMap, moveSeq := k.moveSeq,
    gated := k.gated, logicOff := k.logicOff, inReset := k.inReset, account := k.account, inc := (k.inc + 1) % 16 }

/-- A core in reset forgets the words that it still waited for: nothing lands of their answers. -/
def State.dropReads (c : Nat) (s : State) : State :=
  let mine := fun f : Flight => match f with | .read src _ _ _ _ _ => decide (src = c) | _ => false
  let asked := fun q : QReq => decide (q.src / 4 = c) && match q.body with | .read _ => true | .write .. => false
  let cores := s.cores.map fun k => (k.1, k.2.modSpd fun m =>
    { m with banks := m.banks.map fun b => (b.1, { b.2 with queue := b.2.queue.filter fun q => !asked q }) })
  { s with fabric := s.fabric.filter fun f => !mine f, cores := cores }

/-- The requests outstanding to a core that enters reset complete to their requesters with RESET_LOST (R395): a write does not land, and the
word of a read lands poisoned, as one answered UNPOWERED does (DESIGN CHOICE, notes/assumptions/165.md). For how many of them a reply of the
incarnation before was on its way, which its requester then drops and BW_STAT_STALE counts, the manual leaves open: a free value
(notes/assumptions/173.md). -/
def State.resetLost (c : Nat) (s : State) : State :=
  let toC := fun f : Flight => match f with
    | .write _ _ tgt _ _ _ _ => decide (tgt = c)
    | .read _ _ tgt _ _ _ => decide (tgt = c)
    | .sig .. => false
  let out := s.fabric.filter toC
  let held := (s.core c).spd.banks.flatMap fun b => b.2.queue
  let s := ({ s with fabric := s.fabric.filter fun f => !toC f } : State).modSpd c fun m =>
    { m with banks := m.banks.map fun b => (b.1, { b.2 with queue := [] }) }
  let s := out.foldl (fun (s : State) f => match f with | .read src _ _ _ l _ => s.land src l 0 true | _ => s) s
  let s := held.foldl (fun (s : State) q => match q.body with | .read l => s.land (q.src / 4) l 0 true | .write .. => s) s
  let n := out.length + held.length
  if n = 0 then s
  else
    let (v, s) := s.draw
    { s with bw := { s.bw with statStale := satAdd s.bw.statStale (v % (n + 1)) } }

/-- Clears a core's counts of double-error corrections (R243). -/
def State.clearCe2 (c : Nat) (s : State) : State :=
  { s with bw := { s.bw with ce2Prev := Tab.erase s.bw.ce2Prev c, ce2Cur := Tab.erase s.bw.ce2Cur c, ce2Last := Tab.erase s.bw.ce2Last c } }

/-- Revokes the leases of a core, as one operation (R235). -/
def State.revokeCore (c : Nat) (s : State) : State :=
  (List.range 4).foldl (fun (s : State) t => s.revoke (coreDie c) (leaseIx c t) none) s

/-- Core reset (R394 to R396, R400): leases revoked, the core at its reset values. The cause byte of the entry has no values in the manual:
a free value (notes/assumptions/22.md). -/
def State.coreReset (c : Nat) (s : State) : State :=
  let s := (((s.revokeCore c).dropReads c).resetLost c).clearCe2 c
  let s := ((s.modCore c (Core.reset s.us)).watch [c]).awaitRewrite (if (s.claimOf c).isSome then [c] else [])
  let (v, s) := s.draw
  s.record 0x0003 (coreDie c) (b8 v ++ b8 (s.core c).inc) c 1

/-! ### Detection (R241 to R244) -/

/-- HEARTBEAT_TIMEOUT: for 10 µs no valid health word of a core has brought a new HBEAT, and the management plane beaches it (R242). -/
def execHeartbeatTimeout (c : CoreId) (s : State) : Res :=
  .next (if !s.fenced c && !(s.core c).inReset && s.role c ≠ .disabled && decide ((Tab.get (0, 0) s.bw.hbeatSeen c).2 + 10 ≤ s.us) then
      s.beach (coreDie c) [coreLocal c] 2
    else s)

/-- CE2_WINDOW_END: after 2^20 epochs, cores over CE2_LIMIT in this window and the one before are beached (R243). -/
def execCe2WindowEnd (s : State) : Res :=
  .next (if s.bw.epoch % 2 ^ 20 ≠ 0 ∨ s.bw.epoch = 0 then s
    else
      let excess := (List.range 144).filter fun c =>
        decide (s.sec.ce2Limit < Tab.get 0 s.bw.ce2Prev c) && decide (s.sec.ce2Limit < Tab.get 0 s.bw.ce2Cur c)
      let s := (List.range 4).foldl (fun (s : State) d => s.beach d ((excess.filter fun c => coreDie c = d).map coreLocal) 3) s
      { s with bw := { s.bw with ce2Prev := s.bw.ce2Cur, ce2Cur := [] } })

/-! ### The fence event (R246 steps 2 and 3) -/

/-- The standby of group `g` of die `d`: the standby with the lowest local number that is not beached. -/
def State.standbyOf (s : State) (d g : Nat) : Option Nat :=
  ((List.range 9).map fun p => 36 * d + 9 * g + p).find? fun c => s.role c = .standby && !s.fenced c

/-- Records that a class has fallen below MINCORES, and fails the postings of a class that has no in-service core left (R250). `before`
and `now` are the numbers of its in-service cores. -/
def State.classShort (h : Nat) (r : ClassRec) (before now : Nat) (s : State) : State :=
  let s := if r.minCores ≤ before ∧ now < r.minCores then
      (s.record 0x0022 4 (b8 h ++ b8 r.cls ++ b8 now)).alert 1 else s
  if now = 0 then
    (List.range 4).foldl (fun (s : State) d => (List.range 64).foldl (fun (s : State) n =>
      let q := (s.die d).ctr n
      if (q.st = .open ∨ q.st = .closed) ∧ q.handle = h ∧ q.cls = r.cls then s.failPosting d n else s) s) s
  else s

/-- A beached core at its fence event: role, cause, leases revoked, slots stopped, banks draining, and its entry (R246 step 3). -/
def State.fenceOne (d seq cause c : Nat) (s : State) : State :=
  let held := ((List.range 4).filter fun t => ((s.die d).lease (leaseIx c t)).st = 1).length
  let s := (s.revokeCore c).setRole c .beached
  let s := s.modCore c fun k =>
    let k := (List.range 4).foldl (fun (k : Core) t => k.modSlot t fun ts => { ts with st := .stopped, blk := .none, held := none, variant := none }) k
    { k.modSpd (Spad.request 0 s.us true) with gated := true }
  let s := s.modDie d fun x => { x with fenceMask := x.fenceMask ||| 2 ^ coreLocal c, fenceCause := Tab.insert x.fenceCause (coreLocal c) cause,
                                        joining := x.joining.filter (· ≠ c) }
  (s.record 0x0020 d (b8 d ++ leBytes 2 seq ++ b8 cause ++ leBytes 4 held) c 1).logicCheck c

/-- The link of a fence event to the hub Headland, or to the die's. -/
def FenceEvt.link (toHub : Bool) (v : FenceEvt) : FenceLink := if toHub then v.hub else v.die
/-- A fence event with that link changed. -/
def FenceEvt.modLink (toHub : Bool) (f : FenceLink → FenceLink) (v : FenceEvt) : FenceEvt :=
  if toHub then { v with hub := f v.hub } else { v with die := f v.die }
/-- Changes one event of a die. -/
def Die.modEvt (seq : Nat) (f : FenceEvt → FenceEvt) (x : Die) : Die := { x with evts := x.evts.map fun y => if y.seq = seq then f y else y }

/-- FENCE_EVENT: a Headland receives the event on its way to it, the hub Headland or the die's. A pair that does not match is discarded and sets
the sticky error (R26). The die Headland holds the counters of the class, revokes the cores' leases and drains their banks; for a die that is
isolated the event takes effect though its Headland is in reset (R20, notes/assumptions/74.md). -/
def execFenceEvent (d : DieId) (toHub : Bool) (pairOk : Bool) (s : State) : Res :=
  .next (match (s.die d).evts.find? fun v => (v.link toHub).onWay with
    | none => s
    | some v =>
      if (if toHub then !s.hub.hubUp else (s.die d).inReset && !(s.die d).isolated) then s
      else
      let s := s.modDie d (Die.modEvt v.seq (FenceEvt.modLink toHub fun y => { y with onWay := false }))
      if !pairOk then s.pairError 0
      else if (v.link toHub).received then s
      else if toHub then s.modDie d (Die.modEvt v.seq (FenceEvt.modLink true fun y => { y with received := true }))
      else
        let cores := ((List.range 36).filter fun l => bit v.mask l).map (36 * (d : Nat) + ·)
        let lost := cores.filter fun c => s.role c = .inService
        let classes := (List.range 4).flatMap fun h => match (s.handle h).stream with
          | some st => (st.classes.filter fun r => lost.any r.claims).map fun r => (h, r)
          | none => []
        let inS := fun (s : State) (r : ClassRec) => (r.cores.filter fun c => s.role c = .inService).length
        let before := classes.map fun x => inS s x.2
        let s := cores.foldl (fun (s : State) c => s.fenceOne d v.seq (Tab.get 0 v.causes (coreLocal c)) c) s
        let s := s.modDie d fun x =>
          let ctrs := x.ctrs.map fun q => (q.1, if q.2.st ≠ .idle && (classes.any fun y => y.1 = q.2.handle && y.2.cls = q.2.cls) then { q.2 with held := true } else q.2)
          { x with ctrs := ctrs, holdSince := if x.fencing then x.holdSince else s.us, fencing := true,
                   heldCls := x.heldCls ++ (classes.map fun y => (y.1, y.2.cls)).filter fun y => !(y ∈ x.heldCls),
                   stbyGone := cores.foldl (fun t c => if c ∈ lost then t else Tab.insert t (coreGroup c) true) x.stbyGone,
                   evts := x.evts.map fun y => if y.seq = v.seq then { y with die := { y.die with received := true }, lost := lost } else y }
        (classes.zip before).foldl (fun (s : State) (x : (Nat × ClassRec) × Nat) => s.classShort x.1.1 x.1.2 x.2 (inS s x.1.2)) s)

/-- A link over which an event is sent again: one that the Headland has not acknowledged. -/
def FenceLink.resend (y : FenceLink) : FenceLink := if y.acked then y else { y with onWay := true }
/-- FENCE_RESEND: the management plane sends the oldest event that it last sent 1 µs ago or more again, to the Headlands that have not
acknowledged it (R26). -/
def execFenceResend (d : DieId) (s : State) : Res :=
  .next (let rec go : List FenceEvt → List FenceEvt
      | [] => []
      | v :: vs => if s.us < v.sent + 1 then v :: go vs else { v with die := v.die.resend, hub := v.hub.resend, sent := s.us } :: vs
    s.modDie d fun x => { x with evts := go x.evts })

/-! ### Retargeting and joining (R246 step 4, R247, R249) -/

/-- A window of the class after core `c` is beached and `joiner` joins, or `other` takes its CORE windows (R247). -/
def Win.retarget (c : Nat) (joiner other : Option Nat) (sameDie : Bool) (w : Win) : Win :=
  let off : Win := { w with kind := 0, rd := false, wr := false }
  if w.kind = 1 ∧ w.tcore = c then match joiner.orElse fun _ => other with | some k => { w with tcore := k } | none => off
  else if w.kind = 2 ∧ sameDie ∧ bit w.mask (coreLocal c) then
    let m := w.mask - 2 ^ coreLocal c
    let m := match joiner with | some k => m ||| 2 ^ coreLocal k | none => m
    if m = 0 then { off with mask := 0 } else { w with mask := m }
  else w

/-- Retargets every window of the class that names a beached core. -/
def State.retargetAll (c : Nat) (joiner : Option Nat) (s : State) : State :=
  match s.claimOf c with
  | none => s
  | some (_, _, r) =>
    let other := ((List.range 9).map fun p => 36 * coreDie c + 9 * coreGroup c + p).find? fun k => s.role k = .inService && !s.fenced k
    r.cores.foldl (fun (s : State) k => s.modSpd k fun m =>
      { m with wins := m.wins.map fun w => (w.1, w.2.retarget c joiner other (coreDie k = coreDie c)) }) s

/-- The die Headland starts the programs of a class's open postings on a core that joins. -/
def State.joinPostings (c : Nat) (s : State) : State :=
  match s.claimOf c with
  | none => s
  | some (h, st, r) => (s.die (coreDie c)).ctrs.foldl (fun (s : State) (q : Nat × Counter) =>
      if (q.2.st = .open ∨ q.2.st = .closed) ∧ q.2.handle = h ∧ q.2.cls = r.cls then
        match st.program r.cls q.2.prog with
        | some p => s.startProgram st p q.1 c
        | none => s
      else s) s

/-- The standby's join starts (R249): in service, no longer its group's standby; with STBYDATA 1 it takes tiles at once, with 0 its
banks are first powered and its data written. -/
def State.join (k : Nat) (s : State) : State :=
  let d := coreDie k
  let s := (s.setRole k .inService).modDie d fun x => { x with stbyGone := Tab.insert x.stbyGone (coreGroup k) true }
  match s.claimOf k with
  | none => s
  | some (_, st, r) =>
    if r.stbyData then s.joinPostings k
    else (s.requestBanks st r k).modDie d fun x => { x with joining := x.joining ++ [k] }

/-- FENCE_ACK: a Headland's acknowledgement of an event's sequence returns, as a complement pair; one that does not match is not acted on and
sets the sticky error (R22, R26). With the die Headland's, the windows that name its cores are retargeted and the standbys' joins start. An
event that both have acknowledged is not resent. -/
def execFenceAck (d : DieId) (fromHub : Bool) (pairOk : Bool) (s : State) : Res :=
  .next (match (s.die d).evts.find? fun v => (v.link fromHub).received && !(v.link fromHub).acked with
    | none => s
    | some v =>
      if !pairOk then s.pairError 0
      else
      let s := s.modDie d fun x =>
        let x := x.modEvt v.seq (FenceEvt.modLink fromHub fun y => { y with onWay := false, acked := true })
        { x with evts := x.evts.filter fun y => !(y.die.acked && y.hub.acked) }
      if fromHub then s
      else
      let s := s.modDie d fun x => { x with fenceSeq := v.seq }
      let cores := ((List.range 36).filter fun l => bit v.mask l).map (36 * (d : Nat) + ·)
      cores.foldl (fun (s : State) c =>
        let joiner := if c ∈ v.lost then s.standbyOf d (coreGroup c) else none
        let s := s.retargetAll c joiner
        match joiner with | some k => s.join k | none => s) s)

/-- JOIN_COMPLETE: a joining standby of a class with STBYDATA 0 has its banks ON; its data is written and it takes tiles (R191, R249). -/
def execJoinComplete (c : CoreId) (s : State) : Res :=
  .next (let d := coreDie c
    if !((c : Nat) ∈ (s.die d).joining) || !s.banksReady c || s.fenced c then s
    else match s.claimOf c with
      | none => s
      | some (_, st, r) =>
        let q := st.recsOf r c
        let pre := q.parts.filter fun p => 0 < p.pwords
        match s.preloadLines pre with
        | [] => if !s.rangesWork (preloadRanges pre) then s else ((s.fillData c q pre).modDie d fun x => { x with joining := x.joining.filter (· ≠ (c : Nat)) }).joinPostings c
        | ls => s.snoopData ls)

/-- FENCE_RELEASE: with every received event acknowledged and its windows retargeted, the held counters are released (R246 step 5,
R248), and the beached cores whose CORE_RESET waited for their fence are reset (R394). `ns` is the length of the hold; a fence that held no class held no counter and leaves DIE_HOLD_LAST. -/
def execFenceRelease (d : DieId) (ns : Nat) (s : State) : Res :=
  .next (let x := s.die d
    if !x.fencing || x.evts.any (·.open_) then s
    else
      let ns := if x.heldCls = [] then x.holdLast else min ns max32
      let s := s.modDie d fun x =>
        { x with ctrs := x.ctrs.map fun q => (q.1, { q.2 with held := false }), fencing := false, heldCls := [], holdLast := ns,
                 holdMax := max x.holdMax ns }
      let due := s.hub.resetAfterFence.filter fun c => coreDie c = (d : Nat) && s.role c = .beached
      due.foldl (fun (s : State) c => s.coreReset c) { s with hub := { s.hub with resetAfterFence := s.hub.resetAfterFence.filter fun c => !(c ∈ due) } })

/-- SELFTEST_DONE: the self-test of an UNBEACH ends: the core becomes its group's standby, or stays beached. The management plane reports the
result to the hub Headland through the mailbox (R25, R251); a command word whose pair does not match is discarded and sets the sticky error,
and the report is still to be made (R26), as it is while the hub Headland does not run (R28). -/
def execSelftestDone (c : CoreId) (pass : Bool) (pairOk : Bool) (s : State) : Res :=
  .next (let d := coreDie c
    if !((c : Nat) ∈ s.hub.selftest) || (s.core c).logicOff || !s.hub.hubUp then s
    else if !pairOk then s.pairError 3
    else
      let s := { s with hub := { s.hub with selftest := s.hub.selftest.filter (· ≠ (c : Nat)) } }
      if !pass then s.logicCheck c
      else
        let s := ((s.setRole c .standby).modCore c fun k => { k with gated := false }).watch [c.val]
        let g := coreGroup c
        let low := match s.standbyOf d g with | some k => coreLocal k | none => coreLocal c
        let s := s.modDie d fun x => { x with fenceMask := if bit x.fenceMask (coreLocal c) then x.fenceMask - 2 ^ coreLocal c else x.fenceMask,
                                              fenceCause := Tab.erase x.fenceCause (coreLocal c), stbyGone := Tab.insert x.stbyGone g false,
                                              stbyLocal := Tab.insert x.stbyLocal g low }
        s.record 0x0021 d (b8 d) c 1)

end Sys2Proof.Machine
end

