-- ==== Sys2Proof/Machine/Estuary.lean ====
section
/-! DEFINITION. Estuary: the intake window and its sequence words (R253 to R260), admission (R264 to R269), steps (R270 to R272) and the
completion ring (R273 to R276). -/
-- Log entries (notes/assumptions): DESIGN CHOICE 13, 23, 61, 160, 175, 176; DEDUCED 20, 60, 62, 67, 84, 131.

namespace Sys2Proof.Machine

/-! ### Streams and slots -/

/-- A stream table entry. -/
def State.ent (s : State) (n : Nat) : StreamEnt := Tab.get {} s.est.table n
/-- Applies a function to a stream table entry. -/
def State.modEnt (n : Nat) (f : StreamEnt → StreamEnt) (s : State) : State :=
  { s with est := { s.est with table := Tab.set {} s.est.table n (f (s.ent n)) } }
/-- The DLA of a stream's entry in region 2 (R261, R282). -/
def State.entDla (s : State) (n : Nat) : Nat := s.hdmBytes - 704 * 2 ^ 20 + 64 * n
/-- A stream's entry is written through to the table in DDR4 (R262, R408). -/
def State.writeEnt (n : Nat) (s : State) : State := (s.tableLine (s.entDla n) true true).2
/-- Applies a function to the statistics. -/
def State.modStat (f : EstStat → EstStat) (s : State) : State := { s with est := { s.est with stat := f s.est.stat } }
/-- The registers of a class. -/
def State.estClass (s : State) (n : Nat) : EstClass := Tab.get {} s.est.classes n
/-- The DLA of a slot (R253). -/
def State.slotDla (s : State) (r : SlotRef) : Nat :=
  match r with
  | .ctrl c => s.est.winBase + 64 * c
  | .stream n => s.est.winBase + 0x400 + 64 * n
/-- The slot that a DLA of the window lies in; none for the HEAD slot. -/
def State.slotAt (s : State) (dla : Nat) : Option SlotRef :=
  let o := dla - s.est.winBase
  if dla < s.est.winBase ∨ s.est.winBase + s.est.winSize ≤ dla then none
  else if o < 0x3C0 then some (.ctrl (o / 64))
  else if o < 0x400 then none
  else some (.stream ((o - 0x400) / 64))
/-- Whether Estuary examines writes. -/
def State.intake (s : State) : Bool := s.est.en && s.est.ready

/-- Little-endian bytes `lo` to `lo + n - 1` of a record. -/
def recField (r : List Byte) (lo n : Nat) : Nat := leNat ((r.drop lo).take n)
/-- OP, ECHO and SEQ of a stream record (R256). -/
def recOp (r : List Byte) : Nat := bits (recField r 0 8) 23 20
/-- ECHO of a record. -/
def recEcho (r : List Byte) : Nat := bits (recField r 0 8) 63 48
/-- SEQ of a record. -/
def recSeq (r : List Byte) : W32 := BitVec.ofNat 32 (recField r 56 4)
/-- USER of a record. -/
def recUser (r : List Byte) : Nat := recField r 32 8
/-- OP of a control record (R257). -/
def ctrlOp (r : List Byte) : Nat := bits (recField r 0 8) 3 0

/-- The stored sequence of a slot. -/
def State.storedSeq (s : State) (r : SlotRef) : W32 :=
  match r with | .ctrl c => Tab.get 0 s.est.ctrlSeq c | .stream n => (s.ent n).seq
/-- Writes the stored sequence of a slot. -/
def State.setSeq (r : SlotRef) (q : W32) (s : State) : State :=
  match r with
  | .ctrl c => { s with est := { s.est with ctrlSeq := Tab.set 0 s.est.ctrlSeq c q } }
  | .stream n => s.modEnt n fun e => { e with seq := q }

/-! ### Completion ring (R273 to R275) -/

/-- Whether CXL.cache writes take effect: Cache_Enable is set and the link runs in FULL mode (R345, R353). -/
def Cxl.cacheOn (x : Cxl) : Bool := x.cacheEn && x.mode = 1

/-- TAIL − HEAD modulo 2^32, R275. -/
def Est.fill (x : Est) : Nat := (x.tail - x.head).toNat
/-- Whether the ring takes no more entries. -/
def Est.ringFull (x : Est) : Bool := decide (2 ^ x.log2n ≤ x.fill)

/-- The 32 bytes of an entry (R273). -/
def cqBytes (x : Est) (e : CqEntry) : List Byte :=
  let phase := 1 - (x.tail.toNat >>> x.log2n) % 2
  leBytes 4 (e.slot + 2 ^ 20 * e.op + 2 ^ 24 * b2n e.ctrl + 2 ^ 31 * phase) ++ leBytes 1 e.answer ++ leBytes 1 e.reason ++ leBytes 2 0 ++
    leBytes 4 e.seq.toNat ++ leBytes 4 e.outLen ++ leBytes 8 e.user ++ leBytes 8 e.pos

/-- The request that writes bytes of one line of host memory (R353). -/
def d2hReq (addr : Nat) (bs : List Byte) : D2hReq :=
  if bs.length = 64 then .itoMWr (lineOf addr) else .woWrInv (lineOf addr) ((BitVec.ofNat 64 (2 ^ bs.length - 1)) <<< (addr % 64))
/-- A CXL.cache write to host memory, within one line (R353). -/
def State.hostWrite (addr : Nat) (bs : List Byte) (s : State) : State :=
  { s with out := { s.out with hostMem := putMem s.out.hostMem addr bs, d2h := s.out.d2h ++ [d2hReq addr bs] },
           cxl := { s.cxl with d2hWr := satInc s.cxl.d2hWr } }

/-- Whether a slot's STATUS still waits for a back-invalidate or a grant (R24, R274). -/
def State.statusWaits (s : State) (r : SlotRef) : Bool :=
  (s.cxl.waiting ++ s.cxl.held).any fun w => w.src = hubSrc && w.line = lineOf (s.slotDla r)

/-- Writes waiting entries in order while the ring has room, Cache_Enable is set, the CXL interface holds a grant and each one's STATUS is visible
(R24, R273 to R275). -/
def State.drainCqs : Nat → State → State
  | 0, s => s
  | fuel + 1, s => match s.est.cqWait with
    | [] => s
    | e :: es =>
      let r : SlotRef := if e.ctrl then .ctrl e.slot else .stream e.slot
      if s.est.ringFull || !s.cxl.cacheOn || !s.works cxlUnit || s.statusWaits r then s
      else
        let at_ := s.est.cqBase + 32 * (s.est.tail.toNat % 2 ^ s.est.log2n)
        let s := s.hostWrite at_ (cqBytes s.est e)
        State.drainCqs fuel { s with est := { s.est with cqWait := es, tail := s.est.tail + 1, notifyDue := true } }

/-- Writes what the ring takes, and shows CQ_FULL. -/
def State.drainCq (s : State) : State :=
  let s := s.drainCqs s.est.cqWait.length
  { s with est := { s.est with cqFull := s.est.ringFull } }

/-! ### Answers (R259, R267) -/

/-- An answer to a record; `at_` is the DLA of its STATUS where the window in force no longer holds it. -/
structure Ans where
  slot : SlotRef
  op : Nat
  answer : Nat
  reason : Nat
  seq : W32
  user : Nat := 0
  outLen : Nat := 0
  pos : Nat := 0
  status : Bool := true
  at_ : Option Nat := none

/-- Counts an answer (R278). -/
def EstStat.count (a : Ans) (x : EstStat) : EstStat :=
  match a.answer with
  | 1 => { x with admits := satInc x.admits }
  | 2 => { x with defer := satInc x.defer }
  | 3 => { x with refCap := satInc x.refCap }
  | 4 => { x with refPol := satInc x.refPol, torn := if a.reason = 0x11 then satInc x.torn else x.torn }
  | 6 => { x with failed := satInc x.failed }
  | _ => x

/-- Gives an answer: STATUS through the home agent, and a completion entry for a final one. -/
def State.answer (a : Ans) (s : State) : State :=
  let s := s.modStat (EstStat.count a)
  let s := if a.status then s.ownWrite hubSrc (a.at_.getD (s.slotDla a.slot) + 48) (leBytes 8 (a.answer + 256 * a.reason + 2 ^ 32 * a.seq.toNat)) else s
  if a.answer < 3 then s
  else
    let (n, c) : Nat × Bool := match a.slot with | .ctrl n => (n, true) | .stream n => (n, false)
    let e : CqEntry := ⟨n, a.op, c, a.answer, a.reason, a.seq, a.outLen, a.user, a.pos⟩
    ({ s with est := { s.est with cqWait := s.est.cqWait ++ [e] } }).drainCq

/-! ### Examination (R258, R262) -/

/-- The oldest write to a slot that is to be examined, and the rest. One that does not cover the sequence word is examined only while the
slot is pending, and else passed over. -/
def takeExam (r : SlotRef) (pending : Bool) : List Exam → Option (Exam × List Exam)
  | [] => none
  | e :: es =>
    if e.slot = r then (if e.covers || pending then some (e, es) else takeExam r pending es)
    else (takeExam r pending es).map fun x => (x.1, e :: x.2)
/-- The next write to a slot that Estuary examines, and the rest. -/
def Est.nextExam (x : Est) (r : SlotRef) : Option (Exam × List Exam) := takeExam r (x.pend.any fun p => p.slot = r) x.examine

/-- The states that pin a cache entry (R262). -/
def StreamSt.pins (x : StreamSt) : Bool := x = .admitted || x = .inStep || x = .closing

/-- Whether a slot's entry is at hand: control slots always are. -/
def State.cached (s : State) (r : SlotRef) : Bool :=
  match r with | .ctrl _ => true | .stream n => decide (n ∈ s.est.cache) && !decide (CacheUpset.stream n ∈ s.tmk.cacheBad)

/-- Asks for a stream's entry: a hit makes it most recent, a miss is outstanding while fewer than 64 are (R262). An uncorrectable entry is
discarded, and is fetched again (R408). -/
def State.touch (r : SlotRef) (s : State) : State :=
  match r with
  | .ctrl _ => s
  | .stream n =>
    let s := if CacheUpset.stream n ∈ s.tmk.cacheBad ∧ n ∈ s.est.cache then
        State.cacheUe (.stream n) 2 4 0 { s with est := { s.est with cache := s.est.cache.filter (· ≠ n) } }
      else s
    if n ∈ s.est.cache then { s with est := { s.est with cache := n :: s.est.cache.filter (· ≠ n) } }
    else if n ∈ s.est.misses ∨ 64 ≤ s.est.misses.length then s
    else
      let s := s.modStat fun x => { x with cacheMiss := satInc x.cacheMiss }
      { s with est := { s.est with misses := s.est.misses ++ [n] } }

/-- How a record's sequence word stands against the stored sequence (R258). -/
inductive SeqCase | live | torn | stale | bad
  deriving DecidableEq, Repr
/-- The case of a record. -/
def State.seqCase (s : State) (e : Exam) : SeqCase :=
  let q := recSeq e.rec_
  let st := s.storedSeq e.slot
  if q = st + 1 then (if recEcho e.rec_ = q.toNat % 65536 then .live else .torn) else if q = st then .stale else .bad

/-- A record becomes live: the stored sequence, the count, and the end of a pending state. -/
def State.goLive (e : Exam) (s : State) : State :=
  let s := (s.setSeq e.slot (recSeq e.rec_)).modStat fun x => { x with live := satInc x.live }
  let s := match e.slot with | .ctrl _ => s | .stream n => s.writeEnt n
  { s with est := { s.est with pend := s.est.pend.filter fun p => p.slot ≠ e.slot } }

/-- Examines the oldest waiting write of a slot if it is a live record that `want` takes; the state after is that of the live record. -/
def State.examineLive (r : SlotRef) (want : List Byte → Bool) (go : Exam → State → State) (s : State) : State :=
  if !s.intake then s
  else match s.est.nextExam r with
    | none => s
    | some (e, es) =>
      if !s.cached r then s.touch r
      else if s.seqCase e = .live ∧ want e.rec_ then go e (({ s with est := { s.est with examine := es } }).goLive e |>.touch r)
      else s

/-- INTAKE_STALE_WRITE: a write that makes no record live is counted, or leaves its slot pending (R258). -/
def execIntakeStaleWrite (slot : SlotRef) (s : State) : Res :=
  .next (if !s.intake then s
    else match s.est.nextExam slot with
      | none => s
      | some (e, es) =>
        if !s.cached slot then s.touch slot
        else
          let q := recSeq e.rec_
          let s' := State.touch slot { s with est := { s.est with examine := es } }
          match s.seqCase e with
          | .live => s
          | .stale => s'.modStat fun x => { x with stale := satInc x.stale }
          | .bad =>
            let s' := s'.modStat fun x => { x with seqBad := satInc x.seqBad }
            { s' with est := { s'.est with lastBadSlot := match slot with | .ctrl c => c | .stream n => n,
                                           lastBadCtrl := match slot with | .ctrl _ => true | .stream _ => false, lastBadSeq := q } }
          | .torn =>
            if s'.est.pend.any fun p => p.slot = slot then s'
            else { s' with est := { s'.est with pend := s'.est.pend ++ [⟨slot, e.since, q⟩] } })

/-- TORN_TIMEOUT: TORN_WAIT has passed since a torn write made the slot pending: it is refused with TORN (R258). The record
is read once the host holds its line modified no more (R350). -/
def execTornTimeout (slot : SlotRef) (s : State) : Res :=
  .next (match s.est.pend.find? fun p => p.slot = slot with
    | none => s
    | some p =>
      if !s.intake || decide (s.us < p.since + s.est.tornWait) || !s.hubWorks (s.slotDla slot) 64 then s
      else if s.dirtyLines (s.slotDla slot) 64 ≠ [] then s.snoopData (s.dirtyLines (s.slotDla slot) 64)
      else
        let s := { s with est := { s.est with pend := s.est.pend.filter fun p => p.slot ≠ slot } }
        let (r, _, s) := s.devRead .hub (s.slotDla slot) 64
        let (op, pos) := match slot with | .ctrl _ => (ctrlOp r, 0) | .stream n => (recOp r, (s.ent n).pos)
        s.answer { slot := slot, op := op, answer := 4, reason := 0x11, seq := p.seq, user := recUser r, pos := pos })

/-- A stream's entry is read from the table and enters the cache; the least recently used unpinned entry makes room (R262). What becomes of an
entry whose line is uncorrectable the manual does not say: the model keeps its values (DESIGN CHOICE, notes/assumptions/176.md). -/
def State.bring (n : Nat) (s : State) : State :=
  if n ∈ s.est.cache then s
  else
    let s := State.fresh_ (.stream n) (s.tableLine (s.entDla n) false true).2
    let cache := if s.est.cache.length < 4096 then s.est.cache
      else match s.est.cache.reverse.find? fun m => !(s.ent m).st.pins with
        | some v => s.est.cache.filter (· ≠ v)
        | none => s.est.cache
    { s with est := { s.est with cache := n :: cache } }
/-- STREAM_TABLE_FILL: a miss completes. -/
def execStreamTableFill (n : Nat) (s : State) : Res :=
  .next (if !(n ∈ s.est.misses) then s else State.bring n { s with est := { s.est with misses := s.est.misses.filter (· ≠ n) } })

/-! ### Enabling (R254, R255) -/

/-- BI_DELAY and TORN_WAIT of a write to EST_CTRL. -/
def Est.ctrlFields (v : W32) (x : Est) : Est := { x with biDelay := bits v.toNat 15 8, tornWait := bits v.toNat 23 16 }

/-- Whether the window that the registers name may be enabled (R254). -/
def State.windowOk (s : State) : Bool :=
  let n := (s.est.size - 1024) / 64
  decide (s.est.base + s.est.size ≤ s.hdmBytes) && s.openDla s.est.base s.est.size && decide (1024 ≤ s.est.size) &&
    s.est.size % 64 = 0 && decide (1 ≤ n) && decide (n ≤ 1048576)

/-- The window's reserved region (R254). -/
def Plm.setIntake (valid : Bool) (base size : Nat) (m : Plm) : Plm :=
  { m with regions := Tab.set {} m.regions 5 (if valid then ⟨true, base, size, 5, true⟩ else {}) }

/-- EST_ENABLE: EN goes from 0 to 1: the window is checked and becomes reserved, and the stream table is initialised. That EST_STREAMS takes n,
and that CFG_ERR clears, at an enable that succeeds is the model's choice (DESIGN CHOICE, notes/assumptions/175.md). -/
def execEstEnable (v : W32) (s : State) : Res :=
  .next (if !v.getLsbD 0 then s
    else
      let s := { s with est := s.est.ctrlFields v }
      if s.est.en then s
      else if !s.windowOk || s.cxl.mode = 2 then { s with est := { s.est with cfgErr := true } }
      else
        let x := s.est
        { s with est := { x with en := true, ready := false, cfgErr := false, winBase := x.base, winSize := x.size, streams := (x.size - 1024) / 64,
                                 table := [], ctrlSeq := [], examine := [], pend := [], cache := [], misses := [] },
                 plm := s.plm.setIntake true x.base x.size })

/-- The lines of `n` entries are written from page to page of region 2. -/
def State.initTable (n : Nat) (s : State) : State :=
  (List.range (ceilDiv n 512)).foldl (fun (s : State) k =>
    let p := pageOf (s.entDla 0) + k
    let e := s.page p
    let i := 4 * e.die + e.chan
    let m := min 512 (n - 512 * k)
    if e.st ≠ .mapped then s
    else (s.countLines i true m).setChan i { (s.countLines i true m).chanAt i with
      damage := (s.chanAt i).damage.filter fun x => !(decide (x.1 / 512 = e.ppn) && decide (x.1 % 512 < m)) }) s
/-- EST_INIT_DONE: the stream table is written at the DDR4 rate and READY sets (R254). -/
def execEstInitDone (s : State) : Res :=
  .next (if s.est.en && !s.est.ready then let t := s.initTable s.est.streams; { t with est := { t.est with ready := true } } else s)

/-- Every stream becomes CLOSED; a step in flight keeps what the completions of its requests need (R255). -/
def State.closeStreams (s : State) : State :=
  let orphans := fun e : EStep => (e.streams.filter fun n => (s.ent n).step = e.num).map fun n => (⟨n, s.slotDla (.stream n), s.ent n⟩ : Orphan)
  { s with est := { s.est with table := [], steps := s.est.steps.map fun e => { e with orphans := e.orphans ++ orphans e } } }

/-- EST_DISABLE: EN goes from 1 to 0: intake stops, streams close without an answer, and the window leaves the reserved regions. -/
def execEstDisable (v : W32) (s : State) : Res :=
  .next (if v.getLsbD 0 then s
    else
      let s := { s with est := s.est.ctrlFields v }
      if !s.est.en then s
      else
        let s := s.closeStreams
        { s with est := { s.est with en := false, ready := false, examine := [], pend := [], misses := [], cache := [], biWait := [] },
                 plm := s.plm.setIntake false 0 0 })

/-- EST_WINDOW_REG_WRITE: a write to EST_WINDOW_BASE_LO, BASE_HI or SIZE; while EN is 1 it sets WIN_WRITE, while HUB_LOCK is set it sets
LOCKED_WRITE, and in neither case does the register change (R11, R254). -/
def execEstWindowRegWrite (offset : Nat) (v : W32) (s : State) : Res :=
  .next (if offset ≠ 0x8 ∧ offset ≠ 0xC ∧ offset ≠ 0x10 then s
    else if s.est.en || s.hub.lock then
      { s with est := { s.est with winWrite := s.est.winWrite || s.est.en }, hub := { s.hub with lockedWrite := s.hub.lockedWrite || s.hub.lock } }
    else
      let x := s.est
      let w := v.toNat
      { s with est := if offset = 0x8 then { x with base := x.base / 2 ^ 32 * 2 ^ 32 + w / 65536 * 65536 }
                      else if offset = 0xC then { x with base := x.base % 2 ^ 32 + 2 ^ 32 * bits w 8 0 }
                      else { x with size := bits w 26 0 } })

/-! ### Admission (R264 to R266) -/

/-- Whether the stream in force in a handle serves a class; a handle that is LOADING has none yet, and passes (R264). -/
def State.serves (s : State) (h cls : Nat) : Bool :=
  match (s.handle h).stream with
  | some st => st.layers.any fun l => bit l.svc cls
  | none => (s.handle h).st = .loading

/-- Requests of a class that are ADMITTED or IN_STEP, EST_CLASSn_COUNT.ACTIVE; those of closing streams included. -/
def State.active (s : State) (cls : Nat) : Nat := (s.est.table.filter fun e => e.2.cls = cls && e.2.st.pins).length
/-- Deferred requests of a class. -/
def State.deferred (s : State) (cls : Nat) : Nat := (s.est.table.filter fun e => e.2.cls = cls && e.2.st = .deferred).length
/-- Open streams of a class; a CLOSING stream is not open (R264). -/
def State.opened (s : State) (cls : Nat) : Nat := (s.est.table.filter fun e => e.2.cls = cls && e.2.st ≠ .closed && e.2.st ≠ .closing).length
/-- Streams that are ADMITTED, IN_STEP or CLOSING (R263). -/
def State.pinnedStreams (s : State) : Nat := (s.est.table.filter fun e => e.2.st.pins).length

/-- The reason to defer a request of a handle and class, if there is one (R266). -/
def State.deferReason (s : State) (h cls : Nat) : Option Nat :=
  if (s.handle h).st = .loading ∨ (s.handle h).st = .replacing then some 3
  else if (s.estClass cls).activeMax ≤ s.active cls then some 1
  else if 3584 ≤ s.pinnedStreams then some 2
  else none

/-- Check 1 of R264 on the reserved bytes and IN_LEN. -/
def recordOk (r : List Byte) : Bool :=
  let w := recField r 0 8
  let n := bits w 47 32
  bits w 31 28 = 0 && recField r 28 4 = 0 && recField r 40 8 = 0 && recField r 60 4 = 0 &&
    (if recOp r = 2 then decide (1 ≤ n) && decide (n ≤ 4096) else (recOp r = 1 || recOp r = 3) && n = 0)

/-- The first check of R264 that a live stream record fails: its reason. -/
def State.policy (s : State) (n : Nat) (e : Exam) : Option Nat :=
  let r := e.rec_
  let w := recField r 0 8
  let x := s.ent n
  let op := recOp r
  let isOpen := x.st = .idle || x.st = .deferred || x.st = .admitted || x.st = .inStep
  let (h, cls) := if op = 1 then (bits w 27 26, bits w 25 24) else (x.handle, x.cls)
  if e.poison || !recordOk r then some 0x10
  else if bits w 19 0 ≠ n then some 0x12
  else if (op = 1 && x.st ≠ .closed) || (op ≠ 1 && !isOpen) then some 0x14
  else if op = 2 && x.st ≠ .idle then some 0x15
  else if (op = 1 || op = 2) && !s.openDla (recField r 8 8) 1 then some 0x13
  else if op = 2 && !s.openDla (recField r 16 8) (recField r 24 4) then some 0x13
  else if op = 3 then none
  else if (s.handle h).st = .empty then some 0x16
  else if !s.serves h cls then some 0x17
  else if op = 2 && decide ((s.estClass cls).mtok < bits w 47 32) then some 0x18
  else none

/-- A refusal by R264: a STREAM_BUSY, and a STREAM_STATE of a CLOSING stream, leave STATUS as it is. -/
def State.refuse (n : Nat) (e : Exam) (why : Nat) (s : State) : State :=
  let x := s.ent n
  s.answer { slot := .stream n, op := recOp e.rec_, answer := 4, reason := why, seq := recSeq e.rec_, user := recUser e.rec_, pos := x.pos,
             status := !(why = 0x15 || (why = 0x14 && x.st = .closing)) }

/-- STREAM_OPEN: a live OPEN record, or one whose OP is undefined, is checked; an OPEN that passes makes the stream IDLE (R265). -/
def execStreamOpen (n : Nat) (s : State) : Res :=
  .next (s.examineLive (.stream n) (fun r => recOp r ≠ 2 && recOp r ≠ 3) fun e s =>
    match s.policy n e with
    | some why => s.refuse n e why
    | none =>
      let w := recField e.rec_ 0 8
      let cls := bits w 25 24
      let a : Ans := { slot := .stream n, op := 1, answer := 5, reason := 0, seq := recSeq e.rec_, user := recUser e.rec_ }
      if (s.estClass cls).openMax ≤ s.opened cls then s.answer { a with answer := 3, reason := 0x0A }
      else (s.modEnt n fun x => { seq := x.seq, st := .idle, cls := cls, handle := bits w 27 26, ctx := recField e.rec_ 8 8 }).answer a)

/-- A request is admitted: into the pool, with TADM now, and its entry is at hand from then on (R262, R266, R268). -/
def State.admitStream (n : Nat) (s : State) : State :=
  let s := (s.bring n).modEnt n fun x => { x with st := .admitted, tadm := s.us, reason := 0 }
  let x := s.ent n
  s.answer { slot := .stream n, op := 2, answer := 1, reason := 0, seq := x.reqSeq, user := x.user, pos := x.pos }

/-- The answer that ends a stream's outstanding request without completing it. -/
def State.endRequest (n answer reason : Nat) (s : State) : State :=
  let x := s.ent n
  let s := s.modEnt n fun x => { x with st := .idle, op := 0, step := 0 }
  let s := s.answer { slot := .stream n, op := 2, answer := answer, reason := reason, seq := x.reqSeq, user := x.user, pos := x.pos }
  if x.st = .closing then
    (s.modEnt n fun x => { seq := x.seq }).answer
      { slot := .stream n, op := 3, answer := 5, reason := 0, seq := x.closeSeq, user := x.closeUser, pos := x.pos }
  else s

/-- STREAM_SUBMIT: a live SUBMIT record is checked and ADMITTED, DEFERRED or refused (R266). -/
def execStreamSubmit (n : Nat) (s : State) : Res :=
  .next (s.examineLive (.stream n) (fun r => recOp r = 2) fun e s =>
    match s.policy n e with
    | some why => s.refuse n e why
    | none =>
      let r := e.rec_
      let x := s.ent n
      let a : Ans := { slot := .stream n, op := 2, answer := 4, reason := 0x1A, seq := recSeq r, user := recUser r, pos := x.pos }
      if (s.handle x.handle).st = .unloading then s.answer a
      else
        let take := fun (st : StreamSt) (s : State) => s.modEnt n fun x =>
          { x with st := st, op := 2, reqSeq := recSeq r, inDla := recField r 8 8, outDla := recField r 16 8, outMax := recField r 24 4,
                   inLen := bits (recField r 0 8) 47 32, user := recUser r, tadm := s.us, step := 0 }
        match s.deferReason x.handle x.cls with
        | none => (take .admitted s).admitStream n
        | some why =>
          if (s.estClass x.cls).deferMax ≤ s.deferred x.cls then s.answer { a with answer := 3, reason := 0x08 }
          else ((take .deferred s).modEnt n fun x => { x with reason := why }).answer { a with answer := 2, reason := why })

/-- STREAM_CLOSE: a live CLOSE record (R269). One that waits for an admitted request is answered NONE at liveness (R259, R267). -/
def execStreamClose (n : Nat) (s : State) : Res :=
  .next (s.examineLive (.stream n) (fun r => recOp r = 3) fun e s =>
    match s.policy n e with
    | some why => s.refuse n e why
    | none =>
      let x := s.ent n
      let q := recSeq e.rec_
      let u := recUser e.rec_
      let done := fun s : State => (s.modEnt n fun x => { seq := x.seq }).answer
        { slot := .stream n, op := 3, answer := 5, reason := 0, seq := q, user := u, pos := x.pos }
      match x.st with
      | .deferred => done (s.endRequest n 4 0x19)
      | .idle => done s
      | _ => (s.modEnt n fun x => { x with st := .closing, closeSeq := q, closeUser := u }).answer
          { slot := .stream n, op := 3, answer := 0, reason := 0, seq := q, user := u, pos := x.pos })

/-- DEFER_TIMEOUT: a request deferred for longer than DEFER_TMO is refused (R266). -/
def execDeferTimeout (n : Nat) (s : State) : Res :=
  .next (let x := s.ent n
    if x.st = .deferred ∧ x.tadm + 1000 * (s.estClass x.cls).deferTmo ≤ s.us then s.endRequest n 3 0x09 else s)

/-- The deferred stream that re-examination takes next in a class: oldest TADM, ties to the lower number (R268). -/
def State.nextDeferred (s : State) (cls : Nat) : Option Nat :=
  (s.est.table.foldl (fun (b : Option (Nat × StreamEnt)) e =>
    if e.2.st = .deferred ∧ e.2.cls = cls then match b with
      | none => some e
      | some y => if e.2.tadm < y.2.tadm then some e else b
    else b) none).map (·.1)

/-- Re-examines the deferred requests of a class until the next would be deferred again (R268). -/
def State.reexamine : Nat → Nat → State → State
  | 0, _, s => s
  | fuel + 1, cls, s => match s.nextDeferred cls with
    | none => s
    | some n =>
      let x := s.ent n
      if (s.handle x.handle).st = .loaded ∧ !s.serves x.handle x.cls then State.reexamine fuel cls (s.endRequest n 4 0x17)
      else match s.deferReason x.handle x.cls with
        | some _ => s
        | none => State.reexamine fuel cls (s.admitStream n)

/-- DEFERRED_REEXAMINE: deferred requests are examined again, class by class. -/
def execDeferredReexamine (s : State) : Res :=
  .next (if !s.est.en then s else (List.range 4).foldl (fun (s : State) c => s.reexamine (s.deferred c) c) s)

/-! ### Steps (R270 to R272) -/

/-- Whether a step of a handle and class would read a tensor whose parameter write is held (R36, R270). -/
def State.readsHeld (s : State) (h cls : Nat) : Bool :=
  let layers := fun i : Nat => match (s.handle i).stream with | some st => st.layers | none => []
  s.kl.writeHeld.any fun tid =>
    match (layers (tid / 4096)).find? fun l => l.index = tid % 4096 with
    | none => false
    | some t => (layers h).any fun l => bit l.svc cls && l.weights = t.weights

/-- A request in the pool: ADMITTED, or CLOSING and not yet in a step. -/
def StreamEnt.waits (x : StreamEnt) : Bool := (x.st = .admitted || x.st = .closing) && x.step = 0

/-- Orders requests by TADM, then by stream number. -/
def byTadm (a b : Nat × StreamEnt) : Bool := decide (a.2.tadm < b.2.tadm) || (a.2.tadm = b.2.tadm && decide (a.1 ≤ b.1))

/-- Takes requests in order up to BATCH streams and MTOK positions; one that would exceed MTOK waits. -/
def takeStep : Nat → Nat → List (Nat × StreamEnt) → List (Nat × StreamEnt)
  | 0, _, _ => []
  | _, _, [] => []
  | k + 1, tok, e :: es => if e.2.inLen ≤ tok then e :: takeStep k (tok - e.2.inLen) es else []

/-- The layers of a handle's stream that a class runs. -/
def State.layersOf (s : State) (h cls : Nat) : List LayerRec :=
  match (s.handle h).stream with | some st => st.layers.filter fun l => bit l.svc cls | none => []
/-- Whether a step of a handle and class would share a tensor with a step in flight of which one is Train and the other is not (R36). -/
def State.sharesTensor (s : State) (h cls : Nat) : Bool :=
  s.est.steps.any fun e => (decide (e.cls = 2) != decide (cls = 2)) &&
    (s.layersOf h cls).any fun l => l.weights ≠ 0 && (s.layersOf e.handle e.cls).any fun x => x.weights = l.weights
/-- A request's place in a step list (R271). -/
def StreamEnt.stepReq (n : Nat) (x : StreamEnt) : StepReq :=
  { stream := n, pos := x.pos, inLen := x.inLen, ctx := x.ctx, inDla := x.inDla, outDla := x.outDla, outMax := x.outMax }
/-- The DLA of region 4, WORK, in which step lists lie (R282). -/
def State.workDla (s : State) : Nat := s.hdmBytes - 2 ^ 30

/-- STEP_FORM: a step of one handle and class forms when R270's conditions hold, and no step in flight shares a tensor with it that R36 keeps
apart. Where in region 4 its list lies the manual does not say: a free value. -/
def execStepForm (h : HandleId) (cls : Fin 4) (s : State) : Res :=
  .next (let k := s.estClass cls
    let pool := (s.est.table.filter fun e => e.2.waits && e.2.handle = h.val && e.2.cls = cls.val).insertionSort (byTadm · ·)
    let toks := (pool.map fun e => e.2.inLen).sum
    let inFlight := (s.est.steps.filter fun e => e.handle = h.val && e.cls = cls.val).length
    let old := match pool with | e :: _ => decide (e.2.tadm + k.wait ≤ s.us) | [] => false
    let ready := decide (k.batch ≤ pool.length) || decide (k.mtok ≤ toks) || old
    if !s.est.en || (s.handle h).st ≠ .loaded || pool = [] || !ready || decide (k.inflight ≤ inFlight) || s.readsHeld h cls ||
        s.sharesTensor h cls || s.est.ringFull || !s.cxl.cacheOn then s
    else
      let mine := takeStep k.batch k.mtok pool
      if mine = [] then s
      else
        let num := s.est.nextStep + 1
        let s := mine.foldl (fun (s : State) e => s.modEnt e.1 fun x =>
          { x with st := if x.st = .closing then .closing else .inStep, step := num }) s
        let (v, s) := s.draw
        let e : EStep := { num := num, handle := h, cls := cls, streams := mine.map (·.1), m := (mine.map fun e => e.2.inLen).sum,
                           listDla := s.workDla + 64 * (v % 2 ^ 20), list := mine.map fun e => e.2.stepReq e.1 }
        let s := s.modStat fun x => { x with steps := satInc x.steps }
        { s with est := { s.est with nextStep := num, steps := s.est.steps ++ [e] } })

/-- Whether `n` of `cols` columns is in proportion to `w` of `total` weight pages: the exact share, rounded down or up. -/
def inProportion (n cols w total : Nat) : Bool :=
  total = 0 || n = cols * w / total || (n = cols * w / total + 1 && cols * w % total ≠ 0)
/-- Whether a division of columns among dies is one that R224 allows: each layer's columns are divided whole among the dies on which
its class claims groups, in proportion to the layer's weight pages that the census of R296 finds on each. -/
def State.colsOk (s : State) (e : EStep) (cols : List (Nat × Nat × Nat)) : Bool :=
  match (s.handle e.handle).stream with
  | none => false
  | some st => (s.stepLayers e).all fun l => match st.cls l.cls, st.bucketFor l.index e.m with
    | some r, some b =>
      let mine := cols.filter fun x => x.1 = l.index
      let cols := ceilDiv l.nout b.tn
      let dies := (List.range 4).filter fun d => r.cores.any fun c => coreDie c = d
      let given := fun d : Nat => ((mine.filter fun x => x.2.1 = d).map fun x => x.2.2).sum
      let pages := fun d : Nat => match s.plm.ranges.find? fun w => w.handle = e.handle && w.layer = l.index with
        | some w => s.diePages w d
        | none => 0
      decide ((mine.map fun x => x.2.2).sum = cols) &&
        (dies.all fun d => inProportion (given d) cols (pages d) (dies.map pages).sum) &&
        mine.all fun x => x.2.2 = 0 || (r.cores.any fun c => coreDie c = x.2.1)
    | _, _ => false

/-- STEP_HANDOFF: the hub Headland hands a step to the die Headlands. `cols` names each layer's columns a die; how the proportion rounds the
manual leaves open (notes/assumptions/23.md). -/
def execStepHandoff (step : Nat) (cols : List (Nat × Nat × Nat)) (s : State) : Res :=
  .next (match s.step? step with
    | none => s
    | some e =>
      let place := (s.est.steps.map (·.place)).foldl max 0 + 1
      if e.handed || !s.hub.hubUp || !s.colsOk e cols then s else s.modStep step fun e => { e with handed := true, cols := cols, place := place })

/-- The answer to a request of a completed step: DONE, or FAILED with OUT_SHORT (R272). -/
def StreamEnt.doneAns (n outLen : Nat) (x : StreamEnt) : Ans :=
  let short := decide (x.outMax < outLen)
  { slot := .stream n, op := 2, answer := if short then 6 else 5, reason := if short then 0x22 else 0, seq := x.reqSeq, user := x.user,
    outLen := min outLen x.outMax, pos := x.pos + x.inLen }
/-- Ends a request of a completed step: POS, STATUS and the entry, and the CLOSE that waited for it (R272, R269). -/
def State.finish (n outLen : Nat) (s : State) : State :=
  let x := s.ent n
  let pos := x.pos + x.inLen
  let s := s.modEnt n fun x => { x with st := .idle, op := 0, step := 0, pos := pos }
  let s := s.answer (x.doneAns n outLen)
  if x.st = .closing then
    (s.modEnt n fun x => { seq := x.seq }).answer
      { slot := .stream n, op := 3, answer := 5, reason := 0, seq := x.closeSeq, user := x.closeUser, pos := pos }
  else s

/-- Whether a Train step waits on a ring operation: one of its tensors is queued or its operation has not ended (R34, R332). -/
def Kl.waitsOn (k : Kl) (step : Nat) : Bool := (k.queued.any fun q => q.2 = step) || k.ops.any fun o => o.step = step && o.handed && !o.ended

/-- Whether a word that a core has sent to an output area of a step still waits for a back-invalidate or a grant (R24, R274). -/
def State.outWaits (s : State) (e : EStep) : Bool :=
  (s.cxl.waiting ++ s.cxl.held).any fun w => decide (0 < w.src) && decide (w.src < hubSrc) && !w.isRead &&
    e.list.any fun q => decide (q.outDla < w.addr + w.data.length) && decide (w.addr < q.outDla + q.outMax)

/-- A request of a step whose stream a disable has closed. -/
def EStep.orphan (e : EStep) (n : Nat) : Option Orphan := e.orphans.find? fun o => o.stream = n
/-- STEP_COMPLETE: the last layer has closed everywhere and every output word has reached HDM, and every request ends in step-list order; it
waits while the hub Headland is down (R28, R272, R274). `outLens` gives the bytes of output of each. -/
def execStepComplete (step : Nat) (outLens : List Nat) (s : State) : Res :=
  .next (match s.step? step with
    | none => s
    | some e =>
      if !e.handed || e.fail ≠ 0 || !s.hub.hubUp || s.outWaits e || (!(s.stepLayers e).all fun l => e.layerClosed l.index) || s.kl.waitsOn step then s
      else
        let s := { s with est := { s.est with steps := s.est.steps.filter fun f => f.num ≠ step } }
        (e.streams.mapIdx fun i n => (i, n)).foldl (fun (s : State) (x : Nat × Nat) =>
          let len := outLens.getD x.1 0
          match e.orphan x.2 with
          | some o => s.answer { o.ent.doneAns x.2 len with at_ := some o.status }
          | none => if (s.ent x.2).step = step then s.finish x.2 len else s) s)

/-- STEP_FAILED: every request of a failed step answers FAILED, and POS is unchanged; it waits while the hub Headland is down (R28, R272). -/
def execStepFailed (step : Nat) (s : State) : Res :=
  .next (match s.step? step with
    | none => s
    | some e =>
      if e.fail = 0 || !s.hub.hubUp then s
      else
        let s := { s with est := { s.est with steps := s.est.steps.filter fun f => f.num ≠ step } }
        let why := if e.fail = 1 then 0x20 else 0x21
        e.streams.foldl (fun (s : State) n => match e.orphan n with
          | some o => s.answer { slot := .stream n, op := 2, answer := 6, reason := why, seq := o.ent.reqSeq, user := o.ent.user, pos := o.ent.pos,
                                 at_ := some o.status }
          | none => if (s.ent n).step = step then s.endRequest n 6 why else s) s)

/-! ### Ring, notify and back-invalidates -/

/-- CQ_HEAD_WRITE: Estuary reads the HEAD slot's count, and the ring may resume (R275). A line that the host may hold modified is called back
first (R350). -/
def execCqHeadWrite (s : State) : Res :=
  .next (if !s.est.en || !s.hubWorks (s.est.winBase + 0x3C0) 4 then s
    else if s.dirtyLines (s.est.winBase + 0x3C0) 4 ≠ [] then s.snoopData (s.dirtyLines (s.est.winBase + 0x3C0) 4)
    else
      let (bs, p, s) := s.devRead .hub (s.est.winBase + 0x3C0) 4
      if p then s else ({ s with est := { s.est with head := BitVec.ofNat 32 (leNat bs) } }).drainCq)

/-- NOTIFY_WRITE: TAIL goes to the notify address, at most once per EST_NOTIFY_GAP (R276). -/
def execNotifyWrite (s : State) : Res :=
  .next (let x := s.est
    if x.notifyEn && x.notifyDue && s.cxl.cacheOn && s.works cxlUnit && (x.notifyLast = 0 || decide (x.notifyLast + x.notifyGap ≤ s.us + 1)) then
      let s := s.hostWrite x.notifyAddr (leBytes 8 x.tail.toNat)
      { s with est := { s.est with notifyDue := false, notifyLast := s.us + 1 } }
    else s)

/-- BI_SNOOP_DELAY: BI_DELAY after the host took a window line, Estuary issues the back-invalidate (R260). BI_DELAY counts 100 ns; of its last,
unfinished microsecond the command says that it has passed (notes/assumptions/13.md). -/
def execBiSnoopDelay (line : Nat) (s : State) : Res :=
  .next (match s.est.biWait.find? fun w => w.1 = line with
    | some w =>
      if w.2 + s.est.biDelay / 10 ≤ s.us then
        ({ s with est := { s.est with biWait := s.est.biWait.filter fun w => w.1 ≠ line } }).snoop line true
      else s
    | none => s)

end Sys2Proof.Machine
end

