-- ==== Sys2Proof/Machine/Parse.lean ====
section
/-! DEFINITION. The structure stage of the Sorzeind loader: frames into records, and records into a stream (R184 to R187, R214 stage 2). -/
-- Log entries (notes/assumptions): DESIGN CHOICE 182; DEDUCED 63.

namespace Sys2Proof.Machine

/-- A failure that the loader reports: its code (R220), its section and its frame (R214). -/
structure LdrFail where
  code : Nat
  section_ : Nat
  frame : Nat
  deriving DecidableEq, Repr

/-- A record: its type, its section, its first frame, how many frames it takes and its bytes. -/
structure RawRec where
  type : Nat
  section_ : Nat
  frame : Nat
  frames : Nat
  bytes : List Byte
  deriving DecidableEq, Repr

/-- A run of frames whose record has not ended; `flags` says that a header's reserved bit was set. -/
structure Run where
  type : Nat
  section_ : Nat
  frame : Nat
  bytes : List Byte
  flags : Bool

/-- What the structure stage holds while it reads frames: the last head accepted and its counts, the records and frames since, and the
records so far, last first. -/
structure Reader where
  cur : Nat := 0
  headFrame : Nat := 0
  wantRecs : Nat := 0
  wantFrames : Nat := 0
  recs : Nat := 0
  frames : Nat := 0
  run : Option Run := none
  done : List RawRec := []

/-- A record type's section (R187): the high nibble of the type; a head may stand in every section. -/
def typeOk (ty sec : Nat) : Bool :=
  decide (1 ≤ sec) && decide (sec ≤ 10) &&
    (ty = 0 || (ty / 16 = sec && ty ∈ [0x11, 0x21, 0x31, 0x41, 0x51, 0x52, 0x53, 0x54, 0x61, 0x71, 0x81, 0x91, 0x92, 0xA1, 0xA2]))

/-- Whether a record has the length of its type (R185, R187). -/
def sizeOk (ty : Nat) (p : List Byte) : Bool :=
  let n := p.length
  decide (n ≤ 65536) &&
    match ty with
    | 0x00 => n = 8
    | 0x11 => n = 48
    | 0x21 => n = 16
    | 0x31 => n = 12
    | 0x41 => n = 260
    | 0x51 => n = 8
    | 0x52 => n = 40
    | 0x53 => decide (40 ≤ n) && (n - 8) % 32 = 0 && decide (n ≤ 8 + 32 * 2047)
    | 0x54 => n = 16
    | 0x61 => n = 32
    | 0x71 => n = 16
    | 0x81 => decide (16 ≤ n) && n = 16 + 8 * recField p 4 2
    | 0x91 => n = 64
    | 0x92 => n = 36
    | 0xA1 => n = 64
    | _ => n = 128

/-- Whether a record's reserved fields and bits are zero (R185, R188 to R210). Bits that a record's table neither names nor calls reserved are taken
one by one: those of SVC and APBM above the named ones must be zero too, and those of SCRUB are ignored (DESIGN CHOICE, notes/assumptions/182.md). -/
def reservedOk (ty : Nat) (p : List Byte) : Bool :=
  let z := fun lo n => recField p lo n = 0
  let zb := fun lo n hi b => bits (recField p lo n) hi b = 0
  match ty with
  | 0x11 => zb 7 1 7 1 && z 37 1 && z 40 8
  | 0x21 => zb 1 1 7 1 && z 5 11
  | 0x31 => z 2 2 && zb 4 4 30 24 && zb 8 4 31 13
  | 0x51 => z 5 3
  | 0x52 => zb 2 1 7 4 && z 3 1 && z 28 12
  | 0x53 => z 4 4
  | 0x54 => z 8 8
  | 0x61 => zb 3 1 7 5 && z 6 2 && zb 20 5 39 36 && z 25 7
  | 0x71 => z 4 4 && zb 8 8 63 53
  | 0x81 => zb 10 1 7 2 && z 11 5
  | 0x91 => zb 4 1 7 4 && zb 15 1 7 1 && z 56 8
  | 0x92 => z 3 1 && z 9 1
  | 0xA2 => z 122 6
  | _ => true

/-- How many records of a type a stream may hold, for the types that R187 limits as such. -/
def perStream : List (Nat × Nat × Nat) := [(0x11, 1, 1), (0x21, 1, 16), (0x91, 1, 4096), (0xA1, 1, 1), (0xA2, 0, 1)]

/-- The counts of the section that ends: the head's and those of R187. -/
def Reader.closed (r : Reader) : Option LdrFail :=
  if r.cur = 0 then none
  else if r.recs = r.wantRecs ∧ r.frames = r.wantFrames ∧ perStream.all (fun x => x.1 / 16 ≠ r.cur ||
      let n := (r.done.filter fun y => y.type = x.1).length
      decide (x.2.1 ≤ n) && decide (n ≤ x.2.2)) then none
  else some ⟨0x08, r.cur, r.headFrame⟩

/-- A record ends. -/
def Reader.close (r : Reader) (u : Run) (next : Nat) : Except LdrFail Reader :=
  let head := u.section_ ≠ r.cur
  match if head then r.closed else none with
  | some f => .error f
  | none =>
    if !sizeOk u.type u.bytes then .error ⟨0x09, u.section_, u.frame⟩
    else if u.flags || !reservedOk u.type u.bytes then .error ⟨0x0A, u.section_, u.frame⟩
    else
      let done := ⟨u.type, u.section_, u.frame, next - u.frame, u.bytes⟩ :: r.done
      .ok (if head then
        { cur := u.section_, headFrame := u.frame, wantRecs := recField u.bytes 0 4, wantFrames := recField u.bytes 4 4, done := done }
      else { r with recs := r.recs + 1, frames := r.frames + (next - u.frame), run := none, done := done })

/-- One frame, number `i`. -/
def Reader.frame (r : Reader) (i : Nat) (f : List Byte) : Except LdrFail Reader :=
  let h := recField f 0 4
  let ty := bits h 7 0
  let len := bits h 15 8
  let sec := bits h 23 16
  let more := bit h 24
  let head := fun code : Nat => (.error ⟨code, r.cur, i⟩ : Except LdrFail Reader)
  if recField f 4 4 ≠ 0xFFFFFFFF - h then head 0x04
  else if len = 0 ∨ 56 < len ∨ (f.drop (8 + len)).any (· ≠ 0) then head 0x05
  else if (match r.run with | some u => ty ≠ u.type || sec ≠ u.section_ | none => false) then head 0x06
  else if more ∧ len < 56 then head 0x05
  else if r.run.isNone ∧ !typeOk ty sec then head 0x06
  else if r.run.isNone ∧ ((sec ≠ r.cur ∧ (sec ≠ r.cur + 1 ∨ ty ≠ 0)) ∨ (sec = r.cur ∧ ty = 0)) then .error ⟨0x07, sec, i⟩
  else
    let pay := (f.drop 8).take len
    let flags := decide (1 < bits h 31 24)
    let u : Run := match r.run with
      | some u => { u with bytes := u.bytes ++ pay, flags := u.flags || flags }
      | none => ⟨ty, sec, i, pay, flags⟩
    if more then .ok { r with run := some u } else r.close u (i + 1)

/-- The frames of a stream, from number `i` on. -/
def Reader.read : Nat → List Byte → Nat → Reader → Except LdrFail Reader
  | 0, _, _, r => .ok r
  | n + 1, bs, i, r => match r.frame i (bs.take 64) with
    | .ok r => Reader.read n (bs.drop 64) (i + 1) r
    | .error f => .error f

/-- Stage 2: the records of a stream of `n` frames, in frame order. -/
def structureStage (n : Nat) (img : List Byte) : Except LdrFail (List RawRec) :=
  match Reader.read n img 0 {} with
  | .error f => .error f
  | .ok r => match r.run with
    | some u => .error ⟨0x09, u.section_, u.frame⟩
    | none =>
      if r.cur ≠ 10 then .error ⟨0x07, r.cur + 1, n - 1⟩
      else match r.closed with
        | some f => .error f
        | none => .ok r.done.reverse

/-! ### Records by type (R188 to R212) -/

/-- The records of one type. -/
def ofType {α : Type} (ty : Nat) (f : List Byte → Nat → α) (rs : List RawRec) : List α :=
  (rs.filter fun r => r.type = ty).map fun r => f r.bytes r.frame

/-- The stream that checked records spell. -/
def Stream.ofRecs (n : Nat) (rs : List RawRec) : Stream :=
  let g := recField
  let ident := match rs.find? fun r => r.type = 0x11 with | some r => r.bytes | none => []
  let sig := rs.find? fun r => r.type = 0xA2
  { ident := g ident 8 8
    signed := sig.isSome
    keyId := match sig with | some r => g r.bytes 0 8 | none => 0
    digest := match rs.find? fun r => r.type = 0xA1 with | some r => r.bytes | none => []
    frames := n
    classes := ofType 0x21 (fun p f => ⟨g p 0 1, bit (g p 1 1) 0, g p 2 2, g p 4 1, f⟩) rs
    slots := ofType 0x31 (fun p f => ⟨g p 0 1, g p 1 1, BitVec.ofNat 32 (g p 4 4), BitVec.ofNat 32 (g p 8 4), f⟩) rs
    cbs := ofType 0x41 (fun p f => ⟨g p 0 1, g p 1 1, g p 2 2, p.drop 4, f⟩) rs
    banks := ofType 0x51 (fun p f => ⟨g p 0 1, g p 1 1, g p 2 2, bit (g p 4 1) 0, f⟩) rs
    parts := ofType 0x52 (fun p f => ⟨g p 0 1, g p 1 1, g p 2 1, g p 4 2, g p 6 2, g p 8 8, g p 16 8, g p 24 4, f⟩) rs
    datas := ofType 0x53 (fun p f => ⟨g p 0 1, g p 1 1, g p 2 2, p.drop 8, f⟩) rs
    swash := ofType 0x54 (fun p f => ⟨g p 0 1, g p 1 1, g p 2 2, g p 4 2, g p 6 1, g p 7 1, f⟩) rs
    wins := ofType 0x61 (fun p f => ⟨g p 0 1, g p 1 1, g p 2 1, g p 3 1, g p 4 2, g p 8 8, g p 16 4, g p 20 5, f⟩) rs
    rands := ofType 0x71 (fun p f => ⟨g p 0 1, g p 1 1, g p 2 1, g p 3 1, g p 8 8, f⟩) rs
    progs := ofType 0x81 (fun p f => ⟨g p 0 1, g p 1 1, g p 2 2, g p 4 2, g p 6 1, g p 7 1, g p 8 1, g p 9 1, g p 10 1,
      (List.range (g p 4 2)).map fun i => BitVec.ofNat 64 (g p (16 + 8 * i) 8), f⟩) rs
    layers := ofType 0x91 (fun p f => ⟨g p 0 2, g p 2 1, g p 3 1, g p 4 1, g p 5 1, g p 6 1, g p 7 1, g p 8 1, g p 9 1, g p 10 1, g p 11 1,
      g p 12 1, g p 13 1, g p 14 1, bit (g p 15 1) 0, g p 16 4, g p 20 4, g p 24 8, g p 32 8, g p 40 8, g p 48 8, f⟩) rs
    buckets := ofType 0x92 (fun p f => ⟨g p 0 2, g p 2 1, g p 4 4, g p 8 1, g p 10 2, g p 12 4, g p 16 4, g p 20 4, g p 24 4, g p 28 4,
      g p 32 4, f⟩) rs }

end Sys2Proof.Machine
end

