-- ==== Sys2Proof/Machine/ProgCheck.lean ====
section
/-! DEFINITION. The loader's checks of a PROGRAM record (R204 to R206). -/
-- Log entries (notes/assumptions): DEDUCED 64.

namespace Sys2Proof.Machine

/-- A word with SIG's DEST field cleared: DEST is check 4 and not check 1 (R205). -/
def sigBlank (w : Nat) : Nat := if opOf w = 0x0F then w - bits w 48 41 * 2 ^ 41 else w

/-- A word of GATH, SCAT or PRED with 1 in its COUNT field: COUNT is a number, whose range is checked when the word issues, and no enumerated
field (R205). -/
def countBlank (w : Nat) : Nat := if opOf w = 0x04 ∨ opOf w = 0x05 ∨ opOf w = 0x09 then w - bits w 14 3 * 8 + 8 else w

/-- Check 1 of R205 on a word; A and SB of a CTRL-unit instruction are not checked (R90). -/
def wordOk (w : Nat) : Bool := (kindOf (countBlank (sigBlank w))).isSome

/-- The signed offset of a word that names a target, LOOP, BR and TAKE EXH. -/
def targetOf (w : Nat) : Option Int :=
  match kindOf w with
  | some .loop => some (sext (bits w 50 39) 12)
  | some .br => some (sext (bits w 43 32) 12)
  | some .take => some (sext (bits w 46 35) 12)
  | _ => none

/-- Where an operand lies. -/
inductive Place | data | apb | acc
  deriving DecidableEq, Repr

/-- An operand that the loader can check: place, index register, address and the words or blocks that no run-time state can change. -/
structure FixedOp where
  place : Place
  xr : Nat
  addr : Nat
  words : Nat

/-- Accumulator blocks of a number of vectors (R77). -/
def vecBlocks (n : Nat) : Nat := ceilDiv (nvecOf n) 8

/-- The words of an index list, or of `n`-bit values, of COUNT items: what the instruction checks at issue, whatever count its list then holds
(R131, R133). -/
def countList (w : Nat) : Nat := listWords (bits w 14 3)
/-- The values of a SCAT ADD of COUNT items of `n` bits. -/
def countValues (w n : Nat) : Nat := ceilDiv (bits w 14 3 * n) 256

/-- The operands of a word, under check 3 of R205, whatever its COUNT is. `cfg` gives a declared slot of the class; ENG 2 takes the extent on the
Flat engine, and so do BIN and codebook weights (R75, R113). A ROWF or CENS destination has at least one block, planes and scale word, a PACK
destination at least 256 rows of the narrowest planes (notes/assumptions/64.md). -/
def fixedOps (cfg : Nat → Option SlotCfg) (w : Nat) : List FixedOp :=
  let outWords := fun cens : Bool => match cfg (bits w (if cens then 52 else 23) (if cens then 49 else 20)) with | some q => q.planesA | none => 1
  match kindOf (countBlank w) with
  | some .ldrq => [⟨.data, bits w 48 46, bits w 45 32, 128⟩]
  | some .sbarm => [⟨.data, bits w 44 42, bits w 41 28, bits w 27 13⟩]
  | some .setparam => [⟨.data, bits w 48 46, bits w 45 32, 0⟩]
  | some .ldw => match cfg (bits w 52 49) with
    | none => []
    | some q =>
      let reef := onReef q (bits w 48 47) none
      let span := if reef then 512 else 256
      let row := if reef then q.bw + 2 else if q.wfmt = 3 then 4 else if q.wfmt = 4 then 8 else q.planesW
      ⟨.data, bits w 46 44, bits w 43 30, 256 * row⟩ ::
        (if q.wscale then [⟨.data, bits w 18 16, bits w 15 2, ceilDiv (256 * (span / q.group)) 16⟩] else [])
  | some .strm =>
    let p : Place := if bit w 25 then .apb else .data
    ⟨.acc, 0, bits w 29 26, vecBlocks (bits w 24 19)⟩ ::
      match cfg (bits w 52 49) with
      | none => []
      | some q =>
        let reef := onReef q (bits w 48 47) none
        let span := if reef then 512 else 256
        ⟨p, bits w 46 44, bits w 43 30, q.planesA * (if reef then 2 else 1)⟩ ::
          (if q.ascale then [⟨p, bits w 18 16, bits w 15 2, ceilDiv (span / q.group) 16⟩] else [])
  | some .rqnt => ⟨.acc, 0, bits w 33 30, vecBlocks (bits w 29 24)⟩ ::
      (match bits w 52 51 with
        | 0 => [⟨.data, bits w 50 48, bits w 47 34, 1⟩]
        | 1 => [⟨.apb, bits w 50 48, bits w 47 34, 1⟩]
        | _ => [])
  | some .rowf => [⟨if bit w 41 then .apb else .data, bits w 40 38, bits w 37 24, outWords false + (if bit w 42 then 1 else 0)⟩]
  | some .cens => [⟨if bit w 41 then .apb else .data, bits w 40 38, bits w 37 24, outWords true + 1⟩,
      ⟨.data, bits w 22 20, bits w 19 6, if bits w 5 1 = 0 then 32 else bits w 5 1⟩]
  | some .fill => [⟨.data, bits w 47 45, bits w 44 31, wordCount w⟩]
  | some .copyLocal => [⟨.data, bits w 47 45, bits w 44 31, wordCount w⟩, ⟨.data, bits w 30 28, bits w 27 12, wordCount w⟩]
  | some .copyWindow => [⟨.data, bits w 47 45, bits w 44 31, wordCount w⟩]
  | some .send => [⟨.data, bits w 47 45, bits w 44 31, wordCount w⟩]
  | some .pred => [⟨.data, bits w 48 46, bits w 45 32, if bit w 51 then 2 else 1⟩, ⟨.data, bits w 31 29, bits w 28 15, listWords (256 * bits w 14 3)⟩]
  | some .scatVadd => [⟨.acc, 0, bits w 35 32, 1⟩, ⟨.data, bits w 31 29, bits w 28 15, countList w⟩]
  | some .scatLoad => [⟨.data, bits w 48 46, bits w 45 32, 513 * bits w 14 3⟩, ⟨.acc, 0, bits w 18 15, bits w 14 3⟩]
  | some .scatStore => [⟨.data, bits w 48 46, bits w 45 32, 513 * bits w 14 3⟩, ⟨.acc, 0, bits w 18 15, bits w 14 3⟩]
  | some .scatAdd32 => [⟨.data, bits w 48 46, bits w 45 32, countValues w 32⟩, ⟨.data, bits w 31 29, bits w 28 15, countList w⟩]
  | some .scatAdd64 => [⟨.data, bits w 48 46, bits w 45 32, countValues w 64⟩, ⟨.data, bits w 31 29, bits w 28 15, countList w⟩]
  | some .gathRow | some .gathLane => [⟨.data, bits w 48 46, bits w 45 32, countList w⟩, ⟨.data, bits w 31 29, bits w 28 15, 1⟩]
  | some .gathPack => [⟨.data, bits w 48 46, bits w 45 32, 6⟩, ⟨.data, bits w 31 29, bits w 28 15, 1024⟩]
  | some .gathPacku => [⟨.data, bits w 48 46, bits w 45 32, 4⟩, ⟨.data, bits w 31 29, bits w 28 15, 768⟩]
  | some .delta | some .deltaKey => [⟨.data, bits w 48 46, bits w 45 32, 1⟩, ⟨.data, bits w 31 29, bits w 28 15, 1⟩]
  | _ => []

/-- Whether an operand keeps to a program's ranges; one formed with another index register than X0 is checked only at issue. -/
def FixedOp.ok (o : FixedOp) (r : ProgRec) (dbase dbound : Nat) : Bool :=
  match o.place with
  | .acc => decide (r.abase ≤ o.addr) && decide (o.addr + o.words ≤ r.abound)
  | .data => o.xr ≠ 0 || decide (dbase + o.addr + o.words ≤ dbound)
  | .apb => o.xr ≠ 0 || (decide (o.addr + o.words ≤ 2048) && (List.range o.words).all fun i => bit r.apbm ((o.addr + i) / 1024))

/-- Whether a word names the APB as its destination (R85). -/
def namesApb (w : Nat) : Bool :=
  match kindOf w with
  | some .rqnt => bits w 52 51 = 1
  | some .rowf => bit w 41
  | some .cens => bit w 41
  | _ => false

/-! ### The precision walk (R206) -/

/-- The state of an accumulator block. -/
inductive BlockSt | unset | restored | slot (s : Nat) (censUsed : Bool) | conflict
  deriving DecidableEq, Repr

/-- Where two paths meet. -/
def BlockSt.meet (a b : BlockSt) : BlockSt :=
  if a = b then a
  else match a, b with
    | .slot s x, .slot t y => if s = t then .slot s (x || y) else .conflict
    | _, _ => .conflict

/-- Whether a STRM without FIRST into a block is refused. -/
def BlockSt.refuses (cens : Nat → Bool) (s : Nat) : BlockSt → Bool
  | .conflict => true
  | .slot t used => t ≠ s || (used && cens s)
  | _ => false

/-- What a word does to the blocks; none where it is refused. -/
def walkWord (cens : Nat → Bool) (w : Nat) (bs : List BlockSt) : Option (List BlockSt) :=
  match kindOf w with
  | some .strm =>
    let s := bits w 52 49
    let mine := fun i => decide (bits w 29 26 ≤ i) && decide (i < bits w 29 26 + vecBlocks (bits w 24 19))
    if bit w 1 then some (bs.mapIdx fun i b => if mine i then .slot s false else b)
    else if (bs.mapIdx fun i b => mine i && b.refuses cens s).any id then none else some bs
  | some .scatLoad =>
    some (bs.mapIdx fun i b => if bits w 18 15 ≤ i ∧ i < bits w 18 15 + bits w 14 3 then .restored else b)
  | some .cens => some (bs.map fun b => match b with | .slot s u => .slot s (u || cens s) | b => b)
  | some .rowf => some (if bit w 42 then bs.map fun b => match b with | .slot s u => .slot s (u || cens s) | b => b else bs)
  | _ => some bs

/-- The places that may follow a word at `i` (R206): both outcomes of a branch or loop. -/
def walkNext (w i : Nat) : List Int :=
  match kindOf w with
  | some .halt => []
  | some .br => if bits w 52 50 = 0 then [(i : Int) + sext (bits w 43 32) 12] else [(i : Int) + 1, (i : Int) + sext (bits w 43 32) 12]
  | some .loop => [(i : Int) + 1, (i : Int) + sext (bits w 50 39) 12]
  | some .take => [(i : Int) + 1, (i : Int) + sext (bits w 46 35) 12]
  | _ => [(i : Int) + 1]

/-- Joins blocks into a place; true where its state changes. -/
def walkJoin (seen : Tab (List BlockSt)) (j : Nat) (bs : List BlockSt) : Tab (List BlockSt) × Bool :=
  match seen.lookup j with
  | none => (Tab.insert seen j bs, true)
  | some old =>
    let m := (old.zip bs).map fun p => p.1.meet p.2
    if m = old then (seen, false) else (Tab.insert seen j m, true)

/-- The walk: every place whose state changed is followed again. -/
def walk (cens : Nat → Bool) (ws : List Nat) : Nat → Tab (List BlockSt) → List Nat → Bool
  | 0, _, _ => true
  | _, _, [] => true
  | fuel + 1, seen, i :: todo =>
    let w := ws.getD i 0
    match walkWord cens w ((seen.lookup i).getD []) with
    | none => false
    | some bs =>
      let (seen, todo) := (walkNext w i).foldl (fun (a : Tab (List BlockSt) × List Nat) (j : Int) =>
        if 0 ≤ j ∧ j < (ws.length : Int) then
          let (t, new) := walkJoin a.1 j.toNat bs
          (t, if new then j.toNat :: a.2 else a.2)
        else a) (seen, todo)
      walk cens ws fuel seen todo

/-- Check 6: no STRM adds to a block of another slot or CENS tile. A block's state rises at most three times, which bounds the walk. -/
def precisionOk (cens : Nat → Bool) (ws : List Nat) : Bool :=
  walk cens ws (100 * ws.length + 2) [(0, List.replicate 16 .unset)] (if ws = [] then [] else [0])

/-! ### The checks of a program in order -/


/-- The partitions of a program's data range, where all are declared. -/
def Stream.dataParts (st : Stream) (r : ProgRec) : Option (List PartRec) :=
  ((List.range r.npart).map fun i => st.parts.find? fun x => x.cls = r.cls && x.part = r.dpart + i).foldr
    (fun p a => match p, a with | some x, some xs => some (x :: xs) | _, _ => none) (some [])

/-- Whether partitions are contiguous (R204). -/
def contiguous : List PartRec → Bool
  | a :: b :: rest => a.bound = b.base && contiguous (b :: rest)
  | _ => true

/-- The first check of R204 and R205 that a program fails: its code (R220). -/
def Stream.progFail (st : Stream) (r : ProgRec) : Option Nat :=
  let earlier := st.progs.filter fun q => q.cls = r.cls && decide (q.frame < r.frame)
  if (earlier.any fun q => q.prog = r.prog || (decide (q.pbase < r.pbase + r.len) && decide (r.pbase < q.pbase + q.len))) ||
      r.len = 0 || decide (4096 < r.pbase + r.len) || r.npart = 0 || decide (16 < r.npart) || !decide (r.abase < r.abound) || decide (16 < r.abound) then
    some 0x24
  else match st.dataParts r with
    | none => some 0x24
    | some ps =>
      let ws := r.words.map (·.toNat)
      let dbase := match ps.head? with | some p => p.base | none => 0
      let dbound := match ps.getLast? with | some p => p.bound | none => 0
      let takes := ws.filter fun w => kindOf w = some .take
      let ctrs := (st.layers.filter fun l => l.cls = r.cls && r.prog ≠ 0xFF && (l.pfused = r.prog || l.punfused = r.prog || l.pkey = r.prog)).map (·.ctr)
      let cens := fun n => match st.slotOf r.cls n with | some q => q.cens | none => false
      if !contiguous ps then some 0x24
      else if !ws.all wordOk then some 0x25
      else if !(ws.mapIdx fun i w => match targetOf w with
          | some o => decide (0 ≤ (i : Int) + o) && decide ((i : Int) + o < r.len)
          | none => true).all id then some 0x24
      else if !ws.all (fun w => (fixedOps (st.slotOf r.cls) w).all fun o => o.ok r dbase dbound) then some 0x24
      else if !ws.all (fun w => opOf w ≠ 0x0F || bits w 48 41 = 0xFF ||
          (decide (bits w 48 41 < 144) && bit st.groups (coreGroupBit (bits w 48 41)))) then some 0x24
      else if !takes.all (fun w => bits w 52 47 ∈ ctrs) then some 0x2B
      else if !precisionOk cens ws then some 0x26
      else none

end Sys2Proof.Machine
end

