-- ==== Sys2Proof/Machine/Shake.lean ====
section
/-! DEFINITION. SHAKE256, which draws random numbers (R149), names streams and keys and derives keys (R212, R427 to R430, R451). The
manual names the function; its definition is FIPS 202's (notes/assumptions/14.md). -/
-- Log entries (notes/assumptions): PRESUMED 14.

namespace Sys2Proof.Machine.Shake

/-! A state is one number of 1,600 bits: five planes of 320 bits, plane 0 lowest, and in each plane five lanes of 64 bits. -/

/-- One bit at the foot of each lane of a plane. -/
def feet : Nat := 1 + 2 ^ 64 + 2 ^ 128 + 2 ^ 192 + 2 ^ 256
/-- A plane with each lane taken from the one `k` places on. -/
def turn (p k : Nat) : Nat := (p / 2 ^ (64 * k) ||| p * 2 ^ (320 - 64 * k)) % 2 ^ 320
/-- A plane with each lane rotated left by one bit. -/
def rotOnes (p : Nat) : Nat :=
  let tops := p / 2 ^ 63 &&& feet
  2 * (p - 2 ^ 63 * tops) + tops
/-- θ: to each lane, the parities of the column before and, rotated, of the column after. -/
def theta (a : Nat) : Nat :=
  let c := (a ^^^ a / 2 ^ 320 ^^^ a / 2 ^ 640 ^^^ a / 2 ^ 960 ^^^ a / 2 ^ 1280) % 2 ^ 320
  a ^^^ (turn c 4 ^^^ turn (rotOnes c) 1) * (1 + 2 ^ 320 + 2 ^ 640 + 2 ^ 960 + 2 ^ 1280)
/-- The lane in column `x` of plane `y`, rotated left by `r` bits. -/
def laneRot (a x y r : Nat) : Nat :=
  let l := a / 2 ^ (320 * y + 64 * x) % 2 ^ 64
  (l * 2 ^ r ||| l / 2 ^ (64 - r)) % 2 ^ 64
/-- ρ and π in one walk over `n` lanes: lane (x, y) goes to (y, 2x + 3y), and the k-th lane of the walk turns by the k-th triangular number. -/
def walk (a : Nat) : Nat → Nat → Nat → Nat → Nat
  | 0, _, _, _ => 0
  | n + 1, x, y, tri =>
    let z := (2 * x + 3 * y) % 5
    2 ^ (320 * z + 64 * y) * laneRot a x y (tri % 64) + walk a n y z (tri + 25 - n)
/-- χ over the planes from `y` on, `n` of them. -/
def chi (a : Nat) : Nat → Nat → Nat
  | 0, _ => 0
  | n + 1, y =>
    let p := a / 2 ^ (320 * y) % 2 ^ 320
    2 ^ (320 * y) * (p ^^^ ((2 ^ 320 - 1 - turn p 1) &&& turn p 2)) + chi a n (y + 1)
/-- The shift register of the round constants after one more bit: x^8 + x^6 + x^5 + x^4 + 1. -/
def lfsr (r : Nat) : Nat := if 128 ≤ r then 2 * r ^^^ 0x171 else 2 * r
/-- ι: of the seven next bits of the register, bit `j` goes to bit 2^j - 1 of the first lane; also the register then. -/
def iota (a r : Nat) : Nat × Nat :=
  (List.range 7).foldl (fun x j => (x.1 ^^^ x.2 % 2 * 2 ^ (2 ^ j - 1), lfsr x.2)) (a, r)
/-- The permutation, 24 rounds. -/
def permute (a : Nat) : Nat :=
  ((List.range 24).foldl (fun x _ =>
    let b := theta x.1
    iota (chi (b % 2 ^ 64 + walk b 24 1 0 1) 5 0) x.2) (a, 1)).1
/-- The bytes of one block, 136 of them. -/
def rate : Nat := 136
/-- The padded message. -/
def pad (m : List Byte) : List Byte :=
  let k := rate - m.length % rate
  if k = 1 then m ++ [0x9F] else m ++ [0x1F] ++ List.replicate (k - 2) 0 ++ [0x80]
/-- Absorbs every block. -/
def absorbAll : Nat → Nat → List Byte → Nat
  | 0, a, _ => a
  | n + 1, a, bs => absorbAll n (permute (a ^^^ leNat (bs.take rate))) (bs.drop rate)
/-- Squeezes blocks. -/
def squeeze : Nat → Nat → List Byte
  | 0, _ => []
  | n + 1, a => leBytes rate (a % 2 ^ (8 * rate)) ++ squeeze n (permute a)

end Sys2Proof.Machine.Shake

namespace Sys2Proof.Machine

/-- The first `n` bytes of SHAKE256 over a message. -/
def shake256 (n : Nat) (m : List Byte) : List Byte :=
  let p := Shake.pad m
  (Shake.squeeze (ceilDiv n Shake.rate) (Shake.absorbAll (p.length / Shake.rate) 0 p)).take n

/-- Draw `c` of a random source (R149). -/
def draw64 (unit src seed c : Nat) : Nat := leNat (shake256 8 (leBytes 8 (unit % 256 + src % 8 * 256 + seed % 2 ^ 53 * 2048) ++ leBytes 8 c))

end Sys2Proof.Machine
end

