-- ==== Sys2Proof/Machine/Check.lean ====
section
/-! DEFINITION. The authenticity, content and package stages of the Sorzeind loader (R188 to R215). -/
-- Log entries (notes/assumptions): DESIGN CHOICE 182; DEDUCED 63, 64, 127.

namespace Sys2Proof.Machine

/-- A failure unless a list of conditions is free of true ones: the code of the first that holds, at a record. -/
def failAt (sec frame : Nat) (cs : List (Bool × Nat)) : Option LdrFail := (cs.find? (·.1)).map fun c => ⟨c.2, sec, frame⟩

/-- The failure that comes first in frame order. -/
def earliest (fs : List (Option LdrFail)) : Option LdrFail :=
  fs.foldl (fun b f => match b, f with
    | none, f => f
    | some x, some y => if y.frame < x.frame then some y else some x
    | some x, none => some x) none

/-! ### Stage 3 (R212, R213) -/

/-- The first eight bytes of SHAKE256 over a public key, R429. -/
def keyIdOf (key : List Byte) : Nat := leNat (shake256 8 key)

/-- The key store's entries as KEYSET and the tag take them: key, KEYID, state. -/
def keyStoreBytes (ks : List KeyEnt) : List Byte := ks.flatMap fun k => k.key ++ leBytes 8 (keyIdOf k.key) ++ b8 (b2n k.revoked)
/-- Whether the key store's tag fails: an upset has changed the store, or the tag held is not that of the entries under KSK (R429). -/
def Sec.tagBad (x : Sec) : Bool :=
  x.tagFail || (match x.keyTag with | some t => decide (t ≠ Config.keyTag x.ksk (keyStoreBytes x.keys)) | none => false)
/-- The enrolled key of a KEYID, unless it is revoked. -/
def Sec.streamKey (x : Sec) (id : Nat) : Option (List Byte) :=
  if x.tagBad then none else (x.keys.find? fun k => keyIdOf k.key = id && !k.revoked).map (·.key)

/-- "SORZEIND". -/
def sorzeindContext : List Byte := [0x53, 0x4F, 0x52, 0x5A, 0x45, 0x49, 0x4E, 0x44]

/-- Stage 3: the digest over the frames before the DIGEST section's head, and the signature. -/
def Sec.authFail (x : Sec) (img : List Byte) (rs : List RawRec) (st : Stream) : Option LdrFail :=
  let head := match rs.find? fun r => r.type = 0 && r.section_ = 10 with | some r => r.frame | none => 0
  let dig := match rs.find? fun r => r.type = 0xA1 with | some r => r.frame | none => 0
  if shake256 64 (img.take (64 * head)) ≠ st.digest then some ⟨0x0B, 10, dig⟩
  else match rs.find? fun r => r.type = 0xA2 with
    | none => if x.signedOnly then some ⟨0x0C, 10, dig⟩ else none
    | some r =>
      let ok := match x.streamKey st.keyId with
        | some k => Config.ed448Verify k st.digest sorzeindContext ((r.bytes.drop 8).take 114)
        | none => false
      if ok then none else some ⟨0x0D, 10, r.frame⟩

/-! ### Stage 4: IDENT to BUFFERS (R188 to R197) -/

/-- IDENT (R188). -/
def identFail (rs : List RawRec) (st : Stream) : Option LdrFail :=
  match rs.find? fun r => r.type = 0x11 with
  | none => none
  | some r =>
    let p := r.bytes
    failAt 1 r.frame [(p.take 4 ≠ [0x53, 0x5A, 0x4E, 0x44] || recField p 4 2 ≠ 1 || decide (Config.steppingNumber < recField p 6 1) ||
      recField p 36 1 ≠ st.classes.length || recField p 38 2 ≠ st.layers.length || bit (recField p 7 1) 0 ≠ st.signed, 0x0E)]

/-- CLASS (R189, R190). MINCORES above 128, which R189 excludes and no row of R220 names, fails as MINCORES 0 does (DESIGN CHOICE,
notes/assumptions/182.md). -/
def Stream.classFail (st : Stream) (r : ClassRec) : Option LdrFail :=
  let earlier := st.classes.filter fun q => q.frame < r.frame
  failAt 2 r.frame [(decide (15 < r.cls) || (earlier.any fun q => q.cls = r.cls) || r.groups = 0 ||
    (earlier.any fun q => q.groups &&& r.groups ≠ 0) || r.minCores = 0 || decide (128 < r.minCores), 0x10)]

/-- Whether a record names a class that the stream does not declare. -/
def Stream.undeclared (st : Stream) (n : Nat) : Bool := (st.cls n).isNone

/-- The widths of R45 for a weight format. -/
def weightWidths (f : Nat) : Option (Nat × Nat) :=
  match f with | 0 => some (2, 8) | 1 => some (1, 8) | 2 => some (1, 1) | 3 => some (1, 8) | 4 => some (1, 8) | _ => none
/-- The widths of R45 for an activation format. -/
def actWidths (f : Nat) : Option (Nat × Nat) := match f with | 0 => some (2, 12) | 1 => some (1, 12) | 2 => some (1, 1) | _ => none
/-- Whether a width lies in a range. -/
def inWidths (r : Option (Nat × Nat)) (n : Nat) : Bool := match r with | some (a, b) => decide (a ≤ n) && decide (n ≤ b) | none => false
/-- Whether a format is a codebook's. -/
def isCb (f : Nat) : Bool := f = 3 || f = 4

/-- Whether a slot keeps R44 to R46 and R192; `cb` says which codebooks the class declares. -/
def SlotCfg.ok (q : SlotCfg) (cb : Nat → Bool) : Bool :=
  q.valid && inWidths (weightWidths q.wfmt) q.bw && inWidths (actWidths q.afmt) q.ba && decide (q.ofmt ≤ 6) &&
    !(q.afmt = 2 && q.wfmt ≠ 2) &&
    (if q.ofmt = 0 then decide (2 ≤ q.bo) && decide (q.bo ≤ 16) else if q.ofmt = 1 then decide (1 ≤ q.bo) && decide (q.bo ≤ 16) else true) &&
    (if isCb q.wfmt then cb q.cbsel else q.cbsel = 0 && !q.cbsgn) && (if isCb q.ofmt then cb q.ocbsel else q.ocbsel = 0 && !q.ocbsgn) &&
    !(q.cens && q.afmt = 2)

/-- SLOT (R192). -/
def Stream.slotFail (st : Stream) (r : SlotRec) : Option LdrFail :=
  let cb := fun n => st.cbs.any fun x => x.cls = r.cls && x.cb = n
  failAt 3 r.frame [(st.undeclared r.cls, 0x10), (st.slots.any fun q => decide (q.frame < r.frame) && q.cls = r.cls && q.slot = r.slot, 0x15),
    (decide (15 < r.slot) || !(slotCfg r.slot r.win.toNat r.wout.toNat).ok cb, 0x14)]

/-- Whether values rise strictly. -/
def rising : List Int → Bool
  | a :: b :: rest => decide (a < b) && rising (b :: rest)
  | _ => true

/-- The levels of a codebook that a slot of a format uses, in its signedness. -/
def CbRec.used (r : CbRec) (fmt : Nat) (signed : Bool) : List Int :=
  (r.levels.take (if fmt = 3 then 16 else 256)).map fun b => if signed then sext b.toNat 8 else (b.toNat : Int)

/-- Whether a codebook suits one slot (R50, R193). -/
def CbRec.suits (r : CbRec) (q : SlotCfg) : Bool :=
  let enough := fun f : Nat => if f = 3 then true else decide (256 ≤ r.count)
  let fits := fun v : Int => if q.cbsgn then decide (-(2 ^ (q.bw - 1)) ≤ v) && decide (v < 2 ^ (q.bw - 1)) else decide (v < 2 ^ q.bw)
  (!(isCb q.wfmt && q.cbsel = r.cb) || (enough q.wfmt && rising (r.used q.wfmt q.cbsgn) && (r.used q.wfmt q.cbsgn).all fits)) &&
    (!(isCb q.ofmt && q.ocbsel = r.cb) || (enough q.ofmt && rising (r.used q.ofmt q.ocbsgn)))

/-- CODEBOOK (R193). -/
def Stream.cbFail (st : Stream) (r : CbRec) : Option LdrFail :=
  failAt 4 r.frame [(st.undeclared r.cls, 0x10),
    (decide (3 < r.cb) || (st.cbs.any fun q => decide (q.frame < r.frame) && q.cls = r.cls && q.cb = r.cb) || (r.count ≠ 16 && r.count ≠ 256) ||
      (r.levels.drop r.count).any (· ≠ 0) ||
      !(st.slots.filter fun q => q.cls = r.cls).all fun q => r.suits (slotCfg q.slot q.win.toNat q.wout.toNat), 0x16)]

/-- Banks a span (R153). -/
def spanBanks (ilv : Nat) : Nat := if ilv = 1 then 8 else if ilv = 2 then 4 else 16
/-- Whether span `j` of a BANKON is powered, and whether it is split. -/
def spanOn (ilv bankon j : Nat) : Bool := (List.range (spanBanks ilv)).all fun b => bit bankon (spanBanks ilv * j + b)
/-- Whether every span is powered or not as a whole (R194). -/
def spansWhole (ilv bankon : Nat) : Bool :=
  (List.range (16 / spanBanks ilv)).all fun j =>
    spanOn ilv bankon j || (List.range (spanBanks ilv)).all fun b => !bit bankon (spanBanks ilv * j + b)

/-- BANKCFG (R194). -/
def Stream.bankFail (st : Stream) (r : BankRec) : Option LdrFail :=
  failAt 5 r.frame [(st.undeclared r.cls, 0x10),
    ((st.banks.any fun q => decide (q.frame < r.frame) && q.cls = r.cls) || decide (2 < r.ilv) || !spansWhole r.ilv r.bankon, 0x1A)]

/-- A range of device memory that a stream may name: none, or wholly in HDM outside the reserved regions. -/
def State.freeRange (s : State) (dla n : Nat) : Bool := n = 0 || s.openDla dla n

/-- PARTITION (R162, R195). -/
def State.partFail (s : State) (st : Stream) (r : PartRec) : Option LdrFail :=
  let earlier := st.parts.filter fun q => decide (q.frame < r.frame) && q.cls = r.cls
  let dark := match st.banks.find? fun b => b.cls = r.cls with
    | some b => decide (b.ilv ≤ 2) && (List.range 16).any fun j =>
        decide (r.base < (j + 1) * spanBanks b.ilv * 1024) && decide (j * spanBanks b.ilv * 1024 < r.bound) && !spanOn b.ilv b.bankon j
    | none => false
  failAt 5 r.frame [(st.undeclared r.cls, 0x10), (decide (15 < r.part) || (earlier.any fun q => q.part = r.part), 0x19),
    (r.base % 16 ≠ 0 || r.bound % 16 ≠ 0 || decide (r.bound ≤ r.base) || decide (16384 < r.bound), 0x18),
    (earlier.any fun q => decide (q.base < r.bound) && decide (r.base < q.bound), 0x19), (dark, 0x1A),
    (decide (r.bound - r.base < r.pwords) || (r.pwords ≠ 0 && (r.preload % 32 ≠ 0 || !s.freeRange r.preload (32 * r.pwords))), 0x1B)]

/-- Whether words lie within one partition of a class. -/
def Stream.inOnePart (st : Stream) (cls w n : Nat) : Bool :=
  st.parts.any fun p => p.cls = cls && decide (p.base ≤ w) && decide (w + n ≤ p.bound)

/-- Whether a binary32 value is finite. -/
def f32Finite (v : Nat) : Bool := !F32.isNan (BitVec.ofNat 32 v) && !F32.isInf (BitVec.ofNat 32 v)

/-- The check of a DATA record's kind (R196). -/
def DataRec.kindOk (r : DataRec) : Bool :=
  let n := r.data.length / 32
  let w := leNat (r.data.take 32)
  match r.kind with
  | 0 => true
  | 1 => n = 130 && f32Finite (bits w 31 0) && f32Finite (bits w 63 32) && f32Finite (bits w 95 64) &&
      F32.lt (BitVec.ofNat 32 (bits w 31 0)) (BitVec.ofNat 32 (bits w 63 32)) && F32.lt 0 (BitVec.ofNat 32 (bits w 95 64))
  | 2 => n = 1 && decide (1 ≤ bits w 168 160) && decide (bits w 168 160 ≤ 256) && decide (1 ≤ bits w 175 169) && decide (bits w 175 169 ≤ 64) &&
      bits w 255 176 = 0
  | 3 => f32Finite (bits w 31 0) && F32.ge (BitVec.ofNat 32 (bits w 31 0)) 0
  | _ => false

/-- DATA (R196). -/
def Stream.dataFail (st : Stream) (r : DataRec) : Option LdrFail :=
  failAt 5 r.frame [(st.undeclared r.cls, 0x10), (!st.inOnePart r.cls r.word (r.data.length / 32) || !r.kindOk, 0x1C)]

/-- SWASH (R197). -/
def Stream.swashFail (st : Stream) (r : SwashRec) : Option LdrFail :=
  failAt 5 r.frame [(st.undeclared r.cls, 0x10), (decide (r.ba < 2) || decide (11 < r.ba) || r.count = 0 ||
    !st.inOnePart r.cls r.word (10 + nvecOf r.nv * r.count * (r.ba + 12)), 0x1C)]

/-- A class without BANKCFG, at the head of BUFFERS. -/
def Stream.bankMissing (st : Stream) (head : Nat) : Option LdrFail :=
  failAt 5 head [(st.classes.any fun r => (st.banks.find? fun b => b.cls = r.cls).isNone, 0x1A)]

/-! ### Stage 4: WINDOWS and RANDOM (R198 to R203) -/

/-- Whether a window may stand on core `c` (R199). -/
def State.winOk (s : State) (st : Stream) (r : WinRec) (c : Nat) : Bool :=
  let kind := r.flags % 4
  let inStream := fun t : Nat => decide (t < 144) && bit st.groups (coreGroupBit t)
  let small := decide (r.size ≤ 16384) && decide (r.base + r.size ≤ 16384)
  match kind with
  | 0 => !bit r.flags 2 && !bit r.flags 3
  | 1 =>
    let t : Int := if bit r.flags 4 then (c : Int) + sext r.tcore 16 else (r.tcore : Int)
    small && decide (0 ≤ t) && inStream t.toNat
  | 2 => small && !bit r.flags 2 && (List.range 36).all fun l => !bit r.mask l || inStream (36 * coreDie c + l)
  | _ => r.base % 32 = 0 && s.freeRange r.base (32 * r.size)

/-- WINDOW (R199, R201). -/
def State.winFail (s : State) (st : Stream) (r : WinRec) : Option LdrFail :=
  match st.cls r.cls with
  | none => some ⟨0x10, 6, r.frame⟩
  | some k =>
    let earlier := st.wins.filter fun q => decide (q.frame < r.frame) && q.cls = r.cls && q.win = r.win
    let cores := if r.core = 0xFF then k.cores else [r.core]
    failAt 6 r.frame [(decide (7 < r.win) || (earlier.any fun q => q.core = r.core) || (r.core ≠ 0xFF && !(r.core ∈ k.cores)) ||
      (r.core = 0xFF && !earlier.isEmpty) || !cores.all (s.winOk st r), 0x1E)]

/-- RANDBIND (R202, R203): a consumer bound twice to one pair makes the pair twice, GEN_ALIAS; to two pairs, it is GEN_BIND. -/
def Stream.randFail (st : Stream) (r : RandRec) : Option LdrFail :=
  let again := st.rands.any fun q => decide (q.frame < r.frame) && q.consumer = r.consumer && (r.consumer = 0 || q.cls = r.cls)
  let twice := st.rands.any fun q => decide (q.frame < r.frame) && q.consumer = r.consumer && (r.consumer = 0 || q.cls = r.cls) && q.src = r.src
  failAt 7 r.frame [(decide (1 < r.consumer), 0x21), (r.consumer = 1 && st.undeclared r.cls, 0x10), (twice, 0x20),
    (r.unit ≠ (if r.consumer = 0 then 0xF8 else 0xFF) || decide (7 < r.src) || (r.consumer = 0 && r.cls ≠ 0) || again, 0x21)]

/-- PROGRAM (R204 to R206). -/
def Stream.progRecFail (st : Stream) (r : ProgRec) : Option LdrFail :=
  if st.undeclared r.cls then some ⟨0x10, 8, r.frame⟩ else (st.progFail r).map fun c => ⟨c, 8, r.frame⟩

/-! ### Stage 4: SCHEDULE (R207 to R211) -/

/-- Bytes of a layer's weights (R208). -/
def LayerRec.weightBytes (l : LayerRec) (q : SlotCfg) : Nat :=
  let w := if l.wclass = 1 then q.bw + 2 else if q.wfmt = 3 then 4 else if q.wfmt = 4 then 8 else q.planesW
  ceilDiv l.nout 256 * ceilDiv l.depth (if l.wclass = 1 then 512 else 256) * 256 * w * 32
/-- The dies on which a class claims groups, as bits. -/
def ClassRec.dies (r : ClassRec) : Nat := ((List.range 4).filter fun d => bits r.groups (4 * d + 3) (4 * d) ≠ 0).foldl (fun a d => a ||| 2 ^ d) 0

/-- LAYER (R207 to R209). -/
def State.layerFail (s : State) (st : Stream) (k : Nat) (l : LayerRec) : Option LdrFail :=
  match st.cls l.cls with
  | none => failAt 9 l.frame [(l.index ≠ k, 0x28), (true, 0x10)]
  | some r =>
    let slot := st.slotOf l.cls l.slot
    let q := slot.getD (slotCfg 0 0 0)
    let missing := fun n : Nat => n ≠ 0xFF && (st.program l.cls n).isNone
    let apb := match st.program l.cls l.punfused with | some p => p.words.any fun w => namesApb w.toNat | none => false
    let need := if l.keepsTranspose then 2 * l.copyBytes q else if l.wclass = 2 then l.copyBytes q else 0
    let shared := st.layers.any fun x => decide (x.frame < l.frame) && x.ctr = l.ctr && x.cls ≠ l.cls &&
      match st.cls x.cls with | some y => y.dies &&& r.dies ≠ 0 | none => false
    failAt 9 l.frame [(l.index ≠ k, 0x28),
      (l.depth = 0 || decide (67108864 < l.depth) || l.nout = 0 || l.nout % 256 ≠ 0, 0x29),
      (decide (2 < l.wclass) || decide (2 < l.pwsel), 0x2A), (decide (1 ≤ l.skew) && decide (l.skew ≤ 15), 0x2D), (slot.isNone, 0x14),
      ((l.weights ≠ 0 && !s.freeRange l.weights (l.weightBytes q)) || decide (l.auxlen < need) ||
        (l.masked && !s.freeRange l.mask (ceilDiv (l.nout * l.depth) 8)) || !s.freeRange l.aux l.auxlen, 0x29),
      (decide (4 < l.kind) || l.svc = 0 || missing l.pfused || missing l.punfused || missing l.pkey ||
        (bits l.svc 3 2 ≠ 0 && (l.punfused = 0xFF || apb)) || (bits l.svc 1 0 ≠ 0 && l.pfused = 0xFF && l.punfused = 0xFF) ||
        (l.kind = 3 && l.pkey = 0xFF), 0x2B),
      (l.kind = 3 && (q.afmt ≠ 0 || decide (q.ba < 2) || decide (11 < q.ba) || q.ascale || q.cens), 0x2C),
      ((l.wclass ≠ 0 && decide (1 < q.wfmt)) || (l.wclass = 1 && l.kind = 1), 0x2A), (decide (63 < l.ctr) || shared, 0x2F),
      (l.nbucket = 0 || decide (8 < l.nbucket), 0x2E)]

/-- BUCKET number `k` of its layer (R210); `last` is MMAX of the bucket before. TN 0, which is a multiple of 256 and which BUCKET_BAD does not name,
fails with it (DESIGN CHOICE, notes/assumptions/182.md). -/
def BucketRec.fail (l : LayerRec) (k last : Nat) (b : BucketRec) : Option LdrFail :=
  failAt 9 b.frame [(b.layer ≠ l.index, 0x28),
    (b.bucket ≠ k || decide (l.nbucket ≤ k) || decide (63 < b.tm) || (k ≠ 0 && decide (b.mmax ≤ last)) || b.tn = 0 || b.tn % 256 ≠ 0 ||
      decide (l.nout < b.tn) || decide (16 < b.tn / 256 * ceilDiv b.vectors 8), 0x2E)]

/-- The buckets that follow a layer's record. -/
def bucketsFail (l : LayerRec) : Nat → Nat → List BucketRec → Option LdrFail
  | k, _, [] => if k = l.nbucket then none else some ⟨0x2E, 9, l.frame⟩
  | k, last, b :: bs => (b.fail l k last).orElse fun _ => bucketsFail l (k + 1) b.mmax bs

/-- SCHEDULE: each layer, then the buckets that follow it. -/
def State.scheduleFail (s : State) (st : Stream) : Nat → List LayerRec → Option LdrFail
  | _, [] => none
  | k, l :: ls =>
    let stop := match ls with | x :: _ => x.frame | [] => st.frames
    let mine := st.buckets.filter fun b => decide (l.frame < b.frame) && decide (b.frame < stop)
    (s.layerFail st k l).orElse fun _ => (bucketsFail l 0 0 mine).orElse fun _ => s.scheduleFail st (k + 1) ls

/-- A BUCKET before the first LAYER (R220). -/
def Stream.bucketEarly (st : Stream) : Option LdrFail :=
  let first := match st.layers with | l :: _ => l.frame | [] => st.frames
  (st.buckets.find? fun b => decide (b.frame < first)).map fun b => ⟨0x28, 9, b.frame⟩

/-- Stage 4: the sections in order, and each section's records in frame order. -/
def State.contentFail (s : State) (rs : List RawRec) (st : Stream) : Option LdrFail :=
  let head5 := match rs.find? fun r => r.type = 0 && r.section_ = 5 with | some r => r.frame | none => 0
  [identFail rs st, st.classes.findSome? st.classFail, st.slots.findSome? st.slotFail, st.cbs.findSome? st.cbFail,
    earliest [st.banks.findSome? st.bankFail, st.parts.findSome? (s.partFail st), st.datas.findSome? st.dataFail, st.swash.findSome? st.swashFail],
    st.bankMissing head5, st.wins.findSome? (s.winFail st), st.rands.findSome? st.randFail, st.progs.findSome? st.progRecFail,
    st.bucketEarly, s.scheduleFail st 0 st.layers].findSome? id

/-! ### Stage 5 (R190, R203, R209, R215) -/

/-- The random pairs (UNIT, SRC) that a stream binds (R203). -/
def Stream.pairs (st : Stream) : List (Nat × Nat) :=
  st.rands.flatMap fun r => if r.consumer = 0 then [(0xF8, r.src)]
    else match st.cls r.cls with | some k => k.cores.map fun c => (c, r.src) | none => []

/-- The streams in force in other handles. -/
def State.otherStreams (s : State) (h : Nat) : List Stream := ((List.range 4).filter (· ≠ h)).filterMap fun k => (s.handle k).stream

/-- Stage 5: group claims and MINCORES, random pairs and tile counters against the package as it is. -/
def State.packageFail (s : State) (h : Nat) (st : Stream) : Option LdrFail :=
  let others := s.otherStreams h
  let taken := others.foldl (fun g x => g ||| x.groups) 0
  let inService := fun r : ClassRec => (r.cores.filter fun c => s.role c = .inService).length
  let pairsOf := fun r : RandRec => ({ st with rands := [r] } : Stream).pairs
  [st.classes.findSome? fun r => failAt 2 r.frame [(r.groups &&& taken ≠ 0, 0x11), (decide (inService r < r.minCores), 0x12)],
    st.rands.findSome? fun r => failAt 7 r.frame [((pairsOf r).any fun p => others.any fun x => p ∈ x.pairs, 0x20)],
    st.layers.findSome? fun l => failAt 9 l.frame [(others.any fun x => x.layers.any fun y => y.ctr = l.ctr &&
      match st.cls l.cls, x.cls y.cls with | some a, some b => a.dies &&& b.dies ≠ 0 | _, _ => false, 0x2F)]].findSome? id

/-- Stages 2 to 5 on a staging copy of `n` frames: the stream, or the first failure. -/
def State.checkStream (s : State) (h n : Nat) (img : List Byte) : Except LdrFail Stream :=
  match structureStage n img with
  | .error f => .error f
  | .ok rs =>
    let st := Stream.ofRecs n rs
    match [s.sec.authFail img rs st, s.contentFail rs st, s.packageFail h st].findSome? id with
    | some f => .error f
    | none => .ok st

end Sys2Proof.Machine
end

