-- ==== Sys2Proof/Machine/Crc.lean ====
section
/-! DEFINITION. CRC-64, which covers Korpor flits (R315), and CRC-32C, which covers Tidemark entries and settings banks (R413, R421). Of CRC-32C
the manual gives no polynomial; the Castagnoli code is taken (notes/assumptions/14.md). -/
-- Log entries (notes/assumptions): DESIGN CHOICE 155; PRESUMED 14.

namespace Sys2Proof.Machine

/-- One bit of the reflected Castagnoli division. -/
def crcBit (c : Nat) : Nat := if c % 2 = 1 then (c / 2) ^^^ 0x82F63B78 else c / 2
/-- One byte. -/
def crcByte (c : Nat) (b : Byte) : Nat :=
  crcBit (crcBit (crcBit (crcBit (crcBit (crcBit (crcBit (crcBit (c ^^^ b.toNat))))))))
/-- CRC-32C of a list of bytes. -/
def crc32c (bs : List Byte) : Nat := bs.foldl crcByte 0xFFFFFFFF ^^^ 0xFFFFFFFF

/-- One bit of the division by the ECMA-182 polynomial, the highest bit first (DESIGN CHOICE, notes/assumptions/155.md). -/
def crc64Bit (c : Nat) : Nat := if c / 2 ^ 63 = 1 then (2 * c % 2 ^ 64) ^^^ 0x42F0E1EBA9EA3693 else 2 * c
/-- One byte. -/
def crc64Byte (c : Nat) (b : Byte) : Nat :=
  crc64Bit (crc64Bit (crc64Bit (crc64Bit (crc64Bit (crc64Bit (crc64Bit (crc64Bit (c ^^^ 2 ^ 56 * b.toNat))))))))
/-- CRC-64 of a list of bytes: initial value all ones, final XOR all ones (R315). -/
def crc64 (bs : List Byte) : Nat := bs.foldl crc64Byte (2 ^ 64 - 1) ^^^ (2 ^ 64 - 1)

end Sys2Proof.Machine
end

