-- ==== Sys2Proof/Machine/Tidemark.lean ====
section
/-! DEFINITION. Tidemark: writing entries (R412 to R417), event records (R357), reading entries (R418, R419) and episodes of pair
mismatches (R403). -/
-- Log entries (notes/assumptions): DESIGN CHOICE 98; DEDUCED 75, 99; PRESUMED 30, 159.

namespace Sys2Proof.Machine

/-! ### Entries and slots (R412 to R414) -/

/-- The slots of the ring. -/
def tmkSlots : Nat := 16384
/-- Slot `n` of the ring. -/
def Tmk.slot (t : Tmk) (n : Nat) : TmkSlot := Tab.get {} t.slots n
/-- The complement of bytes. -/
def notBytes (bs : List Byte) : List Byte := bs.map (~~~·)
/-- Bytes cut or padded with zeros to a length. -/
def fitBytes (n : Nat) (bs : List Byte) : List Byte := (bs ++ List.replicate (n - bs.length) 0).take n
/-- Bytes 0 to 247 of an entry of sequence `seq`. -/
def TmkEntry.body (e : TmkEntry) (seq : Nat) : List Byte :=
  let hdr := leBytes 2 e.type ++ b8 (e.sev + if e.hv then 4 else 0) ++ b8 e.src
  hdr ++ notBytes hdr ++ leBytes 8 seq ++ notBytes (leBytes 8 seq) ++ leBytes 8 e.time ++ leBytes 4 e.boot ++ leBytes 4 0 ++
    leBytes 8 e.wall ++ b8 e.core ++ b8 e.unit ++ leBytes 2 0 ++ fitBytes 196 e.payload
/-- The 256 bytes of an entry (R413). -/
def TmkEntry.bytes (e : TmkEntry) (seq : Nat) : List Byte :=
  let b := e.body seq
  b ++ leBytes 4 (crc32c b) ++ leBytes 4 0
/-- Whether slot `n` holds a valid entry (R414). -/
def TmkSlot.valid (n : Nat) (x : TmkSlot) : Bool := x.entry.isSome && x.complete && !x.bad && !x.stuck && decide (x.seq % tmkSlots = n)
/-- TMK_OLDEST (R418); 0 until cold reset loads it (R426). -/
def Tmk.oldest (t : Tmk) : Nat := if t.head = 0 then 0 else max 1 (t.head - tmkSlots)

/-! ### Events (R355, R357) -/

/-- Sends an MSI-X message while Bus Master Enable is set; one that may not be sent, or whose vector the table masks, sets its pending bit
(PRESUMED, notes/assumptions/159.md). -/
def State.msi (v : Nat) (s : State) : State :=
  if !s.cxl.busMaster || (Tab.get {} s.cxl.msixTable v).masked then { s with cxl := { s.cxl with msixPend := s.cxl.msixPend ||| (1#4 <<< v) } }
  else { s with out := { s.out with msix := s.out.msix ++ [v] } }
/-- A pending vector is sent once it may be. -/
def State.msiPending (n : Nat) (s : State) : State :=
  if s.cxl.msixPend.getLsbD n && s.cxl.busMaster && !(Tab.get {} s.cxl.msixTable n).masked then
    ({ s with cxl := { s.cxl with msixPend := s.cxl.msixPend &&& ~~~(1#4 <<< n) } } : State).msi n
  else s
/-- A write to word `k` of entry `n` of the MSI-X table: message address, message data, vector control. A pending vector that it unmasks is sent. -/
def State.msixWrite (n k v : Nat) (s : State) : State :=
  let e := Tab.get {} s.cxl.msixTable n
  let put := fun e : MsixEnt => { s with cxl := { s.cxl with msixTable := Tab.set {} s.cxl.msixTable n e } }
  match k with
  | 0 => put { e with addr := e.addr / 2 ^ 32 * 2 ^ 32 + bits v 31 2 * 4 }
  | 1 => put { e with addr := e.addr % 2 ^ 32 + bits v 31 0 * 2 ^ 32 }
  | 2 => put { e with data := BitVec.ofNat 32 v }
  | _ => (put { e with masked := bit v 0 }).msiPending n
/-- The records that an event log holds at most. -/
def evDepth : Nat := 256
/-- A written host-visible entry makes an event record in the log of its severity; a full log drops it and shows overflow. The MSI-X
message follows the log's interrupt policy (notes/assumptions/30.md). -/
def State.eventRecord (e : TmkEntry) (seq : Nat) (s : State) : State :=
  if !e.hv then s
  else
    let l := Tab.get {} s.cxl.logs e.sev
    let l := if l.recs.length < evDepth then { l with recs := l.recs ++ [⟨seq % 65536, seq, e.type, e.wall⟩] } else { l with overflow := l.overflow + 1 }
    let s := { s with cxl := { s.cxl with logs := Tab.insert s.cxl.logs e.sev l } }
    if (s.cxl.evtPolicy.getD e.sev 0).toNat % 4 = 1 then s.msi 1 else s

/-- The source that a bank write's command came from. -/
def sourceOf : BankJob → Option Source
  | .setting src _ _ => some src | .factory src => some src | .confirm src => some src | _ => none
/-- The source of a command of R448. -/
def cmdSource : Instr → Source
  | .updState src | .updCancel src | .fwConfirm src | .fenceCore src _ _ | .unbeach src _ | .coreReset src _ | .dieReset src _ | .unitReset src _ _
  | .slack src _ | .neap src _ | .settingSet src _ _ | .settingGet src _ | .factoryReset src | .keyEnroll src _ | .keyRevoke src _ | .keyList src
  | .tmkRead src _ | .mailboxUnsupported src _ _ => src
  | _ => .hub
/-! ### The writer (R414 to R417) -/

/-- An entry as it is when its write starts: POWER_FAIL takes the number of entries behind it (R416). -/
def TmkEntry.atWrite (behind : Nat) (e : TmkEntry) : TmkEntry :=
  if e.type = 0x10 then { e with payload := e.payload.set 4 (BitVec.ofNat 8 behind) } else e
/-- With the queue fallen to 32 entries, TMK_OVERFLOW gives the drops since the last one, by severity (R416). -/
def State.overflowCheck (s : State) : State :=
  let t := s.tmk
  if t.queue.length ≤ 32 ∧ t.drops.any (· ≠ 0) then
    ({ s with tmk := { t with drops := [0, 0, 0] } }).record 0x0063 4 (t.drops.flatMap (leBytes 4))
  else s
/-- The slot of the next sequence with entry `e` in it: all its words are written afresh, so an upset is gone; `whole` is false where
power fails before bytes 0 to 7 are written. The floor is set before a sequence that starts a block (R415). -/
def Tmk.put (e : TmkEntry) (whole : Bool) (t : Tmk) : Tmk :=
  let n := t.head % tmkSlots
  { t with floor := if t.head % 4096 = 0 then t.head else t.floor,
           slots := Tab.insert t.slots n { entry := some e, seq := t.head, complete := whole, bad := false, stuck := (t.slot n).stuck } }
/-- The entry at the head of the queue is written whole: it takes the next sequence, and its event record is made. -/
def State.writeEntry (e : TmkEntry) (rest : List TmkEntry) (s : State) : State :=
  let seq := s.tmk.head
  let s := { s with tmk := { s.tmk.put e true with head := seq + 1, queue := rest, writing := false } }
  (s.eventRecord e seq).overflowCheck

/-- TIDEMARK_ENTRY_WRITE: the next queued entry is written into its slot. A write that a power failure interrupts leaves no valid entry,
and its sequence goes to the next entry written (R412, R415). -/
def execTidemarkEntryWrite (whole : Bool) (s : State) : Res :=
  .next (if !s.hub.mgmtUp then s
    else match s.tmk.queue with
      | [] => s
      | e :: rest =>
        let e := e.atWrite rest.length
        if whole then s.writeEntry e rest else { s with tmk := { s.tmk.put e false with writing := true } })

/-! ### Reading (R418, R419) -/

/-- The 256 bytes that a slot reads as; those of a slot whose entry is not whole or that holds an uncorrectable word are free. -/
def State.slotBytes (n : Nat) (s : State) : List Byte × State :=
  let x := s.tmk.slot n
  match x.entry with
  | none => (List.replicate 256 0, s)
  | some e => if x.complete && !x.bad && !x.stuck then (e.bytes x.seq, s) else let (v, s) := s.draw; (leBytes 256 v, s)
/-- RESULT of a read of a sequence: 0 VALID, 1 OVERWRITTEN, 2 NOT_YET, 3 INVALID. -/
def Tmk.result (t : Tmk) (seq : Nat) : Nat :=
  let x := t.slot (seq % tmkSlots)
  if seq < t.oldest then 1 else if t.head ≤ seq then 2 else if x.valid (seq % tmkSlots) && x.seq = seq then 0 else 3
/-- A snapshot that ends: RESULT, and the slot's bytes. -/
def State.snapshot (x : Snap) (s : State) : Snap × State :=
  let r := s.tmk.result x.seq
  let (bs, s) := s.slotBytes (x.seq % tmkSlots)
  ({ x with busy := false, result := r, data := bs }, s)

/-- TMK_RD_SEQ_HI_WRITE: the host's read of the sequence in both words starts. -/
def execTmkRdSeqHiWrite (v : W32) (s : State) : Res :=
  .next { s with tmk := { s.tmk with rdHi := v, host := { s.tmk.host with seq := s.tmk.rdLo.toNat + 2 ^ 32 * v.toNat, busy := true } } }

/-- PAIR_EPISODE_END: 1 s without a further mismatch at a bit of TMK_PAIR_STATUS ends its episode (R403). -/
def execPairEpisodeEnd (k : Fin 9) (s : State) : Res :=
  .next (if s.tmk.episodes.getLsbD k && decide (Tab.get 0 s.tmk.pairLast k + 1000000 ≤ s.us) then
      { s with tmk := { s.tmk with episodes := s.tmk.episodes &&& ~~~(1#9 <<< (k : Nat)) } }
    else s)

end Sys2Proof.Machine
end

