-- ==== Sys2Proof/Machine/Mail.lean ====
section
/-! DEFINITION. Commands from the host's mailbox, the BMC and the hub Headland (R25, R26, R356, R440, R448, R449): how one is served and
answered; the generic mailbox commands (R356, R357) and DOE Discovery and CDAT (R352, R358). -/
-- Log entries (notes/assumptions): DESIGN CHOICE 149; DEDUCED 97, 181; PRESUMED 28, 30, 58.

namespace Sys2Proof.Machine

/-! ### Status and return codes -/

/-- Status values of R449. -/
inductive Status
  | success | invalid | unsupported | busy | state | locked | coreBeached | pairError | resetLost | notFound | writeFail
  deriving DecidableEq, Repr
/-- Their values. -/
def Status.code : Status → Nat
  | .success => 0 | .invalid => 1 | .unsupported => 2 | .busy => 3 | .state => 4 | .locked => 5 | .coreBeached => 6 | .pairError => 7
  | .resetLost => 8 | .notFound => 9 | .writeFail => 0xA
/-- CXL mailbox return codes, which R356, R439 and R441 name (notes/assumptions/28.md): Success, Invalid Input, Unsupported, Busy, Invalid
Slot. -/
inductive CxlRc | success | invalidInput | unsupported | busy | invalidSlot
  deriving DecidableEq, Repr
/-- Their values. -/
def CxlRc.code : CxlRc → Nat
  | .success => 0 | .invalidInput => 2 | .unsupported => 3 | .busy => 6 | .invalidSlot => 0xB

/-! ### Answers -/

/-- A mailbox command of the host completes: its return code, its reply and vector 0 (R355). -/
def State.hostDone (rc : Nat) (reply : List Byte) (s : State) : State :=
  ({ s with out := { s.out with hostStatus := rc, hostReply := reply } }).msi 0
/-- A generic mailbox command completes with a return code of R356. -/
def State.rc (c : CxlRc) (reply : List Byte) (s : State) : State := s.hostDone c.code reply
/-- The source's number in SEC_CMD_LAST. -/
def srcNum : Source → Nat
  | .host => 0 | .bmc => 1 | .hub => 2
/-- The source's number in Tidemark payloads and SEC_UPD_STATUS.HOLDER: 1 host, 2 BMC. -/
def holderNum : Source → Nat
  | .host => 1 | .bmc => 2 | .hub => 0
/-- A command of R448 is answered: byte 0 is its status, and SEC_CMD_LAST and SEC_CMD_COUNT show it. -/
def State.answerCmd (src : Source) (op : Nat) (st : Status) (data : List Byte) (s : State) : State :=
  let s := { s with sec := { s.sec with cmdLast := op, cmdStatus := st.code, cmdSource := srcNum src, cmdCount := satInc s.sec.cmdCount } }
  match src with
  | .host => s.hostDone 0 (b8 st.code ++ data)
  | .bmc => { s with out := { s.out with bmcStatus := st.code, bmcReply := b8 st.code ++ data } }
  | .hub => { s with out := { s.out with hubStatus := st.code } }

/-- Whether a command is taken in: the management plane runs (R466), and a host's path to it does (R386). -/
def State.takesFrom (s : State) (src : Source) : Bool := s.hub.mgmtUp && !(src = .host && s.bw.pfail)

/-- Whether a command of R448 is in service: its bank write or its read of Tidemark is not over. -/
def State.serving (s : State) : Bool := s.tmk.bmc.busy || s.tmk.jobs.any fun j => (sourceOf j.job).isSome
/-- A command that arrives while another is in service waits for it: commands are served one at a time, in arrival order (R448). -/
def State.inTurn (i : Instr) (go : State → State) (s : State) : State :=
  if s.serving then { s with sec := { s.sec with cmds := s.sec.cmds ++ [i] } } else go s

/-- Command `i` of R448 from `src`: not taken in, in its turn or answered UNSUPPORTED where the source may not send it or RECOVERY does not serve it
(R440), or performed by `go`, which answers it. -/
def State.cmd (i : Instr) (src : Source) (op : Nat) (from_ : List Source) (inRecovery : Bool) (go : State → State) (s : State) : State :=
  if !s.takesFrom src then s
  else s.inTurn i fun s => if !(src ∈ from_) || (s.sec.recovery && !inRecovery) then s.answerCmd src op .unsupported [] else go s

/-- A command of the hub Headland, over the mailbox meeting point (R25, R26): a command word that does not match is discarded and answered
MAILBOX_PAIR_ERROR; a reply that does not match is discarded, and the command is reissued with its sequence. A reissued command that was
carried out is answered again and not carried out twice (DESIGN CHOICE, notes/assumptions/149.md). -/
def State.hubCmd (i : Instr) (op : Nat) (l : MboxLink) (go : State → State) (s : State) : State :=
  if !s.takesFrom .hub || !s.hub.hubUp then s
  else s.inTurn i fun s =>
    let t :=
      if !l.cmdOk then (s.pairError 3).answerCmd .hub op .pairError []
      else match s.hub.mbxLast with
        | some (n, st) =>
          if s.hub.mbxReissue = some l.seq && n = l.seq then { s with out := { s.out with hubStatus := st } }
          else let t := go s; { t with hub := { t.hub with mbxLast := some (l.seq, t.out.hubStatus) } }
        | none => let t := go s; { t with hub := { t.hub with mbxLast := some (l.seq, t.out.hubStatus) } }
    if l.replyOk then { t with hub := { t.hub with mbxReissue := none } }
    else ({ t with out := { t.out with hubStatus := s.out.hubStatus }, hub := { t.hub with mbxReissue := some l.seq } }).pairError 4

/-- A generic mailbox command of the host. -/
def State.mailbox (inRecovery : Bool) (go : State → State) (s : State) : State :=
  if !s.takesFrom .host then s
  else if s.sec.recovery && !inRecovery then s.rc .unsupported []
  else go s

/-! ### Generic mailbox commands (R356, R357) -/

/-- The log of a severity. -/
def State.evLog (s : State) (n : Nat) : EvLog := Tab.get {} s.cxl.logs n
/-- An event record of the log of a severity: the header of a CXL common event record with Ahnilo's UUID, then the entry's sequence and type (R357).
The header's layout is the CXL standard's (PRESUMED, notes/assumptions/30.md). -/
def evBytes (sev : Nat) (r : EvRec) : List Byte :=
  fitBytes 16 Config.eventUuid ++ b8 128 ++ leBytes 3 sev ++ leBytes 2 r.handle ++ leBytes 2 0 ++ leBytes 8 r.wall ++ leBytes 16 0 ++
    fitBytes 80 (leBytes 8 r.seq ++ leBytes 2 r.type)
/-- The records that one reply of 4 KiB returns at most, at 128 bytes a CXL common event record. -/
def evPerReply : Nat := 31

/-- GET_EVENT_RECORDS: overflow and more-records flags, the overflow count, the number of records, and the records of the log, oldest first. -/
def execGetEventRecords (log : Fin 3) (s : State) : Res :=
  .next (s.mailbox false fun s =>
    let l := s.evLog log
    let rs := l.recs.take evPerReply
    s.rc .success (b8 (b2n (l.overflow ≠ 0) + 2 * b2n (evPerReply < l.recs.length)) ++ leBytes 2 l.overflow ++ leBytes 2 rs.length ++ rs.flatMap (evBytes log)))

/-- CLEAR_EVENT_RECORDS: the named records, or all and the overflow, leave the log; Tidemark is unchanged. -/
def execClearEventRecords (log : Fin 3) (handles : List Nat) (all : Bool) (s : State) : Res :=
  .next (s.mailbox false fun s =>
    let l := s.evLog log
    let l : EvLog := if all then {} else { l with recs := l.recs.filter fun r => !(r.handle ∈ handles) }
    ({ s with cxl := { s.cxl with logs := Tab.insert s.cxl.logs log l } }).rc .success [])

/-- GET_EVENT_INTERRUPT_POLICY. -/
def execGetEventInterruptPolicy (s : State) : Res := .next (s.mailbox false fun s => s.rc .success s.cxl.evtPolicy)
/-- SET_EVENT_INTERRUPT_POLICY: one byte a log. -/
def execSetEventInterruptPolicy (v : List Byte) (s : State) : Res :=
  .next (s.mailbox false fun s => ({ s with cxl := { s.cxl with evtPolicy := fitBytes 4 v } }).rc .success [])
/-- GET_TIMESTAMP. -/
def execGetTimestamp (s : State) : Res := .next (s.mailbox false fun s => s.rc .success (leBytes 8 s.wall))
/-- SET_TIMESTAMP: the host time from now on. -/
def execSetTimestamp (v : Nat) (s : State) : Res :=
  .next (s.mailbox false fun s => ({ s with tmk := { s.tmk with stamp := some (v % 2 ^ 64, s.us) } }).rc .success [])
/-- GET_SUPPORTED_LOGS: the list is the device's own. -/
def execGetSupportedLogs (s : State) : Res := .next (s.mailbox false fun s => s.rc .success Config.supportedLogs)
/-- GET_LOG: a log's contents are the device's own. -/
def execGetLog (log : Nat) (s : State) : Res := .next (s.mailbox false fun s => s.rc .success (Config.logContents log))

/-- The opcodes of the commands that a source may send: for the host the generic ones and those of R448 but HEARTBEAT; each has a row of its own. -/
def opsOf : Source → List Nat
  | .host => [0x0100, 0x0101, 0x0102, 0x0103, 0x0200, 0x0201, 0x0202, 0x0300, 0x0301, 0x0400, 0x0401] ++ cmdOps
  | .bmc => cmdOps
  | .hub => [0xC010, 0xC0FF]
where
  /-- Those of R448 with a row that names the source. -/
  cmdOps : List Nat := [0xC000, 0xC001, 0xC002, 0xC010, 0xC011, 0xC012, 0xC013, 0xC014, 0xC020, 0xC021, 0xC030, 0xC031, 0xC032, 0xC040, 0xC041, 0xC042, 0xC050]
/-- MAILBOX_UNSUPPORTED: an opcode that no command of its source has. A vendor-specific one, and any from the BMC or the hub Headland, is answered
with status UNSUPPORTED (R448, R449); a generic one of the host, with the return code Unsupported (R356). -/
def execMailboxUnsupported (src : Source) (opcode : Nat) (link : MboxLink) (s : State) : Res :=
  let i := Instr.mailboxUnsupported src opcode link
  .next (if opcode ∈ opsOf src then s
    else match src with
    | .host => if 0xC000 ≤ opcode then s.cmd i .host opcode [] true id else s.mailbox true fun s => s.rc .unsupported []
    | .bmc => s.cmd i .bmc opcode [] true id
    | .hub => s.hubCmd i opcode link fun s => s.cmd i .hub opcode [] true id)

/-! ### The CXL device registers (R356, R360) -/

/-- The blocks of the capabilities array: the device status registers and the primary mailbox. -/
inductive DevCap | deviceStatus | primaryMailbox
  deriving DecidableEq, Repr
/-- What the device block holds: the capabilities array, the device status (which event logs hold records), and the primary mailbox: its payload size,
its doorbell, the return code and payload of the last command. -/
structure DevSpace where
  caps : List DevCap
  eventLogs : List Nat
  payloadSize : Nat
  doorbell : Bool
  returnCode : Nat
  payload : List Byte
  deriving DecidableEq, Repr
/-- The device block now. The doorbell stays set while a command of the host is in service or waits for its turn. -/
def State.devSpace (s : State) : DevSpace :=
  { caps := [.deviceStatus, .primaryMailbox], eventLogs := (List.range 3).filter fun n => (s.evLog n).recs ≠ [], payloadSize := 4096,
    doorbell := (s.tmk.jobs.any fun j => decide (sourceOf j.job = some .host) && !j.quiet) || (s.tmk.bmc.busy && decide (s.tmk.readSrc = .host) && !s.tmk.readQuiet) ||
      s.sec.cmds.any (fun i => decide (cmdSource i = .host)),
    returnCode := s.out.hostStatus, payload := s.out.hostReply }

/-! ### DOE (R352, R358) -/

/-- A DOE request: RECOVERY serves the attestation object alone (R440). -/
def State.doe (inRecovery : Bool) (go : State → List Byte) (s : State) : State :=
  if !s.takesFrom .host then s
  else { s with out := { s.out with doe := if s.sec.recovery && !inRecovery then [] else go s } }

/-- DOE_DISCOVERY: vendor, type and next index of each protocol: Discovery, CDAT, Ahnilo's attestation object. -/
def execDoeDiscovery (index : Nat) (s : State) : Res :=
  .next (s.doe false fun _ => match index with
    | 0 => leBytes 2 0x0001 ++ b8 0 ++ b8 1
    | 1 => leBytes 2 0x1E98 ++ b8 2 ++ b8 2
    | 2 => leBytes 2 Config.vendorId.toNat ++ b8 1 ++ b8 0
    | _ => leBytes 2 0xFFFF ++ b8 0 ++ b8 0)

/-- A DSLBIS entry of handle 0: data type, base unit, value. -/
def dslbis (ty unit v : Nat) : List Byte :=
  b8 1 ++ b8 0 ++ leBytes 2 24 ++ b8 0 ++ b8 0 ++ b8 ty ++ b8 0 ++ leBytes 8 unit ++ leBytes 2 v ++ leBytes 6 0
/-- The CDAT entries: the header, one DSMAS over the HDM range with its flags clear, and the four DSLBIS figures: latencies of 200 ns and
bandwidths of 32,000 MB/s (R352). -/
def State.cdat (s : State) : List (List Byte) :=
  [Config.cdatHeader, b8 0 ++ b8 0 ++ leBytes 2 24 ++ b8 0 ++ b8 0 ++ leBytes 2 0 ++ leBytes 8 0 ++ leBytes 8 (s.plm.hdmGib * 2 ^ 30),
    dslbis 1 1000 200, dslbis 2 1000 200, dslbis 4 1 32000, dslbis 5 1 32000]
/-- DOE_CDAT: one entry of the table. -/
def execDoeCdat (entry : Nat) (s : State) : Res := .next (s.doe false fun s => s.cdat.getD entry [])

end Sys2Proof.Machine
end

