-- ==== Sys2Proof/Machine/Settings.lean ====
section
/-! DEFINITION. The settings banks (R421 to R425), the payloads of the bank writes that wait (R423, R436, R444, R445, R447, R450), the stream keys
(R429) and the commands over them (R448). -/
-- Log entries (notes/assumptions): DESIGN CHOICE 6, 180; DEDUCED 93, 102, 103, 104, 109.

namespace Sys2Proof.Machine

/-! ### Items (R425, R436) -/

/-- One item of R425: its length, its default and its range. -/
structure Item where
  len : Nat
  default : List Byte
  inRange : List Byte → Bool

/-- A byte of a value. -/
def byteAt (v : List Byte) (i : Nat) : Nat := (v.getD i 0).toNat
/-- The table of R425. -/
def settingItem : Nat → Option Item
  | 1 => some ⟨2, leBytes 2 350, fun v => decide (120 ≤ leNat v) && decide (leNat v ≤ 420)⟩
  | 2 => some ⟨1, b8 32, fun v => decide (16 ≤ leNat v) && decide (leNat v ≤ 32)⟩
  | 3 => some ⟨1, b8 90, fun v => decide (60 ≤ leNat v) && decide (leNat v ≤ 95)⟩
  | 4 => some ⟨3, b8 20 ++ b8 100 ++ b8 50, fun v =>
      decide (byteAt v 0 ≤ byteAt v 1) && decide (byteAt v 1 ≤ 100) && decide (20 ≤ byteAt v 2) && decide (byteAt v 2 ≤ 90)⟩
  | 5 => some ⟨4, leBytes 4 0, fun _ => true⟩
  | 6 => some ⟨2, leBytes 2 64, fun v => decide (1 ≤ leNat v)⟩
  | 7 => some ⟨1, b8 0, fun v => decide (leNat v ≤ 2)⟩
  | 8 => some ⟨4, leBytes 4 0, fun _ => true⟩
  | 9 => some ⟨1, b8 0, fun v => decide (leNat v ≤ 1)⟩
  | _ => none
/-- The BOOT item's ID (R436). -/
def bootId : Nat := 0x10
/-- An item list. -/
abbrev Items := List (Nat × List Byte)
/-- Puts an item at its place in ascending ID. -/
def putItem (id : Nat) (v : List Byte) : Items → Items
  | [] => [(id, v)]
  | (j, w) :: t => if id < j then (id, v) :: (j, w) :: t else if id = j then (id, v) :: t else (j, w) :: putItem id v t
/-- Whether item IDs rise, each appearing once. -/
def itemsRise : Items → Bool
  | [] => true
  | [_] => true
  | a :: b :: t => decide (a.1 < b.1) && itemsRise (b :: t)
/-- The value of an item in a bank, where it has its table length and range (R425). -/
def Items.value (items : Items) (id : Nat) : List Byte :=
  match settingItem id with
  | none => (items.lookup id).getD []
  | some it => match items.lookup id with
    | some v => if v.length = it.len && it.inRange v then v else it.default
    | none => it.default
/-- A bank's settings as they come into force: known items with the value in force at its table length, others as they are; BOOT apart. -/
def Items.settle (items : Items) : Items :=
  (items.filter fun i => i.1 ≠ bootId).map fun i => (i.1, Items.value items i.1)
/-- The bytes of a payload: ID, length, value padded to a multiple of 4. -/
def itemBytes (items : Items) : List Byte :=
  items.flatMap fun i => leBytes 2 i.1 ++ leBytes 2 i.2.length ++ fitBytes (4 * ceilDiv i.2.length 4) i.2
/-- The items of a payload of at most `n` items, where they fill it exactly, their padding zero. -/
def readItems : Nat → List Byte → Option Items
  | 0, bs => if bs = [] then some [] else none
  | n + 1, bs =>
    if bs = [] then some []
    else
      let len := leNat ((bs.drop 2).take 2)
      let room := 4 * ceilDiv len 4
      let v := (bs.drop 4).take room
      if bs.length < 4 + room ∨ (v.drop len).any (· ≠ 0) then none
      else (readItems n (bs.drop (4 + room))).map fun t => (leNat (bs.take 2), v.take len) :: t
/-- A payload under R425: its items, where they fill it and their IDs rise. -/
def parseItems (bs : List Byte) : Option Items :=
  match readItems (bs.length / 4) bs with
  | some items => if itemsRise items then some items else none
  | none => none

/-! ### Banks (R421, R422) -/

/-- MAGIC of a bank. -/
def bankMagic : List Byte := [0x4B, 0x34, 0x53, 0x54]
/-- Bytes 0 to 19 of a bank. -/
def SetBank.head (b : SetBank) : List Byte := b.magic ++ leBytes 2 b.format ++ leBytes 2 0 ++ leBytes 4 b.seq.toNat ++ leBytes 4 b.seqN.toNat ++ leBytes 4 b.len
/-- The CRC of a bank. -/
def SetBank.sum (b : SetBank) : Nat := crc32c (b.head ++ b.payload)
/-- Whether a bank is valid. -/
def SetBank.valid (b : SetBank) : Bool :=
  decide (b.magic = bankMagic) && decide (b.seqN = ~~~b.seq) && decide (b.len ≤ 32736) && decide (b.payload.length = b.len) && decide (b.crc = b.sum) &&
    !b.bad && !b.stuck && (b.format ≠ 1 || (parseItems b.payload).isSome)
/-- The items of a bank: their structure is the same in every FORMAT (R436). -/
def SetBank.items (b : SetBank) : Items := (parseItems b.payload).getD []
/-- A bank written afresh. -/
def SetBank.written (format : Nat) (seq : W32) (payload : List Byte) (b : SetBank) : SetBank :=
  let x : SetBank := { magic := bankMagic, format := format, seq := seq, seqN := ~~~seq, len := payload.length, payload := payload, stuck := b.stuck }
  { x with crc := x.sum }
/-- A bank: B when `isB`. -/
def Tmk.bank (t : Tmk) (isB : Bool) : SetBank := if isB then t.bankB else t.bankA
/-- Writes a bank. -/
def Tmk.setBank (isB : Bool) (b : SetBank) (t : Tmk) : Tmk := if isB then { t with bankB := b } else { t with bankA := b }
/-- The selected bank, if any. -/
def Tmk.selected (t : Tmk) : Option SetBank := if t.anySel then some (t.bank t.selB) else none
/-- The selection at cold reset: the newer of two valid banks, the one that is valid, or none (R422). -/
def Tmk.select (t : Tmk) : Tmk :=
  let d := (t.bankB.seq - t.bankA.seq).toNat
  { t with anySel := t.bankA.valid || t.bankB.valid,
           selB := if t.bankA.valid && t.bankB.valid then decide (1 ≤ d) && decide (d < 2 ^ 31) else t.bankB.valid }
/-- The bank that the next write goes to: the one not selected, or A (R423). -/
def Tmk.target (t : Tmk) : Bool := t.anySel && !t.selB

/-! ### Values in force (R423, R425) -/

/-- The value of a setting in force. -/
def State.setting (s : State) (id : Nat) : List Byte := Items.value s.tmk.inForce id
/-- Applies a setting to its register. -/
def State.applySetting (id : Nat) (v : List Byte) (s : State) : State :=
  match id with
  | 1 => { s with bw := { s.bw with ceil := leNat v } }
  | 2 => { s with bw := { s.bw with slew := leNat v } }
  | 3 => { s with bw := { s.bw with target := leNat v } }
  | 4 => { s with bw := { s.bw with fanMin := byteAt v 0, fanMax := byteAt v 1, tlo := byteAt v 2 } }
  | 5 => { s with bw := { s.bw with holdCap := leNat (v.take 2), holdVmin := leNat (v.drop 2) } }
  | 6 => { s with sec := { s.sec with ce2Limit := leNat v } }
  | 7 => { s with sec := { s.sec with maxRate := leNat v } }
  | 8 => { s with sec := { s.sec with subsys := leNat v } }
  | 9 => { s with sec := { s.sec with signedOnly := decide (leNat v = 1) } }
  | _ => s
/-- Brings a list of settings into force: every known item takes its value or its default. -/
def State.applyAll (items : Items) (s : State) : State :=
  let s := { s with tmk := { s.tmk with inForce := items } }
  (List.range' 1 9).foldl (fun (s : State) id => s.applySetting id (s.setting id)) s

/-- The BOOT item of the state (R436). -/
def Sec.bootItem (x : Sec) : List Byte := b8 x.active ++ b8 x.trial ++ b8 x.attempts ++ b8 (x.slotst0 + 4 * x.slotst1) ++ leBytes 4 0
/-- SLOTST of a slot. -/
def Sec.slotSt (x : Sec) (slot : Nat) : Nat := if slot = 0 then x.slotst0 else x.slotst1
/-- Writes SLOTST of a slot: 0 EMPTY, 1 INVALID, 2 VALID. -/
def Sec.setSlotSt (slot v : Nat) (x : Sec) : Sec := if slot = 0 then { x with slotst0 := v } else { x with slotst1 := v }

/-! ### Bank writes (R423, R424) -/

/-- Every item of R425 with the value in force, and the items in force that the firmware does not know (R423, R425). -/
def State.items (s : State) : Items := (List.range' 1 9).foldl (fun items id => putItem id (s.setting id) items) s.tmk.inForce
/-- Every item of R425 at its default. -/
def defaultItems : Items := (List.range' 1 9).map fun id => (id, Items.value [] id)
/-- Whether the selected bank is of another FORMAT than the running image's (R447). -/
def State.otherFormat (s : State) : Bool := match s.tmk.selected with | some b => b.format ≠ s.sec.setFmt | none => false
/-- The BOOT item that a write carries (R436, R442, R444, R445). -/
def BankJob.bootItem (x : Sec) : BankJob → List Byte
  | .activate slot => ({ x with trial := slot, attempts := 2 } : Sec).bootItem
  | .confirm _ => ({ x with active := x.trial, trial := 0xFF, attempts := 0 } : Sec).bootItem
  | .erase => (x.setSlotSt x.target 1).bootItem
  | _ => x.bootItem
/-- The payload and FORMAT of a write: the settings in force with its change, or the defaults, and BOOT (R423, R447, R450). A BOOT write of the ROM,
or over settings of another FORMAT, carries the rest of the selected bank unchanged (R436, R447). -/
def State.payload (s : State) (job : BankJob) : List Byte × Nat :=
  let put := fun items : Items => itemBytes (putItem bootId (job.bootItem s.sec) items)
  let keep := match s.tmk.selected with | some b => (put b.items, b.format) | none => (put [], s.sec.setFmt)
  match job with
  | .setting _ id v => (put (putItem id v s.items), s.sec.setFmt)
  | .factory _ => (put defaultItems, s.sec.setFmt)
  | .format => (put defaultItems, s.sec.setFmt)
  | .romBoot => keep
  | _ => if s.sec.recovery || s.otherFormat then keep else (put s.items, s.sec.setFmt)
/-- The SEQ of the next write. -/
def Tmk.nextSeq (t : Tmk) : W32 := match t.selected with | some b => b.seq + 1 | none => 1
/-- The write at the head of the queue starts: its payload is fixed, and step 1 makes its bank invalid. -/
def State.startJob (s : State) : State :=
  match s.tmk.jobs with
  | j :: rest =>
    if j.started then s
    else
      let (bytes, fmt) := s.payload j.job
      let t := s.tmk
      let b := t.bank t.target
      { s with tmk := { t.setBank t.target { b with seq := t.nextSeq, seqN := t.nextSeq } with
                        jobs := { j with payload := bytes, format := fmt, started := true } :: rest } }
  | [] => s
/-- A bank write is queued; one starts at once when none is in progress. -/
def State.queueJob (job : BankJob) (s : State) : State :=
  ({ s with tmk := { s.tmk with jobs := s.tmk.jobs ++ [({ job := job } : BankWrite)] } }).startJob
/-- The opcode of a job's command. -/
def opOfJob : BankJob → Nat
  | .setting .. => 0xC030 | .factory _ => 0xC032 | _ => 0xC002
/-- Answers the command that a bank write came from, unless a warm reset has discarded it (R366). -/
def State.answerJob (j : BankWrite) (st : Status) (s : State) : State :=
  match sourceOf j.job with
  | some src => if j.quiet then s else s.answerCmd src (opOfJob j.job) st []
  | none => s

/-- The version of the image in a slot's flash. -/
def Sec.flash (x : Sec) (slot : Nat) : List Byte := if slot = 0 then x.flash0 else x.flash1
/-- Writes a slot's flash. -/
def Sec.setFlash (slot : Nat) (bs : List Byte) (x : Sec) : Sec := if slot = 0 then { x with flash0 := bs } else { x with flash1 := bs }
/-- A little-endian field of an image header. -/
def hdrField (h : List Byte) (lo n : Nat) : Nat := leNat ((h.drop lo).take n)

/-! ### Commands over settings and keys (R429, R448, R450) -/

/-- Whether a bank write may not start: after PWR_FAIL_N (R424), or in a trial over settings of another FORMAT (R447). -/
def State.settingsHeld (s : State) : Bool := s.bw.pfail || (s.sec.trialRun && s.otherFormat)

/-- SETTING_SET: one bank write; the reply follows its read-back. BOOT, unknown items and values out of range are INVALID. -/
def execSettingSet (src : Source) (ident : Nat) (v : List Byte) (s : State) : Res :=
  .next (s.cmd (.settingSet src ident v) src 0xC030 [.host, .bmc] false fun s =>
    match settingItem ident with
    | none => s.answerCmd src 0xC030 .invalid []
    | some it =>
      if v.length ≠ it.len ∨ !it.inRange v then s.answerCmd src 0xC030 .invalid []
      else if s.settingsHeld then s.answerCmd src 0xC030 .state []
      else s.queueJob (.setting src ident v))

/-- SETTING_GET: the value in force; BOOT reads as the item of R436. -/
def execSettingGet (src : Source) (ident : Nat) (s : State) : Res :=
  .next (s.cmd (.settingGet src ident) src 0xC031 [.host, .bmc] false fun s =>
    if ident = bootId then s.answerCmd src 0xC031 .success s.sec.bootItem
    else if (settingItem ident).isSome then s.answerCmd src 0xC031 .success (s.setting ident)
    else s.answerCmd src 0xC031 .invalid [])

/-- FACTORY_RESET: a bank of defaults and BOOT; refused from the host while HUB_LOCK is set. -/
def execFactoryReset (src : Source) (s : State) : Res :=
  .next (s.cmd (.factoryReset src) src 0xC032 [.host, .bmc] false fun s =>
    if src = .host && s.hub.lock then s.answerCmd src 0xC032 .locked []
    else if s.settingsHeld then s.answerCmd src 0xC032 .state []
    else s.queueJob (.factory src))

/-- The key store with its tag renewed; a store whose tag fails stays so (R429). -/
def Sec.retag (x : Sec) (keys : List KeyEnt) : Sec :=
  { x with keys := keys, keyTag := if x.tagBad then x.keyTag else some (Config.keyTag x.ksk (keyStoreBytes keys)) }
/-- KEY_ENROLL: adds a stream-signing key. -/
def execKeyEnroll (src : Source) (key : List Byte) (s : State) : Res :=
  .next (s.cmd (.keyEnroll src key) src 0xC040 [.host, .bmc] false fun s =>
    if src = .host && s.hub.lock then s.answerCmd src 0xC040 .locked []
    else if key.length ≠ 57 then s.answerCmd src 0xC040 .invalid []
    else if 16 ≤ s.sec.keys.length then s.answerCmd src 0xC040 .state []
    else
      let s := { s with sec := s.sec.retag (s.sec.keys ++ [(⟨key, false⟩ : KeyEnt)]) }
      (s.record 0x0079 4 (leBytes 8 (keyIdOf key))).answerCmd src 0xC040 .success [])

/-- KEY_REVOKE: marks the entries of a KEYID REVOKED for good. -/
def execKeyRevoke (src : Source) (keyId : Nat) (s : State) : Res :=
  .next (s.cmd (.keyRevoke src keyId) src 0xC041 [.host, .bmc] false fun s =>
    let mine := fun k : KeyEnt => keyIdOf k.key = keyId
    if !(s.sec.keys.any fun k => mine k) then s.answerCmd src 0xC041 .notFound []
    else
      let fresh := s.sec.keys.any fun k => mine k && !k.revoked
      let s := { s with sec := s.sec.retag (s.sec.keys.map fun k => if mine k then { k with revoked := true } else k) }
      (if fresh then s.record 0x007A 4 (leBytes 8 keyId ++ b8 0) else s).answerCmd src 0xC041 .success [])

/-- KEY_LIST: KEYIDs and states, 0 ENROLLED or 1 REVOKED; a failed tag shows every entry REVOKED (R429). -/
def execKeyList (src : Source) (s : State) : Res :=
  .next (s.cmd (.keyList src) src 0xC042 [.host, .bmc] false fun s =>
    s.answerCmd src 0xC042 .success (s.sec.keys.flatMap fun k => leBytes 8 (keyIdOf k.key) ++ b8 (b2n (k.revoked || s.sec.tagBad))))

end Sys2Proof.Machine
end

