-- ==== Sys2Proof/Machine/LayerPrep.lean ====
section
/-! DEFINITION. What the tile dispatchers make of a layer when its stream is committed or its parameters are written: the density census
and Reef copies of an AUTO layer (R120, R121, R225), the test of a training mask and the transposes (R139, R140). -/
-- Log entries (notes/assumptions): DESIGN CHOICE 24, 177; DEDUCED 65.

namespace Sys2Proof.Machine

/-- One row of a weight tile: its words and whether a line of it is poisoned. -/
abbrev TileRow := List W256 × Bool

/-- The 256 rows of `w` words at a DLA. -/
def State.tileRows (a : Agent) (dla w : Nat) (s : State) : List TileRow × State :=
  (List.range 256).foldl (fun (r : List TileRow × State) i =>
    let (bs, p, s) := r.2.devRead a (dla + i * w * 32) (w * 32)
    (r.1 ++ [(wordsOf bs, p)], s)) ([], s)

/-- The positions of a dense row that hold a non-zero weight. -/
def nonzeroMask (ws : List W256) : W256 := ws.foldl (fun m w => m ||| w) 0
/-- How many of the first `n` bits of a word are set. -/
def popFirst (n : Nat) (w : W256) : Nat := ((List.range n).filter fun k => w.getLsbD k).length
/-- Whether no aligned group of four positions holds more than two non-zero weights (R120). -/
def conforms (m : W256) : Bool := (List.range 64).all fun j => ((List.range 4).filter fun i => m.getLsbD (4 * j + i)).length ≤ 2

/-- Z, P and the conformity of a tile's rows of which `lim` positions lie in the layer: Z and P count those, and conformity is tested over all
256, of a last slice too (DESIGN CHOICE, notes/assumptions/177.md). -/
def tileCensus (lim : Nat) (rows : List TileRow) : Nat × Nat × Bool :=
  ((rows.map fun r => popFirst lim (nonzeroMask r.1)).sum, 256 * lim, rows.all fun r => conforms (nonzeroMask r.1))

/-- The DLA of dense weight tile (j, i) of a layer (R208). -/
def LayerRec.denseTile (l : LayerRec) (q : SlotCfg) (j i : Nat) : Nat := l.weights + (j * ceilDiv l.depth 256 + i) * 256 * q.bw * 32
/-- The DLA of the Reef copy of weight tile (j, i) (R211). -/
def LayerRec.reefTile (l : LayerRec) (q : SlotCfg) (j i : Nat) : Nat := l.aux + (j * ceilDiv l.depth 512 + i) * 256 * (q.bw + 2) * 32

/-- Writes bytes that may be poisoned, cut at lines. -/
def State.ownWriteMarked (src dla : Nat) (bs : List Byte) (poison : Bool) (s : State) : State :=
  (cutLines bs.length dla bs).foldl (fun s c => s.ownWriteLine src c.1 c.2 poison) s

/-- The bytes of words. -/
def bytesOf (ws : List W256) : List Byte := ws.flatMap fun w => leBytes 32 w.toNat

/-- One 512-position slice `i` of block `j`: its census, and its Reef copy where it conforms. -/
def State.prepSlice (d : Nat) (l : LayerRec) (q : SlotCfg) (j i : Nat) (s : State) : (Nat × Nat × Bool) × State :=
  let lim := fun k => min 256 (l.depth - 256 * k)
  let (lo, s) := s.tileRows (.die d) (l.denseTile q j (2 * i)) q.bw
  let (hi, s) := if 512 * i + 256 < l.depth then s.tileRows (.die d) (l.denseTile q j (2 * i + 1)) q.bw
    else (List.replicate 256 (List.replicate q.bw 0, false), s)
  let (za, pa, ca) := tileCensus (lim (2 * i)) lo
  let (zb, pb, cb) := tileCensus (lim (2 * i + 1)) hi
  let s := if ca && cb then
      ((lo.zip hi).mapIdx fun r x => (r, x)).foldl (fun (s : State) x =>
        let row := (packRow q.bw (q.wfmt = 0) (x.2.1.1 ++ x.2.2.1 ++ [~~~0, ~~~0])).1
        s.ownWriteMarked (dieSrc d) (l.reefTile q j i + x.1 * (q.bw + 2) * 32) (bytesOf row) (x.2.1.2 || x.2.2.2)) s
    else s
  ((za + zb, pa + pb, ca && cb), s)

/-- The census and Reef copies of one AUTO layer. -/
def State.takeCensus (h d : Nat) (l : LayerRec) (q : SlotCfg) (s : State) : State :=
  let s := { s with ldr := { s.ldr with census := s.ldr.census.filter fun r => !(r.1 = h && r.2.1 = l.index) } }
  (List.range (l.nout / 256)).foldl (fun (s : State) j =>
    let ((z, p, ok), s) := (List.range (ceilDiv l.depth 512)).foldl (fun (a : (Nat × Nat × Bool) × State) i =>
      let ((z, p, ok), s) := a.2.prepSlice d l q j i
      ((a.1.1 + z, a.1.2.1 + p, a.1.2.2 && ok), s)) ((0, 0, true), s)
    { s with ldr := { s.ldr with census := s.ldr.census ++ [(h, l.index, j, z, p, ok)] } }) s

/-- The mask bit of an element in a mask's bytes: bit n × DEPTH + k for output channel n and position k (notes/assumptions/24.md). -/
def maskBit (l : LayerRec) (m : List Byte) (n k : Nat) : Bool :=
  let i := n * l.depth + k
  decide (k < l.depth) && (m.getD (i / 8) 0).getLsbD (i % 8)
/-- Whether a mask is transposable (R139). -/
def transposable (l : LayerRec) (m : List Byte) : Bool :=
  (List.range (l.nout / 4)).all fun i => (List.range (ceilDiv l.depth 4)).all fun j =>
    let at_ := fun a b => maskBit l m (4 * i + a) (4 * j + b)
    (List.range 4).all fun x => decide (((List.range 4).filter fun y => at_ x y).length ≤ 2) &&
      decide (((List.range 4).filter fun y => at_ y x).length ≤ 2)

/-- Whether a layer's own copy of its weights is packed, and the positions of one of its slices: S of R208. -/
def LayerRec.packed (l : LayerRec) : Bool := l.wclass = 1
def LayerRec.slicePos (l : LayerRec) : Nat := if l.packed then 512 else 256
/-- The DLA of a row of a layer's weights: its tile row of `w` words, for slices of `sl` positions (R208). -/
def weightRow (l : LayerRec) (w sl n k : Nat) : Nat := l.weights + ((n / 256 * ceilDiv l.depth sl + k / sl) * 256 + n % 256) * w * 32
/-- The weight at a position of a row as the row's words hold it: of a packed row, what its two lanes hold for it (R49, R114, R117). -/
def heldValue (q : SlotCfg) (packed : Bool) (ws : List W256) (x : Nat) : Int :=
  if packed then
    let lane := fun i : Nat => (fieldAt (ws.getD (q.bw + i / 128) 0) 2 (i % 128), planeVal (ws.take q.bw) (q.wfmt = 0) i)
    ([lane (2 * (x / 4)), lane (2 * (x / 4) + 1)].filter fun v => v.1 = x % 4).foldl (fun a v => a + v.2) 0
  else if q.wfmt = 3 then ((elements 4 ws).getD x 0 : Int)
  else if q.wfmt = 4 then ((elements 8 ws).getD x 0 : Int)
  else planeVal ws (q.wfmt = 0) x
/-- The weights of a layer as its own copy holds them, one list an output channel, and whether a line of them is poisoned. -/
def State.heldWeights (a : Agent) (l : LayerRec) (q : SlotCfg) (s : State) : List (List Int) × Bool × State :=
  let w := rowWords q l.packed
  (List.range l.nout).foldl (fun (r : List (List Int) × Bool × State) n =>
    let (row, bad, s) := (List.range (ceilDiv l.depth l.slicePos)).foldl (fun (x : List Int × Bool × State) i =>
      let (bs, p, s) := x.2.2.devRead a (weightRow l w l.slicePos n (l.slicePos * i)) (32 * w)
      (x.1 ++ (List.range l.slicePos).map (heldValue q l.packed (wordsOf bs)), x.2.1 || p, s)) ([], r.2.1, r.2.2)
    (r.1 ++ [row], bad, s)) ([], false, s)
/-- The rows of a layer's transpose: row k holds position k of every output channel, with explicit zeros, packed where the mask is
transposable (R140). The slices and tiles follow R208 with DEPTH and NOUT exchanged. -/
def transposeRows (l : LayerRec) (q : SlotCfg) (packed : Bool) (ws : List (List Int)) : List W256 :=
  let sl := if packed then 512 else 256
  (List.range (ceilDiv l.depth 256)).flatMap fun j => (List.range (ceilDiv l.nout sl)).flatMap fun i => (List.range 256).flatMap fun r =>
    let k := 256 * j + r
    let vs := (List.range sl).map fun x => if k < l.depth then (ws.getD (sl * i + x) []).getD k 0 else 0
    if packed then (packRow q.bw (q.wfmt = 0) (toPlanes q.bw (vs.take 256) ++ toPlanes q.bw (vs.drop 256) ++ [~~~0, ~~~0])).1
    else toPlanes q.bw vs
/-- Writes the transpose of a layer that keeps one, formed from its weights: packed for a transposable mask, else dense (R140). Where it
lies within AUX the manual does not give; it starts behind the Reef copies and ends with AUX (DESIGN CHOICE, notes/assumptions/24.md). -/
def State.writeTransposes (a : Agent) (src : Nat) (l : LayerRec) (q : SlotCfg) (packed badMask : Bool) (s : State) : State :=
  let (dla, n) := l.transposeArea q
  let (ws, bad, s) := s.heldWeights a l q
  s.ownWriteMarked src dla ((bytesOf (transposeRows l q packed ws)).take n) (bad || badMask)

/-- Tests the mask of a layer, and writes the transpose that the layer keeps (R139, R140); a poisoned mask makes it dense and poisoned (R409). -/
def State.testMask (h d : Nat) (l : LayerRec) (q : SlotCfg) (s : State) : State :=
  let (m, bad, s) := s.devRead (.die d) l.mask (ceilDiv (l.nout * l.depth) 8)
  let ok := !bad && transposable l m
  let rest := s.ldr.transposable.filter (· ≠ (h, l.index))
  let s := { s with ldr := { s.ldr with transposable := if ok then rest ++ [(h, l.index)] else rest } }
  if l.keepsTranspose ∧ l.weights ≠ 0 then s.writeTransposes (.die d) (dieSrc d) l q ok bad else s

/-- The lowest die of a class. -/
def ClassRec.firstDie (r : ClassRec) : Nat := ((List.range 4).find? fun d => bit r.dies d).getD 0

/-- What the dispatchers do for one layer. -/
def State.prepLayer (h : Nat) (st : Stream) (s : State) (l : LayerRec) : State :=
  match st.cls l.cls with
  | none => s
  | some r =>
    let q := st.layerSlot l
    let s := if l.wclass = 2 ∧ l.weights ≠ 0 then s.takeCensus h r.firstDie l q else s
    if l.masked then s.testMask h r.firstDie l q else s

/-- The lines that preparing the layers reads and the host may hold modified. -/
def State.prepLines (st : Stream) (s : State) : List Nat :=
  st.layers.flatMap fun l =>
    (if (l.wclass = 2 ∨ l.keepsTranspose) ∧ l.weights ≠ 0 then s.dirtyLines l.weights (l.weightBytes (st.layerSlot l)) else []) ++
      if l.masked then s.dirtyLines l.mask (ceilDiv (l.nout * l.depth) 8) else []

/-- Whether the units that preparing the layers needs hold grants (R24). -/
def State.prepWorks (st : Stream) (s : State) : Bool :=
  st.layers.all fun l => match st.cls l.cls with
    | none => true
    | some r =>
      (!((l.wclass = 2 || l.keepsTranspose) && decide (l.weights ≠ 0)) || s.dlaWorks r.firstDie l.weights (l.weightBytes (st.layerSlot l))) &&
        (!l.masked || s.dlaWorks r.firstDie l.mask (ceilDiv (l.nout * l.depth) 8))

end Sys2Proof.Machine
end

