-- ==== Sys2Proof/Machine/Loader.lean ====
section
/-! DEFINITION. Loader requests, commit, unload and the rewriting of cores after a reset (R179 to R183, R214 to R221). -/
-- Log entries (notes/assumptions): DESIGN CHOICE 148; DEDUCED 20, 78, 154.

namespace Sys2Proof.Machine

/-! ### Requests -/

/-- Whether a live control record passes Estuary's check (R257). -/
def ctrlOk (e : Exam) : Bool :=
  let r := e.rec_
  !e.poison && (ctrlOp r = 8 || ctrlOp r = 9 || ctrlOp r = 0xA) && bits (recField r 0 8) 47 6 = 0 && recField r 20 12 = 0 && recField r 40 8 = 0

/-- The answer to a control record. -/
def State.ctrlAnswer (slot : Nat) (r : List Byte) (answer reason : Nat) (s : State) : State :=
  s.answer { slot := .ctrl slot, op := ctrlOp r, answer := answer, reason := reason, seq := recSeq r, user := recUser r }

/-- Whether the loader works on a request. -/
def State.ldrBusy (s : State) : Bool := (List.range 4).any fun h => (s.handle h).busy

/-- A count of HUB_LDR_COUNT, which stops at 0xFFFF. -/
def inc16 (n : Nat) : Nat := min (n + 1) 0xFFFF

/-- A request ends with a code: the registers of its handle, the counts and the answer (R180, R182, R214, R221). -/
def State.ldrEnd (slot : Nat) (r : List Byte) (f : LdrFail) (s : State) : State :=
  let h := bits (recField r 0 8) 5 4
  let s := s.modHandle h fun x => { x with op := ctrlOp r - 8, code := f.code, section_ := f.section_, frame := f.frame, busy := false, copying := false, next := none }
  let x := s.ldr
  let s := { s with ldr := if f.code = 0 then { x with accepted := inc16 x.accepted } else { x with refused := inc16 x.refused } }
  s.ctrlAnswer slot r 5 f.code

/-- Ends the deferred requests of a handle with a reason. -/
def State.refuseDeferred (h reason : Nat) (s : State) : State :=
  ((s.est.table.filter fun e => e.2.handle = h && e.2.st = .deferred).map (·.1)).foldl (fun (s : State) n => s.endRequest n 4 reason) s

/-- The first DLA of a handle's staging area: region 3 of the reserved regions (R183, R282). -/
def State.stagingDla (s : State) (h : Nat) : Nat := (s.hdmPages - 30720) * 32768 + h * 2 ^ 26

/-- A LOAD or REPLACE: the staging copy, the checks of stages 1 to 5, and the stream left for commit (R183, R214). `during` is the
handle's state meanwhile. -/
def State.ldrCheck (slot : Nat) (r : List Byte) (during : HandleSt) (s : State) : State :=
  let h := bits (recField r 0 8) 5 4
  let dla := recField r 8 8
  let n := recField r 16 4
  let s := { s with est := { s.est with ctrlQueue := s.est.ctrlQueue.drop 1 } }
  let refuse := fun (f : LdrFail) (s : State) =>
    let s := (s.ldrEnd slot r f).modHandle h fun x => { x with st := if during = .loading then .empty else .loaded }
    if during = .loading then s.refuseDeferred h 0x16 else s
  if dla % 64 ≠ 0 ∨ n = 0 ∨ 1048576 < n ∨ !s.openDla dla (64 * n) then refuse ⟨0x01, 0, 0xFFFFFFFF⟩ s
  else
    let (img, poison, s) := s.devRead .hub dla (64 * n)
    if poison then refuse ⟨0x03, 0, 0xFFFFFFFF⟩ s
    else
      let s := s.ownWrite hubSrc (s.stagingDla h) img
      match s.checkStream h n img with
      | .error f => refuse f (if f.code = 0x04 then s.pairError 7 else s)
      | .ok st => s.modHandle h fun x => { x with next := some st, copying := false }

/-- Work on a request starts: OP shows it, with no failure so far (R221; DESIGN CHOICE, notes/assumptions/148.md). -/
def State.ldrStart (slot : Nat) (r : List Byte) (during : HandleSt) (copying : Bool) (s : State) : State :=
  s.modHandle (bits (recField r 0 8) 5 4) fun x => { x with st := during, busy := true, op := ctrlOp r - 8, code := 0, section_ := 0, frame := 0xFFFFFFFF,
                                                            copying := copying, ctrlSlot := slot, ctrlRec := r }
/-- The staging copy and the checks of a request at the head of the queue; a stream whose lines the host may hold modified waits for them and for the grants of the units on
its way (R24; notes/assumptions/20.md). -/
def State.ldrCopy (slot : Nat) (r : List Byte) (during : HandleSt) (s : State) : State :=
  match s.dirtyLines (recField r 8 8) (64 * min (recField r 16 4) 1048576) with
  | [] => if s.hubWorks (recField r 8 8) (64 * min (recField r 16 4) 1048576) then s.ldrCheck slot r during else s
  | ls => s.snoopData ls

/-- The loader's part of a request at the head of its queue. A request whose handle is in another state is refused (R182). -/
def State.ldrServe (slot op : Nat) (s : State) : State :=
  match s.est.ctrlQueue with
  | [] => s
  | (n, r) :: rest =>
    let h := bits (recField r 0 8) 5 4
    let x := s.handle h
    let wrong := fun s : State => ({ s with est := { s.est with ctrlQueue := rest } }).ldrEnd slot r ⟨0x02, 0, 0xFFFFFFFF⟩
    if n ≠ slot ∨ ctrlOp r ≠ op ∨ !s.hub.hubUp then s
    else if x.copying then s.ldrCopy slot r x.st
    else if s.ldrBusy then s
    else match op with
      | 8 => if x.st ≠ .empty then wrong s else (s.ldrStart slot r .loading true).ldrCopy slot r .loading
      | 9 => if x.st ≠ .loaded then wrong s else (s.ldrStart slot r .replacing true).ldrCopy slot r .replacing
      | _ =>
        if x.st ≠ .loaded then wrong s
        else
          let s := { s with est := { s.est with ctrlQueue := rest } }
          let s := s.ldrStart slot r .unloading false
          let s := s.refuseDeferred h 0x1A
          let pool := (s.est.table.filter fun e => e.2.handle = h && (e.2.st = .admitted || e.2.st = .closing) && e.2.step = 0).map (·.1)
          pool.foldl (fun (s : State) n => s.endRequest n 4 0x1A) s

/-- A live control record of an operation is passed to the loader (R257, R258). -/
def State.ctrlPass (slot op : Nat) (s : State) : State :=
  match s.est.nextExam (.ctrl slot) with
  | some (e, _) =>
    if ctrlOk e then
      s.examineLive (.ctrl slot) (fun r => ctrlOp r = op) fun e s => { s with est := { s.est with ctrlQueue := s.est.ctrlQueue ++ [(slot, e.rec_)] } }
    else s
  | none => s

/-- LOADER_LOAD: a LOAD record becomes live, and is served once the loader has ended the requests before it. -/
def execLoaderLoad (slot : Fin 15) (s : State) : Res := .next ((s.ctrlPass slot 8).ldrServe slot 8)

/-- LOADER_REPLACE: as LOADER_LOAD, for a REPLACE record. -/
def execLoaderReplace (slot : Fin 15) (s : State) : Res := .next ((s.ctrlPass slot 9).ldrServe slot 9)

/-- LOADER_UNLOAD: an UNLOAD record starts the unload of its handle: no step forms, and its waiting requests are refused (R218, R266). -/
def execLoaderUnload (slot : Fin 15) (s : State) : Res := .next ((s.ctrlPass slot 0xA).ldrServe slot 0xA)

/-- CTRL_RECORD_BAD: a live control record that fails Estuary's check is refused and not passed on (R257, R410). -/
def execCtrlRecordBad (slot : Fin 15) (s : State) : Res :=
  .next (match s.est.nextExam (.ctrl slot) with
    | some (e, _) =>
      if ctrlOk e then s
      else s.examineLive (.ctrl slot) (fun _ => true) fun e s => s.ctrlAnswer slot e.rec_ 4 0x10
    | none => s)

/-! ### Commit (R216, R217) -/

/-- Whether the configuration engine reaches a core: its die is neither isolated nor in reset, nor is the core. -/
def State.reachable (s : State) (c : Nat) : Bool :=
  !(s.die (coreDie c)).isolated && !(s.die (coreDie c)).inReset && !(s.core c).inReset

/-- The cores that a stream claims. -/
def Stream.cores (st : Stream) : List Nat := (List.range 144).filter fun c => bit st.groups (coreGroupBit c)

/-- Whether a handle has a step in flight. -/
def State.stepsOf (s : State) (h : Nat) : Bool := s.est.steps.any fun e => e.handle = h

/-- The die Headlands stop every task slot of cores. -/
def State.stopCores (cs : List Nat) (s : State) : State :=
  cs.foldl (fun (s : State) c => (List.range 4).foldl (fun (s : State) t => s.tsStop c t) s) s

/-- The counters of a handle's postings become IDLE. -/
def State.idleCtrs (h : Nat) (s : State) : State :=
  { s with dies := s.dies.map fun x => (x.1, { x.2 with
      ctrs := x.2.ctrs.map fun q => if q.2.handle = h ∧ q.2.st ≠ .idle then (q.1, {}) else q,
      retry := x.2.retry.filter fun y => !((x.2.ctr y.ctr).handle = h && (x.2.ctr y.ctr).st ≠ .idle) }) }

/-- The banks of groups that a stream gives up are switched off, under R174. -/
def State.releaseCores (cs : List Nat) (s : State) : State :=
  cs.foldl (fun (s : State) c => if s.fenced c then s else s.modSpd c (Spad.request 0 s.us false)) s

/-- The weight range of a layer with weights: a column is ceil(DEPTH / S) tiles of 256 rows of w words (R208, R296). -/
def Stream.weightRange (h : Nat) (st : Stream) (l : LayerRec) : Option WeightRange :=
  if l.weights = 0 then none
  else
    let w := rowWords (st.layerSlot l) l.packed
    some { handle := h, layer := l.index, base := l.weights, colBytes := ceilDiv l.depth l.slicePos * 256 * w * 32, cols := ceilDiv l.nout 256 }
/-- Drops the weight ranges of a handle. -/
def State.dropRanges (h : Nat) (s : State) : State := { s with plm := { s.plm with ranges := s.plm.ranges.filter (·.handle ≠ h) } }
/-- Registers the weight ranges of a stream with the map engine. -/
def State.registerRanges (h : Nat) (st : Stream) (s : State) : State :=
  let s := s.dropRanges h
  { s with plm := { s.plm with ranges := s.plm.ranges ++ st.layers.filterMap (st.weightRange h) } }

/-- Steps 4 to 7 of R216. A claimed core that a reset keeps from the configuration engine is written when the reset ends (R219). -/
def State.commitStream (h : Nat) (st : Stream) (s : State) : State :=
  let old := match (s.handle h).stream with | some o => o.cores | none => []
  let mine := st.cores.filter s.reachable
  let s := mine.foldl (fun (s : State) c => match st.classOf c with | some r => s.writeCore st r c | none => s) s
  let s := { s with ldr := { s.ldr with census := s.ldr.census.filter (·.1 ≠ h), transposable := s.ldr.transposable.filter (·.1 ≠ h),
                                        rewrite := (s.ldr.rewrite.filter fun c => !(c ∈ st.cores ++ old)) ++ st.cores.filter fun c => !(c ∈ mine) } }
  let s := (st.layers.foldl (State.prepLayer h st) ((s.registerRanges h st).idleCtrs h)).releaseCores (old.filter fun c => !(c ∈ st.cores))
  let s := s.modHandle h fun x => { x with st := .loaded, stream := some st, ident := st.ident, groups := st.groups, frames := st.frames,
                                           signed := st.signed, key := st.keyId }
  let x := s.handle h
  (s.record 0x0040 4 (b8 h ++ b8 0 ++ b8 0 ++ b8 0 ++ leBytes 8 st.ident ++ leBytes 8 st.keyId) 0xFF 0x11).ldrEnd x.ctrlSlot x.ctrlRec ⟨0, 0, 0xFFFFFFFF⟩

/-- The preloads that a core is to make from a stream. -/
def State.preloadsOf (s : State) (st : Stream) (c : Nat) : List PartRec :=
  match st.classOf c with | some r => if s.takesData r c then (st.recsOf r c).preloads (s.core c).spd else [] | none => []
/-- LOADER_COMMIT: once no step of a replaced stream is in flight, the claimed cores' slots stop and their banks are requested; once the
banks are ON the cores are written and the handle becomes LOADED. -/
def execLoaderCommit (h : HandleId) (s : State) : Res :=
  .next (match (s.handle h).next with
    | none => s
    | some st =>
      let old := match (s.handle h).stream with | some o => o.cores | none => []
      if s.stepsOf h || !s.hub.hubUp then s
      else
        let mine := st.cores.filter s.reachable
        let s := s.stopCores (mine ++ old.filter fun c => !(c ∈ mine))
        let s := mine.foldl (fun (s : State) c => match st.classOf c with | some r => s.requestBanks st r c | none => s) s
        let pre := mine.flatMap fun c => s.preloadsOf st c
        match s.preloadLines pre ++ s.prepLines st with
        | [] => if mine.all s.banksReady && s.rangesWork (preloadRanges pre) && s.prepWorks st then s.commitStream h st else s
        | ls => s.snoopData ls)

/-- UNLOAD_COMPLETE: with no step in flight, slots stop, banks are no longer requested, the handle's streams close and it becomes
EMPTY (R218, R269). -/
def execUnloadComplete (h : HandleId) (s : State) : Res :=
  .next (let x := s.handle h
    match x.stream with
    | none => s
    | some st =>
      if x.st ≠ .unloading ∨ s.stepsOf h ∨ !s.hub.hubUp then s
      else
        let s := (((s.stopCores st.cores).releaseCores st.cores).idleCtrs h).dropRanges h
        let s := { s with ldr := { s.ldr with census := s.ldr.census.filter (·.1 ≠ h.val), transposable := s.ldr.transposable.filter (·.1 ≠ h.val),
                                              rewrite := s.ldr.rewrite.filter fun c => !(c ∈ st.cores) },
                          est := { s.est with table := s.est.table.map fun (e : Nat × StreamEnt) =>
                            if e.2.handle = h.val ∧ e.2.st ≠ StreamSt.closed then (e.1, ({ seq := e.2.seq } : StreamEnt)) else e } }
        let s := s.record 0x0041 4 (b8 h ++ b8 0 ++ b8 0 ++ b8 0 ++ leBytes 8 st.ident) 0xFF 0x11
        (s.modHandle h fun y => { op := y.op, ctrlSlot := y.ctrlSlot, ctrlRec := y.ctrlRec }).ldrEnd x.ctrlSlot x.ctrlRec ⟨0, 0, 0xFFFFFFFF⟩)

/-- STREAM_REWRITE: when a die or core reset of claimed cores has ended, the configuration engine rewrites the cores of a handle that await it from
the staging copy, without the checks (R219). -/
def execStreamRewrite (h : HandleId) (scope : RewriteScope) (s : State) : Res :=
  .next (match (s.handle h).stream with
    | none => s
    | some st =>
      let (d, all) : Nat × List Nat := match scope with
        | .core c => (coreDie c, [c.val])
        | .die d => (d.val, (List.range 36).map (36 * d.val + ·))
      let mine := all.filter fun c => c ∈ st.cores && c ∈ s.ldr.rewrite && s.reachable c
      let s := mine.foldl (fun (s : State) c => match st.classOf c with | some r => s.requestBanks st r c | none => s) s
      let pre := mine.flatMap fun c => s.preloadsOf st c
      match s.preloadLines pre with
      | [] =>
        if mine = [] || !mine.all s.banksReady || !s.rangesWork (preloadRanges pre) then s
        else
          let s := mine.foldl (fun (s : State) c => match st.classOf c with | some r => s.writeCore st r c | none => s) s
          let s := { s with ldr := { s.ldr with rewrite := s.ldr.rewrite.filter fun c => !(c ∈ mine) } }
          let s := s.record 0x0042 4 (b8 h ++ b8 d) 0xFF 0x13
          mine.foldl (fun (s : State) c => if s.role c = .inService ∧ !(c ∈ (s.die d).joining) then s.joinPostings c else s) s
      | ls => s.snoopData ls)

end Sys2Proof.Machine
end

