-- ==== Sys2Proof/Machine/Plm.lean ====
section
/-! DEFINITION. The Strandmap's moves, copies, windows, releases and losses (R289 to R299), the DDR4 channels' errors and training (R301
to R308), die reset (R394 to R399) and the isolation of a die (R20). -/
-- Log entries (notes/assumptions): DESIGN CHOICE 69; DEDUCED 68, 70, 71, 72, 73, 74, 77.

namespace Sys2Proof.Machine

/-! ### The map as the manual lays it out (R280, R296, R309) -/

/-- The STATE code of an entry. -/
def PageSt.code : PageSt → Nat
  | .unmapped => 0 | .mapped => 1 | .moving => 2 | .lost => 3
/-- The 8-byte entry. -/
def PageEnt.pack (e : PageEnt) : Nat :=
  e.st.code + 2 ^ 2 * (e.die % 4) + 2 ^ 4 * (e.chan % 4) + 2 ^ 6 * (e.ppn % 2 ^ 22) + 2 ^ 28 * (e.rmask % 16) + 2 ^ 32 * (e.ridx % 2 ^ 22) +
    2 ^ 54 * b2n e.pin + 2 ^ 55 * b2n e.quiet + 2 ^ 56 * (e.lastw % 256)
/-- Word `d` of a page's replica-table entry. -/
def Plm.replicaWord (m : Plm) (p d : Nat) : Nat :=
  match m.replicas.find? fun r => r.page = p && r.die = d with
  | some r => r.ppn % 2 ^ 22 + 2 ^ 22 * (r.chan % 4) + 2 ^ 31
  | none => 0
/-- PLM_QUERY_LO and PLM_QUERY_HI: the entry of the page that PLM_QUERY_PAGE names. -/
def State.plmQuery (s : State) : Nat × Nat := let w := (s.page s.plm.queryPage).pack; (w % 2 ^ 32, w / 2 ^ 32)
/-- The pages that READY has pinned and nothing has changed since. -/
def State.pinsUntouched (s : State) : Nat :=
  if s.plm.ready then gibPages - (s.plm.map.filter fun x => decide (s.hdmPages - gibPages ≤ x.1) && decide (x.1 < s.hdmPages)).length else 0
/-- PLM_PAGES_MAPPED: the MAPPED and MOVING pages. -/
def State.pagesMapped (s : State) : Nat := (s.plm.map.filter fun x => x.2.st = .mapped || x.2.st = .moving).length + s.pinsUntouched
/-- PLM_STATUS: READY, WALK, EVAC and FULL. -/
def State.plmStatus (s : State) : Nat :=
  b2n s.plm.ready + 2 * b2n (s.plm.walks ≠ []) + 4 * b2n (s.plm.chans.any fun x => x.2.st = .evacuating) + 8 * b2n s.plm.full

/-! ### Copies and moves (R290 to R295) -/

/-- A page's 512 lines are read at one channel and written whole, free of errors, to physical page `ppn` of another. -/
def State.countCopy (src dst ppn : Nat) (s : State) : State :=
  let s := (s.countLines src false 512).countLines dst true 512
  s.setChan dst { s.chanAt dst with damage := (s.chanAt dst).damage.filter fun e => decide (e.1 / 512 ≠ ppn) }

/-- Moves and copies in progress (R295). -/
def Plm.inProgress (m : Plm) : Nat := m.moves.length + m.copying.length

/-- One of several values that the manual does not choose among: a free value says which. -/
def State.pickOne (ls : List Nat) (s : State) : Option (Nat × State) :=
  match ls with
  | [] => none
  | _ => let (v, s) := s.draw; (ls[v % ls.length]?).map fun x => (x, s)

/-- The channels of die `d` that have a free page. -/
def State.openChans (s : State) (d : Nat) : List Nat := ((List.range 4).map fun c => 4 * d + c).filter fun i => 0 < s.chanFree i
/-- Those with the most free pages. -/
def State.roomiest (s : State) (d : Nat) : List Nat :=
  let cs := s.openChans d
  cs.filter fun i => cs.all fun j => s.chanFree j ≤ s.chanFree i

/-- A replica of a page is begun on die `d`; which channel holds it the manual does not say. -/
def State.startCopy (p d : Nat) (s : State) : State :=
  if 64 ≤ s.plm.inProgress then s
  else match s.pickOne (s.openChans d) with
    | none => s
    | some (i, s) => match s.takePage i with
      | none => s
      | some (ppn, s) => { s with plm := { s.plm with copying := s.plm.copying ++ [⟨p, d, i % 4, ppn⟩] } }

/-- A page starts to move to one of some channels (R293 step 1). -/
def State.startMove (p : Nat) (dests : List Nat) (s : State) : State :=
  if 64 ≤ s.plm.inProgress then s
  else match s.pickOne dests with
    | none => s
    | some (i, s) => match s.takePage i with
      | none => s
      | some (ppn, s) =>
        let s := s.putPage p { s.page p with st := .moving }
        { s with plm := { s.plm with moves := s.plm.moves ++ [⟨p, i / 4, i % 4, ppn⟩] } }

/-- Whether a page moved less than MIG_HOLD ms ago (R295). -/
def State.onHold (s : State) (p : Nat) : Bool := s.plm.recent.any fun r => r.1 = p && decide (s.us < r.2 + 1000 * s.plm.migHold)

/-- One page's counts in the window that ends: reads and writes per die, and whether the host wrote it. -/
structure PageUse where
  reads : List Nat
  writes : List Nat
  host : Bool

/-- Accesses of die `d`. -/
def PageUse.acc (u : PageUse) (d : Nat) : Nat := u.reads.getD d 0 + u.writes.getD d 0
/-- Whether any write is reported. -/
def PageUse.written (u : PageUse) : Bool := u.host || u.writes.any (· ≠ 0)

/-- What the counting units report of a page (R289): entries below the threshold and without a write are not reported. -/
def State.pageUse (s : State) (p : Nat) : PageUse :=
  let low := min s.plm.migMin s.plm.repMin
  let get := fun d : Nat => let x := Tab.get (0, 0) (s.die d).counts p
    if low ≤ x.1 + x.2 ∨ x.2 ≠ 0 then x else (0, 0)
  { reads := (List.range 4).map fun d => (get d).1, writes := (List.range 4).map fun d => (get d).2, host := Tab.get 0 s.plm.hostWrites p ≠ 0 }

/-- The pages that are reported, in ascending order. -/
def State.reported (s : State) : List Nat :=
  let low := min s.plm.migMin s.plm.repMin
  let mine := (List.range 4).flatMap fun d => ((s.die d).counts.filter fun x => decide (low ≤ x.2.1 + x.2.2) || x.2.2 ≠ 0).map (·.1)
  (mine ++ s.plm.hostWrites.map (·.1)).dedup.insertionSort (· ≤ ·)

/-- The die to which a page would migrate: the most accesses, the lower number on a tie; a tie that includes the home moves nothing. -/
def PageUse.leader (u : PageUse) (home : Nat) : Option Nat :=
  let top := ((List.range 4).map u.acc).foldl max 0
  if u.acc home = top then none else (List.range 4).find? fun d => u.acc d = top

/-- Step 2 of R290: replicas of a quiet page. -/
def State.replicate (p : Nat) (u : PageUse) (s : State) : State :=
  (List.range 4).foldl (fun (s : State) d =>
    let e := s.page p
    let holds := d = e.die || (s.plm.replicas ++ s.plm.copying ++ s.plm.retiring).any fun r => r.page = p && r.die = d
    if !holds && decide (s.plm.repMin ≤ u.reads.getD d 0) && decide (s.plm.repReserve ≤ s.pagesFree) then s.startCopy p d else s) s

/-- One reported page at a window's end (R290). -/
def State.evaluate (p : Nat) (s : State) : State :=
  let e := s.page p
  if e.st ≠ .mapped ∨ e.pin then s
  else
    let u := s.pageUse p
    let age := (s.plm.window + 256 - e.lastw % 256) % 256
    let s := if s.plm.repQuiet ≤ age then s.putPage p { e with quiet := true } else s
    let mine := s.plm.replicas.filter fun r => r.page = p
    if mine ≠ [] ∧ u.written then mine.foldl (fun (s : State) r => s.startRetire r) s
    else
      let s := if (s.page p).quiet ∧ !u.written ∧ s.plm.repEn then s.replicate p u else s
      if (s.plm.replicas ++ s.plm.copying ++ s.plm.retiring).any (fun r => r.page = p) ∨ !s.plm.migEn then s
      else match u.leader e.die with
        | none => s
        | some d =>
          if s.plm.migMin ≤ u.acc d ∧ s.plm.migRatio * u.acc e.die ≤ 4 * u.acc d ∧ !s.onHold p then s.startMove p (s.roomiest d) else s

/-- Replicas that their dies have not read for REP_IDLE windows retire (R292). -/
def State.idleReplicas (s : State) : State :=
  let idle := s.plm.replicas.map fun r =>
    let k := 4 * r.page + r.die
    (k, if (Tab.get (0, 0) (s.die r.die).counts r.page).1 = 0 then Tab.get 0 s.plm.idle k + 1 else 0)
  let s := { s with plm := { s.plm with idle := idle.foldl (fun (t : Tab Nat) (x : Nat × Nat) => Tab.set 0 t x.1 x.2) [] } }
  (s.plm.replicas.filter fun (r : CopyRec) => s.plm.repIdle ≤ Tab.get 0 s.plm.idle (4 * r.page + r.die)).foldl (fun (s : State) r => s.startRetire r) s

/-- COUNTING_WINDOW_END: at the end of the window the reported pages are evaluated, idle replicas retire, the units' counts clear, and the
next window begins with the length that PLM_WINDOW.WINDOW has now (R289). -/
def execCountingWindowEnd (s : State) : Res :=
  .next (if !s.plm.ready || decide (s.us < s.plm.windowSince + s.plm.windowLen) then s
    else
      let reads := s.plm.replicas.map fun r => (4 * r.page + r.die, (Tab.get (0, 0) (s.die r.die).counts r.page).1)
      let pages := s.reported
      let s := pages.foldl (fun (s : State) p => s.evaluate p) s
      let s := s.idleReplicas
      let s := { s with plm := { s.plm with lastReads := reads.foldl (fun (t : Tab Nat) (x : Nat × Nat) => Tab.set 0 t x.1 x.2) [] } }
      let s := s.meetReserve s.plm.replicas.length
      { s with dies := s.dies.map fun (x : Nat × Die) => (x.1, { x.2 with counts := [] }),
               plm := { s.plm with hostWrites := [], window := s.plm.window + 1, windowSince := s.us, windowLen := s.plm.windowUs } })

/-- The lines of a page that its copying reads at the old place: one that is uncorrectable or poisoned is poisoned in the copy and recorded. -/
def State.copyLines (p i ppn : Nat) (s : State) : State :=
  let hurt := ((s.chanAt i).damage.filter fun x => x.1 / 512 = ppn).map fun x => x.1 % 512
  let marked := (List.range 512).filter fun l => Tab.get false s.plm.poison (512 * p + l)
  let s := hurt.foldl (fun (s : State) l =>
    let (ue, s) := s.meetLine i ppn l
    if ue then { s with plm := { s.plm with poison := Tab.set false s.plm.poison (512 * p + l) true } } else s) s
  marked.foldl (fun (s : State) l =>
    s.record 0x0033 (i / 4) (b8 (i / 4) ++ b8 (i % 4) ++ leBytes 2 0 ++ leBytes 4 ppn ++ leBytes 2 l)) s

/-- A replica-table index that no page with replicas holds, at or after `v`; the fuel is one more than their number. -/
def freeRidx (used : List Nat) : Nat → Nat → Nat
  | 0, v => v % 4194304
  | fuel + 1, v => if v % 4194304 ∈ used then freeRidx used fuel (v + 1) else v % 4194304

/-- REPLICA_COPY_DONE: the copy serves reads on its die (R291). Its replica-table index the manual does not give: a free value among those
that no other page holds. -/
def execReplicaCopyDone (page : Nat) (d : DieId) (s : State) : Res :=
  .next (if !s.works strandmapUnit then s else match s.plm.copying.find? fun r => r.page = page && r.die = d.val with
    | none => s
    | some r =>
      let s := { s with plm := { s.plm with copying := s.plm.copying.filter (· ≠ r) } }
      let e := s.page page
      if e.st ≠ .mapped then s.freePage (4 * r.die + r.chan) r.ppn
      else
        let (v, s) := s.draw
        let s := s.copyLines page (4 * e.die + e.chan) e.ppn
        let s := (s.countCopy (4 * e.die + e.chan) (4 * r.die + r.chan) r.ppn).dropPtb page
        let used := (s.plm.map.filter fun x => x.2.rmask ≠ 0).map fun x => x.2.ridx
        let s := s.putPage page { e with rmask := e.rmask ||| 2 ^ r.die, ridx := if e.rmask = 0 then freeRidx used (used.length + 1) v else e.ridx }
        { s with plm := { s.plm with replicas := s.plm.replicas ++ [r], statRepl := satInc s.plm.statRepl } })

/-- REPLICA_RETIRE_DONE: reads sent to a retired replica have ended, and its page is freed (R292 steps 3 and 4). -/
def execReplicaRetireDone (page : Nat) (d : DieId) (s : State) : Res :=
  .next (match s.plm.retiring.find? fun r => r.page = page && r.die = d.val with
    | none => s
    | some r => s.endRetire r)

/-- A page's move ends: its lines that read as uncorrectable or poisoned are poisoned there and recorded, the entry takes the new home, and
the old page is freed (R293). The new home's bit in RMASK is 0 (R280). -/
def State.endMove (r : CopyRec) (s : State) : State :=
  let p := r.page
  let e := s.page p
  let old := 4 * e.die + e.chan
  let s := s.copyLines p old e.ppn
  let s := (s.countCopy old (4 * r.die + r.chan) r.ppn).putPage p
    { e with st := .mapped, die := r.die, chan := r.chan, ppn := r.ppn, rmask := if bit e.rmask r.die then e.rmask - 2 ^ r.die else e.rmask }
  let s := (s.dropPtb p).freePage old e.ppn
  { s with plm := { s.plm with moves := s.plm.moves.filter (· ≠ r), statMove := satInc s.plm.statMove,
                               recent := ((p, s.us) :: s.plm.recent.filter (·.1 ≠ p)).take 4096 } }

/-- MOVE_COMPLETE: line 511 of a moving page is copied. -/
def execMoveComplete (page : Nat) (s : State) : Res :=
  .next (if !s.works strandmapUnit then s else match s.plm.moves.find? fun r => r.page = page with
    | none => s
    | some r => s.endMove r)

/-- ZERO_FILL_PAGE: the oldest freed page of a channel is zeroed and returns to its free list (R285). -/
def execZeroFillPage (d : DieId) (ch : ChanId) (s : State) : Res :=
  .next (let i := 4 * d.val + ch.val
    if !s.works (ddrUnit i) then s
    else match (s.chanAt i).zeroing with
      | [] => s
      | p :: _ => s.setChan i ((s.chanAt i).zeroed p))

/-! ### Releases (R297) -/

/-- The DLA range of the release registers. -/
def Plm.relRange (m : Plm) : Nat × Nat := (m.relBase, 32768 * m.relPages)

/-- PLM_REL_GO: the range is checked against the reserved regions; a good one is BUSY until RELEASE_DONE. -/
def execPlmRelGo (s : State) : Res :=
  .next (if s.plm.relBusy then s
    else
      let (b, n) := s.plm.relRange
      let touches := s.plm.regions.any fun r => r.2.valid && decide (r.2.base < b + n) && decide (b < r.2.base + r.2.size)
      if b % 32768 ≠ 0 ∨ touches then { s with plm := { s.plm with relErr := true } }
      else { s with plm := { s.plm with relBusy := true, relRun := (s.plm.relBase, s.plm.relPages) } })

/-- The physical pages that a page holds: its home, its replicas, and what copies and moves have taken. -/
def State.pagesOf (s : State) (p : Nat) : List (Nat × Nat) :=
  let e := s.page p
  (if e.st = .mapped ∨ e.st = .moving then [(4 * e.die + e.chan, e.ppn)] else []) ++
    ((s.plm.replicas ++ s.plm.copying ++ s.plm.moves).filter fun r => r.page = p).map fun r => (4 * r.die + r.chan, r.ppn)

/-- A page becomes UNMAPPED. -/
def State.releasePage (p : Nat) (s : State) : State :=
  let held := s.pagesOf p
  let s := held.foldl (fun (s : State) x => s.freePage x.1 x.2) s
  let keep := fun r : CopyRec => decide (r.page ≠ p)
  let s := (s.putPage p {}).dropPtb p
  { s with plm := { s.plm.erasePage p with replicas := s.plm.replicas.filter keep, copying := s.plm.copying.filter keep, moves := s.plm.moves.filter keep } }

/-- RELEASE_DONE: the pages of the range that GO checked are UNMAPPED and BUSY clears. -/
def execReleaseDone (s : State) : Res :=
  .next (if !s.plm.relBusy then s
    else
      let (b, n) := (s.plm.relRun.1, 32768 * s.plm.relRun.2)
      let pages := (s.plm.map.map (·.1)).filter fun p => decide (b ≤ 32768 * p) && decide (32768 * p < b + n)
      let s := pages.foldl (fun (s : State) p => s.releasePage p) s
      { s with plm := { s.plm with relBusy := false } })

/-! ### Die reset (R394 to R396, R399) -/

/-- A core of a die that is reset: its registers at their reset values and its banks OFF; power, gates and account stay. -/
def Core.dieReset (k : Core) : Core :=
  { rowMap := k.rowMap, moveSeq := k.moveSeq, gated := k.gated, logicOff := k.logicOff, account := k.account, inc := k.inc, inReset := true }

/-- A die's registers after die reset; its modules, its resets' records and the events not acknowledged stay. -/
def Die.reset (cause : Nat) (x : Die) : Die :=
  { isolated := x.isolated, inReset := true, inc := (x.inc + 1) % 16, rstCause := cause, rstCount := min (x.rstCount + 1) 0xFFFF, pllLosses := x.pllLosses,
    hubMods := x.hubMods, headInc := x.headInc, evts := x.evts.map fun v => { v with die := v.die.forget } }

/-- Die reset: cause 1 command, 2 PLL loss, 3 isolation. Every step that ran layers on the die fails with RESET_LOST (R277). -/
def State.dieReset (d cause : Nat) (s : State) : State :=
  let cores := (List.range 36).map (36 * d + ·)
  let lost := s.est.steps.filter fun e => e.handed && e.cols.any fun c => c.2.1 = d && c.2.2 ≠ 0
  let s := lost.foldl (fun (s : State) e => s.failStep e.num 2) s
  let s := cores.foldl (fun (s : State) c => (((s.dropReads c).resetLost c).clearCe2 c).modCore c Core.dieReset) s
  let s := cores.foldl (fun (s : State) c => s.logicCheck c) s
  let s := (s.modDie d (Die.reset cause)).awaitRewrite (cores.filter fun c => (s.claimOf c).isSome)
  s.record 0x0002 d (b8 d ++ b8 cause ++ b8 (s.die d).inc) 0xFF 2

/-! ### Loss of a die (R20, R298) -/

/-- A page's entry once a die is lost, and whether the page became LOST. -/
def lostEntry (d : Nat) (rs : List CopyRec) (p : Nat) (e : PageEnt) : PageEnt × Bool :=
  if (e.st ≠ .mapped ∧ e.st ≠ .moving) ∨ e.die ≠ d then ({ e with rmask := if bit e.rmask d then e.rmask - 2 ^ d else e.rmask }, false)
  else
    let mine := rs.filter fun r => r.page = p && r.die ≠ d
    match mine.foldl (fun (b : Option CopyRec) r => match b with
        | none => some r
        | some q => if r.die < q.die then some r else some q) none with
    | some r =>
      let m := if bit e.rmask d then e.rmask - 2 ^ d else e.rmask
      ({ e with st := .mapped, die := r.die, chan := r.chan, ppn := r.ppn, rmask := if bit m r.die then m - 2 ^ r.die else m }, false)
    | none => ({ st := .lost, pin := e.pin }, true)

/-- R298 applied to every page: the first lookup of a page and the walk find the same. -/
def State.loseDie (d : Nat) (s : State) : State :=
  let top := s.hdmPages - gibPages
  let rs := s.plm.replicas
  let pages := ((s.plm.map.map (·.1)).filter (· < top)) ++ (if s.plm.ready then (List.range gibPages).map (top + ·) else [])
  let new := pages.map fun p => (p, s.page p, lostEntry d rs p (s.page p))
  let lost := (new.filter fun x => x.2.2.2).length
  let map := (new.filter fun x => x.2.2.1 ≠ x.2.1 || (s.plm.map.lookup x.1).isSome).map fun x => (x.1, x.2.2.1)
  let homes := new.filter fun x => x.2.1.die = d && x.2.2.1 ≠ x.2.1
  let promoted := fun r : CopyRec => homes.any fun x => x.1 = r.page && x.2.2.1.die = r.die
  let gone := fun r : CopyRec => r.die = d || homes.any fun x => x.1 = r.page
  let dead := (s.plm.copying ++ s.plm.moves).filter fun r => gone r && r.die ≠ d
  let s := { s with plm := { s.plm with map := map.filter fun x => x.2 ≠ {}, replicas := rs.filter fun r => r.die ≠ d && !promoted r, walks := s.plm.walks ++ [(d, lost)],
                                        copying := s.plm.copying.filter fun r => !gone r, moves := s.plm.moves.filter fun r => !gone r,
                                        retiring := s.plm.retiring.filter fun r => r.die ≠ d, statLost := satAdd s.plm.statLost lost } }
  let s := dead.foldl (fun (s : State) r => s.freePage (4 * r.die + r.chan) r.ppn) s
  { s with plm := { s.plm with map := s.plm.map.map fun x =>
      (x.1, if x.2.st = .moving ∧ !(s.plm.moves.any fun r => r.page = x.1) then { x.2 with st := .mapped } else x.2) } }

/-- A compute die with no working hub module is isolated (R20). -/
def State.isolate (d : Nat) (s : State) : State :=
  if (s.die d).isolated then s
  else
    let s := (s.dieReset d 3).modDie d fun x => { x with isolated := true }
    let s := { s with bw := { s.bw with fallFree := true } }
    ((s.beach d (List.range 36) 6).loseDie d).record 0x0039 d (b8 d) 0xFF 2

/-- UCIE_RETRY_FAIL: module `m` of die `d` fails: 0 and 1 are its modules to the hub, 2 and 3 those to its neighbours in the order of R17.
A die that keeps one hub module runs on; a neighbour's module alone changes no more than the modules' record. -/
def execUcieRetryFail (d : DieId) (m : Nat) (s : State) : Res :=
  .next (if m < 2 then
      let x := s.die d
      if !x.hubMods.getLsbD m then s
      else
        let s := s.modDie d fun x => { x with hubMods := x.hubMods &&& ~~~(1#2 <<< m) }
        if (s.die d).hubMods = 0 then s.isolate d else s.record 0x0038 d (b8 d ++ b8 m) 0xFF 2
    else if m < 4 then { s with hub := { s.hub with uciePeer := s.hub.uciePeer &&& ~~~(1#4 <<< dieEdge d m) } }
    else s)

/-- DIE_LOST_WALK_DONE: the walk for a die ends and its entry gives the pages made LOST (R298). -/
def execDieLostWalkDone (d : DieId) (s : State) : Res :=
  .next (match s.plm.walks.find? fun w => w.1 = d.val with
    | none => s
    | some w => ({ s with plm := { s.plm with walks := s.plm.walks.erase w } }).record 0x0037 4 (b8 d ++ leBytes 3 0 ++ leBytes 4 w.2))

/-! ### Evacuation (R299) -/

/-- Whether a move or a copy under way, or a replica being retired, has one of its places on channel `i`. -/
def State.underWay (s : State) (i : Nat) : Bool :=
  (s.plm.moves ++ s.plm.copying ++ s.plm.retiring).any fun r =>
    let e := s.page r.page
    4 * r.die + r.chan = i || 4 * e.die + e.chan = i
/-- A page homed on an evacuating channel moves to another channel; which one the manual does not say. A die that holds a replica of the page
is taken when no other has a free page, and its replica retires, since a page keeps one copy a die (R290). -/
def State.evacuatePage (i p : Nat) (s : State) : State × Nat :=
  let open_ := (List.range 16).filter fun j => j ≠ i && decide (0 < s.chanFree j)
  let holds := fun j : Nat => s.plm.replicas.any fun r => r.page = p && r.die = j / 4
  let best := open_.filter (!holds ·)
  match s.pickOne (if best = [] then open_ else best) with
  | none => (s, 1)
  | some (j, s) => match s.takePage j with
    | none => (s, 1)
    | some (ppn, s) =>
      let s := (s.plm.replicas.filter fun r => r.page = p && r.die = j / 4).foldl (fun (s : State) r => s.retire r) s
      (s.endMove ⟨p, j / 4, j % 4, ppn⟩, 0)

/-- A replica on an evacuating channel moves to another channel of its die, as a move goes: its lines that read as uncorrectable or poisoned are
poisoned there and recorded, its translations are dropped, and the old page is freed (R293, R299). -/
def State.evacuateReplica (i : Nat) (r : CopyRec) (s : State) : State × Nat :=
  match s.pickOne ((s.openChans r.die).filter (· ≠ i)) with
  | none => (s, 1)
  | some (j, s) => match s.takePage j with
    | none => (s, 1)
    | some (ppn, s) =>
      let s := { s with plm := { s.plm with replicas := s.plm.replicas.map fun q => if q = r then { r with chan := j % 4, ppn := ppn } else q } }
      ((((s.copyLines r.page i r.ppn).countCopy i j ppn).dropPtb r.page).freePage i r.ppn, 0)

/-- EVACUATION_DONE: once no move or copy under way has a place on it, every page and replica of an evacuating channel moves, and the channel
is RETIRED; with no free page left, the rest stay and are recorded. -/
def execEvacuationDone (d : DieId) (ch : ChanId) (s : State) : Res :=
  .next (let i := 4 * d.val + ch.val
    if (s.chanAt i).st ≠ .evacuating ∨ s.underWay i ∨ !s.works strandmapUnit then s
    else
      let pages := (s.plm.map.filter fun x => x.2.st = .mapped && !x.2.pin && 4 * x.2.die + x.2.chan = i).map (·.1)
      let reps := s.plm.replicas.filter fun r => 4 * r.die + r.chan = i
      let r := pages.foldl (fun (a : State × Nat) p => let (s, n) := a.1.evacuatePage i p; (s, a.2 + n)) (s, 0)
      let (s, left) := reps.foldl (fun (a : State × Nat) q => let (s, n) := a.1.evacuateReplica i q; (s, a.2 + n)) r
      if left = 0 then s.setChan i { s.chanAt i with st := .retired }
      else s.record 0x0036 d (b8 d ++ b8 ch ++ leBytes 2 0 ++ leBytes 4 left))

/-! ### Scrub, refresh and training (R301 to R308) -/

/-- The line of device memory that a physical line holds, if a page is homed there. -/
def State.lineAt (s : State) (i ppn line : Nat) : Option Nat :=
  (s.plm.map.find? fun x => (x.2.st = .mapped || x.2.st = .moving) && 4 * x.2.die + x.2.chan = i && x.2.ppn = ppn).map fun x => 512 * x.1 + line

/-- DDR_PATROL_SCRUB: a pass over a READY channel with its scrub on reads every line. A correction is written back, after the
back-invalidate of a line the host holds (R350). -/
def execDdrPatrolScrub (d : DieId) (ch : ChanId) (s : State) : Res :=
  .next (let i := 4 * d.val + ch.val
    let x := s.chanAt i
    if x.st ≠ .ready ∨ x.scrubPeriod = 0 ∨ !s.works (ddrUnit i) then s
    else
      let s := s.countLines i false (512 * gibPages * x.gib)
      let s := x.damage.foldl (fun (s : State) e =>
        let (ue, s) := s.meetLine i (e.1 / 512) (e.1 % 512)
        match s.lineAt i (e.1 / 512) (e.1 % 512) with
        | some l => if !ue && s.cxl.tracks l then s.snoop l true else s
        | none => s) s
      s.setChan i { s.chanAt i with scrubPass := satInc (s.chanAt i).scrubPass })

/-- DDR_REFRESH: an all-bank refresh, at half tREFI above 85 °C (R305). -/
def execDdrRefresh (d : DieId) (ch : ChanId) (temp : Int) (s : State) : Res :=
  .next (let i := 4 * d.val + ch.val
    let x := s.chanAt i
    if !x.selfRefresh && (x.st = .ready || x.st = .evacuating || x.st = .retired) then
      s.setChan i { x with temp := temp, tempValid := true, ref2x := decide (85 < temp) }
    else s)

/-- Regions 0 to 4 of R282. -/
def reservedRegions (top : Nat) : Tab Region :=
  let mib := 2 ^ 20
  [(0, ⟨true, top - 512 * mib, 512 * mib, 0, false⟩), (1, ⟨true, top - 640 * mib, 128 * mib, 1, false⟩),
    (2, ⟨true, top - 704 * mib, 64 * mib, 2, false⟩), (3, ⟨true, top - 960 * mib, 256 * mib, 3, false⟩),
    (4, ⟨true, top - 1024 * mib, 64 * mib, 4, false⟩)]

/-- Training of channel `i` ends at its failing step, 0 for none (R303). -/
def State.trainChan (s : State) (x : Nat × Nat) : State :=
  let i := x.1
  let c := s.chanAt i
  if c.st ≠ .training then s
  else if x.2 = 0 then s.setChan i { c with st := .ready }
  else (s.setChan i { c with st := .failed, trainStep := x.2 }).record 0x0035 (i / 4) (b8 (i / 4) ++ b8 (i % 4) ++ b8 x.2)

/-- The components of an image that runs, in the order in which they start, with the step of R397 (7: after step 6) that starts each (R431). -/
def startOrder : List (Nat × Nat) := [(0, 2), (1, 4), (3, 5), (2, 6), (4, 7)]
/-- The components that start at a step or before it have started; in RECOVERY the ROM runs alone. -/
def Sec.runs (step : Nat) (x : Sec) : Sec := { x with started := if x.recovery then [] else (startOrder.filter (·.2 ≤ step)).map (·.1) }
/-- DDR_TRAIN_DONE: training ends on all channels; `failed` gives each channel's failing step, 0 for none. With one READY the map is
initialised, regions 0 to 4 are set and READY sets (R282, R289, R303). -/
def execDdrTrainDone (failed : List Nat) (s : State) : Res :=
  .next (if s.plm.ready then s
    else
      let s := { s with sec := s.sec.runs 7 }
      let s := ((List.range 16).map fun i => (i, failed.getD i 0)).foldl State.trainChan s
      let up := (List.range 16).filter fun i => (s.chanAt i).st = .ready
      let gib := min 2048 (up.map fun i => (s.chanAt i).gib).sum
      if gib = 0 then s
      else
        let src := (up.head?.map fun i => (s.chanAt i).rate).getD 0
        { s with bw := { s.bw with dsrc := src, memSrc := src },
                    plm := { s.plm with ready := true, hdmGib := gib, window := 0, windowSince := s.us, windowLen := s.plm.windowUs,
                                        regions := reservedRegions (gib * 2 ^ 30) } })

end Sys2Proof.Machine
end

