-- ==== Sys2Proof/Machine/CxlMem.lean ====
section
/-! DEFINITION. The CXL port: host reads and writes of device memory, back-invalidates, the decoder, the link and Cache_Enable (R342 to
R363). -/
-- Log entries (notes/assumptions): DESIGN CHOICE 16, 150, 166; DEDUCED 75, 76, 164, 181; PRESUMED 25, 159.

namespace Sys2Proof.Machine

/-! ### The snoop filter (R349) -/

/-- The entries of a line's set, most recently granted first: 16 ways (notes/assumptions/16.md). -/
def Cxl.setOf (x : Cxl) (line : Nat) : List (Nat × Bool) := x.filter.filter fun q => sameSet 65536 q.1 line

/-- The line that must leave the filter before a copy of `line` is granted. -/
def Cxl.victim (x : Cxl) (line : Nat) : Option Nat :=
  if x.tracks line || decide ((x.setOf line).length < 16) then none else ((x.setOf line).getLast?).map (·.1)

/-- The filter after a host request for a line. -/
def Cxl.grant (line : Nat) (copy : HostCopy) (wr : Bool) (x : Cxl) : Cxl :=
  let rest := x.filter.filter fun q => q.1 ≠ line
  match copy with
  | .none => if wr then { x with filter := rest } else x
  | .shared => { x with filter := (line, false) :: rest }
  | .own => { x with filter := (line, true) :: rest }

/-! ### Host accesses (R347, R348, R351) -/

/-- The DLA of a host physical address in the committed decoder, while the link carries CXL.mem (R345, R347). -/
def State.hostDla (s : State) (hpa : Nat) : Option Nat :=
  if s.cxl.mode = 1 ∧ s.cxl.committed ∧ s.cxl.base ≤ hpa ∧ hpa < s.cxl.base + s.hdmBytes then some (hpa - s.cxl.base) else none

/-- Whether a DLA lies in the intake window. -/
def State.inWindow (s : State) (dla : Nat) : Bool := s.est.en && decide (s.est.winBase ≤ dla) && decide (dla < s.est.winBase + s.est.winSize)

/-- Estuary's view of bytes that arrived in the window (R254, R258): a write that covers a sequence word is examined, and so is any write to
a pending slot or to one with a write that may leave it pending. -/
def State.estSees (dla n : Nat) (s : State) : State :=
  if !s.inWindow dla then s
  else match s.slotAt dla with
    | none => s
    | some r =>
      let covers := decide (dla % 64 ≤ 56) && decide (64 ≤ dla % 64 + n)
      if !s.est.ready then (if covers then s.modStat fun x => { x with early := satInc x.early } else s)
      else if covers || (s.est.pend.any fun p => p.slot = r) || s.est.examine.any fun e => e.slot = r then
        let base := s.slotDla r
        let e : Exam := ⟨r, s.plm.bytes base 64, Tab.get false s.plm.poison (lineOf base), covers, s.us⟩
        ({ s with est := { s.est with examine := s.est.examine ++ [e] } }).touch r
      else s

/-- Errors that have arisen in the home copy of a line. -/
def State.spoilLine (dla : Nat) (err : DdrErr) (s : State) : State :=
  let e := s.page (pageOf dla)
  if err = {} ∨ (e.st ≠ .mapped ∧ e.st ≠ .moving) then s else s.spoil ⟨4 * e.die + e.chan, e.ppn, lineOf dla % 512, err⟩

/-- Bytes from the host land in one line of device memory; those for regions 0 to 4 are discarded and counted (R283). -/
def State.hostStore (dla : Nat) (bs : List Byte) (poison : Bool) (s : State) : State :=
  if s.pinned (pageOf dla) then { s with plm := { s.plm with statRsvWr := satInc s.plm.statRsvWr } }
  else (s.writeLine .host dla bs poison).estSees dla bs.length

/-- A line of the window that the host takes with ownership is called back BI_DELAY later (R260). -/
def State.owned (dla : Nat) (copy : HostCopy) (s : State) : State :=
  if copy = .own ∧ s.inWindow dla ∧ !(s.est.biWait.any fun w => w.1 = lineOf dla) then
    { s with est := { s.est with biWait := s.est.biWait ++ [(lineOf dla, s.us)] } }
  else s

/-- A host read is served. -/
def State.hostRead (w : BiWait) (s : State) : State :=
  let dla := 64 * lineOf w.addr
  let s := State.owned dla w.copy { s with cxl := s.cxl.grant (lineOf w.addr) w.copy false }
  if s.pinned (pageOf dla) then { s with out := { s.out with memData := List.replicate 64 0, memPoison := false } }
  else
    let (bs, p, s) := (s.spoilLine dla w.err).readLine .host dla 64
    { s with out := { s.out with memData := bs, memPoison := p },
             cxl := { s.cxl with poisonTx := if p then satInc s.cxl.poisonTx else s.cxl.poisonTx } }

/-- A host write is served; one to regions 0 to 4 is completed and discarded (R283). -/
def State.hostWriteMem (w : BiWait) (s : State) : State :=
  let s := { s with cxl := { s.cxl.grant (lineOf w.addr) w.copy true with poisonRx := if w.poison then satInc s.cxl.poisonRx else s.cxl.poisonRx } }
  ((s.owned w.addr w.copy).spoilLine w.addr w.err).hostStore w.addr w.data w.poison

/-- A host request: it waits for the grants of the CXL interface and of the units on its way, for a back-invalidate of its line in flight, or for
one that makes room in the snoop filter. -/
def State.hostServe (w : BiWait) (s : State) : State :=
  let line := lineOf w.addr
  if !s.works cxlUnit || !s.hubWorks w.addr 1 || s.cxl.held.any (fun h => h.line = line) then { s with cxl := { s.cxl with held := s.cxl.held ++ [w] } }
  else
  let s := s.filterLookup line
  if s.cxl.snoops.any fun q => q.1 = line then
    { s with cxl := { s.cxl with biConflict := satInc s.cxl.biConflict, waiting := s.cxl.waiting ++ [{ w with line := line }] } }
  else match (if w.copy = .none then none else s.cxl.victim line) with
    | some v =>
      let s := s.snoop v true
      { s with cxl := { s.cxl with waiting := s.cxl.waiting ++ [{ w with line := v }] } }
    | none => if w.isRead then s.hostRead w else s.hostWriteMem w

/-- CXL_MEM_READ: a host read of the line at an HPA, which leaves the host `copy`; `err` is what its DDR4 read meets. -/
def execCxlMemRead (hpa : Nat) (copy : HostCopy) (err : DdrErr) (s : State) : Res :=
  match s.hostDla hpa with
  | none => .fault .noSuchAddress
  | some dla => .next (s.hostServe { line := lineOf dla, addr := dla, isRead := true, copy := copy, err := err })

/-- CXL_MEM_WRITE: a host write of bytes of one line from an HPA on. -/
def execCxlMemWrite (hpa : Nat) (data : List Byte) (poison : Bool) (copy : HostCopy) (err : DdrErr) (s : State) : Res :=
  match s.hostDla hpa with
  | none => .fault .noSuchAddress
  | some dla => .next (s.hostServe { line := lineOf dla, addr := dla, data := data.take (64 - dla % 64), poison := poison, copy := copy, err := err })

/-- A request that waited for a BIRsp goes on: a host request, or a write of a unit of the K4. -/
def State.proceed (s : State) (w : BiWait) : State :=
  if w.src = 0 then s.hostServe w else s.ownWriteLine w.src w.addr w.data w.poison

/-- Accesses that waited for a grant are served once there is one, in the order in which they came; the rest wait on (R24). -/
def State.serveHeld (s : State) : State := s.cxl.held.foldl State.proceed { s with cxl := { s.cxl with held := [] } }

/-- A line that the host writes back is applied as its write. -/
def State.writeback (line : Nat) (dirty : Option (List Byte)) (s : State) : State :=
  match dirty with
  | some bs => s.hostStore (64 * line) ((bs ++ List.replicate 64 0).take 64) false
  | none => s
/-- BIRSP_RECEIVED: the answer to a back-invalidate: data that the host had modified is applied first, as the host's write, then what waited,
in order (R283, R350, R351). A writeback for a line that the K4 no longer tracks is an ordinary write (R366). -/
def execBirspReceived (line : Nat) (dirty : Option (List Byte)) (s : State) : Res :=
  .next (match s.cxl.snoops.find? fun q => q.1 = line with
    | none => s.writeback line dirty
    | some (_, inv) =>
      let filter := if inv then s.cxl.filter.filter fun q => q.1 ≠ line else s.cxl.filter.map fun q => if q.1 = line then (q.1, false) else q
      let s := { s with cxl := { s.cxl with snoops := s.cxl.snoops.filter fun q => q.1 ≠ line, filter := filter } }
      let s := s.writeback line dirty
      let mine := s.cxl.waiting.filter fun w => w.line = line
      let s := { s with cxl := { s.cxl with waiting := s.cxl.waiting.filter fun w => w.line ≠ line } }
      (mine.foldl State.proceed s).drainCq)

/-- The code of RspIHitI in a CXL.cache D2H response (notes/assumptions/25.md). -/
def rspIHitI : Nat := 4

/-- H2D_SNOOP: the K4 holds no host line and answers RspIHitI (R353). -/
def execH2dSnoop (_addr : Nat) (s : State) : Res := .next { s with out := { s.out with snpRsp := rspIHitI } }

/-! ### Configuration space (R342 to R344) -/

/-- The capabilities of the function that R342 names: none other is present. -/
inductive FnCap | msix | aer | flr | cxlReset | doe
  deriving DecidableEq, Repr
/-- The capabilities of the CXL component registers (R342, R360). -/
inductive CompCap | ras | link | hdmDecoder | biDecoder
  deriving DecidableEq, Repr
/-- The data object types of the DOE mailbox: a vendor and a type (R342, R358). -/
abbrev DoeType := Nat × Nat
/-- What configuration space holds of the function: identity, capabilities, DVSECs, the CXL Device DVSEC's fields, controls and status, BAR0 and
the Register Locator's blocks in it. -/
structure CfgSpace where
  caps : List FnCap
  component : List CompCap
  doeTypes : List DoeType
  bar0Size : Nat
  bar0Is64 : Bool
  bar0Prefetch : Bool
  memEnable : Bool
  busMaster : Bool
  viralEnable : Bool
  viral : Bool
  memInfoValid : Bool
  memActive : Bool
  aerUncorrectable : Bool
  aerCorrected : Bool
  vendor : BitVec 16
  device : Nat
  revision : Nat
  classCode : Nat
  subsystem : Nat
  msixVectors : Nat
  dvsecs : List Nat
  cacheCapable : Bool
  ioCapable : Bool
  memCapable : Bool
  hdmCount : Nat
  memHwInit : Bool
  memActiveTimeout : Nat
  range1Size : Nat
  range2Size : Nat
  cacheEnable : Bool
  blocks : List Nat
  deriving DecidableEq, Repr
/-- Configuration space now. Memory_Active sets with PLM_STATUS.READY (R364). -/
def State.cfgSpace (s : State) : CfgSpace :=
  { caps := [.msix, .aer, .flr, .cxlReset, .doe], component := [.ras, .link, .hdmDecoder, .biDecoder],
    doeTypes := [(0x0001, 0), (0x1E98, 2), (Config.vendorId.toNat, 1)], bar0Size := 2 ^ 27, bar0Is64 := true, bar0Prefetch := false,
    memEnable := s.cxl.memEn, busMaster := s.cxl.busMaster, viralEnable := s.cxl.viralEn, viral := s.cxl.viral,
    memInfoValid := s.cxl.memInfoValid, memActive := s.plm.ready, aerUncorrectable := s.cxl.aerInternal, aerCorrected := s.cxl.aerCorrected,
    vendor := Config.vendorId, device := 0x4B34, revision := Config.stepping, classCode := 0x120000, subsystem := s.sec.subsys, msixVectors := 4,
    dvsecs := [0x0000, 0x0007, 0x0008], cacheCapable := true, ioCapable := true, memCapable := true, hdmCount := 1, memHwInit := false,
    memActiveTimeout := 1, range1Size := s.hdmBytes, range2Size := 0, cacheEnable := s.cxl.cacheEn, blocks := [0x710000, 0x720000] }

/-- The answer to a configuration request: Configuration Request Retry Status until the firmware that serves it has started: the hub
Headland's, or the ROM in RECOVERY (R364, R440). -/
def State.cfgAnswer (s : State) : Option CfgSpace := if s.cxl.memInfoValid || s.sec.recovery then some s.cfgSpace else none

/-! ### Decoder, link and register access (R345 to R347, R353, R361) -/

/-- HDM_DECODER_COMMIT: decoder 0 commits when its size is the HDM size, its base is aligned to 256 MiB, it is not interleaved and the
link runs in FULL mode; else Error Not Committed and SIZE_ERR are set. A decoder locked on commit does not change. -/
def execHdmDecoderCommit (base size ways : Nat) (lock : Bool) (s : State) : Res :=
  .next (if s.cxl.committed && s.cxl.locked then s
    else if size = s.hdmBytes ∧ ways = 1 ∧ base % 2 ^ 28 = 0 ∧ s.cxl.mode = 1 then
      { s with cxl := { s.cxl with committed := true, base := base, locked := lock, dec := ⟨size, ways, lock, false⟩ } }
    else { s with cxl := { s.cxl with committed := false, sizeErr := true, dec := ⟨size, ways, lock, true⟩ } })

/-- CACHE_ENABLE_CHANGE: a write to the controls of configuration space. Cache_Enable lets held completions go, or holds them; Bus Master Enable
lets pending messages go. -/
def execCacheEnableChange (ctl : CfgCtl) (s : State) : Res :=
  .next (
    let x := s.cxl
    let s := { s with cxl := { x with cacheEn := ctl.cache, memEn := ctl.mem, viralEn := ctl.viral, busMaster := ctl.busMaster,
                                      aerInternal := x.aerInternal && !ctl.clearErr, aerCorrected := x.aerCorrected && !ctl.clearErr,
                                      rasCorrectable := x.rasCorrectable && !ctl.clearErr } }
    ((List.range 4).foldl (fun (s : State) n => s.msiPending n) s).drainCq)

/-- The link in the mode that R345 gives a rate and width; entering IO_ONLY is recorded. -/
def State.linkMode (rate width : Nat) (latOpt : Bool) (s : State) : State :=
  let full := decide (4 ≤ rate) && (width = 8 || width = 4)
  let s := { s with cxl := { s.cxl with rate := rate, width := width, mode := if full then 1 else 2,
                                        flit := if full then (if rate = 6 then (if latOpt then 2 else 1) else 0) else 3 } }
  if full then s.drainCq else s.record 0x0058 4 (b8 rate ++ b8 width)

/-- Whether a rate code and lane count are ones that a link can train to. -/
def linkOk (rate width : Nat) : Bool := decide (1 ≤ rate) && decide (rate ≤ 6) && (width = 1 || width = 2 || width = 4 || width = 8)

/-- CXL_LINK_TRAIN: the link comes up at its final rate and width, directly or behind a switch, which routes by port or not and assigns
the BI-ID (R342). -/
def execCxlLinkTrain (rate width : Nat) (latOpt pbr : Bool) (biId : Option Nat) (s : State) : Res :=
  .next (if linkOk rate width then ({ s with cxl := { s.cxl with pbr := pbr, biId := biId } }).linkMode rate width latOpt else s)

/-- CXL_LINK_RECOVERY: an entry to recovery is counted, and the link runs on in its new mode. -/
def execCxlLinkRecovery (rate width : Nat) (latOpt : Bool) (s : State) : Res :=
  .next (if linkOk rate width ∧ s.cxl.mode ≠ 0 then
      ({ s with cxl := { s.cxl with recovery := satInc s.cxl.recovery } }).linkMode rate width latOpt
    else s)

/-- BAR0_BAD_ACCESS: an access of another size or alignment is counted; a read returns ones and a write is discarded (R361). -/
def execBar0BadAccess (write : Bool) (s : State) : Res :=
  .next { s with cxl := { s.cxl with badAcc := satInc s.cxl.badAcc }, out := if write then s.out else { s.out with bar0 := 0xFFFFFFFF } }

end Sys2Proof.Machine
end

