-- ==== Sys2Proof/Machine/Regs.lean ====
section
/-! DEFINITION. Writes of registers: fields without behaviour of their own (R10, R11, R38, R178, R252, R278, R309, R310, R341, R363, R401,
R426, R453, R476), and complement-paired registers (R404, R405). -/
-- Log entries (notes/assumptions): DEDUCED 89, 90, 91, 93; PRESUMED 159.

namespace Sys2Proof.Machine

/-- One writable register: whether HUB_LOCK locks it, and what a write does. -/
abbrev RegEffect := Option (Bool × (State → State))

/-! ### Writable registers, block by block -/

/-- A write to HUB_STATUS. -/
def hubReg (off v : Nat) : RegEffect :=
  if off = 0x4 then some (false, fun s => if bit v 0 then { s with hub := { s.hub with lockedWrite := false } } else s) else none

/-- Clears BW_STATUS.PAIR_ERR, which reflects the GRANT and HEALTH bits (R403). -/
def State.clearPairs (m : BitVec 9) (s : State) : State := { s with tmk := { s.tmk with pair := s.tmk.pair &&& ~~~m } }

/-- A write to BW_STATUS, BW_SLEW, BW_THERM, BW_FAN_CFG or BW_HOLDUP_CFG. -/
def bwReg (off v : Nat) : RegEffect :=
  match off with
  | 0x04 => some (false, fun s =>
      let s := { s with bw := { s.bw with fanStall := s.bw.fanStall && !bit v 5, ceilErr := s.bw.ceilErr && !bit v 7,
                                          slewMiss := s.bw.slewMiss && !bit v 8 } }
      if bit v 6 then s.clearPairs 6 else s)
  | 0x10 => some (true, fun s => { s with bw := { s.bw with slew := bits v 5 0 } })
  | 0x60 => some (true, fun s => { s with bw := { s.bw with target := bits v 7 0 } })
  | 0x80 => some (false, fun s => { s with bw := { s.bw with fanMin := bits v 6 0, fanMax := bits v 14 8, tlo := bits v 23 16 } })
  | 0x90 => some (true, fun s => { s with bw := { s.bw with holdCap := bits v 15 0, holdVmin := bits v 31 16 } })
  | _ => none

/-- Applies a function to one service class's registers. -/
def State.modEstClass (n : Nat) (f : EstClass → EstClass) (s : State) : State :=
  { s with est := { s.est with classes := Tab.insert s.est.classes n (f (s.estClass n)) } }

/-- A write to an EST_ register other than the window's and EST_CTRL.EN. -/
def estReg (off v : Nat) : RegEffect :=
  let cls := (off - 0x100) / 0x20
  let est := fun (f : Est → Est) => some (false, fun (s : State) => { s with est := f s.est })
  let estL := fun (f : Est → Est) => some (true, fun (s : State) => { s with est := f s.est })
  if 0x100 ≤ off ∧ off < 0x180 then
    match (off - 0x100) % 0x20 with
    | 0x00 => some (false, State.modEstClass cls fun k => { k with activeMax := bits v 11 0 })
    | 0x04 => some (false, State.modEstClass cls fun k => { k with openMax := bits v 20 0 })
    | 0x08 => some (false, State.modEstClass cls fun k => { k with batch := bits v 12 0, mtok := bits v 28 16 })
    | 0x0C => some (false, State.modEstClass cls fun k => { k with wait := bits v 15 0, deferTmo := bits v 31 16 })
    | 0x10 => some (false, State.modEstClass cls fun k => { k with deferMax := bits v 10 0, inflight := bits v 19 16 })
    | _ => none
  else match off with
    | 0x00 => est fun x => x.ctrlFields (BitVec.ofNat 32 v)
    | 0x04 => est fun x => { x with winWrite := x.winWrite && !bit v 3 }
    | 0x18 => estL fun x => { x with cqBase := x.cqBase / 2 ^ 32 * 2 ^ 32 + bits v 31 12 * 4096 }
    | 0x1C => estL fun x => { x with cqBase := x.cqBase % 2 ^ 32 + bits v 19 0 * 2 ^ 32 }
    | 0x20 => estL fun x => if 8 ≤ bits v 4 0 ∧ bits v 4 0 ≤ 16 then { x with log2n := bits v 4 0 } else x
    | 0x2C => est fun x => { x with notifyEn := bit v 0, notifyAddr := x.notifyAddr / 2 ^ 32 * 2 ^ 32 + bits v 31 3 * 8 }
    | 0x30 => est fun x => { x with notifyAddr := x.notifyAddr % 2 ^ 32 + bits v 19 0 * 2 ^ 32 }
    | 0x34 => est fun x => { x with notifyGap := bits v 15 0 }
    | _ => none

/-- A write to a PLM_ register other than PLM_REL_CTRL.GO. -/
def plmReg (off v : Nat) : RegEffect :=
  let plm := fun (l : Bool) (f : Plm → Plm) => some (l, fun (s : State) => { s with plm := f s.plm })
  match off with
  | 0x00 => plm true fun m => { m with migEn := bit v 0, repEn := bit v 1 }
  | 0x04 => plm false fun m => { m with full := m.full && !bit v 3 }
  | 0x08 => plm true fun m => { m with windowUs := bits v 15 0, repQuiet := bits v 23 16, repIdle := bits v 31 24 }
  | 0x0C => plm true fun m => { m with migMin := bits v 15 0, repMin := bits v 31 16 }
  | 0x10 => plm true fun m => { m with migRatio := bits v 3 0, migBw := bits v 7 4, migHold := bits v 15 8 }
  | 0x14 => plm true fun m => { m with repReserve := bits v 31 0 }
  | 0x50 => plm false fun m => { m with relBase := m.relBase / 2 ^ 32 * 2 ^ 32 + bits v 31 15 * 32768 }
  | 0x54 => plm false fun m => { m with relBase := m.relBase % 2 ^ 32 + bits v 8 0 * 2 ^ 32 }
  | 0x58 => plm false fun m => { m with relPages := bits v 26 0 }
  | 0x5C => plm false fun m => { m with relErr := m.relErr && !bit v 2 }
  | 0x60 => plm false fun m => { m with queryPage := bits v 25 0 }
  | _ => none

/-- A write to a KL_ register other than KL_RING_CTRL and the EN and TRAIN fields. KL_RING_CFG and KL_RING_ID take writes only while
the ring is IDLE or BROKEN. -/
def klReg (off v : Nat) : RegEffect :=
  let kl := fun (l : Bool) (f : Kl → Kl) => some (l, fun (s : State) => { s with kl := f s.kl })
  let cfg := fun (f : Kl → Kl) => kl false fun k => if k.st = .idle ∨ k.st = .broken then f k else k
  if 0x100 ≤ off ∧ off < 0x200 ∧ (off - 0x100) % 0x40 = 0 then
    some (false, State.modPort ((off - 0x100) / 0x40) fun x => { x with maxgen := bit v 1 })
  else match off with
    | 0x04 => cfg fun k => { k with n := bits v 4 0, rank := bits v 11 8 }
    | 0x08 => cfg fun k => { k with ident := k.ident / 2 ^ 32 * 2 ^ 32 + bits v 31 0 }
    | 0x0C => cfg fun k => { k with ident := k.ident % 2 ^ 32 + bits v 31 0 * 2 ^ 32 }
    | 0x14 => kl false fun k => { k with srmiss := k.srmiss && !bit v 0 }
    | 0x18 => kl true fun k => { k with tdescBase := k.tdescBase / 2 ^ 32 * 2 ^ 32 + bits v 31 7 * 128 }
    | 0x1C => kl true fun k => { k with tdescBase := k.tdescBase % 2 ^ 32 + bits v 8 0 * 2 ^ 32 }
    | _ => none

/-- A write to a TMK_ register other than TMK_RD_SEQ_HI. -/
def tmkReg (off v : Nat) : RegEffect :=
  match off with
  | 0x20 => some (false, fun s => { s with tmk := { s.tmk with rdLo := BitVec.ofNat 32 v } })
  | 0x40 => some (false, fun s => { s with tmk := { s.tmk with writeFail := s.tmk.writeFail && !bit v 5 } })
  | 0x50 => some (false, State.clearPairs (BitVec.ofNat 9 v))
  | _ => none

/-- A write to a register of a die's block: DIE_POLICY, DDR_SCRUB, DDR_UE_LIMIT. A die that is isolated or in reset ignores it. -/
def dieReg (d off v : Nat) : RegEffect :=
  let up := fun (s : State) => !(s.die d).isolated && !(s.die d).inReset
  let n := (off - 0x80000) / 0x10000
  let chan := fun (f : Chan → Chan) => some (true, fun (s : State) => if up s then s.modChan d n f else s)
  if off = 0x8 then
    some (true, fun s => if up s then s.modDie d fun x => { x with retryMax := bits v 3 0, affwait := bits v 15 8, leaseTmo := bits v 31 16 } else s)
  else if 0x80000 ≤ off ∧ off < 0xC0000 then
    match off % 0x10000 with
    | 0x20 => chan fun x => { x with scrubPeriod := bits v 7 0 }
    | 0x28 => chan fun x => { x with ueLimit := bits v 15 0 }
    | _ => none
  else none

/-- The register at a BAR0 offset that a write of `v` reaches (R360). -/
def regEffect (off v : Nat) : RegEffect :=
  let lo := off % 0x100000
  if off < 0x800000 then
    match off / 0x100000 with
    | 0 => hubReg lo v
    | 1 => bwReg lo v
    | 2 => estReg lo v
    | 3 => plmReg lo v
    | 4 => klReg lo v
    | 5 => if lo = 0x20 then some (true, fun s => { s with sec := { s.sec with signedOnly := bit v 0 } }) else none
    | 6 => tmkReg lo v
    | _ =>
      if lo = 0x4 then some (false, fun s => { s with cxl := { s.cxl with sizeErr := s.cxl.sizeErr && !bit v 1 } })
      else if 0x30000 ≤ lo ∧ lo < 0x30040 ∧ lo % 4 = 0 then some (false, State.msixWrite ((lo - 0x30000) / 16) (lo % 16 / 4) v)
      else none
  else if 0x1000000 ≤ off ∧ off < 0x5000000 then dieReg (off / 0x1000000 - 1) (off % 0x1000000) v
  else none

/-- SPD_STATUS with the bits that a write of `v` clears by writing 1 (R178). -/
def Spad.clearStatus (v : Nat) (m : Spad) : Spad :=
  { m with unpwr := m.unpwr && !bit v 0, forced := m.forced && !bit v 1, ueSeen := m.ueSeen && !bit v 2, rej := m.rej && !bit v 3 }
/-- A die Headland's write: it clears bits of the SPD_STATUS of a core of its die, at 0x400C of the core's block (R73, R178). A register of a
die or core in reset ignores it (R361). -/
def spdReg (d off v : Nat) : RegEffect :=
  let lo := off % 0x1000000
  let l := (lo - 0x100000) / 0x10000
  if off / 0x1000000 = d + 1 ∧ 0x100000 ≤ lo ∧ l < 36 ∧ lo % 0x10000 = 0x400C then
    some (false, fun s => if (s.core (36 * d + l)).inReset then s else s.modSpd (36 * d + l) (Spad.clearStatus v))
  else none
/-- What a write on a path reaches (R178, R405). -/
def pathEffect (p : RegPath) (off v : Nat) : RegEffect := match p with | .die d => spdReg d off v | _ => regEffect off v

/-- A 32-bit write on a path: an RWL field does not change while HUB_LOCK is set (R11); offsets that no map lists ignore writes. -/
def State.regWrite (path : RegPath) (offset v : Nat) (s : State) : State :=
  match pathEffect path offset v with
  | none => s
  | some (rwl, f) => if rwl && s.hub.lock then { s with hub := { s.hub with lockedWrite := true } } else f s
/-- REGISTER_WRITE: a write to a register whose fields have no behaviour of their own. The paths of R405 reach the same fields. A 64-bit write acts on
the low word first, then on the high one (R8, R361). -/
def execRegisterWrite (path : RegPath) (offset : Nat) (v : W32) (hi : Option W32) (s : State) : Res :=
  .next (
    let s := s.regWrite path offset v.toNat
    match hi with
    | some w => s.regWrite path (offset + 4) w.toNat
    | none => s)

/-! ### RWC registers (R404, R405) -/

/-- The latch of a path for a register. -/
def rwcLatch (p : Path) (r : RwcReg) : Nat :=
  (match p with | .host => 0 | .hub => 2 | .mgmt => 4) + match r with | .hubLock => 0 | .bwCeil => 1
/-- What a path holds pending for a register, and since when. -/
def State.pendingRwc (s : State) (k : Nat) : Option (W32 × Nat) := Tab.get none s.tmk.rwc k
/-- Sets or clears a latch. -/
def State.setRwc (k : Nat) (v : Option (W32 × Nat)) (s : State) : State :=
  { s with tmk := { s.tmk with rwc := Tab.set none s.tmk.rwc k v } }
/-- A completed pair: only the host sets LOCK and LOCK = 0 changes nothing (R38); BW_CEIL takes 120 to 420 W (R401). -/
def State.takeRwc (p : Path) (r : RwcReg) (v : W32) (s : State) : State :=
  match r with
  | .hubLock => if p = .host ∧ v.getLsbD 0 then { s with hub := { s.hub with lock := true } } else s
  | .bwCeil =>
    let w := bits v.toNat 8 0
    if 120 ≤ w ∧ w ≤ 420 then { s with bw := { s.bw with ceil := w } } else { s with bw := { s.bw with ceilErr := true } }

/-- RWC_VALUE_WRITE: V is held as pending; a V already pending is refused first. -/
def execRwcValueWrite (path : Path) (r : RwcReg) (v : W32) (s : State) : Res :=
  .next (
    let k := rwcLatch path r
    (if (s.pendingRwc k).isSome then s.pairError 8 else s).setRwc k (some (v, s.us)))

/-- RWC_COMPLEMENT_WRITE: the complement of a pending V completes the pair; any other word, or none pending, refuses it. -/
def execRwcComplementWrite (path : Path) (r : RwcReg) (v : W32) (s : State) : Res :=
  .next (
    let k := rwcLatch path r
    match s.pendingRwc k with
    | none => s.pairError 8
    | some (w, _) =>
      let s := s.setRwc k none
      if v = ~~~w then s.takeRwc path r w else s.pairError 8)

/-- RWC_PENDING_TIMEOUT: 1 ms after it was written a pending V is discarded. -/
def execRwcPendingTimeout (path : Path) (r : RwcReg) (s : State) : Res :=
  .next (
    let k := rwcLatch path r
    match s.pendingRwc k with
    | none => s
    | some (_, t) => if t + 1000 ≤ s.us then (s.setRwc k none).pairError 8 else s)

end Sys2Proof.Machine
end

