-- ==== Sys2Proof/Machine/Bs16.lean ====
section
/-! DEFINITION. The BS16 wire format (R324), narrowing a contribution (R325, R326), the link adders (R327, R328), the optimisers (R334)
and narrowing new weights (R335, R337). -/
-- Log entries (notes/assumptions): DESIGN CHOICE 26; DEDUCED 156.

namespace Sys2Proof.Machine

/-- The poison code. -/
def bsPoison : BitVec 16 := 0x8000
/-- The residue of elements: the sum of those that are not poison, modulo 127 (R324). -/
def bsResidue (es : List (BitVec 16)) : Nat := (((es.filter (· ≠ bsPoison)).map BitVec.toInt).sum % 127).toNat

/-- Elements in the making: none is poison. -/
abbrev Wide := List (Option Int)
/-- Whether an element does not fit. -/
def Wide.spills (w : Wide) : Bool := w.any fun e => match e with | some v => decide (32767 < v.natAbs) | none => false
/-- Elements shifted right, to nearest with ties to even; 17 or more gives zero (R327). -/
def Wide.shift (k : Nat) (w : Wide) : Wide := w.map fun e => e.map fun v => if 17 ≤ k then 0 else F32.rneShift v (-(k : Int))
/-- The elements on the wire. -/
def Wide.wire (w : Wide) : List (BitVec 16) := w.map fun e => match e with | some v => BitVec.ofInt 16 v | none => bsPoison
/-- Elements of a block. -/
def blockWide (u : Block) : Wide := u.elems.map fun e => if e = bsPoison then none else some e.toInt

/-- A block with its residue. -/
def mkBlock (exp : Int) (esc : Nat) (poison : Bool) (bseq : Nat) (w : Wide) : Block :=
  { exp := exp, esc := esc, poison := poison || w.any Option.isNone, res := bsResidue w.wire, bseq := bseq, elems := w.wire }

/-- Escalations made and elements poisoned at exponent 31. -/
structure EscCount where
  esc : Nat := 0
  sat : Nat := 0
  deriving DecidableEq, Repr

/-- Escalates until every element fits; at exponent 31 an element that does not fit becomes poison (R327). -/
def settle : Nat → Int → Nat → Wide → EscCount → Int × Nat × Wide × EscCount
  | 0, e, n, w, c => (e, n, w, c)
  | f + 1, e, n, w, c =>
    if !w.spills then (e, n, w, c)
    else if 31 ≤ e then
      (e, n, w.map fun x => match x with | some v => if 32767 < v.natAbs then none else x | none => none,
        { c with sat := c.sat + (w.filter fun x => match x with | some v => decide (32767 < v.natAbs) | none => false).length })
    else settle f (e + 1) (min (n + 1) 7) (w.shift 1) { c with esc := c.esc + 1 }

/-- Rounds a binary32 gradient at exponent `e`: none for a NaN or an infinity; `draw` is the low half of a draw for stochastic
rounding (R325, R326). -/
def narrowGrad (g : W32) (e : Int) (draw : Option Nat) : Option Int :=
  if F32.isNan g || F32.isInf g then none
  else
    let (v, x) := F32.signed g
    let q := x - e
    match draw with
    | none => some (F32.rneShift v q)
    | some d =>
      if 0 ≤ q then some (v * 2 ^ q.toNat)
      else
        let k := (-q).toNat
        let r := (v % 2 ^ k).toNat
        some (v / 2 ^ k + if r ≠ 0 ∧ d < r * 2 ^ 32 / 2 ^ k then 1 else 0)

/-- A contribution from rounded elements: the fuel allows every escalation from exponent −32 to 31. -/
def contribution (e : Int) (bseq : Nat) (w : Wide) : Block × EscCount :=
  let (e, n, w', c) := settle 64 e 0 w {}
  (mkBlock e n false bseq w', c)

/-- A block of poison. -/
def poisonBlock (exp : Int) (esc bseq : Nat) : Block :=
  { exp := exp, esc := esc, poison := true, res := 0, bseq := bseq, elems := List.replicate 32 bsPoison }

/-- Whether a received block keeps its residue code. -/
def blockSound (u : Block) : Bool := u.res = bsResidue u.elems

/-- The residue of elements: of the sum of those that are not poison. -/
def Wide.residue (w : Wide) : Int := ((w.filterMap id).foldl (· + ·) 0) % 127
/-- Elements with what a fault of the adder adds to them. -/
def Wide.upset (f : List (Nat × Int)) (w : Wide) : Wide := w.mapIdx fun i x => x.map fun v => v + (f.lookup i).getD 0
/-- The elements of `w` where neither of two blocks is poison. -/
def Wide.common (a b w : Wide) : Wide := List.zipWith (fun x (y : Option Int × Option Int) => if y.1.isSome && y.2.isSome then x else none) w (a.zip b)
/-- The sum of an upstream block and the local contribution: the block, its counts, and whether the checks of R328 held: the residues of both
blocks and their BSEQ; the residue of the sum, over the elements that neither block has poisoned (DEDUCED, notes/assumptions/156.md); and
after an escalation that of its two paths. ESC of the sum is that of `u`, raised by its own escalation; where the local block was itself
escalated the manual does not say, and `v` is taken (notes/assumptions/26.md). -/
def addBlocks (v : Nat) (fault : AdderFault) (u l : Block) : Block × EscCount × Bool :=
  let e := max u.exp l.exp
  let esc := if l.esc = 0 then u.esc else v % 8
  if !blockSound u || !blockSound l || u.bseq ≠ l.bseq then (poisonBlock e esc u.bseq, {}, false)
  else
    let a := (blockWide u).shift (e - u.exp).toNat
    let b := (blockWide l).shift (e - l.exp).toNat
    let s : Wide := List.zipWith (fun x y => match x, y with | some x, some y => some (x + y) | _, _ => none) a b
    let s := s.upset fault.sum
    if s.residue ≠ ((a.common b a).residue + (a.common b b).residue) % 127 then (poisonBlock e esc u.bseq, {}, false)
    else
      let (e', n, w, c) := settle 1 e esc s {}
      if c.esc ≠ 0 ∧ (w.upset fault.path).residue ≠ w.residue then (poisonBlock e' n u.bseq, c, false)
      else (mkBlock e' n (u.poison || l.poison) u.bseq w, c, true)

/-! ### The optimisers (R334) -/

/-- A weight and its state. -/
structure OptState where
  w : W32
  s1 : W32
  s2 : W32
  deriving DecidableEq, Repr
/-- The fields of a descriptor that an optimiser uses (R333). -/
structure Hyper where
  lr : W32
  hp1 : W32
  hp2 : W32
  eps : W32
  wd : W32
  c1 : W32
  c2 : W32
  gscale : W32
  deriving DecidableEq, Repr

/-- SGD with momentum. -/
def sgd (h : Hyper) (g : W32) (x : OptState) : OptState :=
  let t := F32.add g (F32.mul h.wd x.w)
  let v := F32.add (F32.mul h.hp1 x.s1) t
  { x with w := F32.sub x.w (F32.mul h.lr v), s1 := v }
/-- AdamW. -/
def adamw (h : Hyper) (g : W32) (x : OptState) : OptState :=
  let one : W32 := 0x3F800000
  let m := F32.add (F32.mul h.hp1 x.s1) (F32.mul (F32.sub one h.hp1) g)
  let s := F32.add (F32.mul h.hp2 x.s2) (F32.mul (F32.sub one h.hp2) (F32.mul g g))
  let d := F32.add (F32.sqrt (F32.mul s h.c2)) h.eps
  let u := F32.add (F32.div (F32.mul m h.c1) d) (F32.mul h.wd x.w)
  { w := F32.sub x.w (F32.mul h.lr u), s1 := m, s2 := s }
/-- Whether a value is finite. -/
def finite (x : W32) : Bool := !F32.isNan x && !F32.isInf x
/-- One element's update: none when a new value is not finite. -/
def optimise (adam : Bool) (h : Hyper) (e : Int) (exp : Int) (x : OptState) : Option OptState :=
  let g := F32.mul (F32.ofInt e exp) h.gscale
  let y := if adam then adamw h g x else sgd h g x
  if finite y.w && finite y.s1 && (!adam || finite y.s2) then some y else none

/-! ### New weights (R335) -/

/-- Rounds num / 2^k to an integer: to nearest even, or with a draw as R326 says. -/
def roundNum (num : Int) (k : Nat) (draw : Option Nat) : Int :=
  match draw with
  | none => F32.rneShift num (-(k : Int))
  | some d =>
    let r := (num % 2 ^ k).toNat
    num / 2 ^ k + if r ≠ 0 ∧ d < r * 2 ^ 32 / 2 ^ k then 1 else 0

/-- The codebook index of num / 2^k under stochastic rounding, where it lies within the levels. -/
def stochasticLevel (levels : List Int) (num : Int) (k d : Nat) : Nat :=
  let i := ((List.range levels.length).filter fun i => decide (levels.getD i 0 * 2 ^ k ≤ num)).getLastD 0
  let lo := levels.getD i 0
  let gap := (levels.getD (i + 1) lo - lo) * 2 ^ k
  if gap ≤ 0 then i else if d < ((num - lo * 2 ^ k) * 2 ^ 32 / gap).toNat then i + 1 else i

/-- The deployed value of a finite master weight, and whether it was clamped or saturated. -/
def deploy (q : SlotCfg) (levels : List Int) (w : W32) (draw : Option Nat) : Int × Bool :=
  let (v, x) := F32.signed w
  let num := v * 2 ^ x.toNat
  let k := (-x).toNat
  match q.wfmt with
  | 0 => clampTo (-2 ^ (q.bw - 1)) (2 ^ (q.bw - 1) - 1) (roundNum num k draw)
  | 1 => clampTo 0 (2 ^ q.bw - 1) (roundNum num k draw)
  | 2 => (if F32.ge w F32.zero then 1 else 0, false)
  | _ =>
    let (i, sat) := narrowGrid levels num k
    match draw with
    | some d => if sat then ((i : Int), true) else ((stochasticLevel levels num k d : Int), false)
    | none => ((i : Int), sat)

/-- The exponent candidate of a shard's finished blocks; `gexp` when they are all zero or poison (R337). -/
def candidate (gexp : Int) (bs : List Block) : Int :=
  let cs := bs.filterMap fun u =>
    let mx := ((blockWide u).filterMap fun e => e.map Int.natAbs).foldl max 0
    if mx = 0 then none else some (u.exp + (F32.bitlen mx : Int) - 15)
  match cs with
  | [] => gexp
  | c :: cs => max (-32) (min 31 (cs.foldl max c))

end Sys2Proof.Machine
end

