-- ==== Sys2Proof/Machine/Wire.lean ====
section
/-! DEFINITION. What Korpor carries, byte by byte: the BS16 block (R324), the flit header (R316), and the flit with its CRC and parity (R315). -/
-- Log entries (notes/assumptions): DESIGN CHOICE 82, 155; DEDUCED 181.

namespace Sys2Proof.Machine

/-- Bytes cut or filled with zeros to a length. -/
def padTo (n : Nat) (bs : List Byte) : List Byte := bs.take n ++ List.replicate (n - bs.length) 0

/-! ### Blocks (R324) -/

/-- The 32-bit header of a block. -/
def blockHeader (u : Block) : Nat :=
  (u.exp % 64).toNat + 2 ^ 6 * (u.esc % 8) + 2 ^ 9 * b2n u.poison + 2 ^ 10 * (u.res % 128) + 2 ^ 17 * (u.bseq % 256)
/-- The 68 bytes of a block: element j at bytes 4 + 2j and 5 + 2j. -/
def blockBytes (u : Block) : List Byte := leBytes 4 (blockHeader u) ++ u.elems.flatMap fun e => leBytes 2 e.toNat
/-- The block that 68 bytes hold. -/
def blockOf (bs : List Byte) : Block :=
  let h := leNat (bs.take 4)
  { exp := sext (bits h 5 0) 6, esc := bits h 8 6, poison := bit h 9, res := bits h 16 10, bseq := bits h 24 17,
    elems := (List.range 32).map fun j => BitVec.ofNat 16 (leNat ((bs.drop (4 + 2 * j)).take 2)) }

/-! ### Flits (R315, R316) -/

/-- The 64-bit header of a flit. -/
def flitHeader (f : Flit) : Nat :=
  f.ftype % 16 + 2 ^ 4 * (f.txseq % 1024) + 2 ^ 14 * (f.ackseq % 1024) + 2 ^ 24 * b2n f.nak + 2 ^ 25 * (f.cvc % 4) + 2 ^ 27 * (f.cred % 32) +
    2 ^ 32 * (f.ring % 4) + 2 ^ 34 * (f.nblk % 4) + 2 ^ 36 * (f.opid % 65536)
/-- Bytes 0 to 279 of a flit: its header and its 272-byte payload. -/
def flitBody (f : Flit) : List Byte := leBytes 8 (flitHeader f) ++ padTo 272 f.payload
/-- Bytes 0 to 287 of a flit: the body and its CRC-64. -/
def flitChecked (f : Flit) : List Byte := flitBody f ++ leBytes 8 (crc64 (flitBody f))
/-- The bytes of one of the two FEC codewords: the even ones, or the odd ones. -/
def codeword (odd : Nat) (bs : List Byte) : List Byte := (List.range 144).map fun i => bs.getD (2 * i + odd) 0
/-- The 16 parity bytes of a codeword. -/
def parityOf (cw : List Byte) : List Byte := padTo 16 (Config.fecParity cw)
/-- 288 bytes with their FEC parity. -/
def withParity (bs : List Byte) : List Byte := bs ++ parityOf (codeword 0 bs) ++ parityOf (codeword 1 bs)
/-- The 320 bytes of a flit. -/
def flitWire (f : Flit) : List Byte := withParity (flitChecked f)
/-- The bytes in which two lists of one length differ. -/
def byteErrors (a b : List Byte) : Nat := ((a.zip b).filter fun x => x.1 ≠ x.2).length
/-- A codeword as the FEC leaves it, and the bytes that it corrected: at most 8, else it stays as it came (R315, R317). Whatever the decoder finds
is taken only where its codeword lies within 8 byte errors of the one that arrived. -/
def fecFix (cw par : List Byte) : List Byte × Nat :=
  if par = parityOf cw then (cw, 0)
  else match Config.fecDecode (cw ++ par) with
    | some m => if m.length = 144 ∧ byteErrors (m ++ parityOf m) (cw ++ par) ≤ 8 then (m, byteErrors (m ++ parityOf m) (cw ++ par)) else (cw, 0)
    | none => (cw, 0)
/-- Bytes 0 to 287 of the 320 that arrive, as the FEC leaves them, and the bytes that it corrected. -/
def flitFixed (bs : List Byte) : List Byte × Nat :=
  let a := fecFix (codeword 0 bs) ((bs.drop 288).take 16)
  let b := fecFix (codeword 1 bs) ((bs.drop 304).take 16)
  ((List.range 288).map fun i => (if i % 2 = 0 then a.1 else b.1).getD (i / 2) 0, a.2 + b.2)
/-- The flit that 288 bytes hold; none where the CRC fails. -/
def flitOf (bs : List Byte) : Option Flit :=
  if leNat ((bs.drop 280).take 8) ≠ crc64 (bs.take 280) then none
  else
    let h := leNat (bs.take 8)
    some { ftype := bits h 3 0, txseq := bits h 13 4, ackseq := bits h 23 14, nak := bit h 24, cvc := bits h 26 25, cred := bits h 31 27,
           ring := bits h 33 32, nblk := bits h 35 34, opid := bits h 51 36, payload := (bs.take 280).drop 8 }
/-- The blocks of a RED or PAR payload: NBLK + 1 of 68 bytes, in order. -/
def flitBlocks (f : Flit) : List Block := (List.range (f.nblk + 1)).map fun i => blockOf ((f.payload.drop (68 * i)).take 68)

end Sys2Proof.Machine
end

