-- ==== Sys2Proof/Machine/Link.lean ====
section
/-! DEFINITION. The Korpor ports: training, flits, replay and credits (R311 to R318), and what the loss of a port does to the ring and
to its operations (R321, R322, R332). -/
-- Log entries (notes/assumptions): DESIGN CHOICE 81, 82, 155; DEDUCED 79, 80, 83, 85, 87, 88.

namespace Sys2Proof.Machine

/-! ### Flits and credits (R315, R316, R318) -/

/-- The channel of an item: 0 RED, 1 PAR, 2 CTRL. -/
def TxBody.chan : TxBody → Nat
  | .red .. => 0
  | .par .. => 1
  | .msg _ => 2
  | .raw f => if f.ftype = 1 then 0 else if f.ftype = 2 then 1 else 2
/-- Whether a second block may share a flit with a first: RED or PAR blocks of one ring and one operation. -/
def TxItem.joins (a b : TxItem) : Bool :=
  a.ring = b.ring && (match a.body, b.body with
    | .red x .., .red y .. => x = y
    | .par x .., .par y .. => x = y
    | _, _ => false)
/-- Whether a port carries its link: UP, or retraining with its buffers kept. -/
def Port.linked (x : Port) : Bool := x.st = .up || x.st = .retrain
/-- The sequence number of the last good flit. -/
def Port.lastGood (x : Port) : Nat := (x.rxSeq + 1023) % 1024
/-- The channel whose freed buffers the next header returns, and how many: the lowest that has any, at most 31; 3 for none. -/
def Port.creditOut (x : Port) : Nat × Nat :=
  match (List.range 3).find? fun c => decide (0 < x.credDue.getD c 0) with
  | some c => (c, min 31 (x.credDue.getD c 0))
  | none => (3, 0)
/-- The flit that carries items: their blocks at bytes 8 + 68i, or a message; a flit that bypass passes on keeps its own type and payload. -/
def flitFrom (is : List TxItem) : Flit :=
  let none_ : Flit := { ftype := 0, txseq := 0, ackseq := 0, nak := false, cvc := 3, cred := 0, ring := 0, nblk := 0, opid := 0, payload := padTo 272 [] }
  let blocks := is.flatMap fun i => match i.body with | .red _ _ u => blockBytes u | .par _ _ u => blockBytes u | _ => []
  match is with
  | [] => none_
  | i :: _ => match i.body with
    | .red opid .. => { none_ with ftype := 1, ring := i.ring, nblk := is.length - 1, opid := opid, payload := padTo 272 blocks }
    | .par opid .. => { none_ with ftype := 2, ring := i.ring, nblk := is.length - 1, opid := opid, payload := padTo 272 blocks }
    | .msg m => { none_ with ftype := 3, ring := i.ring, payload := padTo 272 (Config.ringMessage m) }
    | .raw f => f
/-- Puts a flit on the wire: every header acknowledges the last good flit and returns credits. An IDLE flit is the last of every 1,024. -/
def Port.transmit (f : Flit) (seq : Nat) (nak : Bool) (x : Port) : Port :=
  let (c, n) := x.creditOut
  let out := fun f : Flit => { f with txseq := seq, ackseq := x.lastGood, nak := nak, cvc := c, cred := n }
  let x := { x with ackDue := 0, credDue := x.credDue.modify c (· - n), wire := x.wire ++ [out f] }
  if f.ftype = 0 then { x with sinceIdle := 0 }
  else if x.sinceIdle + 1 < 1023 then { x with sinceIdle := x.sinceIdle + 1 }
  else { x with sinceIdle := 0, wire := x.wire ++ [{ flitFrom [] with txseq := x.txSeq, ackseq := x.lastGood }] }
/-- Sends an IDLE flit, which carries the next sequence number without using it. -/
def Port.sendIdle (nak : Bool) (x : Port) : Port := if x.st = .up then x.transmit (flitFrom []) x.txSeq nak else x

/-! ### Sending (R317, R318) -/

/-- The first channel that has something to send and a credit for it: CTRL passes RED and PAR, which go in their order. -/
def Port.nextChan (x : Port) : Option Nat :=
  let can := fun c => decide (0 < x.credits.getD c 0) && x.txq.any fun i => i.body.chan = c
  if can 2 then some 2 else (x.txq.find? fun i => can i.body.chan).map fun i => i.body.chan
/-- Removes the first `k` items of a channel. -/
def dropChan (c : Nat) : Nat → List TxItem → List TxItem
  | _, [] => []
  | 0, is => is
  | k + 1, i :: is => if i.body.chan = c then dropChan c k is else i :: dropChan c (k + 1) is
/-- The blocks of the next flit of a channel: up to four that share it; how many of those the packer takes is open (`v`). -/
def Port.flitItems (x : Port) (c v : Nat) : List TxItem :=
  match x.txq.filter fun i => i.body.chan = c with
  | [] => []
  | i :: is => i :: ((is.takeWhile i.joins).take (v % 4))
/-- Sends one flit and keeps it until it is acknowledged. -/
def Port.sendFlit (c v : Nat) (x : Port) : Port :=
  let is := x.flitItems c v
  let x := x.transmit (flitFrom is) x.txSeq false
  { x with txq := dropChan c is.length x.txq, replayBuf := x.replayBuf ++ [{ seq := x.txSeq, items := is }], txSeq := (x.txSeq + 1) % 1024,
           credits := x.credits.modify c (· - 1) }
/-- Sends what credits, the 512-flit replay buffer and the port's grant (R24) allow; the fuel is the number of items. -/
def State.pumpN (p : Nat) : Nat → State → State
  | 0, s => s
  | n + 1, s =>
    let x := s.port p
    if x.st ≠ .up ∨ 512 ≤ x.replayBuf.length ∨ !s.works (portUnit p) then s
    else match x.nextChan with
      | none => s
      | some c =>
        let (v, s) := s.draw
        (s.modPort p (Port.sendFlit c v)).pumpN p n
/-- Sends what a port can send. -/
def State.pump (p : Nat) (s : State) : State := s.pumpN p (s.port p).txq.length
/-- Sends what every port can send. -/
def State.pumpAll (s : State) : State := (List.range 4).foldl (fun (s : State) p => s.pump p) s
/-- Gives a port an item to send; an unlinked port discards it. -/
def State.sendOn (p : Nat) (i : TxItem) (s : State) : State :=
  if (s.port p).linked then (s.modPort p fun x => { x with txq := x.txq ++ [i] }).pump p else s

/-! ### Receive buffers (R317, R318) -/

/-- A buffer of a channel is freed; its credit goes back in the next header. -/
def Port.freed (c : Nat) (x : Port) : Port := Port.sendIdle false { x with credDue := x.credDue.modify c (· + 1) }
/-- The first buffer of a channel that is in use. -/
def Port.front (c : Nat) (x : Port) : Option RxBuf := x.rx.find? fun r => r.chan = c
/-- The first block of the first buffer of a channel is consumed, and the buffer with its last block. -/
def Port.consume (c : Nat) (x : Port) : Port :=
  match x.front c with
  | none => x
  | some r => match r.blocks with
    | _ :: u :: us => { x with rx := (x.rx.takeWhile (· ≠ r)) ++ { r with blocks := u :: us } :: (x.rx.drop ((x.rx.takeWhile (· ≠ r)).length + 1)) }
    | _ => ({ x with rx := x.rx.erase r }).freed c
/-- The ring of the block that a port would deliver next on a channel, where it is this block of this operation. -/
def State.nextBlock (p c opid : Nat) (u : Block) (s : State) : Option Nat :=
  match (s.port p).front c with
  | some r => if r.opid = opid ∧ r.blocks.head? = some u then some r.ring else none
  | none => none
/-- The blocks that a list of flits leaves to be delivered, those of some operations discarded with the buffers they empty. -/
def Port.discard (gone : Nat → Bool) (x : Port) : Port :=
  let out := x.rx.filter fun r => r.chan < 2 && gone r.opid
  { x with rx := x.rx.filter fun r => !(r.chan < 2 && gone r.opid),
           txq := x.txq.filter fun i => match i.body with | .red o .. => !gone o | .par o .. => !gone o | _ => true,
           credDue := x.credDue.mapIdx fun c n => n + (out.filter fun r => r.chan = c).length }
/-- Every receive buffer is emptied. -/
def Port.clearRx (x : Port) : Port := { x with rx := [], credDue := x.credDue.mapIdx fun c n => n + (x.rx.filter fun r => r.chan = c).length }
/-- Applies a function to every port. -/
def State.allPorts (f : Port → Port) (s : State) : State := (List.range 4).foldl (fun (s : State) p => s.modPort p f) s

/-! ### Hops and paths (R319, R322, R323) -/

/-- Whether bypass is in force: BYPASS, or a warm reset that lasts (R323). -/
def State.bypassed (s : State) : Bool := s.kl.bypass || s.hub.warm
/-- Whether a hop of this device has a port UP: hop 0 to the next rank (KP0, KP1), hop 1 to the one before (KP2, KP3). -/
def State.hopUp (h : Nat) (s : State) : Bool := (s.port (2 * h)).linked || (s.port (2 * h + 1)).linked
/-- The rank after this one, and the one before. -/
def Kl.next (k : Kl) : Nat := (k.rank + 1) % k.n
/-- The rank before this one. -/
def Kl.prev (k : Kl) : Nat := (k.rank + k.n - 1) % k.n
/-- The lost hop of a line: WRAPRANK, or while it forms the hop found missing. -/
def Kl.line (k : Kl) : Option Nat := match k.st with | .wrapped => some k.wrapRank | .forming => k.formWrap | _ => none
/-- Whether this device is the turn point before or after the lost hop. -/
def Kl.turns (k : Kl) (ring : Nat) : Bool :=
  match k.line with | some r => if ring = 0 then k.rank = r else k.rank = (r + 1) % k.n | none => false
/-- The hop on which a ring's traffic leaves this device: the next rank's for ring A, the one before for ring B; a turn point of a
WRAPPED ring sends it back (R322). -/
def Kl.outHop (k : Kl) (ring : Nat) : Nat :=
  let out := if ring = 0 then 0 else 1
  if k.turns ring then 1 - out else out
/-- The port of a hop for block `b`: KP0 or KP2 for even blocks, KP1 or KP3 for odd ones, and the other when that one is down. -/
def State.hopPort (h b : Nat) (s : State) : Nat :=
  let p := 2 * h + b % 2
  if (s.port p).linked then p else 2 * h + (1 - b % 2)
/-- Sends an item of a ring that this device originates or adds to; with N = 1 no port is used. -/
def State.sendRing (ring b : Nat) (body : TxBody) (s : State) : State :=
  if s.kl.n ≤ 1 then s else s.sendOn (s.hopPort (s.kl.outHop ring) b) ⟨ring, body⟩
/-- Sends a message round both rings. -/
def State.sendBoth (m : RingMsg) (s : State) : State := (s.sendRing 0 0 (.msg m)).sendRing 1 0 (.msg m)
/-- Whether an arrival on a port is the visit at which this device adds to a ring's blocks (R319, R322): ring A on KP2 and KP3, ring B
on KP0 and KP1; a turn point's only visit always is. -/
def Kl.addsAt (k : Kl) (ring p : Nat) : Bool :=
  (if ring = 0 then decide (2 ≤ p) else decide (p < 2)) || k.turns 0 || k.turns 1
/-- Passes an item on unchanged, out of the hop opposite to the port it came on. -/
def State.passOn (p ring b : Nat) (body : TxBody) (s : State) : State := s.sendOn (s.hopPort (if p < 2 then 1 else 0) b) ⟨ring, body⟩

/-- The visit of a ring message that a port holds in its first CTRL buffer: the buffer is freed; on a lap's other visit the message passes on
unchanged, else the device acts on it, by its ring (R322). A device in bypass takes none. -/
def State.ctrlVisit (p : Nat) (m : RingMsg) (act : Nat → State → State) (s : State) : State :=
  match (s.port p).front 2 with
  | none => s
  | some r =>
    if s.bypassed then s
    else
      let s := s.modPort p (Port.consume 2)
      if !s.kl.addsAt r.ring p then s.passOn p r.ring 0 (.msg m) else act r.ring s
/-- A message goes on along its ring. -/
def State.relay (ring : Nat) (m : RingMsg) (s : State) : State := s.sendRing ring 0 (.msg m)

/-! ### Aborting (R332) -/

/-- A cause after which no rerun follows: MISMATCH, DESC_BAD and DISSOLVED (R321, R331, R333). -/
def finalCause (c : Nat) : Bool := c = 4 || c = 5 || c = 7
/-- An operation as an abort leaves it: partial blocks and messages are discarded; a member that has passed the update point keeps its
finished shard and the RDONE flags. -/
def RingOp.abort (o : RingOp) : RingOp :=
  { o with phase := .aborted, opens := [], rdones := if o.updated then o.rdones else [], pdones := [],
           finished := if o.updated then o.finished else [], heldUp := [], params := [], rerun := false, early := [], starts := false }
/-- Aborts the operations that `which` picks among those in progress. Their blocks are discarded, on the way out too, and those given up for
good are noted. -/
def State.abortOps (which : RingOp → Bool) (cause : Nat) (s : State) : State :=
  let hit := fun o : RingOp => !o.ended && o.phase ≠ .aborted && which o
  let hits := s.kl.ops.filter hit
  if hits = [] then s
  else
    let final := finalCause cause
    let ops := if final then s.kl.ops.filter (!hit ·) else s.kl.ops.map fun o => if hit o then o.abort else o
    let s := s.allPorts (Port.discard fun i => hits.any fun o => o.opid = i)
    let s := hits.foldl (fun (s : State) o => s.record 0x0054 4 (b8 cause ++ b8 0 ++ leBytes 2 o.opid)) s
    { s with kl := { s.kl with ops := ops, opCause := cause, statAbort := satAdd s.kl.statAbort hits.length,
                               given := if final then s.kl.given ++ hits.map RingOp.opid else s.kl.given,
                               queued := if final then s.kl.queued.filter fun q => !hits.any fun o => o.tid = q.1 && !o.handed else s.kl.queued } }
/-- The Train step that waits on an operation, or is to: before it has joined, the one whose tensor is queued, else the oldest of its handle. -/
def State.opStep (s : State) (o : RingOp) : Nat :=
  if o.handed then o.step
  else match s.kl.queued.find? fun q => q.1 = o.tid with
    | some q => q.2
    | none => match s.est.steps.find? fun e => e.handle = o.tid / 4096 && e.cls = 2 && e.fail = 0 with | some e => e.num | none => 0
/-- The Train steps that wait on operations fail: code 1 TILE_FAILED, 2 RESET_LOST. -/
def State.failWaiting (which : RingOp → Bool) (code : Nat) (s : State) : State :=
  ((s.kl.ops.filter fun o => !o.ended && which o).map s.opStep).foldl (fun (s : State) n => s.failStep n code) s
/-- Every operation in progress is aborted, and ABORT goes round every path that works. -/
def State.abortAll (cause : Nat) (s : State) : State :=
  if s.kl.ops.any fun o => !o.ended && o.phase ≠ .aborted then (s.abortOps (fun _ => true) cause).sendBoth (.abort none cause) else s

/-- The ring enters BROKEN, and its operations are aborted. -/
def State.breakRing (cause : Nat) (s : State) : State :=
  if s.kl.st = .formed ∨ s.kl.st = .wrapped then ({ s with kl := { s.kl with st := .broken } }).abortAll cause else s

/-- The hop between ranks r and r + 1 is lost: a FORMED ring becomes WRAPPED, a second loss breaks it. -/
def State.hopLost (r : Nat) (s : State) : State :=
  match s.kl.st with
  | .formed =>
    let s := ({ s with kl := { s.kl with st := .wrapped, wrapRank := r } }).abortAll 2
    s.record 0x0052 4 (b8 r)
  | .wrapped => if r = s.kl.wrapRank then s else s.breakRing 2
  | _ => s

/-- A port is no longer linked: it forgets its link, and the operations, the hop and the ring follow. -/
def State.portGone (p : Nat) (st : PortSt) (s : State) : State :=
  let was := (s.port p).linked
  let s := s.modPort p fun x => { x with st := st, since := s.us, width := 0, gen := false, farOk := false, txq := [], replayBuf := [], rx := [], credDue := [0, 0, 0] }
  if !was || s.bypassed || s.kl.n ≤ 1 then s
  else if s.hopUp (p / 2) then (if s.kl.st = .formed ∨ s.kl.st = .wrapped then s.abortAll 1 else s)
  else s.hopLost (if p < 2 then s.kl.rank else s.kl.prev)

/-! ### Training (R313, R314) -/

/-- A port begins to train. -/
def State.trainPort (p : Nat) (s : State) : State :=
  if (s.port p).st = .down then s.modPort p fun x => { x with st := .training, since := s.us } else s

/-- KL_PORT_EN_WRITE: a write of KL_PORTp_CTRL: EN disables the port or enables it, MAXGEN is kept, and TRAIN starts training. -/
def execKlPortEnWrite (p : PortId) (v : W32) (s : State) : Res :=
  .next (
    let s := s.modPort p fun x => { x with en := v.getLsbD 0, maxgen := v.getLsbD 1 }
    let s := if !v.getLsbD 0 then (if (s.port p).st = .disabled then s else s.portGone p .disabled)
      else if (s.port p).st = .disabled then s.modPort p fun x => { x with st := .down, since := s.us } else s
    if v.getLsbD 2 then s.trainPort p else s)

/-- KL_PORT_TRAIN: a DOWN port trains at once. -/
def execKlPortTrain (p : PortId) (s : State) : Res := .next (s.trainPort p)

/-- PORT_TRAIN_RETRY: a DOWN port starts training again every 1 s. -/
def execPortTrainRetry (p : PortId) (s : State) : Res :=
  .next (if (s.port p).since + 1000000 ≤ s.us then s.trainPort p else s)

/-- The lanes of a WIDTH code. -/
def lanesOf (w : Nat) : Nat := if w = 3 then 4 else if w = 1 ∨ w = 2 then 2 else 0
/-- The WIDTH code that the locked lanes allow: x4, else x2 on lanes 0 and 1, else x2 on lanes 2 and 3, else none. -/
def widthOf (l : BitVec 4) : Nat :=
  if l = 15#4 then 3 else if l.getLsbD 0 && l.getLsbD 1 then 1 else if l.getLsbD 2 && l.getLsbD 3 then 2 else 0
/-- A port UP with what its training reached: Gen 2 where both partners allow it and its first 10^6 flits are good. -/
def Port.upWith (r : PortResult) (x : Port) : Port :=
  { x with st := .up, gen := x.maxgen && r.farGen2 && !r.gen2Bad, width := widthOf r.locked, reversed := r.reversed, polinv := r.polinv % 16 }

/-- PORT_TRAIN_DONE: training reaches UP with fresh sequence numbers and credits; without x4 or x2, or past 50 ms, the port returns to DOWN. -/
def execPortTrainDone (p : PortId) (r : PortResult) (s : State) : Res :=
  .next (if (s.port p).st ≠ .training then s
    else if widthOf r.locked = 0 ∨ (s.port p).since + 50000 < s.us then s.modPort p fun x => { x with st := .down, since := s.us }
    else s.modPort p fun x => { x.upWith r with rxSeq := 0, ackDue := 0, txSeq := 0, txq := [], replayBuf := [], rx := [], credDue := [0, 0, 0],
                                                sinceIdle := 0, naks := [], retrains := [], credits := [64, 64, 8] })

/-- A port that carried a link goes DOWN, and Tidemark records it. -/
def State.portDown (p : Nat) (s : State) : State := (s.portGone p .down).record 0x0050 4 (b8 p)

/-- PORT_TRAIN_TIMEOUT: training that has not completed within 50 ms returns the port to DOWN; so does a retrain (R314). -/
def execPortTrainTimeout (p : PortId) (s : State) : Res :=
  .next (if s.us < (s.port p).since + 50000 then s
    else match (s.port p).st with
      | .training => s.modPort p fun x => { x with st := .down, since := s.us }
      | .retrain => s.portDown p
      | _ => s)

/-- An UP port enters RETRAIN. -/
def State.startRetrain (p : Nat) (s : State) : State :=
  s.modPort p fun x => { x with st := .retrain, retrain := satInc x.retrain, since := s.us, naks := [],
                                replayBuf := x.replayBuf.map fun e => { e with replays := 0 },
                                retrains := (x.retrains.filter fun t => decide (s.us < t + 1000000)) ++ [s.us] }

/-! ### Receiving (R317, R318) -/

/-- A NAK sent or received at this moment; more than 16 in 1 ms start a retrain. -/
def State.noteNak (p : Nat) (s : State) : State :=
  let s := s.modPort p fun x => { x with naks := (x.naks.filter fun t => decide (s.us < t + 1000)) ++ [s.us] }
  if 16 < (s.port p).naks.length ∧ (s.port p).st = .up then s.startRetrain p else s
/-- Sends NAK with the last good sequence. -/
def State.sendNak (p : Nat) (s : State) : State := (s.modPort p (Port.sendIdle true)).noteNak p

/-- Frees the replay buffer up to an acknowledged flit. -/
def Port.acked (seq : Nat) (x : Port) : Port :=
  if x.replayBuf.any fun e => e.seq = seq then { x with replayBuf := (x.replayBuf.dropWhile fun e => e.seq ≠ seq).drop 1 } else x
/-- The transmitter replays what is unacknowledged, in order; the eighth replay of one flit starts a retrain (R314). -/
def State.replayPort (p : Nat) (s : State) : State :=
  let s := if (s.port p).replayBuf = [] then s
    else s.modPort p fun x =>
      let x := x.replayBuf.foldl (fun (x : Port) e => x.transmit (flitFrom e.items) e.seq false) x
      { x with replay := satInc x.replay, replayBuf := x.replayBuf.map fun e => { e with replays := e.replays + 1 } }
  if ((s.port p).replayBuf.any fun e => decide (8 ≤ e.replays)) ∧ (s.port p).st = .up then s.startRetrain p else s

/-- RETRAIN_DONE: within 50 ms and at the same or a narrower width the port returns to UP, and replay resumes; a retrain that fails, or the third
within 1 s, takes it DOWN (R314). -/
def execRetrainDone (p : PortId) (r : Option PortResult) (s : State) : Res :=
  .next (
    let x := s.port p
    if x.st ≠ .retrain then s
    else match r with
      | some r =>
        if widthOf r.locked ≠ 0 ∧ lanesOf (widthOf r.locked) ≤ lanesOf x.width ∧ x.retrains.length < 3 ∧ s.us ≤ x.since + 50000 then
          ((s.modPort p (Port.upWith r)).replayPort p).pump p
        else s.portDown p
      | none => s.portDown p)

/-- What a good header does to the transmitter: credits, acknowledgement and replay, which a retrain puts off. -/
def State.takeHeader (p : Nat) (f : Flit) (s : State) : State :=
  let s := s.modPort p fun x =>
    { x.acked f.ackseq with credits := if f.cvc < 3 then x.credits.modify f.cvc fun c => min (c + f.cred) (if f.cvc = 2 then 8 else 64)
                                                    else x.credits }
  let s := if f.nak then s.noteNak p else s
  let s := if f.nak && (s.port p).st = .up then s.replayPort p else s
  s.pump p

/-- A flit in sequence is delivered into a receive buffer of its channel, or passed on in bypass; a type or ring that is reserved is delivered
to nothing (notes/assumptions/155.md). After 32 flits without a header an IDLE flit acknowledges them. -/
def State.deliver (p : Nat) (f : Flit) (s : State) : State :=
  let s := s.modPort p fun x => { x with rxSeq := (x.rxSeq + 1) % 1024, ackDue := x.ackDue + 1 }
  let c := f.ftype - 1
  let s := if s.bypassed then (s.sendOn (if p < 2 then p + 2 else p - 2) ⟨f.ring, .raw f⟩).modPort p (Port.freed c)
    else if 3 < f.ftype then s
    else if 1 < f.ring then s.modPort p (Port.freed c)
    else s.modPort p fun x => { x with rx := x.rx ++ [{ chan := c, ring := f.ring, opid := if c < 2 then f.opid else 0,
                                                        blocks := if c < 2 then flitBlocks f else [] }] }
  if 32 ≤ (s.port p).ackDue then s.modPort p (Port.sendIdle false) else s

/-- FLIT_RECEIVE: 320 bytes arrive. The FEC corrects them, and its corrections are counted; a flit that fails the CRC or is out of sequence is discarded and NAKed; a good
one frees credits and replay space, and unless IDLE is delivered. -/
def execFlitReceive (p : PortId) (bytes : List Byte) (s : State) : Res :=
  .next (if (s.port p).st ≠ .up then s
    else
      let s := s.modPort p fun y => { y with fec := satAdd y.fec (flitFixed bytes).2 }
      match flitOf (flitFixed bytes).1 with
      | none => (s.modPort p fun y => { y with crcErr := satInc y.crcErr }).sendNak p
      | some f =>
        if f.ftype = 0 then s.takeHeader p f
        else if f.txseq ≠ (s.port p).rxSeq then s.sendNak p
        else (s.takeHeader p f).deliver p f)

/-- ACK_TIMER: 200 ns after a flit that no header has acknowledged yet, an IDLE flit acknowledges it. -/
def execAckTimer (p : PortId) (s : State) : Res :=
  .next (if 0 < (s.port p).ackDue then s.modPort p (Port.sendIdle false) else s)

/-- MEMBER_SWITCHED_OFF: a port's partner loses power: the port goes DOWN, and its hop with it when its last port goes. -/
def execMemberSwitchedOff (p : PortId) (s : State) : Res :=
  .next (if (s.port p).linked then s.portDown p else s)

end Sys2Proof.Machine
end

