-- ==== Sys2Proof/Machine/Reduce.lean ====
section
/-! DEFINITION. Ring tensors and the reduction operation (R329 to R332): descriptors (R333), handover, OPEN, reduction blocks and RDONE. -/
-- Log entries (notes/assumptions): DESIGN CHOICE 27, 81; DEDUCED 20, 83, 84, 85, 86, 157, 158.

namespace Sys2Proof.Machine

/-! ### Tensors and descriptors -/

/-- The layer of a ring tensor: its handle is LOADED and its SVC has Train (R329). -/
def State.tensor (s : State) (tid : Nat) : Option (Stream × LayerRec) :=
  let h := s.handle (tid / 4096)
  if h.st = .empty ∨ h.st = .loading then none
  else match h.stream with
    | some st => ((st.layers.find? fun l => l.index = tid % 4096 && bit l.svc 2).map fun l => (st, l))
    | none => none
/-- NELEM of a layer. -/
def LayerRec.nelem (l : LayerRec) : Nat := l.nout * l.depth
/-- NB, the blocks of a layer (R330). -/
def LayerRec.nb (l : LayerRec) : Nat := ceilDiv l.nelem 32
/-- The elements of block `b` of a layer. -/
def LayerRec.blockLen (l : LayerRec) (b : Nat) : Nat := min 32 (l.nelem - 32 * b)
/-- The DLA of a tensor's descriptor. -/
def State.descDla (s : State) (tid : Nat) : Nat := s.kl.tdescBase + 128 * tid
/-- A field of `n` bytes of a descriptor. -/
def descField (d : List Byte) (at_ n : Nat) : Nat := leNat ((d.drop at_).take n)
/-- A binary32 field. -/
def descF32 (d : List Byte) (at_ : Nat) : W32 := BitVec.ofNat 32 (descField d at_ 4)
/-- Whether a descriptor is bad: an invalid OPT, a wrong NELEM or a reserved bit (R333). -/
def descBad (d : List Byte) (nelem : Nat) : Bool :=
  let ctl := descField d 0 1
  !(bits ctl 1 0 = 1 || bits ctl 1 0 = 2) || bits ctl 7 5 ≠ 0 || bits (descField d 2 1) 7 2 ≠ 0 || descField d 3 1 ≠ 0 ||
    descField d 4 4 ≠ nelem || (d.drop 84).any (· ≠ 0)

/-- Reads a descriptor: its bytes, its GEXP, and whether it is bad. A GEXP outside −32 to 31 leaves the exponent open
(notes/assumptions/27.md). -/
def State.readDesc (tid nelem : Nat) (s : State) : (List Byte × Int × Bool) × State :=
  let (d, p, s) := s.devRead .hub (s.descDla tid) 128
  let g := sext (descField d 1 1) 8
  if -32 ≤ g ∧ g ≤ 31 then ((d, g, p || descBad d nelem), s)
  else let (v, s) := s.draw; ((d, (v % 64 : Int) - 32, p || descBad d nelem), s)

/-! ### Chunks (R330) -/

/-- The blocks of chunk `c`: the first, and the first beyond. -/
def chunkRange (n nb c : Nat) : Nat × Nat := (c * nb / (2 * n), (c + 1) * nb / (2 * n))
/-- The chunk of a block. -/
def chunkOf (n nb b : Nat) : Nat :=
  ((List.range (2 * n)).find? fun c => decide ((chunkRange n nb c).1 ≤ b) && decide (b < (chunkRange n nb c).2)).getD 0
/-- The ring of a chunk: 0 ring A, 1 ring B. -/
def chunkRing (n c : Nat) : Nat := if c < n then 0 else 1
/-- The blocks of a chunk, in order. -/
def chunkBlocks (n nb c : Nat) : List Nat := let (a, b) := chunkRange n nb c; (List.range (b - a)).map (a + ·)
/-- The blocks of a rank's shard: chunks k and N + k. -/
def shardBlocks (n nb k : Nat) : List Nat := chunkBlocks n nb k ++ chunkBlocks n nb (n + k)
/-- The blocks that start at a rank: ring A's of the owner before it, and ring B's of the owner after it. -/
def startBlocks (k : Kl) (nb : Nat) : List Nat := chunkBlocks k.n nb k.prev ++ chunkBlocks k.n nb (k.n + k.next)

/-! ### Operations by number -/

/-- The operation of an OPID that is in progress. -/
def State.op? (s : State) (opid : Nat) : Option RingOp := s.kl.ops.find? fun o => o.opid = opid && !o.ended
/-- Applies a function to an operation. -/
def State.modOp (opid : Nat) (f : RingOp → RingOp) (s : State) : State :=
  { s with kl := { s.kl with ops := s.kl.ops.map fun o => if o.opid = opid && !o.ended then f o else o } }
/-- KL_OP_STATUS.PHASE: that of the oldest operation in progress. -/
def Kl.phase (k : Kl) : OpPhase := match k.ops.find? fun o => !o.ended with | some o => o.phase | none => .none
/-- Whether a ring can carry operations for this device. -/
def State.ringReady (s : State) : Bool := (s.kl.st = .formed || s.kl.st = .wrapped) && !s.bypassed
/-- Whether an operation still keeps the ring from the one after it: operations run one after another, and the update of one overlaps the
reduction of the next (R329, R340). -/
def RingOp.holdsRing (o : RingOp) : Bool := !o.ended && (o.phase = .reduce || o.phase = .aborted)
/-- The operation that a queued tensor is to join: the oldest that holds the ring, where it names the tensor and has not been joined. -/
def Kl.joinable (k : Kl) : Option RingOp :=
  match k.ops.find? RingOp.holdsRing with
  | some o => if !o.handed && o.phase = .reduce && k.queued.any (fun q => q.1 = o.tid) then some o else none
  | none => none

/-! ### The local contribution (R325) -/

/-- The binding of SR_GRAD for a class: its anchor core and SRC and SEED (R326). -/
def Stream.gradBinding (st : Stream) (cls : Nat) : Option (Nat × Nat × Nat) :=
  match st.rands.find? fun r => r.consumer = 1 && r.cls = cls, st.cls cls with
  | some r, some k => ((List.range 16).find? fun g => bit k.groups g).map fun g => (36 * (g / 4) + 9 * (g % 4), r.src, r.seed)
  | _, _ => none
/-- The low half of a draw for an element (R326). -/
def srDraw (unit src seed stepc high tid i : Nat) : Nat :=
  draw64 unit src seed (stepc % 65536 * 2 ^ 48 + high % 16 * 2 ^ 44 + tid % 4096 * 2 ^ 32 + i) % 2 ^ 32

/-- The DLA of the gradient of block `b`. -/
def RingOp.gradDla (o : RingOp) (b : Nat) : Nat := descField o.desc 64 8 + 128 * b
/-- The device's contribution to block `b` of an operation; a poisoned gradient counts as NaN (R410). -/
def State.localBlock (o : RingOp) (st : Stream) (l : LayerRec) (b : Nat) (s : State) : Block × State :=
  let srg := bit (descField o.desc 0 1) 3
  let bind := st.gradBinding l.cls
  let n := l.blockLen b
  let (ms, s) := s.markedRead .hub (o.gradDla b) (4 * n)
  let w : Wide := (List.range 32).map fun j =>
    if n ≤ j then some 0
    else
      let d := match bind with
        | some (u, src, seed) => if srg then some (srDraw u src seed (descField o.desc 80 4) s.kl.rank o.tid (32 * b + j)) else none
        | none => none
      let (v, p) := markedElem 4 ms j
      if p then none else narrowGrad (BitVec.ofNat 32 v) o.gexp d
  let (u, c) := contribution o.gexp (b % 256) w
  let k := s.kl
  let s := { s with kl := { k with statPoison := satAdd k.statPoison (w.filter Option.isNone).length, statEsc := satAdd k.statEsc c.esc,
                                   statExpsat := satAdd k.statExpsat c.sat, srmiss := k.srmiss || (srg && bind.isNone) } }
  (u, if u.poison then s.modOp o.opid fun o => { o with poisonHere := true } else s)

/-! ### RDONE and the update point (R331) -/

/-- An RDONE of a rank: with all N the member has passed the update point. One that arrives before a rerun is decided is kept for it. -/
def State.gotRdone (opid rank : Nat) (poison arrays : Bool) (s : State) : State :=
  match s.op? opid with
  | none => s
  | some o =>
    if o.rerun then s.modOp opid fun o => { o with early := if o.early.any fun r => r.1 = rank then o.early else o.early ++ [(rank, poison, arrays)] }
    else
      let ds := if o.rdones.any fun r => r.1 = rank then o.rdones else o.rdones ++ [(rank, poison, arrays)]
      s.modOp opid fun o => { o with rdones := ds, updated := o.updated || decide (s.kl.n ≤ ds.length),
                                     phase := if s.kl.n ≤ ds.length ∧ o.phase = .reduce then .update else o.phase }

/-- The arrays that an optimiser uses: MASTER, STATE1 and, for AdamW, STATE2. -/
def optArrays (d : List Byte) : List Nat :=
  [descField d 8 8, descField d 16 8] ++ if bits (descField d 0 1) 1 0 = 2 then [descField d 24 8] else []
/-- What the update of blocks reads of the arrays and of the layer's mask. -/
def RingOp.arrayRanges (o : RingOp) (l : LayerRec) (bs : List Nat) : List (Nat × Nat) :=
  (bs.flatMap fun b => (optArrays o.desc).map fun a => (a + 128 * b, 4 * l.blockLen b)) ++ if l.masked then [(l.mask, ceilDiv l.nelem 8)] else []
/-- Reads ranges: whether any line of them is poisoned. -/
def State.rangesPoisoned (rs : List (Nat × Nat)) (s : State) : Bool × State :=
  rs.foldl (fun x r => let (ms, s) := x.2.markedRead .hub r.1 r.2; (x.1 || ms.any (·.2), s)) (false, s)
/-- Whether an owner holds every block of its shard and has yet to send RDONE. -/
def RingOp.rdoneDue (o : RingOp) (k : Kl) (nb : Nat) : Bool :=
  o.phase = .reduce && !o.rerun && (!o.rdones.any fun r => r.1 = k.rank) && (shardBlocks k.n nb k.rank).all fun b => o.finished.any fun f => f.1 = b

/-- An owner that has every block of its shard sends RDONE, flagged when any has POISON, and when the arrays or the mask that the update is to
read are poisoned (R410). It reads them first, and waits until it can (R24, R350). -/
def State.checkShard (opid : Nat) (l : LayerRec) (s : State) : State :=
  match s.op? opid with
  | none => s
  | some o =>
    if !o.rdoneDue s.kl l.nb then s
    else
      let rs := o.arrayRanges l (shardBlocks s.kl.n l.nb s.kl.rank)
      let wait := s.rangesUnread rs
      if wait ≠ [] then s.snoopData wait
      else if !s.works updateUnit || !s.rangesWork rs then s
      else
        let poison := o.finished.any fun f => f.2.poison
        let (arrays, s) := s.rangesPoisoned rs
        (s.sendBoth (.rdone opid s.kl.rank poison arrays)).gotRdone opid s.kl.rank poison arrays

/-! ### The adder (R327, R328, R330) -/

/-- What becomes of a block that this device has added to or started: the owner keeps it, others send it on. -/
def State.emit (opid b : Nat) (l : LayerRec) (u : Block) (s : State) : State :=
  let c := chunkOf s.kl.n l.nb b
  if c % s.kl.n = s.kl.rank then
    (s.modOp opid fun o => { o with finished := Tab.insert o.finished b u }).checkShard opid l
  else s.sendRing (chunkRing s.kl.n c) b (.red opid b u)

/-- Adds an upstream block that arrived on port `p`. -/
def State.addAt (p : Nat) (o : RingOp) (st : Stream) (l : LayerRec) (b : Nat) (u : Block) (fault : AdderFault) (s : State) : State :=
  let (mine, s) := s.localBlock o st l b
  let (v, s) := if mine.esc = 0 then (0, s) else s.draw
  let (sum, c, ok) := addBlocks v fault u mine
  let k := s.kl
  let s := { s with kl := { k with statEsc := satAdd k.statEsc c.esc, statExpsat := satAdd k.statExpsat c.sat,
                                   statReserr := if ok then k.statReserr else satInc k.statReserr } }
  let s := if ok then s else s.record 0x0053 4 (b8 p ++ b8 0 ++ leBytes 2 o.opid ++ leBytes 4 b)
  let s := if !ok ∨ c.sat ≠ 0 then s.modOp o.opid fun o => { o with poisonHere := true } else s
  s.emit o.opid b l sum

/-- Whether an operation that is not in progress here was given up, or lies behind the one that KL_OP_SEQ counts to. -/
def State.opOver (s : State) (opid : Nat) : Bool := opid ∈ s.kl.given || decide (32768 ≤ (opid + 65536 - s.kl.opSeq) % 65536)
/-- The lines that the local contribution to a block waits for, and whether it is ready: the tensor is handed over and its gradient can be
read. -/
def State.blockWait (o : RingOp) (b : Nat) (s : State) : List Nat := if o.handed then s.unread (o.gradDla b) 128 else []

/-- RED_BLOCK_RECEIVE: the block that a port delivers next: on a lap's other visit it passes unchanged; it stays in its receive buffer, which
holds back the upstream device, until the local contribution is ready and a rerun has been decided; else it is added to. A block whose operation
the member is yet to learn of stays too, or passes on; one of an operation that is over is discarded. The adder waits while it has no grant
(R24). -/
def execRedBlockReceive (p : PortId) (opid : Nat) (b : Nat) (u : Block) (fault : AdderFault) (s : State) : Res :=
  .next (match s.nextBlock p 0 opid u with
    | none => s
    | some ring =>
      let eat := fun s : State => s.modPort p (Port.consume 0)
      match s.op? opid with
      | none =>
        if s.bypassed then s
        else if !s.ringReady || s.opOver opid then eat s
        else if !s.kl.addsAt ring p then (eat s).passOn p ring b (.red opid b u)
        else s
      | some o => match s.tensor o.tid with
        | none => eat s
        | some (st, l) =>
          if !s.ringReady || o.phase = .aborted || decide (l.nb ≤ b) then eat s
          else if o.rerun then s
          else if !s.kl.addsAt ring p then (eat s).passOn p ring b (.red opid b u)
          else
            let wait := s.blockWait o b
            if !o.handed || wait ≠ [] then
              let h := (p.val, b, u)
              (s.modOp opid fun o => { o with heldUp := if h ∈ o.heldUp then o.heldUp else o.heldUp ++ [h] }).snoopData wait
            else if !s.works adderUnit || !s.hubWorks (o.gradDla b) 128 then s
            else (eat s).addAt p o st l b u fault)

/-- ADDER_LOCAL_READY: the block that a port holds back is added once the local contribution to it is ready. -/
def execAdderLocalReady (p : PortId) (b : Nat) (fault : AdderFault) (s : State) : Res :=
  .next (match s.kl.ops.find? fun o => !o.ended && o.handed && o.heldUp.any fun h => h.1 = p.val && h.2.1 = b with
    | none => s
    | some o => match o.heldUp.find? fun h => h.1 = p.val && h.2.1 = b, s.tensor o.tid with
      | some h, some (st, l) =>
        let wait := s.blockWait o b
        if wait ≠ [] then s.snoopData wait
        else if (s.nextBlock p 0 o.opid h.2.2).isNone || !s.works adderUnit || !s.hubWorks (o.gradDla b) 128 then s
        else ((s.modPort p (Port.consume 0)).modOp o.opid fun o => { o with heldUp := o.heldUp.erase h }).addAt p o st l b h.2.2 fault
      | _, _ => s)

/-! ### Handover and OPEN (R329, R331) -/

/-- The first blocks of the chunks that start here; with N = 1 every block is finished at once (R339). The ring packer waits for its grant and for
gradient lines that the host may hold modified (R24, R350). -/
def State.startChunks (opid : Nat) (s : State) : State :=
  match s.op? opid with
  | none => s
  | some o => match s.tensor o.tid with
    | none => s
    | some (st, l) =>
      let grad := descField o.desc 64 8
      let wait := s.unread grad (4 * l.nelem)
      let ready := wait = [] && s.works adderUnit && s.hubWorks grad (4 * l.nelem)
      let s := s.modOp opid fun o => { o with starts := !ready }
      if !ready then s.snoopData wait
      else
        let bs := if s.kl.n ≤ 1 then List.range l.nb else startBlocks s.kl l.nb
        (bs.foldl (fun (s : State) b => let (u, s) := s.localBlock o st l b; s.emit opid b l u) s).checkShard opid l

/-- This member's OPEN for an operation. -/
def State.ownOpen (o : RingOp) (nelem : Nat) (s : State) : OpenMsg :=
  { rank := s.kl.rank, opid := o.opid, tid := o.tid, nelem := nelem, gexp := o.gexp, updated := o.updated, absent := false }
/-- Whether a member's OPEN differs from this member's fields. -/
def openMismatch (m : OpenMsg) (o : RingOp) (nelem : Nat) : Bool :=
  m.absent || m.tid ≠ o.tid || m.nelem ≠ nelem || (o.handed && m.gexp ≠ o.gexp)

/-- Aborts one operation and tells the ring. -/
def State.abortOne (opid cause : Nat) (s : State) : State := (s.abortOps (fun o => o.opid = opid) cause).sendBoth (.abort (some opid) cause)

/-- An operation whose descriptor is bad is aborted, and its step fails (R333). -/
def State.descFail (opid : Nat) (s : State) : State := (s.failWaiting (fun o => o.opid = opid) 1).abortOne opid 5

/-- Joins an operation with a tensor handed over: reads the descriptor, sends OPEN, by which the other members know the operation, and starts
the chunks that start here; a bad descriptor then aborts the operation everywhere. A descriptor
or gradient that the host may have modified is fetched first, and the tensor stays queued. -/
def State.joinOp (opid tid step : Nat) (s : State) : State :=
  match s.tensor tid with
  | none => s
  | some (_, l) =>
    let lines := s.unread (s.descDla tid) 128
    if lines ≠ [] then s.snoopData lines
    else if !s.hubWorks (s.descDla tid) 128 then s
    else
      let ((d, g, bad), s) := s.readDesc tid l.nelem
      let wait := s.unread (descField d 64 8) (4 * l.nelem)
      if !bad && wait ≠ [] then s.snoopData wait
      else
        let s := { s with kl := { s.kl with queued := s.kl.queued.filter fun q => q.1 ≠ tid } }
        let s := s.modOp opid fun o => { o with handed := true, desc := d, gexp := g, step := step }
        match s.op? opid with
          | none => s
          | some o =>
            let mine := s.ownOpen o l.nelem
            let s := s.modOp opid fun o => { o with opens := o.opens ++ [mine] }
            let s := s.sendBoth (.opening mine)
            if bad then s.descFail opid
            else if o.opens.any fun m => openMismatch m o l.nelem then s.abortOne opid 4 else s.startChunks opid

/-- A new operation under the present membership. One of the same tensor whose write is done is forgotten. -/
def State.newOp (opid tid : Nat) (s : State) : State :=
  { s with kl := { s.kl with opSeq := (opid + 1) % 65536,
                             ops := (s.kl.ops.filter fun o => !(o.tid = tid && o.written)) ++ [{ opid := opid, tid := tid, member := (s.kl.n, s.kl.rank) }] } }

/-- Takes up what is queued, one operation at a time (R329): rank 0 opens the oldest tensor handed over; another member joins the operation that
names one of its tensors. The update engine, which reads the descriptor, waits while it has no grant (R24). -/
def State.takeQueued (s : State) : State :=
  if !s.ringReady || !s.works updateUnit then s
  else if s.kl.rank = 0 ∨ s.kl.n ≤ 1 then
    if s.kl.ops.any RingOp.holdsRing then s
    else match s.kl.queued with
      | [] => s
      | (tid, step) :: _ =>
        match s.tensor tid with
        | none => { s with kl := { s.kl with queued := s.kl.queued.drop 1 } }
        | some (_, l) =>
          let lines := s.unread (s.descDla tid) 128
          let grad := descField (s.plm.bytes (s.descDla tid) 128) 64 8
          let wait := if lines = [] then s.unread grad (4 * l.nelem) else lines
          if wait ≠ [] then s.snoopData wait
          else if !s.hubWorks (s.descDla tid) 128 then s
          else let opid := s.kl.opSeq; (s.newOp opid tid).joinOp opid tid step
  else match s.kl.joinable with
    | none => s
    | some o => match s.kl.queued.find? fun q => q.1 = o.tid with
      | some q => s.joinOp o.opid q.1 q.2
      | none => s

/-- The Train step that hands over a tensor of a layer: the oldest of its handle in flight in which the layer has closed on every die, so that its
gradient is complete (R34; DEDUCED, notes/assumptions/157.md), and which waits on no operation of the tensor. -/
def State.trainStep (tid layer : Nat) (s : State) : Option EStep :=
  s.est.steps.find? fun e => e.handle = tid / 4096 && e.cls = 2 && e.handed && e.fail = 0 && e.layerClosed layer &&
    s.kl.ops.all fun o => o.tid ≠ tid || o.step ≠ e.num

/-- TENSOR_HANDOVER: the dispatchers hand over a tensor whose gradient is complete on all dies; none is while the hub Headland is down (R28). -/
def execTensorHandover (tid : Nat) (s : State) : Res :=
  .next (match s.tensor tid with
    | none => s
    | some (_, l) =>
      if !s.hub.hubUp then s
      else match s.trainStep tid l.index with
        | none => s.takeQueued
        | some e =>
          let s := if (s.kl.queued.any fun q => q.1 = tid) || (s.kl.ops.any fun o => o.tid = tid && o.handed && !o.ended) then s
            else { s with kl := { s.kl with queued := s.kl.queued ++ [(tid, e.num)] } }
          s.takeQueued)

/-- What waited for grants goes on: chunks to be started, and queued tensors (R24). -/
def State.resumeRing (s : State) : State := ((s.kl.ops.filter fun o => o.starts && !o.ended).foldl (fun (s : State) o => s.startChunks o.opid) s).takeQueued

/-- RDONE: an owner's RDONE goes round its ring; its own ends its lap. -/
def execRdone (p : PortId) (opid : Nat) (rank : Nat) (poison arrays : Bool) (s : State) : Res :=
  .next (s.ctrlVisit p (.rdone opid rank poison arrays) fun ring s =>
    if rank = s.kl.rank || decide (s.kl.n ≤ rank) then s
    else
      let s := s.relay ring (.rdone opid rank poison arrays)
      match s.op? opid with
      | none => s
      | some o => if o.phase = .aborted || o.rdones.any (fun r => r.1 = rank) then s else (s.gotRdone opid rank poison arrays).takeQueued)

end Sys2Proof.Machine
end

