-- ==== Sys2Proof/Machine/Update.lean ====
section
/-! DEFINITION. The update engine (R333 to R339): the optimiser over a shard, parameters round the ring, PDONE, the write of a tensor's
copies, and reruns (R332). -/
-- Log entries (notes/assumptions): DESIGN CHOICE 81; DEDUCED 20, 67, 86, 87, 88, 158, 178.

namespace Sys2Proof.Machine

/-! ### Deployed values -/

/-- The levels of a slot's codebook as the stream gives them. -/
def Stream.weightLevels (st : Stream) (l : LayerRec) (q : SlotCfg) : List Int :=
  match st.cbs.find? fun x => x.cls = l.cls && x.cb = q.cbsel with | some x => x.used q.wfmt q.cbsgn | none => []
/-- The row of a layer's own copy that holds the deployed values around element `i`. -/
def LayerRec.rowDla (l : LayerRec) (q : SlotCfg) (i : Nat) : Nat := weightRow l (rowWords q l.packed) l.slicePos (i / l.depth) (i % l.depth)
/-- The rows of WEIGHTS that hold the deployed values of elements, each once, and their length. -/
def LayerRec.rowRanges (l : LayerRec) (q : SlotCfg) (es : List Nat) : List (Nat × Nat) :=
  (es.map (l.rowDla q)).eraseDups.map fun a => (a, 32 * rowWords q l.packed)
/-- The deployed value of element `i`, as its row of WEIGHTS holds it (R49, R114). -/
def LayerRec.deployedIn (l : LayerRec) (q : SlotCfg) (row : List Byte) (i : Nat) : Int :=
  heldValue q l.packed (wordsOf row) (i % l.depth % l.slicePos)

/-! ### The update of a shard (R334 to R336) -/

/-- The hyperparameters of a descriptor. -/
def hyperOf (d : List Byte) : Hyper :=
  { lr := descF32 d 32, hp1 := descF32 d 36, hp2 := descF32 d 40, eps := descF32 d 44, wd := descF32 d 48, c1 := descF32 d 52,
    c2 := descF32 d 56, gscale := descF32 d 60 }
/-- The elements of block `b` of a layer, by number. -/
def LayerRec.blockElems (l : LayerRec) (b : Nat) : List Nat := (List.range (l.blockLen b)).map (32 * b + ·)
/-- What an update of blocks reads: arrays, mask, the rows that hold the deployed values, and the descriptor. -/
def RingOp.updateRanges (o : RingOp) (st : Stream) (l : LayerRec) (bs : List Nat) (s : State) : List (Nat × Nat) :=
  o.arrayRanges l bs ++ l.rowRanges (st.layerSlot l) (bs.flatMap l.blockElems) ++ [(s.descDla o.tid, 128)]

/-- The draw of SR_UPDATE for an element: none without SRU or without a binding (R326, R335). -/
def Stream.updateDraw (st : Stream) (o : RingOp) (i : Nat) : Option Nat :=
  if bit (descField o.desc 0 1) 2 then
    (st.rands.find? fun r => r.consumer = 0).map fun r => srDraw 0xF8 r.src r.seed (descField o.desc 80 4) 0 o.tid i
  else none

/-- What the update makes of one element: its mask bit is 0; it is poisoned; a new value is not finite; or its new values (R334, R336). -/
inductive ElemOut | masked | poisoned | nonfinite | new (y : OptState)
  deriving DecidableEq, Repr
/-- The outcome of element `i`, whose reduced value is `e` (none for poison) at exponent `exp`, from its old values. -/
def elemOut (o : RingOp) (l : LayerRec) (mask : List Byte) (i : Nat) (e : Option Int) (exp : Int) (old : OptState) : ElemOut :=
  if l.masked && !maskBit l mask (i / l.depth) (i % l.depth) then .masked
  else match e with
    | none => .poisoned
    | some e => match optimise (bits (descField o.desc 0 1) 1 0 = 2) (hyperOf o.desc) e exp old with
      | none => .nonfinite
      | some y => .new y
/-- The values that an element holds afterwards: w +0 for a masked one, the old ones for one that keeps them. -/
def ElemOut.values (old : OptState) : ElemOut → OptState
  | .masked => { old with w := F32.zero }
  | .new y => y
  | _ => old
/-- The master value that is narrowed to the deployed value; none where the element keeps its own. -/
def ElemOut.deploys : ElemOut → Option W32
  | .masked => some F32.zero
  | .new y => some y.w
  | _ => none
/-- Counts an element (R334, R336). -/
def Kl.countElem (k : Kl) : ElemOut → Kl
  | .masked => k
  | .poisoned => { k with updSkipEl := satInc k.updSkipEl }
  | .nonfinite => { k with updNonfinite := satInc k.updNonfinite }
  | .new _ => { k with updElems := satInc k.updElems }

/-- Applies the optimiser to block `b` and writes its deployed values into PARAM. The arrays are read and written line by line (R340); one in
which no element changes is not written. An element that keeps its values keeps its deployed value, poisoned where its row of WEIGHTS is
(R409). The arrays were read for RDONE, which this read is part of (notes/assumptions/86.md). -/
def State.updateBlock (o : RingOp) (st : Stream) (l : LayerRec) (q : SlotCfg) (mask : List Byte) (s : State) (b : Nat) : State :=
  match Tab.get none (o.finished.map fun f => (f.1, some f.2)) b with
  | none => s
  | some u =>
    let n := l.blockLen b
    let (arrays, s) := (optArrays o.desc).foldl (fun (x : List (List (Byte × Bool)) × State) a =>
      let (ms, s) := x.2.markedRead .hub (a + 128 * b) (4 * n) true; (x.1 ++ [ms], s)) ([], s)
    let value := fun k j : Nat => BitVec.ofNat 32 (markedElem 4 (arrays.getD k []) j).1
    let old := fun j : Nat => (⟨value 0 j, value 1 j, value 2 j⟩ : OptState)
    let outs := ((blockWide u).take n).mapIdx fun j e => elemOut o l mask (32 * b + j) e u.exp (old j)
    let kept := (outs.mapIdx fun j x => (32 * b + j, x)).filter fun x => x.2.deploys.isNone
    let (rows, s) := (l.rowRanges q (kept.map (·.1))).foldl (fun (x : List (Nat × List Byte × Bool) × State) r =>
      let (bs, p, s) := x.2.devRead .hub r.1 r.2; (x.1 ++ [(r.1, bs, p)], s)) ([], s)
    let vals := outs.mapIdx fun j x => match x.deploys with
      | some w => deploy q (st.weightLevels l q) w (st.updateDraw o (32 * b + j))
      | none => (l.deployedIn q ((rows.lookup (l.rowDla q (32 * b + j))).getD ([], false)).1 (32 * b + j), false)
    let k := outs.foldl Kl.countElem s.kl
    let s := { s with kl := { k with updSat := satAdd k.updSat (vals.filter (·.2)).length } }
    let news := outs.mapIdx fun j x => x.values (old j)
    let put := fun (k : Nat) (f : OptState → W32) (changed : Bool) (s : State) =>
      if changed && decide (k < (optArrays o.desc).length) then
        s.ownWrite hubSrc ((optArrays o.desc).getD k 0 + 128 * b) (news.flatMap fun y => leBytes 4 (f y).toNat)
      else s
    let some_ := outs.any fun x => match x with | .new _ => true | _ => false
    let s := put 2 (·.s2) some_ (put 1 (·.s1) some_ (put 0 (·.w) (outs.any fun x => x.deploys.isSome) s))
    s.ownWriteMarked hubSrc (descField o.desc 72 8 + 64 * b) (vals.flatMap fun v => leBytes 2 (v.1 % 65536).toNat) (rows.any fun r => r.2.2)

/-- Writes STATUS of a descriptor. -/
def State.setStatus (tid v : Nat) (s : State) : State := s.ownWrite hubSrc (s.descDla tid + 2) (leBytes 1 v)

/-! ### Parameters and PDONE (R331, R337, R338) -/

/-- The parameter block `b` that PARAM holds. Poisoned parameters travel as poison, never as values (R409; DEDUCED, notes/assumptions/178.md). -/
def State.paramBlock (o : RingOp) (l : LayerRec) (b : Nat) (s : State) : Block × State :=
  let n := l.blockLen b
  let (ms, s) := s.markedRead .hub (descField o.desc 72 8 + 64 * b) (2 * n)
  let es := (List.range 32).map fun j => if n ≤ j then 0 else if (markedElem 2 ms j).2 then 0x8000#16 else BitVec.ofNat 16 (markedElem 2 ms j).1
  ({ exp := 0, esc := 0, poison := ms.any (·.2), res := bsResidue es, bseq := b % 256, elems := es }, s)

/-- An operation ends: STEPC rises, GEXP takes the largest candidate, and the tensor's write is held where parameters were sent (R331, R337). A rerun
of one that had ended before counts nothing again (notes/assumptions/158.md). -/
def State.endOp (o : RingOp) (cands : List Int) (s : State) : State :=
  let g := match cands with | [] => o.gexp | c :: cs => cs.foldl max c
  let d := s.descDla o.tid
  let s := if o.counted then s
    else
      let s := s.ownWrite hubSrc (d + 1) (leBytes 1 (g % 256).toNat)
      let s := s.ownWrite hubSrc (d + 80) (leBytes 4 (descField o.desc 80 4 + 1))
      { s with kl := { s.kl with statOps := satInc s.kl.statOps } }
  let held := !o.skipped && !o.written && !(o.tid ∈ s.kl.writeHeld)
  let s := s.modOp o.opid fun x => { x with ended := true, counted := true, written := o.written || o.skipped }
  { s with kl := { s.kl with writeHeld := if held then s.kl.writeHeld ++ [o.tid] else s.kl.writeHeld } }
/-- An operation that has ended here is in progress again, when a parameter block fails its check or another member reruns it (R332, R338). -/
def State.reopen (opid : Nat) (s : State) : State :=
  match s.kl.ops.find? fun o => o.opid = opid && o.ended with
  | none => s
  | some o => { s with kl := { s.kl with writeHeld := s.kl.writeHeld.erase o.tid,
                                         ops := s.kl.ops.map fun x => if x.opid = opid && x.ended then { x with ended := false } else x } }
/-- A PDONE of a rank: with all N the operation ends. -/
def State.gotPdone (opid rank : Nat) (cand : Int) (s : State) : State :=
  match s.op? opid with
  | none => s
  | some o =>
    let ds := if o.pdones.any fun r => r.1 = rank then o.pdones else o.pdones ++ [(rank, cand)]
    let s := s.modOp opid fun o => { o with pdones := ds }
    if s.kl.n ≤ ds.length then s.endOp o (ds.map (·.2)) else s

/-- Step 5 of R331: the owner sends its shard's parameters and then PDONE. -/
def State.sendParams (opid : Nat) (s : State) : State :=
  match s.op? opid with
  | none => s
  | some o => match s.tensor o.tid with
    | none => s
    | some (_, l) =>
      let n := s.kl.n
      let bs := shardBlocks n l.nb s.kl.rank
      let s := if o.skipped then s else bs.foldl (fun (s : State) b =>
        let (u, s) := s.paramBlock o l b
        let s := s.modOp opid fun o => { o with params := if b ∈ o.params then o.params else o.params ++ [b] }
        s.sendRing (chunkRing n (chunkOf n l.nb b)) b (.par opid b u)) s
      let s := s.modOp opid fun o => { o with phase := .send }
      (s.sendBoth (.pdone opid s.kl.rank o.cand)).gotPdone opid s.kl.rank o.cand

/-- The update of a shard, or its skip: by POISON of a block under TENSOR mode, and by a poisoned array of any owner whatever the mode (R336, R410). -/
def State.applyUpdate (o : RingOp) (st : Stream) (l : LayerRec) (blocks : List Nat) (s : State) : State :=
  let finished := o.finished.filter fun f => f.1 ∈ blocks
  let cand := candidate o.gexp (finished.map (·.2))
  let ring := (o.rdones.any fun r => r.2.1) && !bit (descField o.desc 0 1) 4
  let arrays := o.rdones.any fun r => r.2.2
  let mine := o.rdones.any fun r => r.1 = s.kl.rank && r.2.2
  let sru := bit (descField o.desc 0 1) 2 && !st.rands.any fun r => r.consumer = 0
  let s := s.modOp o.opid fun o => { o with applied := true, cand := cand, skipped := ring || arrays }
  if ring || arrays then
    let s := { s with kl := { s.kl with updSkip := satInc s.kl.updSkip } }
    let s := if mine || (ring && o.poisonHere) then s.record 0x0055 4 (b8 0 ++ b8 0 ++ leBytes 2 o.opid ++ leBytes 2 o.tid) else s
    s.setStatus o.tid 1
  else
    let q := st.layerSlot l
    let (mask, s) := if l.masked then s.markedRead .hub l.mask (ceilDiv l.nelem 8) true else ([], s)
    let mask := mask.map (·.1)
    let s := blocks.foldl (State.updateBlock o st l q mask) s
    let poisoned := finished.any fun f => ((blockWide f.2).mapIdx fun j e => (32 * f.1 + j, e)).any fun x =>
      x.2.isNone && decide (x.1 < l.nelem) && (!l.masked || maskBit l mask (x.1 / l.depth) (x.1 % l.depth))
    let s := { s with kl := { s.kl with srmiss := s.kl.srmiss || sru } }
    s.setStatus o.tid (if poisoned then 2 else 0)

/-- Whether an owner's RDONE is due. -/
def State.rdoneWaits (s : State) (o : RingOp) : Bool := match s.tensor o.tid with | some (_, l) => o.rdoneDue s.kl l.nb | none => false
/-- The lines of PARAM that an owner is to send, and waits for (R350). -/
def State.paramWait (o : RingOp) (l : LayerRec) (blocks : List Nat) (s : State) : List Nat :=
  s.rangesUnread (blocks.map fun b => (descField o.desc 72 8 + 64 * b, 2 * l.blockLen b))
/-- The owner sends its parameters once it can read them (R350). -/
def State.sendWhenRead (o : RingOp) (l : LayerRec) (blocks : List Nat) (s : State) : State :=
  if s.paramWait o l blocks = [] then s.sendParams o.opid else s.snoopData (s.paramWait o l blocks)

/-- UPDATE_APPLY: the oldest operation that has passed the update point, or whose RDONE is still due here: the owner applies the optimiser to its
shard once, and then sends its parameters and PDONE, and the ring takes up the next operation. Lines that the host may have modified are
fetched first, and the engine waits while it, or a unit on its way to memory, has no grant (R24, R350). -/
def execUpdateApply (s : State) : Res :=
  .next (match s.kl.ops.find? fun o => !o.ended && o.handed && (o.phase = .update || s.rdoneWaits o) with
    | none => s
    | some o => match s.tensor o.tid with
      | none => s
      | some (st, l) =>
        if o.phase ≠ .update then s.checkShard o.opid l
        else
          let blocks := shardBlocks s.kl.n l.nb s.kl.rank
          if o.applied then (s.sendWhenRead o l blocks).takeQueued
          else
            let rs := o.updateRanges st l blocks s
            let wait := s.rangesUnread rs
            if wait ≠ [] then s.snoopData wait
            else if !s.works updateUnit || !s.rangesWork rs then s
            else ((s.applyUpdate o st l blocks).sendWhenRead o l blocks).takeQueued)

/-- The operation of an OPID, ended or not, that awaits parameters. -/
def State.paramOp? (s : State) (opid : Nat) : Option RingOp := s.kl.ops.find? fun o => o.opid = opid && o.handed && o.phase ≠ .aborted

/-- PAR_BLOCK_RECEIVE: the parameter block that a port delivers next is checked, stored in PARAM, a poisoned one as
poison, and forwarded until the rank before its owner's; one that fails its check aborts the operation, one that has ended here too. -/
def execParBlockReceive (p : PortId) (opid : Nat) (b : Nat) (u : Block) (s : State) : Res :=
  .next (match s.nextBlock p 1 opid u with
    | none => s
    | some ring => if s.bypassed then s else
      let s := s.modPort p (Port.consume 1)
      match s.paramOp? opid with
      | none => s
      | some o => match s.tensor o.tid with
      | none => s
      | some (_, l) =>
        let c := chunkOf s.kl.n l.nb b
        if !s.ringReady || decide (l.nb ≤ b) then s
        else if !s.kl.addsAt ring p then s.passOn p ring b (.par opid b u)
        else if !blockSound u || u.bseq ≠ b % 256 then
          let s := { s with kl := { s.kl with statReserr := satInc s.kl.statReserr } }
          ((s.record 0x0053 4 (b8 p ++ b8 0 ++ leBytes 2 opid ++ leBytes 4 b)).reopen opid).abortOne opid 6
        else
          let s := s.ownWriteMarked hubSrc (descField o.desc 72 8 + 64 * b) ((u.elems.take (l.blockLen b)).flatMap fun e => leBytes 2 e.toNat) u.poison
          let s := { s with kl := { s.kl with ops := s.kl.ops.map fun x =>
            if x.opid = opid ∧ x.phase ≠ .aborted ∧ !(b ∈ x.params) then { x with params := x.params ++ [b] } else x } }
          if (if ring = 0 then s.kl.next else s.kl.prev) = c % s.kl.n then s else s.sendRing ring b (.par opid b u))

/-- PDONE: an owner's PDONE goes round its ring; its own ends its lap. -/
def execPdone (p : PortId) (opid : Nat) (rank : Nat) (cand : Int) (s : State) : Res :=
  .next (s.ctrlVisit p (.pdone opid rank cand) fun ring s =>
    if rank = s.kl.rank || decide (s.kl.n ≤ rank) then s
    else
      let s := s.relay ring (.pdone opid rank cand)
      match s.op? opid with
      | none => s
      | some o =>
        if o.phase = .aborted || o.pdones.any (fun r => r.1 = rank) then s
        else (s.gotPdone opid rank (max (-32) (min 31 cand))).takeQueued)

/-! ### The write of a tensor (R36, R338) -/

/-- Whether a step in flight still reads a tensor: a layer of it with the same WEIGHTS has not closed everywhere, or a core still holds a tile of
such a layer, be its step failed. -/
def State.stepReads (l : LayerRec) (s : State) : Bool :=
  (s.est.steps.any fun e => e.fail = 0 && (s.stepLayers e).any fun x => x.weights = l.weights && (!e.handed || !e.layerClosed x.index)) ||
    s.dies.any fun d => d.2.leases.any fun e => e.2.st = 1 &&
      match s.layerOf (d.2.ctr e.2.ctr).handle (d.2.ctr e.2.ctr).layer with | some x => x.weights = l.weights | none => false

/-- A row of parameter values of output channel `n` from position `k`: value 0 beyond the layer. -/
def paramRow (l : LayerRec) (ps : List Byte) (n k c : Nat) : List Int :=
  (List.range c).map fun x =>
    if n < l.nout ∧ k + x < l.depth then sext (leNat ((ps.drop (2 * (n * l.depth + k + x))).take 2)) 16 else 0
/-- The words of a dense row (R49). -/
def denseRow (q : SlotCfg) (vs : List Int) : List W256 :=
  if q.wfmt = 3 then toElements 4 4 (vs.map Int.toNat) else if q.wfmt = 4 then toElements 8 8 (vs.map Int.toNat) else toPlanes q.planesW vs
/-- The words of a packed row under R117 with the layer's mask. -/
def reefRow (l : LayerRec) (q : SlotCfg) (mask : List Byte) (n k : Nat) (vs : List Int) : List W256 :=
  let m := fun a : Nat => packFields 1 ((List.range 256).map fun x => b2n (!l.masked || maskBit l mask n (k + a + x)))
  (packRow q.bw (q.wfmt = 0) (toPlanes q.bw (vs.take 256) ++ toPlanes q.bw (vs.drop 256) ++ [m 0, m 256])).1

/-- Writes a tensor's parameters into every copy that its layer keeps; a row is poisoned where a parameter in it or the mask that packs it is. -/
def State.writeTensor (tid : Nat) (o : RingOp) (st : Stream) (l : LayerRec) (s : State) : State :=
  let q := st.layerSlot l
  let (marked, s) := s.markedRead .hub (descField o.desc 72 8) (2 * l.nelem)
  let (mask, badMask, s) := if l.masked then s.devRead .hub l.mask (ceilDiv l.nelem 8) else ([], false, s)
  let ps := marked.map (·.1)
  let bad := fun n k c : Nat => (badMask && l.packed) || ((marked.drop (2 * (n * l.depth + k))).take (2 * min c (l.depth - k))).any (·.2)
  let sl := l.slicePos
  let w := rowWords q l.packed
  let s := (List.range (256 * ceilDiv l.nout 256)).foldl (fun (s : State) n =>
    (List.range (ceilDiv l.depth sl)).foldl (fun (s : State) i =>
      let vs := paramRow l ps n (sl * i) sl
      let row := if l.packed then reefRow l q mask n (sl * i) vs else denseRow q vs
      s.ownWriteMarked hubSrc (weightRow l w sl n (sl * i)) (bytesOf row) (decide (n < l.nout) && bad n (sl * i) sl)) s) s
  let s := match st.cls l.cls with | some r => if l.wclass = 2 then s.takeCensus (tid / 4096) r.firstDie l q else s | none => s
  if l.keepsTranspose then s.writeTransposes .hub hubSrc l q (!badMask && transposable l mask) badMask else s

/-- The held write of a tensor is done. -/
def State.tensorWritten (tid : Nat) (s : State) : State :=
  { s with kl := { s.kl with writeHeld := s.kl.writeHeld.erase tid,
                             ops := s.kl.ops.map fun o => if o.tid = tid && o.ended then { o with written := true } else o } }

/-- What the write of a tensor reads: PARAM and the layer's mask. -/
def RingOp.writeRanges (o : RingOp) (l : LayerRec) : List (Nat × Nat) :=
  (descField o.desc 72 8, 2 * l.nelem) :: if l.masked then [(l.mask, ceilDiv l.nelem 8)] else []
/-- PARAM_WRITE: once the member holds every element and no step in flight reads the tensor, its parameters are written into every
copy of the layer. The engine waits while it has no grant (R24). -/
def execParamWrite (tid : Nat) (s : State) : Res :=
  .next (match s.kl.ops.find? fun o => o.tid = tid && o.ended && !o.written with
    | none => s
    | some o =>
      if !(tid ∈ s.kl.writeHeld) then s
      else match s.tensor tid with
        | none => s.tensorWritten tid
        | some (st, l) =>
          let rs := o.writeRanges l
          let wait := s.rangesUnread rs
          if !((List.range l.nb).all fun b => b ∈ o.params) || s.stepReads l || !s.works updateUnit || !s.rangesWork rs then s
          else if wait ≠ [] then s.snoopData wait
          else
            (s.writeTensor tid o st l).tensorWritten tid)

/-! ### Reruns (R332) -/

/-- When every member's OPEN of a rerun is in: with every UPDATED flag set it starts at step 5, else at step 1, with the
RDONEs of members that have begun it before (R332). -/
def State.decideRerun (opid : Nat) (s : State) : State :=
  match s.op? opid with
  | none => s
  | some o =>
    if !o.rerun || !o.handed || decide (o.opens.length < s.kl.n) then s
    else
      let s := s.modOp opid fun o => { o with rerun := false, early := [] }
      if o.opens.all OpenMsg.updated then s.modOp opid fun o => { o with phase := .update }
      else
        let s := s.modOp opid fun x => { x with finished := [], rdones := [] }
        (o.early.foldl (fun (s : State) r => s.gotRdone opid r.1 r.2.1 r.2.2) s).startChunks opid

/-- An aborted operation runs again: a member that has joined it sends OPEN with its UPDATED flag. -/
def State.rerunOp (s : State) (o : RingOp) : State :=
  match s.tensor o.tid with
  | none => s
  | some (_, l) =>
    let s := s.modOp o.opid fun o => { o with phase := .reduce, rerun := o.handed }
    if o.handed then
      let mine := s.ownOpen o l.nelem
      ((s.modOp o.opid fun o => { o with opens := o.opens ++ [mine] }).sendBoth (.opening mine)).decideRerun o.opid
    else s

/-- OPERATION_RERUN: with the ring FORMED or WRAPPED again and the membership the same, the aborted operations run again. -/
def execOperationRerun (s : State) : Res :=
  .next (if !s.ringReady then s
    else
      let again := s.kl.ops.filter fun o => !o.ended && o.phase = .aborted && o.member = (s.kl.n, s.kl.rank)
      (again.foldl State.rerunOp s).takeQueued)

/-- The operation that an OPEN names exists: it is in progress, or is new, or had ended here and another member that passed its update
point reruns it (notes/assumptions/158.md); an OPEN that has been seen changes nothing. -/
def State.openOp (m : OpenMsg) (s : State) : State :=
  if s.kl.ops.any fun o => o.opid = m.opid && !o.ended then s
  else match s.kl.ops.find? fun o => o.opid = m.opid with
    | none => s.newOp m.opid m.tid
    | some o =>
      if m ∈ o.opens || !m.updated then s
      else ((s.reopen m.opid).modOp m.opid RingOp.abort).rerunOp o

/-- RING_OPEN: a member's OPEN goes round its ring and names an operation; one that was given up is not taken up again. A member with no such
tensor answers with an OPEN marked absent; a mismatch aborts the operation. A member that has handed the tensor over joins. In a rerun
the last OPEN decides where it starts. -/
def execRingOpen (p : PortId) (m : OpenMsg) (s : State) : Res :=
  .next (s.ctrlVisit p (.opening m) fun ring s =>
    if m.rank = s.kl.rank || decide (s.kl.n ≤ m.rank) then s
    else
      let s := s.relay ring (.opening m)
      if !s.ringReady || m.opid ∈ s.kl.given then s
      else
        let s := s.openOp m
        match s.op? m.opid with
        | none => s
        | some o =>
          if o.opens.any fun x => x.rank = m.rank then s
          else
            let s := s.modOp m.opid fun o => { o with opens := o.opens ++ [m] }
            match s.tensor o.tid with
            | none =>
              let s := s.sendBoth (.opening { m with rank := s.kl.rank, updated := false, absent := true })
              s.abortOne m.opid 4
            | some (_, l) => if openMismatch m o l.nelem then s.abortOne m.opid 4 else (s.decideRerun m.opid).takeQueued)

end Sys2Proof.Machine
end

