-- ==== Sys2Proof/Machine/Ring.lean ====
section
/-! DEFINITION. Forming, dissolving and leaving the ring (R319 to R323), and the abort of its operations (R332). -/
-- Log entries (notes/assumptions): DEDUCED 80, 83, 88.

namespace Sys2Proof.Machine

/-- The rank and port that R319 requires of the partner of port `p`. -/
def Kl.partner (k : Kl) (p : Nat) : Nat × Nat := if p < 2 then (k.next, p + 2) else (k.prev, p - 2)
/-- What is wrong with a HELLO on a port: 2 ID_MISMATCH, 3 N_MISMATCH, 4 RANK_CONFLICT, 5 CABLING; 0 nothing. -/
def Kl.helloFail (k : Kl) (p : Nat) (m : HelloMsg) : Nat :=
  if m.ident ≠ k.ident then 2 else if m.n ≠ k.n then 3 else if m.rank = k.rank then 4
  else if (m.rank, m.port) ≠ k.partner p then 5 else 0

/-- Enters FORMED or WRAPPED; the operations aborted under another membership are given up, and their steps fail (R332). -/
def State.enterRing (wrap : Option Nat) (s : State) : State :=
  let k := s.kl
  let s := { s with kl := { k with st := if wrap.isSome then .wrapped else .formed, wrapRank := wrap.getD 0, members := k.n,
                                   failcode := 0, formFail := 0, given := [] } }
  let s := match wrap with | some r => s.record 0x0052 4 (b8 r) | none => s
  let gone := fun o : RingOp => !o.ended && o.phase = .aborted && o.member ≠ (k.n, k.rank)
  let s := s.failWaiting gone 2
  ({ s with kl := { s.kl with ops := s.kl.ops.filter (!gone ·) } }).takeQueued

/-- RING_FORM: formation starts: HELLO goes out on every UP port. With N = 1 the ring is FORMED at once. A device in bypass originates
nothing. -/
def execRingForm (s : State) : Res :=
  .next (if s.kl.n = 1 then s.enterRing none
    else
      let s := { s with kl := { s.kl with st := .forming, formSince := s.us, formFail := 0, formWrap := none, tokens := 0, members := 0,
                                          wrapRank := 0, failcode := 0 } }
      let s := (List.range 4).foldl (fun (s : State) p => s.modPort p fun x => { x with hello := none, farOk := false }) s
      if s.bypassed then s
      else (List.range 4).foldl (fun (s : State) p =>
        if (s.port p).st = .up then s.sendOn p ⟨if p < 2 then 0 else 1, .msg (.hello ⟨s.kl.ident, s.kl.n, s.kl.rank, p⟩)⟩ else s) s)

/-- RING_DISSOLVE: the ring returns to IDLE; from FORMING, FORMED or WRAPPED its operations are aborted, not to be rerun, and the Train
steps that wait on them fail. -/
def execRingDissolve (s : State) : Res :=
  .next (
    let live := s.kl.st = .forming ∨ s.kl.st = .formed ∨ s.kl.st = .wrapped
    let s := if live then
        (if s.kl.ops.any fun o => !o.ended then ((s.failWaiting (fun _ => true) 2).abortOps (fun _ => true) 7).sendBoth (.abort none 7) else s)
      else s
    { s with kl := { s.kl with st := .idle, members := 0, wrapRank := 0, formFail := 0, formWrap := none,
                               ops := if live then s.kl.ops.filter RingOp.ended else s.kl.ops } })

/-- RING_BYPASS: the device leaves the ring, which is then broken, or ends its bypass. -/
def execRingBypass (on : Bool) (s : State) : Res :=
  .next (if !on then { s with kl := { s.kl with bypass := false } }
    else
      let s := s.breakRing 3
      ({ s with kl := { s.kl with bypass := true, st := if s.kl.st = RingSt.forming then RingSt.broken else s.kl.st } } : State).allPorts Port.clearRx)

/-- HELLO: a HELLO that a port holds is taken, and goes no further. It is checked for identity, N, rank and port. While FORMING the first failure is kept; a FORMED or WRAPPED ring breaks on a rank it
does not expect. -/
def execHello (p : PortId) (m : HelloMsg) (s : State) : Res :=
  .next (if s.bypassed || ((s.port p).front 2).isNone then s
    else
      let f := s.kl.helloFail p m
      let s := (s.modPort p (Port.consume 2)).modPort p fun x => { x with hello := some m, farOk := decide (f = 0), farRank := m.rank % 16 }
      match s.kl.st with
      | .forming => if s.kl.formFail = 0 ∧ f ≠ 0 then { s with kl := { s.kl with formFail := f } } else s
      | .formed | .wrapped => if m.rank ≠ (s.kl.partner p).1 then s.breakRing 3 else s
      | _ => s)

/-- TOKEN: goes on round its ring, unless a check has failed here (R320); at rank 0 its lap is complete, and when both tokens have returned
FORMED goes out on both rings. -/
def execToken (p : PortId) (s : State) : Res :=
  .next (s.ctrlVisit p .token fun ring s =>
    if s.kl.st ≠ .forming ∨ s.kl.formFail ≠ 0 then s
    else if s.kl.rank ≠ 0 then s.relay ring .token
    else
      let t := s.kl.tokens ||| (1#2 <<< ring)
      let s := { s with kl := { s.kl with tokens := t } }
      if t = 3 then s.sendBoth (.formed s.kl.formWrap) else s)

/-- FORMED: goes on round its ring, and the member enters FORMED, or WRAPPED at the hop it names, unless a check has failed here (R320). -/
def execFormed (p : PortId) (wrapRank : Option Nat) (s : State) : Res :=
  .next (s.ctrlVisit p (.formed wrapRank) fun ring s =>
    if s.kl.formFail ≠ 0 ∨ s.kl.st = .idle ∨ s.kl.st = .broken then s
    else
      let s := if s.kl.rank = 0 then s else s.relay ring (.formed wrapRank)
      if s.kl.st = .forming then s.enterRing wrapRank else s)

/-- HOP_CHECK_TIMEOUT: 50 ms after FORM the missing hops are counted: this device's own by its ports, the others as `missing` names them.
With none or one rank 0 sends the TOKENs; more fail the formation. -/
def execHopCheckTimeout (missing : List Nat) (s : State) : Res :=
  .next (
    let k := s.kl
    if k.st ≠ .forming ∨ s.us < k.formSince + 50000 then s
    else
      let up := fun h : Nat => (s.port (2 * h)).st = .up || (s.port (2 * h + 1)).st = .up
      let own := (if up 0 then [] else [k.rank]) ++ (if up 1 then [] else [k.prev])
      let all := (List.range k.n).filter fun r => r ∈ own || (r ∈ missing && r ≠ k.rank && r ≠ k.prev)
      match all with
      | _ :: _ :: _ => { s with kl := { k with formFail := if k.formFail = 0 then 5 else k.formFail } }
      | _ =>
        let s := { s with kl := { k with formWrap := all.head? } }
        if k.rank = 0 ∧ k.formFail = 0 ∧ !s.bypassed then (s.sendRing 0 0 (.msg .token)).sendRing 1 0 (.msg .token) else s)

/-- FORM_TIMEOUT: a ring that is neither FORMED nor WRAPPED 100 ms after FORM enters BROKEN. -/
def execFormTimeout (s : State) : Res :=
  .next (let k := s.kl
    if k.st ≠ .forming ∨ s.us < k.formSince + 100000 then s
    else
      let f := if k.formFail = 0 then 1 else k.formFail
      (State.abortAll 3 { s with kl := { k with st := .broken, failcode := f } }).record 0x0051 4 (b8 f))

/-- RING_ABORT: the operations in progress are aborted: for a port that is down or a hop or member that is lost, all of them; for an
ABORT message, those it names. -/
def execRingAbort (cause : RingLoss) (s : State) : Res :=
  .next (match cause with
    | .port p => if (s.port p).linked || !s.ringReady then s else s.abortAll 1
    | .hop r => if s.bypassed || decide (s.kl.n ≤ r) then s else s.hopLost r
    | .member => if s.bypassed then s else s.breakRing 3
    | .abortMsg p opid c => s.ctrlVisit p (.abort opid c) fun _ s =>
      let which := fun o : RingOp => match opid with | some i => o.opid = i | none => true
      let s := match opid with | some i => if c = 6 then s.reopen i else s | none => s
      if !s.kl.ops.any fun o => !o.ended && o.phase ≠ .aborted && which o then s
      else
        let s := if c = 7 then s.failWaiting which 2 else if c = 5 then s.failWaiting which 1 else s
        (s.abortOps which c).sendBoth (.abort opid c))

end Sys2Proof.Machine
end

