-- ==== Sys2Proof/Machine/Warm.lean ====
section
/-! DEFINITION. Warm reset and what causes it (R219, R277, R323, R365, R366, R395, R396, R398). -/
-- Log entries (notes/assumptions): DESIGN CHOICE 29, 180; DEDUCED 77, 91, 92, 105, 172.

namespace Sys2Proof.Machine

/-! ### Update sessions that end early (R441, R446) -/

/-- Whether a session is open: a stage between its opening and its activation. -/
def Sec.sessionOpen (x : Sec) : Bool := x.stage = .download || x.stage = .verify || x.stage = .ready
/-- Ends the update session: the lock is released; `code` is left in SEC_UPD_STATUS. -/
def Sec.endSession (code : Nat) (x : Sec) : Sec :=
  { x with stage := .idle, holder := 0, pldm := .idle, code := code, header := [], total := 0, erasing := false, held := [], heldLast := false }
/-- A session that ends early: FW_SESSION_ABORT with its source and cause (0 cancel, 1 timeout, 2 warm reset, 3 flash error). -/
def State.abortSession (cause : Nat) (s : State) : State :=
  let h := s.sec.holder
  ({ s with sec := s.sec.endSession (if cause = 3 then 10 else s.sec.code) }).record 0x0077 4 (b8 h ++ b8 cause)

/-! ### The units (R396, R398) -/

/-- A core under warm reset: its registers and scratchpad are lost, its banks OFF. -/
def Core.warmReset (k : Core) : Core := k.dieReset
/-- A compute die under warm reset: counters, leases and DIE_ registers are lost; BW_RST_DIEd and the fence events under way stay. -/
def Die.warmReset (x : Die) : Die :=
  { isolated := x.isolated, inReset := x.inReset, inc := x.inc, rstCause := x.rstCause, rstCount := x.rstCount, pllLosses := x.pllLosses,
    hubMods := x.hubMods, headInc := x.headInc, evts := x.evts.map fun v => { v with die := v.die.forget } }
/-- The ring and its engine: the ports and the ring stay, in bypass; the rest is at its reset values (R323, R341). -/
def Kl.warmReset (k : Kl) : Kl :=
  { ports := k.ports.map fun p => (p.1, p.2.clearRx), bypass := true, n := k.n, rank := k.rank, ident := k.ident, wrapRank := k.wrapRank, members := k.members,
    failcode := k.failcode, formSince := k.formSince,
    st := if k.st = .idle then .idle else .broken }
/-- Tidemark under warm reset: TMK_ fields, the host's snapshot and the RWC latches; MRAM, the queue and bank writes stay, without the replies
to the host (R366, R405, R426). -/
def Tmk.warmReset (t : Tmk) : Tmk :=
  { t with dropped := 0, cacheUe := 0, cacheBad := t.cacheBad.filter (fun u => match u with | .map _ => true | _ => false), rdLo := 0, rdHi := 0, host := {}, pair := 0, pairCount := 0, rwc := [], writeFail := false,
           readQuiet := t.readQuiet || (t.bmc.busy && decide (t.readSrc = .host)),
           jobs := t.jobs.map fun j => { j with quiet := j.quiet || decide (sourceOf j.job = some .host) } }
/-- Breakwater under warm reset: every field that is neither a setting, BW_RST_COUNT nor BW_RST_DIEd is at its reset value; what stands for
a pin, a clock or a cause of neap or slack water stays (R401, R398; notes/assumptions/29.md). -/
def Bw.warmReset (b : Bw) : Bw :=
  { b with slackReg := false, neapReg := false, slackWarm := true, lock := 0, dsrc := 0, coreGrant := 0, uncoreGrant := 0, limit := 0, base := 0, draw := 0, tmax := 0,
           temps := [], fans := [], holdupLow := false, holdMv := 0, holdMj := 0, fanStall := false, ceilErr := false, slewMiss := false,
           tiers := [], statNeap := 0, statDip := 0, ballast := 0, statStale := 0, hbeatSeen := [], ce2Prev := [], ce2Cur := [], ce2Last := [],
           wakes := [], wakeGranted := [] }
/-- The CXL port: the snoop filter is cleared, and what waited for a back-invalidate or a grant is dropped (R366); so is Bus Master Enable, as by
the resets that cause it (PRESUMED, notes/assumptions/159.md). -/
def Cxl.warmReset (x : Cxl) : Cxl := { x with filter := [], snoops := [], waiting := [], held := [], busMaster := false }

/-- Applies a function to every core. -/
def allCores (f : Core → Core) (t : Tab Core) : Tab Core :=
  (List.range 144).foldl (fun (t : Tab Core) c => Tab.insert t c (f (Tab.get {} t c))) t

/-- Applies a function to every die. -/
def allDies (f : Die → Die) (t : Tab Die) : Tab Die :=
  (List.range 4).foldl (fun (t : Tab Die) d => Tab.insert t d (f (Tab.get {} t d))) t

/-- A warm reset begins: gates close, the package enters slack water, and cores, Headlands, dispatchers, the hub control plane and
Estuary are reset. Host requests that waited for a back-invalidate are served, unless the link is gone. -/
def State.warmReset (cause : Nat) (s : State) : State :=
  if s.bw.parked then s
  else
    let host := if cause = 4 ∨ cause = 5 then (s.cxl.waiting ++ s.cxl.held).filter fun w => w.src = 0 else []
    let s := s.breakRing 3
    let s := if s.sec.holder = 1 && s.sec.sessionOpen then { s.abortSession 2 with sec := { (s.abortSession 2).sec with code := 0, comp := 0, bytes := 0 } } else s
    let s := { s with cores := allCores Core.warmReset s.cores, dies := allDies Die.warmReset s.dies,
                      fabric := [], ldr := {}, est := {}, plm := s.plm.setIntake false 0 0, kl := s.kl.warmReset, cxl := s.cxl.warmReset,
                      tmk := s.tmk.warmReset, bw := s.bw.warmReset,
                      sec := { s.sec with cmds := s.sec.cmds.filter fun i => cmdSource i = .bmc },
                      hub := { s.hub with lock := false, lockedWrite := false, hubUp := false, warm := true, warmCause := cause, selftest := [],
                                          resetAfterFence := [], hbMissed := 0 } }
    let s := (List.range 144).foldl (fun (s : State) c => s.logicCheck c) s
    host.foldl (fun (s : State) w => s.hostServe w) s

/-- The link goes down with a hot reset or DL_Down: the decoder is uncommitted and the link is to train again (R365). -/
def State.linkLost (s : State) : State :=
  { s with cxl := { s.cxl with rate := 0, width := 0, flit := 0, mode := 0, pbr := false, cacheEn := false, memEn := false, viralEn := false,
                               committed := false, locked := false, base := 0, dec := {} } }

/-- HOT_RESET: a warm reset, and the decoder is uncommitted. -/
def execHotReset (s : State) : Res := .next ((s.warmReset 2).linkLost)
/-- DL_DOWN: counted, a warm reset, and the decoder is uncommitted. -/
def execDlDown (s : State) : Res :=
  .next (let s := (s.warmReset 3).linkLost
    { s with cxl := { s.cxl with linkDown := satInc s.cxl.linkDown } })
/-- FLR: a warm reset while CXL.mem keeps serving. -/
def execFlr (s : State) : Res := .next (s.warmReset 4)
/-- CXL_RESET: a warm reset while CXL.mem keeps serving. -/
def execCxlReset (s : State) : Res := .next (s.warmReset 5)

/-- WARM_RESET_COMPLETE: incarnations advance, gates open, the hub Headland restarts, the cause of slack water ends, and the cause is
recorded. -/
def execWarmResetComplete (s : State) : Res :=
  .next (if !s.hub.warm then s
    else
      let inc := fun n : Nat => (n + 1) % 16
      let h := s.hub
      let cores := (List.range 144).foldl (fun (t : Tab Core) c =>
        let k : Core := Tab.get {} t c
        Tab.insert t c { k with inReset := (s.die (coreDie c)).inReset, inc := inc k.inc }) s.cores
      let s : State := { s with
        cores := cores,
        dies := allDies (fun d => { d with headInc := inc d.headInc }) s.dies,
        bw := { s.bw with slackWarm := false, coreGrant := 0, coreDraw := 0, lock := s.bw.pll, dsrc := s.bw.memSrc, rstCause := h.warmCause, rstWarm := min (s.bw.rstWarm + 1) 0xFFFF },
        hub := { h with warm := false, hubUp := !h.endOfService && !s.sec.recovery, hubInc := inc h.hubInc, updInc := inc h.updInc, sorzInc := inc h.sorzInc,
                        pkgInc := inc h.pkgInc } }
      (s.watch (List.range 144)).record 0x0001 4 (b8 h.warmCause))

end Sys2Proof.Machine
end

