-- ==== Sys2Proof/Machine/Image.lean ====
section
/-! DEFINITION. Images, the boot flash and update sessions (R427 to R434, R438 to R446): the CXL firmware commands, PLDM for Firmware
Update, and the management commands UPD_STATE, UPD_CANCEL and FW_CONFIRM. -/
-- Log entries (notes/assumptions): DESIGN CHOICE 96, 107, 180; DEDUCED 104, 105, 106, 108; PRESUMED 28, 31.

namespace Sys2Proof.Machine

/-! ### Keys (R427, R428) -/

/-- ASCII bytes. -/
def ascii (t : String) : List Byte := t.toList.map fun c => BitVec.ofNat 8 c.toNat
/-- A device key: the first `n` bytes of SHAKE256 over DRK, a label and a context. -/
def deviceKey (label : String) (context : List Byte) (n : Nat) : List Byte := shake256 n (Config.deviceRootKey ++ ascii label ++ context)
/-- DevID. -/
def devIdKey : List Byte := deviceKey "DEVID" [] 57
/-- AK of a security version. -/
def attestKey (svn : Nat) : List Byte := deviceKey "ATTEST" (leBytes 4 svn) 57
/-- The keys that the ROM derives before it chooses an image: SK, which binds flash images to this device, KSK, and the public key of DevID. -/
def Sec.deriveKeys (x : Sec) : Sec :=
  { x with sk := deviceKey "SLOT" [] 32, ksk := deviceKey "KSTORE" [] 32, devIdPub := Config.ed448Public devIdKey }
/-- AK for the SVN of the image about to start, signed with that SVN by DevID; DRK and DevID are then locked until the next cold reset (R428). -/
def Sec.endorse (x : Sec) : Sec :=
  let ak := attestKey x.svn
  { x with ak := ak, endorsement := Config.ed448Sign devIdKey (Config.ed448Public ak ++ leBytes 4 x.svn) Config.endorseContext, rootLocked := true }

/-! ### The header (R430 to R432) -/

/-- Bytes `lo` to `lo + n - 1`. -/
def cut (bs : List Byte) (lo n : Nat) : List Byte := (bs.drop lo).take n
/-- Whether a range of bytes is zero. -/
def zeroed (bs : List Byte) (lo n : Nat) : Bool := (cut bs lo n).all (· = 0)
/-- Header bytes. -/
def hdrLen : Nat := 1024
/-- 24 MiB, the most bytes of an image and the bytes of a slot. -/
def slotLen : Nat := 0x1800000
/-- Component entry `k` of a header. -/
def compEntry (h : List Byte) (k : Nat) : List Byte := cut h (64 + 128 * k) 128
/-- The largest plaintext of a component (R431). -/
def compMax (k : Nat) : Nat := [0x100000, 0x200000, 0x100000, 0x200000, 0x80000].getD k 0
/-- OFFSET and LENGTH of component `k`. -/
def compSpan (h : List Byte) (k : Nat) : Nat × Nat := (hdrField (compEntry h k) 8 4, hdrField (compEntry h k) 12 4)

/-- Whether MAGIC, HFMT, NCOMP, the component IDs or a reserved field is wrong. -/
def badFormat (h : List Byte) : Bool :=
  decide (h.length < hdrLen) || cut h 0 4 ≠ [0x46, 0x56, 0x4B, 0x34] || hdrField h 4 2 ≠ 1 || hdrField h 32 4 ≠ 5 || bits (byteAt h 7) 7 4 ≠ 0 ||
    !zeroed h 36 28 || !zeroed h 765 3 || !zeroed h 939 85 ||
    (List.range 5).any fun k => let e := compEntry h k; byteAt e 0 ≠ k || byteAt e 1 ≠ 0 || !zeroed e 54 10
/-- The signing slot whose digest is that of SIGPUB and whose revoke fuse is intact (R438). -/
def Sec.signer (x : Sec) (h : List Byte) : Option Nat :=
  let d := shake256 64 (cut h 882 57)
  (List.range 4).find? fun k => Config.signingPresent.getLsbD k && !x.sigRevoked.getLsbD k && Config.signingDigest (Fin.ofNat 4 k) = d
/-- Whether SIG is wrong. -/
def badSig (h : List Byte) : Bool := !Config.ed448Verify (cut h 882 57) (h.take 704) (ascii "FAROLVEX-FW") (cut h 768 114)
/-- Whether components overlap, or lie outside TOTAL, unaligned or over their largest size (check 6 of R442). -/
def badSize (h : List Byte) : Bool :=
  let total := hdrField h 20 4
  decide (slotLen < total) || (List.range 5).any fun k =>
    let (o, n) := compSpan h k
    decide (total < o + n) || o % 4096 ≠ 0 || decide (compMax k < n) || (List.range k).any fun j =>
      let (p, m) := compSpan h j
      decide (o < p + m) && decide (p < o + n)
/-- Whether the image is incompatible (R432). -/
def badCompat (h : List Byte) : Bool :=
  decide (Config.romApi.toNat < hdrField h 18 2) || decide (Config.steppingNumber < byteAt h 6) ||
    (List.range 5).any fun i => (List.range 5).any fun j => j ≠ i && decide (hdrField (compEntry h i) 2 2 < hdrField (compEntry h j) (44 + 2 * i) 2)
/-- The checks of R442, in order: the first that fails, 1 to 7. -/
def Sec.headerCode (x : Sec) (h : List Byte) : Option Nat :=
  if badFormat h then some 1
  else if (x.signer h).isNone then some 2
  else if badSig h then some 3
  else if Config.steppingNumber < byteAt h 6 then some 4
  else if hdrField h 12 4 < x.rollback then some 5
  else if badSize h then some 6
  else if badCompat h then some 7
  else none

/-! ### Content keys and verification (R433, R437, R438) -/

/-- The content key of a header, unwrapped with ICK or SK by WRAPKIND. -/
def contentKey (sk h : List Byte) : Option (List Byte) :=
  Config.aesGcmOpen (if byteAt h 764 = 0 then Config.imageClassKey else sk) (cut h 704 12) (cut h 716 32) (cut h 748 16)
/-- The header as it is stored: the content key of a shipped image wrapped again under SK with a fresh IV (R433). -/
def rewrap (sk iv h : List Byte) : List Byte :=
  if byteAt h 764 ≠ 0 then h
  else match contentKey sk h with
    | none => h
    | some k => h.take 704 ++ iv ++ fitBytes 48 (Config.aesGcmSeal sk iv k) ++ b8 1 ++ h.drop 765
/-- Whether component `k` of an image opens under its tag and matches its digest. -/
def compOk (img key : List Byte) (k : Nat) : Bool :=
  let e := compEntry img k
  let (o, n) := compSpan img k
  match Config.aesGcmOpen key (cut e 16 12) (cut img o n) (cut e 28 16) with
  | some p => decide (shake256 64 p = cut e 64 64)
  | none => false
/-- verify() of R437: none when the image passes; otherwise the component that failed, where one did. -/
def Sec.verify (x : Sec) (slot : Nat) : Option (Option Nat) :=
  let img := x.flash slot
  if badFormat img || (x.signer img).isNone || badSig img || badCompat img || decide (hdrField img 12 4 < x.rollback) then some none
  else match contentKey x.sk img with
    | none => some none
    | some key => match (List.range 5).find? fun k => !compOk img key k with
      | some k => some (some k)
      | none => none

/-! ### Sessions (R439, R441, R442) -/

/-- Whether no session may open: a trial is pending or running, or an activation awaits its cold reset (R441). -/
def Sec.noSession (x : Sec) : Bool := x.trial ≠ 0xFF || x.trialRun || x.stage = .pending
/-- Opens a session on a slot. -/
def Sec.openSession (holder slot : Nat) (x : Sec) : Sec :=
  { x with stage := .download, holder := holder, code := 0, comp := 0, bytes := 0, target := slot, header := [], total := 0 }
/-- The header is refused: the session ends, and the refusal is recorded. -/
def State.rejectHeader (code : Nat) (s : State) : State :=
  let h := s.sec.holder
  ({ s with sec := s.sec.endSession code }).record 0x0071 4 (b8 h ++ b8 code)
/-- A slot's flash with `data` after what it holds; nothing lies beyond the slot. -/
def Sec.append (data : List Byte) (x : Sec) : Sec := x.setFlash x.target ((x.flash x.target ++ data).take slotLen)
/-- A PLDM request that the K4 sends (R439). -/
def State.askBmc (r : PldmReq) (s : State) : State := { s with out := { s.out with pldmReq := s.out.pldmReq ++ [r] } }
/-- A stage of the BMC's session is over: the BMC is told. -/
def State.tellBmc (holder : Nat) (r : PldmReq) (s : State) : State := if holder = 2 then s.askBmc r else s
/-- The header has arrived: it is checked, and when it passes the bank write that makes the slot INVALID is queued; the slot is erased once that has
committed (R442 steps 1 and 2). -/
def State.acceptHeader (s : State) : State :=
  match s.sec.headerCode s.sec.header with
  | some code => s.rejectHeader code
  | none =>
    let x := s.sec
    let s := ({ s with sec := { x with total := hdrField x.header 20 4, erasing := true } }).record 0x0070 4
      (b8 x.holder ++ leBytes 3 0 ++ leBytes 4 (hdrField x.header 8 4))
    s.queueJob .erase
/-- Image data goes into the erased slot; with the last, the rewrapped header is written, and the slot is verified (R442 steps 3 and 4, R443). -/
def State.writeData (data : List Byte) (last : Bool) (s : State) : State :=
  let s := { s with sec := s.sec.append data }
  if !last then s
  else
    let (v, s) := s.draw
    let x := s.sec
    ({ s with sec := { x.setFlash x.target (rewrap x.sk (leBytes 12 v) x.header ++ (x.flash x.target).drop hdrLen) with
                       stage := .verify, pldm := if x.holder = 2 then .verify else x.pldm } }).tellBmc x.holder (.transferComplete 0)
/-- Data arrives in an open download: an offset that does not continue it is refused with SEQUENCE; the header is checked first, and data is
written as it arrives, or held while its slot waits for the erase (R442). -/
def State.receive (offset : Nat) (data : List Byte) (last : Bool) (s : State) : State :=
  if offset ≠ s.sec.bytes then
    let (v, s) := s.draw
    let h := s.sec.holder
    ({ s with sec := s.sec.endSession 9 }).record 0x0077 4 (b8 h ++ b8 v)
  else
    let x := s.sec
    let need := hdrLen - x.header.length
    let s := { s with sec := { x with bytes := satAdd x.bytes data.length, lastTraffic := s.us, header := x.header ++ data.take need } }
    let whole := s.sec.header.length = hdrLen
    let s := if whole ∧ need ≠ 0 then s.acceptHeader else s
    if s.sec.stage ≠ .download then s
    else if !whole then (if last then s.rejectHeader 1 else s)
    else if s.sec.erasing then { s with sec := { s.sec with held := s.sec.held ++ data.drop need, heldLast := last } }
    else s.writeData (data.drop need) last

/-! ### The host's path: CXL firmware commands (R439) -/

/-- A command refused for a reason whose CXL return code the manual does not name: the code is free, and the reply holds
the code of R442 or the status of R449. -/
def State.rcOpen (st : Nat) (s : State) : State := let (v, s) := s.draw; s.hostDone v (b8 st)

/-- GET_FW_INFO: two slots, the running and the staged one, and the VERSION of each. -/
def execGetFwInfo (s : State) : Res :=
  .next (s.mailbox true fun s =>
    let x := s.sec
    let running := if x.recovery then 0 else x.running + 1
    let staged := if x.stage = .pending then x.trial + 1 else 0
    s.rc .success (b8 2 ++ b8 (running + 8 * staged) ++ leBytes 4 (hdrField x.flash0 8 4) ++ leBytes 4 (hdrField x.flash1 8 4)))

/-- TRANSFER_FW: image data from the host to CXL slot 1 or 2; the first opens the session. -/
def execTransferFw (slot : Nat) (offset : Nat) (data : List Byte) (last : Bool) (s : State) : Res :=
  .next (s.mailbox true fun s =>
    let x := s.sec
    if slot = 0 ∨ 2 < slot ∨ slot = x.active + 1 ∨ slot = x.trial + 1 then s.rc .invalidSlot []
    else if x.holder = 2 then s.rc .busy []
    else if x.holder = 0 ∧ x.noSession then s.rcOpen 4
    else if x.holder = 1 ∧ x.stage ≠ .download then s.rcOpen 4
    else if x.holder = 1 ∧ x.target + 1 ≠ slot then s.rc .invalidSlot []
    else
      let s := if x.holder = 0 then { s with sec := x.openSession 1 (slot - 1) } else s
      let s := s.receive offset data last
      if s.sec.holder = 1 then s.rc .success [] else s.rcOpen s.sec.code)

/-- Activates the verified slot: one bank write with TRIAL and two attempts (R444). -/
def State.activate (s : State) : State := s.queueJob (.activate s.sec.target)

/-- ACTIVATE_FW: accepted only with the action "on next cold reset", for the verified slot. -/
def execActivateFw (slot : Nat) (onNextColdReset : Bool) (s : State) : Res :=
  .next (s.mailbox true fun s =>
    let x := s.sec
    if !onNextColdReset then s.rc .invalidInput []
    else if x.holder = 2 then s.rc .busy []
    else if x.holder ≠ 1 ∨ x.stage ≠ .ready then s.rcOpen 4
    else if x.target + 1 ≠ slot then s.rc .invalidSlot []
    else s.activate.rc .success [])

/-! ### Verification and the ends of a session (R441, R443) -/

/-- IMAGE_VERIFY_DONE: the slot read back from flash passes verify() or not; a flash error ends the session. -/
def execImageVerifyDone (flashError : Bool) (s : State) : Res :=
  .next (if s.sec.stage ≠ .verify ∨ !s.hub.mgmtUp ∨ s.bw.pfail then s
    else if flashError then (s.abortSession 3).tellBmc s.sec.holder (.verifyComplete 10)
    else
      let slot := s.sec.target
      match s.sec.verify slot with
      | none =>
        let x := s.sec.setSlotSt slot 2
        let s := (s.tellBmc x.holder (.verifyComplete 0)).tellBmc x.holder (.applyComplete 0)
        ({ s with sec := { x with stage := .ready, pldm := if x.holder = 2 then .apply else x.pldm } }).queueJob .boot
      | some c =>
        let (v, s) := s.draw
        let comp := c.getD (v % 8)
        (({ s with sec := { s.sec.endSession 8 with comp := comp } }).record 0x0072 4 (b8 slot ++ b8 comp)).tellBmc s.sec.holder (.verifyComplete 8))

/-- UPDATE_SESSION_TIMEOUT: 60 s without session traffic release the lock. -/
def execUpdateSessionTimeout (s : State) : Res :=
  .next (if s.sec.sessionOpen && decide (s.sec.lastTraffic + 60000000 ≤ s.us) then s.abortSession 1 else s)

/-! ### Management commands (R445, R448) -/

/-- SEC_UPD_STATUS (R453). -/
def Sec.updStatus (x : Sec) : Nat :=
  (match x.stage with | .idle => 0 | .download => 1 | .verify => 2 | .ready => 3 | .pending => 4) + 8 * x.holder + 32 * x.comp + 256 * x.code
/-- SEC_SLOT (R453). -/
def State.slotReg (s : State) : Nat :=
  let x := s.sec
  x.active + 2 * x.running + 4 * b2n x.trialRun + 8 * b2n (x.stage = .pending) + 16 * x.slotst0 + 64 * x.slotst1 + 256 * x.attempts + 1024 * x.mode +
    4096 * s.hub.bootsrc

/-- UPD_STATE: SEC_UPD_STATUS, SEC_SLOT and the holder. -/
def execUpdState (src : Source) (s : State) : Res :=
  .next (s.cmd (.updState src) src 0xC000 [.host, .bmc] true fun s =>
    s.answerCmd src 0xC000 .success (leBytes 4 s.sec.updStatus ++ leBytes 4 s.slotReg ++ b8 s.sec.holder))

/-- UPD_CANCEL: the holder ends the session; the other source is answered BUSY. -/
def execUpdCancel (src : Source) (s : State) : Res :=
  .next (s.cmd (.updCancel src) src 0xC001 [.host, .bmc] false fun s =>
    if !s.sec.sessionOpen then s.answerCmd src 0xC001 .state []
    else if s.sec.holder ≠ holderNum src then s.answerCmd src 0xC001 .busy []
    else (s.abortSession 0).answerCmd src 0xC001 .success [])

/-- FW_CONFIRM: while a trial slot runs, the bank write that makes it ACTIVE; the reply follows it (R445). In RECOVERY it confirms the slot that
awaits its trial, which starts at the next cold reset (R440; notes/assumptions/180.md). -/
def execFwConfirm (src : Source) (s : State) : Res :=
  .next (s.cmd (.fwConfirm src) src 0xC002 [.host, .bmc] true fun s =>
    let may := s.sec.trialRun || (s.sec.recovery && s.sec.trial ≠ 0xFF)
    if !may || s.bw.pfail then s.answerCmd src 0xC002 .state [] else s.queueJob (.confirm src))

/-! ### The BMC's path: PLDM for Firmware Update (R439, R441; notes/assumptions/31.md) -/

/-- A PLDM request is answered with a completion code and data. -/
def State.pldm (code : Nat) (data : List Byte) (s : State) : State := { s with out := { s.out with pldm := b8 code ++ data } }
/-- A PLDM firmware update request, served while the sideband answers (R466). -/
def State.fromBmc (go : State → State) (s : State) : State := if s.hub.mgmtUp then go s else s
/-- A request that expects the BMC's session to stand in a state. -/
def State.pldmIn (at_ : PldmSt) (go : State → State) (s : State) : State :=
  s.fromBmc fun s =>
    if s.sec.holder ≠ 2 then s.pldm 0x80 []
    else if s.sec.pldm ≠ at_ then s.pldm 0x84 []
    else go { s with sec := { s.sec with lastTraffic := s.us } }

/-- REQUEST_UPDATE: the BMC opens a session on the slot that is not active. -/
def execRequestUpdate (s : State) : Res :=
  .next (s.fromBmc fun s =>
    if s.sec.holder ≠ 0 then s.pldm 0x81 []
    else if s.sec.noSession ∨ s.bw.pfail then s.pldm 4 []
    else ({ s with sec := { s.sec.openSession 2 (1 - s.sec.active) with pldm := .learn, lastTraffic := s.us } }).pldm 0 [])
/-- PASS_COMPONENT_TABLE: the one component, of Ahnilo's vendor classification, is accepted; any other is not supported. The classification stands at
bytes 1 and 2 (PRESUMED, notes/assumptions/31.md). -/
def execPassComponentTable (data : List Byte) (s : State) : Res :=
  .next (s.pldmIn .learn fun s =>
    if cut data 1 2 = leBytes 2 Config.pldmClass.toNat then ({ s with sec := { s.sec with pldm := .readyXfer } }).pldm 0 (b8 0 ++ b8 0)
    else s.pldm 0 (b8 1 ++ b8 6))
/-- The most bytes of a piece (R439). -/
def pieceLen : Nat := 4096
/-- The K4 asks for the next piece of the image. -/
def State.askPiece (s : State) : State :=
  let x := s.sec
  s.askBmc (.requestFirmwareData x.bytes (if x.total = 0 then pieceLen else min pieceLen (x.total - x.bytes)))
/-- UPDATE_COMPONENT: the K4 then requests the image's data. -/
def execUpdateComponent (s : State) : Res :=
  .next (s.pldmIn .readyXfer fun s => (({ s with sec := { s.sec with pldm := .download } }).pldm 0 []).askPiece)
/-- FIRMWARE_DATA_RECEIVED: a piece of up to 4,096 bytes that the K4 asked for; it asks for the next, or ends the transfer. -/
def execFirmwareDataReceived (offset : Nat) (data : List Byte) (last : Bool) (s : State) : Res :=
  .next (s.fromBmc fun s =>
    if s.sec.holder ≠ 2 ∨ s.sec.pldm ≠ .download ∨ pieceLen < data.length ∨ s.bw.pfail then s
    else
      let s := s.receive offset data last
      if s.sec.holder ≠ 2 then s.askBmc (.transferComplete s.sec.code) else if last then s else s.askPiece)
/-- ACTIVATE_FIRMWARE: activates the verified image for the next cold reset; self-contained activation is refused, and after a power failure the
answer is STATE (R424). -/
def execActivateFirmware (selfContained : Bool) (s : State) : Res :=
  .next (s.pldmIn .apply fun s =>
    if selfContained then s.pldm 0x8C []
    else if s.bw.pfail then s.pldm 4 []
    else if s.sec.stage ≠ .ready then s.pldm 0x85 []
    else ({ s with sec := { s.sec with pldm := .activate } }).activate.pldm 0 [])
/-- Where a PLDM session stands, as a number. -/
def pldmNum : PldmSt → Nat
  | .idle => 0 | .learn => 1 | .readyXfer => 2 | .download => 3 | .verify => 4 | .apply => 5 | .activate => 6
/-- PLDM_GET_STATUS. -/
def execPldmGetStatus (s : State) : Res :=
  .next (s.fromBmc fun s => s.pldm 0 (b8 (pldmNum s.sec.pldm) ++ leBytes 4 s.sec.updStatus ++ leBytes 4 s.sec.bytes))
/-- CANCEL_UPDATE: the BMC ends its session. -/
def execCancelUpdate (s : State) : Res :=
  .next (s.fromBmc fun s => if s.sec.holder = 2 ∧ s.sec.sessionOpen then (s.abortSession 0).pldm 0 [] else s.pldm 0x80 [])

end Sys2Proof.Machine
end

