-- ==== Sys2Proof/Machine/BankWrite.lean ====
section
/-! DEFINITION. A bank write that reaches its commit point, and what it brings into force (R423, R424, R442, R444, R445, R447, R450). -/
-- Log entries (notes/assumptions): DESIGN CHOICE 180; DEDUCED 104, 109.

namespace Sys2Proof.Machine

/-- The revoke fuses that a confirmed image names are blown, its own signer's aside (R438, R445). -/
def State.blowFuses (s : State) : State :=
  (List.range 4).foldl (fun (s : State) k =>
    if bit s.sec.revokeHdr k && !s.sec.sigRevoked.getLsbD k then
      ({ s with sec := { s.sec with sigRevoked := s.sec.sigRevoked ||| (1#4 <<< k) } }).record 0x007A 4
        ((Config.signingDigest (Fin.ofNat 4 k)).take 8 ++ b8 1)
    else s) s
/-- SEC_ROLLBACK rises to the running SVN if it is below it (R445). -/
def State.raiseRollback (s : State) : State :=
  if s.sec.rollback < s.sec.svn then
    ({ s with sec := { s.sec with rollback := s.sec.svn } }).record 0x0078 4 (leBytes 4 s.sec.rollback ++ leBytes 4 s.sec.svn)
  else s
/-- The running image rewrites settings of another FORMAT: defaults in its own (R447). -/
def State.reformat (s : State) : State :=
  if s.otherFormat then
    let s := ({ s with tmk := { s.tmk with defaulted := true } }).record 0x0060 4 (b8 1)
    (s.applyAll []).queueJob .format
  else s

/-- What a bank write that passed its read-back brings into force. In RECOVERY no image runs: a confirmed one starts at the next cold reset, and neither
the rollback counter nor the fuses move (R440, DESIGN CHOICE, notes/assumptions/180.md). -/
def State.jobDone (job : BankJob) (s : State) : State :=
  match job with
  | .setting _ id v => ({ s with tmk := { s.tmk with inForce := putItem id v s.tmk.inForce } }).applySetting id v
  | .factory src =>
    let s := s.applyAll []
    ({ s with sec := s.sec.retag (s.sec.keys.filter fun k => k.revoked) }).record 0x007B 4 (b8 (holderNum src))
  | .activate slot =>
    ({ s with sec := { s.sec with trial := slot, attempts := 2, stage := .pending, holder := 0, pldm := .idle, header := [] } }).record 0x0073 4
      (b8 slot ++ leBytes 3 0 ++ leBytes 4 (hdrField (s.sec.flash slot) 8 4))
  | .confirm _ =>
    let slot := s.sec.trial
    let x := { s.sec with active := slot, trial := 0xFF, attempts := 0, trialRun := false }
    if s.sec.recovery then
      ({ s with sec := { x with stage := if x.stage = Stage.pending then .idle else x.stage } }).record 0x0075 4
        (b8 slot ++ leBytes 3 0 ++ leBytes 4 (hdrField (x.flash slot) 12 4))
    else
      let s := ({ s with sec := x }).record 0x0075 4 (b8 slot ++ leBytes 3 0 ++ leBytes 4 s.sec.svn)
      ((s.raiseRollback).blowFuses).reformat
  | .erase =>
    let x := s.sec.setSlotSt s.sec.target 1
    if x.erasing then
      ({ s with sec := { x.setFlash x.target (List.replicate hdrLen 0xFF) with erasing := false, held := [], heldLast := false } }).writeData x.held x.heldLast
    else { s with sec := x }
  | .format => s
  | .boot => s
  | .romBoot => s

/-- The write in progress reaches its commit point, which TMK_SET_WRITES counts (R426), and is read back. A good read-back selects its bank and brings the
change into force; a bad one repeats the write once, and then leaves the selected bank as it was (R423, R424); a download whose slot could not be
marked INVALID ends (DESIGN CHOICE, notes/assumptions/180.md). -/
def State.bankWrite (readBackOk : Bool) (s : State) : State :=
  match s.tmk.jobs with
  | [] => s
  | j :: rest =>
    let t := s.tmk
    let isB := t.target
    let old := t.bank isB
    let b : SetBank := { old.written j.format t.nextSeq j.payload with bad := !readBackOk }
    let s := { s with tmk := { t.setBank isB b with writes := satInc t.writes } }
    if readBackOk && !old.stuck then
      let s := { s with tmk := { s.tmk with selB := isB, anySel := true, jobs := rest } }
      let s := (s.record 0x0061 4 (b8 (b2n isB) ++ leBytes 3 0 ++ leBytes 4 b.seq.toNat)).jobDone j.job
      (s.answerJob j .success).startJob
    else if !j.repeated then { s with tmk := { s.tmk with jobs := { j with repeated := true } :: rest } }
    else
      let s := { s with tmk := { s.tmk with writeFail := true, jobs := rest } }
      let s := (s.record 0x0062 4 (b8 (b2n isB))).answerJob j .writeFail
      (if j.job = .erase && s.sec.erasing then s.abortSession 3 else s).startJob

end Sys2Proof.Machine
end

