-- ==== Sys2Proof/Machine/Power.lean ====
section
/-! DEFINITION. Breakwater's power states, supply pins, temperatures, fans, hold-up and clocks (R369, R372, R383 to R393, R461 to R464). -/
-- Log entries (notes/assumptions): DESIGN CHOICE 126, 171; DEDUCED 92, 97, 111, 116, 121, 125.

namespace Sys2Proof.Machine

/-! ### Package states (R383) -/

/-- The package state: slack water before neap. -/
def Bw.state (b : Bw) : PkgSt :=
  if b.slackReg || b.slack105 || b.slackWarm then .slackWater else if b.warnNeap || b.neapReg then .neap else .spring
/-- A change of what the state depends on; an entry into neap is counted. -/
def State.pkg (f : Bw → Bw) (s : State) : State :=
  let b := f s.bw
  { s with bw := if s.bw.state ≠ .neap ∧ b.state = .neap then { b with statNeap := satInc b.statNeap } else b }
/-- Writes BW_CTRL.SLACK. -/
def State.setSlack (on : Bool) (s : State) : State := s.pkg fun b => { b with slackReg := on }
/-- Writes BW_CTRL.NEAP. -/
def State.setNeap (on : Bool) (s : State) : State := s.pkg fun b => { b with neapReg := on }

/-- BW_CTRL_SLACK_WRITE. -/
def execBwCtrlSlackWrite (on : Bool) (s : State) : Res := .next (s.setSlack on)
/-- BW_CTRL_NEAP_WRITE. -/
def execBwCtrlNeapWrite (on : Bool) (s : State) : Res := .next (s.setNeap on)
/-- SLACK: as BW_CTRL.SLACK, by command. -/
def execSlack (src : Source) (enter : Bool) (s : State) : Res :=
  .next (s.cmd (.slack src enter) src 0xC020 [.host, .bmc] false fun s => (s.setSlack enter).answerCmd src 0xC020 .success [])
/-- NEAP: as BW_CTRL.NEAP, by command. -/
def execNeap (src : Source) (enter : Bool) (s : State) : Res :=
  .next (s.cmd (.neap src enter) src 0xC021 [.host, .bmc] false fun s => (s.setNeap enter).answerCmd src 0xC021 .success [])

/-! ### Supply warning (R385) -/

/-- Cores whose energy account is negative freeze until it is positive (R385 step 3). -/
def State.freezeDebt (s : State) : State :=
  { s with cores := s.cores.map fun k => (k.1, if k.2.account < 0 then { k.2 with pfreeze := true } else k.2) }
/-- Two low samples of PWR_WARN_N: neap, with the fall limit set aside. -/
def State.warnLow (s : State) : State :=
  if s.bw.warnNeap then { s with bw := { s.bw with warn := true } }
  else (s.pkg fun b => { b with warn := true, warnNeap := true, neapSince := s.us }).freezeDebt

/-- PWR_WARN_ASSERT. A parked package does not return to neap. -/
def execPwrWarnAssert (s : State) : Res :=
  .next (if !s.hub.mgmtUp || s.bw.parked then { s with bw := { s.bw with warn := true } } else s.warnLow)
/-- PWR_WARN_DEASSERT: the 100 µs start. -/
def execPwrWarnDeassert (s : State) : Res := .next { s with bw := { s.bw with warn := false, warnHighSince := s.us } }
/-- NEAP_EXIT: after 100 µs high without a break, the warning's neap ends, and DIP gives the time in it. -/
def execNeapExit (s : State) : Res :=
  .next (if s.bw.warnNeap && !s.bw.warn && !s.bw.parked && decide (s.bw.warnHighSince + 100 ≤ s.us) then
      (s.pkg fun b => { b with warnNeap := false, statDip := satInc b.statDip }).record 0x0012 4 (leBytes 4 (min (s.us - s.bw.neapSince) max32))
    else s)

/-! ### Power failure (R386, R387, R424) -/

/-- Bank writes not yet committed are abandoned: the BMC's commands are answered STATE, the host's not at all (R424). -/
def State.abandonJobs (s : State) : State :=
  s.tmk.jobs.foldl (fun (s : State) j => match sourceOf j.job with
    | some .bmc => s.answerJob j .state
    | _ => s) { s with tmk := { s.tmk with jobs := [] } }
/-- The CXL link stops, and what hangs on it goes. -/
def Cxl.stop (x : Cxl) : Cxl :=
  { x with rate := 0, width := 0, flit := 0, mode := 0, pbr := false, cacheEn := false, memEn := false, busMaster := false, viralEn := false, committed := false,
           locked := false, base := 0, dec := {}, filter := [], snoops := [], waiting := [], held := [] }
/-- A core switched off: all its content is lost (R372). -/
def Core.powerOff (k : Core) : Core := { inReset := true, gated := true, logicOff := true, inc := k.inc }
/-- A die whose domains but management are off. -/
def Die.powerOff (x : Die) : Die :=
  { isolated := x.isolated, inReset := true, inc := x.inc, rstCause := x.rstCause, rstCount := x.rstCount, pllLosses := x.pllLosses, hubMods := x.hubMods,
    headInc := x.headInc }
/-- A Korpor port that stops transmitting. -/
def Port.stop (x : Port) : Port :=
  if x.st = .disabled then x else { x with st := .down, width := 0, gen := false, farOk := false, txq := [], replayBuf := [], rx := [], credDue := [0, 0, 0] }
/-- The package parks: grants are refused, links stop, and every domain but those of the management plane is off. -/
def State.park (s : State) : State :=
  { s with
    bw := { s.bw with pfail := true, parked := true, pfailUs := s.us, coreGrant := 0, uncoreGrant := 0, coreDraw := 0, uncoreDraw := 0, tiers := [], wakes := [], wakeGranted := [],
                      grants := s.bw.grants.map fun g => (g.1, { g.2 with grant := 0, floor := 0, floorNow := 0, answer := 3, reason := 8, inForce := 0 }) },
    cores := allCores Core.powerOff s.cores, fabric := [], dies := allDies Die.powerOff s.dies,
    plm := { s.plm with chans := s.plm.chans.map fun x => (x.1, { x.2 with selfRefresh := true }) },
    kl := { s.kl with ports := s.kl.ports.map fun p => (p.1, p.2.stop) }, cxl := s.cxl.stop, est := {}, ldr := {},
    hub := { s.hub with hubUp := false, warm := false, selftest := [], resetAfterFence := [] } }
/-- Power failure: abandoned writes, POWER_FAIL at the head of the queue with the energy drawn so far, and parking. -/
def State.powerFail (uj : Nat) (s : State) : State :=
  if s.bw.parked then s
  else
    let abandoned := s.tmk.jobs.any (·.started)
    let s := s.abandonJobs
    let e := s.entry 0x0010 4 (leBytes 4 (min uj max32) ++ b8 0 ++ b8 (b2n abandoned))
    ({ s with tmk := { s.tmk with queue := e :: s.tmk.queue } }).park

/-- POWER_RETURN: PWR_FAIL_N returns high while parked. -/
def execPowerReturn (s : State) : Res :=
  .next (if s.bw.parked && !s.bw.failHigh then ((({ s with bw := { s.bw with failHigh := true } }).record 0x0011 4 []).alert 2) else s)

/-! ### Clocks (R369) -/

/-- A die's losses of PLL lock in the last second, one now included. -/
def State.pllRecent (d : Nat) (s : State) : List Nat := (s.us :: (s.die d).pllLosses).filter fun t => s.us < t + 1000000
/-- PLL_UNLOCK: dies 0 to 3 enter die reset, and are isolated after three losses within 1 s; loss of the hub's PLL ends service as a
failure of the hub die does (R359). -/
def execPllUnlock (d : Fin 5) (s : State) : Res :=
  .next (if !s.hub.mgmtUp || s.bw.parked then s
    else
      let k : Nat := d
      let s := ({ s with bw := { s.bw with lock := s.bw.lock &&& ~~~(1#5 <<< k), pll := s.bw.pll &&& ~~~(1#5 <<< k), fallFree := true } }).record 0x0017 4 (b8 k)
      if k = 4 then
        let s := { s with hub := { s.hub with endOfService := true, hubUp := false } }
        if s.cxl.viralEn then { s with cxl := { s.cxl with viral := true } } else ({ s with cxl := { s.cxl with aerInternal := true } }).msi 2
      else if (s.die k).isolated then s
      else
        let recent := s.pllRecent k
        let s := s.modDie k fun x => { x with pllLosses := recent }
        if 3 ≤ recent.length then s.isolate k else s.dieReset k 2)

/-! ### Temperatures (R389, R390, R464) -/

/-- The hottest of several readings: Tmax and its sensor. -/
def hottest (ts : List TempReading) : Option TempReading :=
  ts.foldl (fun (b : Option TempReading) r => match b with | none => some r | some q => if q.temp < r.temp then some r else b) none
/-- The thermal factor as a fraction (R389). -/
def thermalFactor (target : Nat) (t : Int) : Nat × Nat :=
  if t ≤ target then (1, 1)
  else if 100 ≤ t then (1, 4)
  else (4 * (100 - target) - 3 * (t - target).toNat, 4 * (100 - target))
/-- A temperature byte. -/
def tempByte (t : Int) : List Byte := [BitVec.ofInt 8 t]

/-- THERMAL_UPDATE: the readings of every die; fT; slack water at 105 °C, recorded, and its end below 97 °C. -/
def execThermalUpdate (temps : List TempReading) (s : State) : Res :=
  .next (match hottest temps with
    | none => s
    | some m =>
      if !s.hub.mgmtUp then s
      else
        let s := { s with bw := { s.bw with tmax := m.temp, fT := thermalFactor s.bw.target m.temp,
                                            temps := temps.foldl (fun (t : Tab (Option Int)) r => Tab.insert t r.die (some r.temp)) s.bw.temps } }
        if 105 ≤ m.temp ∧ !s.bw.slack105 then
          (s.pkg fun b => { b with slack105 := true }).record 0x0014 (min m.die 4) (tempByte m.temp ++ b8 m.sensor)
        else if m.temp < 97 then s.pkg fun b => { b with slack105 := false }
        else s)

/-- THERMTRIP: a sensor reaches 115 °C: the comparator asserts THERMTRIP_N until cold reset, and Tidemark records it if it runs. -/
def execThermtrip (temp : Int) (die : Fin 5) (s : State) : Res :=
  .next (if temp < 115 ∨ s.bw.thermtrip ∨ s.hub.perst then s
    else
      let s := { s with bw := { s.bw with thermtrip := true, fallFree := true } }
      if s.hub.mgmtUp then s.record 0x0015 die (tempByte temp) else s)

/-! ### Budget limits kept between epochs (R376, R388, R392) -/

/-- S of R376 in 1/32 W. -/
def Bw.spring (b : Bw) : Nat := 32 * b.ceil - b.base
/-- A as it stands, before a fan's stall (R392). -/
def Bw.acousticNow (b : Bw) : Nat := match b.acoustic with | some a => min a b.spring | none => b.spring
/-- Whether a fan is stalled now. -/
def Bw.stalled (b : Bw) : Bool := b.fans.any fun f => f.2.stall
/-- A of R376: half of S while a fan is stalled (R393). -/
def Bw.limitA (b : Bw) : Nat := if b.stalled then b.spring / 2 else b.acousticNow

/-- BASE_RECALIBRATE: BASE and the package draw from the rail currents; a failed read leaves the previous reading (R469). -/
def execBaseRecalibrate (r : RailReading) (s : State) : Res :=
  .next (if r.ok && s.hub.mgmtUp then { s with bw := { s.bw with base := min r.base 0xFFFF, draw := min r.draw 0xFFFF } } else s)

/-- The fan output, the same for both fans (R391), in hundredths of a percent. -/
def Bw.duty (b : Bw) : Nat := (Tab.get {} b.fans 0).duty
/-- ACOUSTIC_UPDATE: with the fan at FAN_MAX and Tmax near TARGET, A falls by 1 W to no less than S / 4; with Tmax well below or the fan
below FAN_MAX it rises by 1 W up to S. -/
def execAcousticUpdate (s : State) : Res :=
  .next (let b := s.bw
    let a := b.acousticNow
    let atMax := decide (100 * b.fanMax ≤ b.duty)
    if !s.hub.mgmtUp then s
    else if atMax && decide ((b.target : Int) - 5 ≤ b.tmax) then
      { s with bw := { b with acoustic := some (max (a - 32) (b.spring / 4)) } }
    else if decide (b.tmax < (b.target : Int) - 7) || !atMax then { s with bw := { b with acoustic := some (min (a + 32) b.spring) } }
    else { s with bw := { b with acoustic := some a } })

/-- The demand: FAN_MIN up to TLO, then rising to 100% at TARGET; capped at FAN_MAX (R391). -/
def Bw.fanDemand (b : Bw) : Nat :=
  let d := if b.tmax ≤ b.tlo then 100 * b.fanMin
    else if (b.target : Int) ≤ b.tmax then 10000
    else 100 * b.fanMin + (10000 - 100 * b.fanMin) * (b.tmax - b.tlo).toNat / (b.target - b.tlo)
  min d (100 * b.fanMax)
/-- What a fan's tach measures: revolutions a minute, two pulses to a revolution (R393), over the last second (notes/assumptions/171.md), and since when
the speed stays below 10% of what the fan's duty lets expect; a fan that turns again is no longer stalled (R393). -/
def Fan.measure (now pulses : Nat) (f : Fan) : Fan :=
  let rpm := min (30 * pulses) 0xFFFF
  if 10 * rpm < Config.fanSpeed f.duty then { f with rpm := rpm, slowSince := some (f.slowSince.getD now) }
  else { f with rpm := rpm, slowSince := none, stall := false }
/-- FAN_UPDATE: every 10 ms, by at most 0.02 percentage points, which is 2 a second; at 100 °C the output goes to 100% at once. The tach inputs are
measured, `pulses0` and `pulses1`. -/
def execFanUpdate (pulses0 pulses1 : Nat) (s : State) : Res :=
  .next (if !s.hub.mgmtUp then s
    else
      let b := s.bw
      let want := b.fanDemand
      let d := if 100 ≤ b.tmax then 10000 else if b.duty < want then min (b.duty + 2) want else max (b.duty - 2) want
      let put := fun (n p : Nat) (t : Tab Fan) => Tab.insert t n { (Tab.get {} t n).measure s.us p with duty := d }
      { s with bw := { b with fans := put 1 pulses1 (put 0 pulses0 b.fans) } })
/-- The two FAN_PWM outputs in percent; none is driven before Breakwater starts (R391, R465). -/
def State.fanPwm (s : State) : Option Nat := if s.hub.mgmtUp then some (s.bw.duty / 100) else none

/-- FAN_STALL: a fan has been below 10% of its expected speed for 2 s. -/
def execFanStall (n : Fin 2) (s : State) : Res :=
  .next (let fan := Tab.get {} s.bw.fans n
    if !s.hub.mgmtUp || fan.stall || (match fan.slowSince with | some t => decide (s.us < t + 2000000) | none => true) then s
    else
      let s := { s with bw := { s.bw with fanStall := true, fans := Tab.insert s.bw.fans n { fan with stall := true } } }
      (s.record 0x0016 4 (b8 n ++ leBytes 2 fan.rpm)).alert 3)

/-- The energy of the hold-up storage in mJ, times 20,000,000: C is in 0.1 mF and V in mV (R388). -/
def holdupScaled (cap vmin mv : Nat) : Nat := cap * (mv * mv - vmin * vmin)
/-- HOLDUP_SAMPLE: the available energy; below 2.5 J the 120 W limit applies, recorded once an episode; C = 0 turns the check off. -/
def execHoldupSample (mv : Nat) (s : State) : Res :=
  .next (if !s.hub.mgmtUp then s
    else
      let mv := min mv 64000
      let e := holdupScaled s.bw.holdCap s.bw.holdVmin mv
      let mj := min (e / 20000000) 0xFFFF
      let low := decide (s.bw.holdCap ≠ 0) && decide (e < 2500 * 20000000)
      let first := low && !s.bw.holdupLow
      let s := { s with bw := { s.bw with holdMv := mv, holdMj := mj, holdupLow := low } }
      if first then s.record 0x0013 4 (leBytes 2 mv ++ leBytes 2 mj) else s)

end Sys2Proof.Machine
end

