-- ==== Sys2Proof/Machine/Boot.lean ====
section
/-! DEFINITION. Cold reset (R364, R396, R397, R415, R422, R435, R437, R445, R447, R460, R461). -/
-- Log entries (notes/assumptions): DESIGN CHOICE 110; DEDUCED 77, 109, 111, 112, 163.

namespace Sys2Proof.Machine

/-! ### What survives (R396) -/

/-- A core of a die that is not started. -/
def Core.off (k : Core) : Core := { k with inReset := true, logicOff := true }
/-- The K4 held in cold reset: every register at its reset value, the dies in reset and the cores' logic domains off until step 5 (R397); the
MRAM, the fuses blown in the field, the boot flash, the cores disabled at test and the instruction in the JTAG port, which TRST_N alone resets,
are kept, and time starts again. The host's memory is not the K4's. -/
def State.coldHold (s : State) : State :=
  { roles := s.roles.filter fun r => r.2 = some .disabled,
    cores := allCores Core.off [],
    dies := allDies (fun x => { x with inReset := true }) [],
    tmk := { slots := s.tmk.slots, floor := s.tmk.floor, bootCount := s.tmk.bootCount, bankA := s.tmk.bankA, bankB := s.tmk.bankB },
    sec := { flash0 := s.sec.flash0, flash1 := s.sec.flash1, rollback := s.sec.rollback, keys := s.sec.keys, tagFail := s.sec.tagFail, keyTag := s.sec.keyTag,
             sigRevoked := s.sec.sigRevoked },
    hub := { jtag := s.hub.jtag },
    out := { hostMem := s.out.hostMem },
    fresh := s.fresh,
    pending := s.pending }

/-- PERST_ASSERT: PERST_N asserted holds the K4 in cold reset. -/
def execPerstAssert (s : State) : Res := .next (let s := s.coldHold; { s with hub := { s.hub with perst := true } })

/-! ### Tidemark and settings at step 2 (R415, R422, R436) -/

/-- The highest valid sequence of the ring. -/
def Tmk.highest (t : Tmk) : Option Nat := ((t.slots.filter fun x => x.2.valid x.1).map fun x => x.2.seq).max?
/-- The next sequence that cold reset finds (R415). -/
def Tmk.nextHead (t : Tmk) : Nat :=
  match t.highest with
  | some h => if t.floor ≤ h then h + 1 else t.floor + 4096
  | none => if t.floor = 0 then 1 else t.floor + 4096
/-- The BOOT item of the selected bank, or its default. -/
def Tmk.boot (t : Tmk) : List Byte :=
  let d := b8 0 ++ b8 0xFF ++ b8 0 ++ b8 0xA ++ leBytes 4 0
  match t.selected with
  | some b => match b.items.lookup bootId with | some v => if v.length = 8 then v else d | none => d
  | none => d
/-- Loads BOOT. -/
def Sec.loadBoot (v : List Byte) (x : Sec) : Sec :=
  { x with active := byteAt v 0 % 2, trial := byteAt v 1, attempts := byteAt v 2 % 4, slotst0 := bits (byteAt v 3) 1 0, slotst1 := bits (byteAt v 3) 3 2 }
/-- A bank write of the ROM: made at once, and repeated once where the bank's cells have failed (R423, R424). -/
def State.bootWrite (s : State) : State :=
  let s := (s.queueJob .romBoot).bankWrite true
  if s.tmk.jobs = [] then s else s.bankWrite true

/-! ### The boot choice (R437) -/

/-- start(): the image of a slot runs. -/
def Sec.start (slot : Nat) (x : Sec) : Sec :=
  let h := x.flash slot
  let own := match x.signer h with | some k => 2 ^ k | none => 0
  { x with running := slot, trialRun := decide (slot = x.trial), recovery := false, version := hdrField h 8 4, svn := hdrField h 12 4,
           setFmt := hdrField h 16 2, revokeHdr := byteAt h 7 &&& (15 - own) }
/-- RECOVERY: no slot is started. -/
def Sec.startRecovery (x : Sec) : Sec := { x with recovery := true, mode := 2, trialRun := false }
/-- The confirmed slot, else the other one, else RECOVERY; the entry's slot byte is free where none is started. -/
def State.bootActive (s : State) : State :=
  let x := s.sec
  let o := 1 - x.active
  if (x.verify x.active).isNone then { s with sec := x.start x.active }
  else if x.slotSt o = 2 && (x.verify o).isNone then
    let s := ({ s with sec := { x with active := o } }).bootWrite
    let s := s.record 0x007C 4 (b8 o ++ b8 0)
    { s with sec := s.sec.start o }
  else
    let (v, s) := s.draw
    let s := s.record 0x007C 4 (b8 v ++ b8 1)
    { s with sec := s.sec.startRecovery }
/-- The trial slot is given up. -/
def State.revert (cause : Nat) (s : State) : State :=
  let t := s.sec.trial
  let s := ({ s with sec := { s.sec.setSlotSt t 1 with trial := 0xFF } }).bootWrite
  (s.record 0x0076 4 (b8 t ++ b8 cause)).bootActive
/-- The boot choice of R437. -/
def State.bootChoice (s : State) : State :=
  let x := s.sec
  if x.trial = 0xFF then s.bootActive
  else if x.attempts = 0 then s.revert 0
  else
    let s := ({ s with sec := { x with attempts := x.attempts - 1 } }).bootWrite
    if (s.sec.verify s.sec.trial).isNone then
      let s := s.record 0x0074 4 (b8 s.sec.trial ++ b8 s.sec.attempts)
      { s with sec := s.sec.start s.sec.trial }
    else s.revert 1

/-! ### Settings of the image that runs (R422, R445, R447) -/

/-- Settings come into force: those of the selected bank when its FORMAT is the running image's; else the defaults, which a confirmed
image then writes in its own FORMAT. A confirmed image raises SEC_ROLLBACK at every boot. -/
def State.loadSettings (s : State) : State :=
  let s := match s.tmk.selected with
    | none => s.applyAll []
    | some b => if b.format = s.sec.setFmt then s.applyAll (Items.settle b.items)
      else if s.sec.trialRun || s.sec.recovery then ({ s with tmk := { s.tmk with defaulted := true } }).applyAll []
      else s.reformat
  if s.sec.recovery || s.sec.trialRun then s else s.raiseRollback

/-- The row maps of a core's engines, read from the fuses (R74). -/
def Core.fuse (c : Nat) (k : Core) : Core := { k with rowMap := (List.range 16).map fun g => (g, Config.rowRepair c g % 33) }
/-- Step 5: a core of a die that starts; a disabled core stays off (R5). -/
def State.release (s : State) (c : Nat) : Core := { Core.fuse c {} with logicOff := decide (s.role c = Role.disabled) }
/-- Steps 4 and 5: the hub firmware starts, the dies are released and their cores' logic domains are on, and with them the SPDs are read and DDR4
training begins (R302), but not in RECOVERY (R440). -/
def State.startPlanes (dimms : List (Option DdrModule)) (s : State) : State :=
  if s.sec.recovery then s
  else ({ s with cores := (List.range 144).map fun c => (c, s.release c), dies := [], bw := { s.bw with lock := 0x1F, pll := 0x1F },
                 hub := { s.hub with hubUp := true }, cxl := { s.cxl with memInfoValid := true }, sec := s.sec.runs 6 } : State).findModules dimms

/-- The rails at step 2: each takes its fused voltage, or stays at 0.75 V where the write has failed three times (R469). -/
def Bw.rails (p : BootPins) (b : Bw) : Bw :=
  { b with vddc := if p.vddcSet then Config.vddcTarget else 750, vddh := if p.vddhSet then Config.vddhTarget else 750 }

/-- COLD_RESET: power-on or PERST_N deasserted: straps, the management plane, the settings bank, Tidemark's head and its RESET entry,
the boot choice, the hub firmware and the dies. TEST_EN keeps the K4 in cold reset (R460). Supply pins that are low act at once (R461).
Link and DDR4 training are commands of their own. -/
def execColdReset (p : BootPins) (s : State) : Res :=
  .next (
    let s := s.coldHold
    let s := { s with hub := { s.hub with bootsrc := p.bootsrc % 4, sbaddr := p.sbaddr % 8, testEn := p.testEn } }
    if p.testEn then s
    else
      let cause := if p.powerOn then 0 else 1
      let t := s.tmk
      let t := { t with bootCount := min (t.bootCount + 1) max32, head := t.nextHead }.select
      let s := { s with tmk := t, hub := { s.hub with mgmtUp := true }, bw := { s.bw.rails p with lock := 0x10, pll := 0x10, rstCause := cause, failHigh := !p.failLow },
                        sec := { s.sec.loadBoot t.boot with mode := if p.bootsrc % 4 = 1 ∨ !p.octal then 1 else 0 } }
      let s := s.record 0x0001 4 (b8 cause)
      let s := if t.anySel then s else ({ s with tmk := { s.tmk with defaulted := true } }).record 0x0060 4 (b8 0)
      if p.failLow then let (v, s) := s.draw; s.powerFail v
      else
        let s := { s with sec := s.sec.deriveKeys }
        let s := if p.bootsrc % 4 = 2 then { s with sec := s.sec.startRecovery } else s.bootChoice
        let s := ({ s with sec := s.sec.endorse.runs 2 }).loadSettings.startPlanes p.dimms
        if p.warnLow then s.warnLow else s)

end Sys2Proof.Machine
end

