-- ==== Sys2Proof/Machine/Breakwater.lean ====
section
/-! DEFINITION. The budget epoch (R26, R236, R242, R374 to R382, R385) and domain wakes (R372). -/
-- Log entries (notes/assumptions): DESIGN CHOICE 13; DEDUCED 90, 100, 114, 115, 116, 117, 118, 119, 120, 124, 151, 161, 172.

namespace Sys2Proof.Machine

/-! ### Requests (R374, R375) -/

/-- One unit's request as it is served: tier, REQ with its pending wakes, the wakes, and the unit's rated maximum (R378, R380). -/
structure Ask where
  unit : Nat
  tier : Nat
  req : Nat
  wakes : Nat
  rated : Nat
  deriving DecidableEq, Repr
/-- The tier of a core: that of the highest class among the tiles its slots hold; none for a core without a tile, or in self-test (R374). -/
def State.coreTier (s : State) (c : Nat) : Option Nat :=
  let k := s.core c
  if c ∈ s.hub.selftest then none
  else ((List.range 4).filterMap fun t => (k.slot t).held.map fun h =>
      match s.step? ((s.die (coreDie c)).ctr h.ctr).step with | some e => 2 + e.cls | none => 5).min?
/-- A core's pending wakes: its banks that are requested and OFF, and the logic domain of a core in self-test. It asks for as many at a time as
its rated maximum holds, so that no request for wakes alone goes out of range (R372, R379, notes/assumptions/119.md). -/
def State.pendingWakes (s : State) (c : Nat) : Nat :=
  let k := s.core c
  min (coreRated / wakeUnits) (((List.range 16).filter fun b => (k.spd.bank b).st = .off && k.spd.bankReq.getLsbD b).length + b2n (k.logicOff && c ∈ s.hub.selftest))
/-- Whether a core sends words: it is neither beached, in reset nor disabled. -/
def State.sends (s : State) (c : Nat) : Bool := !s.fenced c && !(s.core c).inReset && s.role c ≠ .disabled
/-- The word that a unit sent, or one that asks for nothing. -/
def reqOf (reqs : List ReqWord) (u : Nat) : ReqWord := (reqs.find? fun r => r.unit = u).getD { unit := u }
/-- A request word reaches Breakwater. One that fails its pair check is replaced: once by the last valid request, then by a quarter of
the unit's grant before it, at the last valid tier (R26). -/
def Grant.take (ok : Bool) (req tier : Nat) (g : Grant) : Grant :=
  if ok then { g with lastReq := req, lastTier := tier, reqMiss := 0 }
  else { g with reqMiss := g.reqMiss + 1, lastReq := if g.reqMiss = 1 then g.grant / 4 else g.lastReq }
/-- What a core asks for: REQ while it holds a tile or is in self-test, otherwise its pending wakes alone; nothing while its die is about to be
reset (R399). -/
def State.coreReq (s : State) (r : ReqWord) (c : Nat) : Nat :=
  if (!s.sends c && !(c ∈ s.hub.selftest)) || s.falling c then 0
  else if (s.coreTier c).isSome || c ∈ s.hub.selftest then r.req else wakeUnits * s.pendingWakes c
/-- What an uncore unit asks for. The PTB and counting unit of a die in reset asks for nothing (R383); its DDR4 controllers stay up (R399). -/
def State.uncoreReq (s : State) (r : ReqWord) (u : Nat) : Nat :=
  if (List.range 4).any fun d => u = ptbUnit d && (s.die d).inReset then 0 else r.req
/-- The units of an epoch: every core, and every uncore unit, in ascending number (R374, R377). -/
def allUnits : List Nat := List.range (144 + uncoreUnits)
/-- TIER of a unit's request. -/
def State.tierOf (s : State) (u : Nat) : Nat := if u < 144 then (s.coreTier u).getD 0 else uncoreTier u
/-- WAKE of a unit's request. -/
def State.wakesOf (s : State) (r : ReqWord) (u : Nat) : Nat := if u < 144 then s.pendingWakes u else r.wake
/-- The request word of a unit (R375): REQ, USED, TIER, WAKE and the epoch that it is for. -/
def State.requestWord (s : State) (r : ReqWord) (u : Nat) : W32 :=
  BitVec.ofNat 32 (min (if u < 144 then s.coreReq r u else s.uncoreReq r u) 1023 + 2 ^ 10 * min (s.bw.grantOf u).metered 1023 + 2 ^ 20 * s.tierOf u +
    2 ^ 23 * s.wakesOf r u + 2 ^ 27 * ((s.bw.epoch + 1) % 16))
/-- Breakwater takes every request word; a mismatch sets the sticky error (R403). -/
def State.takeRequests (reqs : List ReqWord) (s : State) : State :=
  allUnits.foldl (fun (s : State) u =>
    let r := reqOf reqs u
    let w := (s.requestWord r u).toNat
    let s := { s with bw := { s.bw with grants := Tab.insert s.bw.grants u ((s.bw.grantOf u).take r.pairOk (bits w 9 0) (bits w 22 20)) } }
    if r.pairOk then s else s.pairError 1) s
/-- What the units ask for once their words are taken. -/
def State.asks (s : State) (reqs : List ReqWord) : List Ask :=
  allUnits.map fun u =>
    let g := s.bw.grantOf u
    ⟨u, g.lastTier, g.lastReq, s.wakesOf (reqOf reqs u) u, if u < 144 then coreRated else Config.uncoreRated u⟩

/-! ### Health words (R242, R243, R245) -/

/-- A core's health word: HBEAT, the double-error count's low 16 bits, and UE, on which it is beached; a word that fails its pair check
counts as one without a new HBEAT. -/
def State.health (r : ReqWord) (c : Nat) (s : State) : State :=
  if !s.sends c then s
  else
    let s := s.modCore c fun k => { k with ue := k.ue || r.ue }
    if !r.healthOk then s.pairError 2
    else
      let k := s.core c
      let v := k.hbeat.toNat
      let seen := match s.bw.hbeatSeen.lookup c with | some (w, t) => if w = v then (w, t) else (v, s.us) | none => (v, s.us)
      let n := k.spd.ce2 % 65536
      let more := (n + 65536 - Tab.get 0 s.bw.ce2Last c) % 65536
      let b := s.bw
      let s := { s with bw := { b with hbeatSeen := Tab.insert b.hbeatSeen c seen, ce2Last := Tab.set 0 b.ce2Last c n,
                                       ce2Cur := Tab.set 0 b.ce2Cur c (Tab.get 0 b.ce2Cur c + more) } }
      if k.ue then s.beach (coreDie c) [coreLocal c] 1 else s

/-! ### The budget (R376 to R379) -/

/-- The terms of B with their LIMIT codes: 0 ceiling, 1 thermal, 2 acoustic, 3 hold-up, 4 neap. -/
def Bw.terms (b : Bw) : List (Nat × Nat) :=
  [(0, b.spring), (1, b.spring * b.fT.1 / b.fT.2), (2, b.limitA)] ++ (if b.holdupLow then [(3, 32 * 120 - b.base)] else []) ++
    if b.state = .neap then [(4, b.spring / 4)] else []
/-- B and the LIMIT code of the term that set it; of equal terms, the lower code. -/
def Bw.budget (b : Bw) : Nat × Nat :=
  b.terms.foldl (fun (m : Nat × Nat) t => if t.2 < m.2 then t else m) (0, b.spring)
/-- The reason of a LIMIT code (R379). -/
def limitReason (l : Nat) : Nat := [1, 3, 4, 5, 6].getD l 1
/-- The reason for which a tier is not served (R383, R386). -/
def Bw.refuses (b : Bw) (tier : Nat) : Option Nat :=
  if b.pfail then some 8
  else match b.state with
    | .slackWater => if 1 ≤ tier then some 7 else none
    | .neap => if 4 ≤ tier then some 6 else none
    | .spring => none
/-- What waterfill gives at level L. -/
def levelSum (l : Nat) (xs : List (Nat × Nat)) : Nat := (xs.map fun x => min x.2 l).sum
/-- The largest level up to `top` whose sum fits (R377). -/
def bestLevel (xs : List (Nat × Nat)) (amount : Nat) : Nat → Nat
  | 0 => 0
  | l + 1 => if levelSum (l + 1) xs ≤ amount then l + 1 else bestLevel xs amount l
/-- waterfill of R377 over (unit, request) pairs in ascending unit number: min(request, L), and units left over one at a time to those
still below their request. -/
def waterfill (xs : List (Nat × Nat)) (amount : Nat) : List (Nat × Nat) :=
  let l := bestLevel xs amount ((xs.map (·.2)).foldl max 0)
  let left := amount - levelSum l xs
  let lucky := ((xs.filter fun x => l < x.2).map (·.1)).take left
  xs.map fun x => (x.1, min x.2 l + if x.1 ∈ lucky then 1 else 0)
/-- One unit's outcome. -/
structure Share where
  ask : Ask
  grant : Nat
  answer : Nat
  reason : Nat
  deriving DecidableEq, Repr
/-- The allocation so far: what is available, and the uncore and core totals. -/
structure Alloc where
  avail : Nat
  uncore : Nat := 0
  core : Nat := 0
  shares : List Share := []
  deriving DecidableEq, Repr
/-- ANSWER and REASON of a served unit. -/
def answerOf (req grant reason : Nat) : Nat × Nat := if req ≤ grant then (0, 0) else if grant = 0 then (2, reason) else (1, reason)
/-- The rise limits Ucap and Ccap take 2 W and BW_SLEW − 2 W (R376); BW_SLEW outside 16 to 32 is taken as the nearer end. -/
def uncoreSlew : Nat := 64
/-- BW_SLEW − 2 W in 1/32 W. -/
def Bw.coreSlew (b : Bw) : Nat := 8 * min 32 (max 16 b.slew) - uncoreSlew
/-- Of what a tier gives cores, no more than the core rise limit leaves (R381). -/
def coreCut (cap : Nat) (gs : List (Nat × Nat)) : List (Nat × Nat) :=
  gs.filter (fun g => decide (144 ≤ g.1)) ++ waterfill (gs.filter fun g => decide (g.1 < 144)) cap
/-- One tier is served: tiers 0 and 1 within the uncore rise limit, the others within the core rise limit, which the cores of tier 0 keep to as
well, since it has no exception (R376, R381). -/
def Bw.serveTier (b : Bw) (limit : Nat) (asks : List Ask) (a : Alloc) (tier : Nat) : Alloc :=
  let mine := asks.filter fun x => x.tier = tier
  match b.refuses tier with
  | some rs => { a with shares := a.shares ++ mine.map fun x => ⟨x, 0, 3, rs⟩ }
  | none =>
    let fits := fun x : Ask => decide (x.req ≤ x.rated)
    let capU := b.uncoreDraw + uncoreSlew - a.uncore
    let capC := b.coreDraw + b.coreSlew - a.core
    let cap := if tier ≤ 1 then capU else capC
    let gs := coreCut capC (waterfill ((mine.filter fits).map fun x => (x.unit, x.req)) (min a.avail cap))
    let reason := if cap < a.avail then 2 else limitReason limit
    let total := fun cores : Bool => ((gs.filter fun g => decide (g.1 < 144) = cores).map (·.2)).sum
    let share := fun x : Ask => if fits x then
        let g := (gs.lookup x.unit).getD 0
        let (ans, rs) := answerOf x.req g reason
        (⟨x, g, ans, rs⟩ : Share)
      else ⟨x, 0, 3, 9⟩
    { avail := a.avail - (total false + total true), uncore := a.uncore + total false, core := a.core + total true, shares := a.shares ++ mine.map share }
/-- Adds to the shares of some units, evenly, each up to its room and units left over in ascending unit number; a unit raised to its request or
above is GRANTED. -/
def raiseShares (need : Nat) (room : Share → Nat) (shares : List Share) : List Share :=
  let add := waterfill (((shares.filter fun x => room x ≠ 0).map fun x => (x.ask.unit, room x)).insertionSort fun x y => x.1 ≤ y.1) need
  shares.map fun x =>
    let g := x.grant + (add.lookup x.ask.unit).getD 0
    if g = x.grant then x
    else if x.ask.req ≤ g then { x with grant := g, answer := 0, reason := 0 }
    else { x with grant := g, answer := if x.answer = 2 then 1 else x.answer }
/-- Whether the fall limit is set aside (R381). -/
def Bw.fallAside (b : Bw) : Bool := b.warnNeap || b.slack105 || b.fallFree || b.pfail
/-- Total of the shares of the cores, or of the uncore units. -/
def sumShares (cores : Bool) (shares : List Share) : Nat := ((shares.filter fun x => decide (x.ask.unit < 144) = cores).map Share.grant).sum
/-- The total below which core grants do not fall: the grants of cores just beached fall beside the limit, and are made up in the epoch after
(R381). -/
def Bw.coreFloor (b : Bw) : Nat := b.coreDraw + b.fallDebt - b.coreSlew - b.fallCores
/-- The allocation of an epoch: the tiers in order, then the fall limits: uncore grants stay up as headroom (R378), and core grants are
raised as ballast over the eligible cores (R382). -/
def Bw.allocate (b : Bw) (asks : List Ask) (eligible : Nat → Bool) : List Share :=
  let (limit, budget) := b.budget
  let a := (List.range 6).foldl (b.serveTier limit (asks.insertionSort fun x y => x.unit ≤ y.unit)) { avail := budget }
  if b.fallAside then a.shares
  else
    let needU := (b.uncoreDraw - uncoreSlew) - sumShares false a.shares
    let sh := raiseShares needU (fun x => if 144 ≤ x.ask.unit ∧ x.answer ≠ 3 then needU else 0) a.shares
    let needC := b.coreFloor - sumShares true sh
    raiseShares needC (fun x => if x.ask.unit < 144 && eligible x.ask.unit then coreRated - x.grant else 0) sh

/-! ### Grants (R26, R375, R380, R401) -/

/-- The code of a package state in a grant word and in BW_STATUS. -/
def pkgCode : PkgSt → Nat
  | .spring => 0 | .neap => 1 | .slackWater => 2
/-- A grant word reaches its unit; `named` is the epoch that it names, `now` the coming one. One that fails its pair check or names another epoch
leaves the grant before it for one epoch, then a quarter of it (R26, R375). -/
def Grant.receive (ok : Bool) (named now : Nat) (g : Grant) : Grant :=
  if ok && named = now then { g with inForce := g.grant, floorNow := g.floor, grantMiss := 0, slackSeen := decide (g.state = 2) }
  else
    let cut := fun n : Nat => if g.grantMiss = 1 then n / 4 else n
    { g with grantMiss := g.grantMiss + 1, inForce := cut g.inForce, floorNow := cut g.floorNow }
/-- An uncore unit ramps its draw towards its grant, by 1/64 of its rated maximum at most (R378). -/
def Grant.ramped (rated : Nat) (g : Grant) : Grant :=
  { g with ramp := if g.ramp < 64 * g.inForce then min (g.ramp + rated) (64 * g.inForce) else max (g.ramp - rated) (64 * g.inForce) }
/-- A core's energy account over an epoch's end: what its units drew is debited, at least FLOOR, up to which ballast ran; a credit left over is
capped at the old grant, the new one is credited; heavy issue stops while it is not positive or the package is in slack water; a core frozen for
its debt resumes (R380, R384, R385). -/
def Core.credit (spent old new : Nat) (slack : Bool) (k : Core) : Core :=
  let acc := min (k.account - (spent : Int)) (old : Int) + (new : Int)
  { k with account := acc, gstall := slack || decide (acc ≤ 0), pfreeze := k.pfreeze && decide (acc ≤ 0),
           frzCycles := if k.pfreeze then satAdd k.frzCycles 2400 else k.frzCycles }
/-- One grant is sent and received. A core runs ballast while it draws less than the FLOOR in force: what it asked for stands for its draw in the
coming epoch (R380, R382). -/
def State.deliver_ (reqs : List ReqWord) (x : Share) (s : State) : State :=
  let u := x.ask.unit
  let r := reqOf reqs u
  let b := s.bw
  let g := b.grantOf u
  let floor := if 144 ≤ u || b.warnNeap || b.pfail then 0 else x.grant
  let epoch := b.epoch % 16
  let named := r.grantEpoch.getD epoch
  let g' := ({ g with grant := x.grant, floor := floor, answer := x.answer, reason := x.reason, state := pkgCode b.state, epoch := epoch,
                      metered := r.used } : Grant).receive r.grantOk named epoch
  let ok := r.grantOk && named = epoch
  let g' := if 144 ≤ u then g'.ramped x.ask.rated else g'
  let s := { s with bw := { b with grants := Tab.insert b.grants u g',
                                   wakeGranted := if ok && x.answer = 0 then Tab.set 0 b.wakeGranted u x.ask.wakes else b.wakeGranted } }
  let s := if ok then s else s.pairError 1
  if u < 144 && s.sends u then
    s.modCore u fun k => { k.credit (max r.used g.floorNow) g.inForce g'.inForce g'.slackSeen with ballast := decide (x.ask.req < g'.floorNow) }
  else s
/-- The most frequent reason among the units of a tier that were not GRANTED; of equal counts, the lower. -/
def commonReason (xs : List Share) : Nat :=
  let no := xs.filter fun x => x.answer ≠ 0
  let count := fun r : Nat => (no.filter fun x => x.reason = r).length
  ((List.range 10).foldl (fun (m : Nat × Nat) r => if m.2 < count r then (r, count r) else m) (0, 0)).1
/-- A tier's registers. -/
def tierRegs (shares : List Share) (t : Nat) : Tier :=
  let xs := shares.filter fun x => x.ask.tier = t
  let n := fun a : Nat => min 255 (xs.filter fun x => x.answer = a).length
  { grant := min 65535 (xs.map Share.grant).sum, req := min 65535 (xs.map fun x => x.ask.req).sum, reduced := n 1, deferred := n 2, refused := n 3,
    reason := commonReason xs }
/-- The energy that grants above their requests burn as ballast, in 1/32 µJ (R382). -/
def ballastOf (shares : List Share) : Nat := ((shares.filter fun x => decide (x.ask.unit < 144)).map fun x => x.grant - x.ask.req).sum

/-- A held lease ages by 1 µs unless its core raises its hold line: while its grant stalls it, or the last grant word it took shows slack water
(R236, R24). An entry whose stored pair does not match keeps it until its next check. -/
def State.ageLeases (s : State) : State :=
  (List.range 4).foldl (fun (s : State) d => s.modDie d fun x => { x with leases := x.leases.map fun l =>
    (l.1, if l.2.pairOk && l.2.st = 1 && !(s.core (leaseCore d l.1)).gstall && !(s.bw.grantOf (leaseCore d l.1)).slackSeen then
        Lease.make l.2.tile l.2.gen (leaseCtl 1 l.2.ctr (min (l.2.age + 1) 0xFFFFFF)) else l.2) }) s

/-- Whether a core takes ballast: in service, neither in reset nor beached (R382); during a warm reset the cores' grants fall so as well (R398,
notes/assumptions/172.md). -/
def State.takesBallast (s : State) (c : Nat) : Bool := s.role c = .inService && (s.sends c || (s.hub.warm && !s.fenced c))

/-- The die resets whose cores' grants have fallen away are carried out (R399). -/
def State.dueResets (s : State) : State :=
  (List.range 4).foldl (fun (s : State) d =>
    if (s.die d).resetDue ≠ 0 ∧ s.dieGrants d = 0 then s.dieReset d (s.die d).resetDue else s) s

/-- The epoch's end while the package is not parked. -/
def State.budget (reqs : List ReqWord) (s : State) : State :=
  let s := { s with bw := { s.bw with epoch := s.bw.epoch + 1, wakes := [], wakeGranted := [] } }
  let s := (List.range 144).foldl (fun (s : State) c => s.health (reqOf reqs c) c) s
  let s := s.takeRequests reqs
  let b := s.bw
  let shares := b.allocate (s.asks reqs) s.takesBallast
  let s := shares.foldl (fun (s : State) x => s.deliver_ reqs x) s
  let core := sumShares true shares
  let s := { s with bw := { s.bw with
    coreGrant := core, uncoreGrant := sumShares false shares, coreDraw := core, uncoreDraw := sumShares false shares, fallDebt := b.fallCores,
    fallCores := 0, limit := b.budget.1, fallFree := false,
    tiers := (List.range 6).foldl (fun (t : Tab Tier) k => Tab.insert t k (tierRegs shares k)) [],
    slewMiss := b.slewMiss || (!b.fallAside && decide (core < b.coreFloor)),
    ballast := b.ballast + ballastOf shares } }
  s.ageLeases.dueResets

/-- Entries that wait behind POWER_FAIL are lost 100 µs after the failure (R416). -/
def State.loseEntries (s : State) : State :=
  if s.us = s.bw.pfailUs + 100 then { s with tmk := { s.tmk with queue := s.tmk.queue.filter fun e => e.type = 0x10 || decide (600 * s.us ≤ e.time) } }
  else s

/-- A word of the MRAM becomes uncorrectable: its entry or bank is invalid until it is written afresh, or for good where its cells have failed;
a failed tag of the key store shows every key REVOKED (R414, R421, R424, R429). -/
def State.mramUpset (s : State) (u : MramUpset) : State :=
  let t := s.tmk
  match u with
  | .slot n worn => { s with tmk := { t with slots := t.slots.map fun x =>
      if x.1 = n then (x.1, { x.2 with bad := true, stuck := x.2.stuck || worn }) else x } }
  | .bank isB worn => let b := t.bank isB; { s with tmk := t.setBank isB { b with bad := true, stuck := b.stuck || worn } }
  | .keyStore => { s with sec := { s.sec with tagFail := true } }
/-- A CRC failure on the CXL.cache or CXL.mem link that a retry corrected: RAS correctable status, AER correctable internal error, and vector 2
(R355, R359). -/
def State.linkCrc (s : State) : State :=
  if s.cxl.mode ≠ 1 then s else ({ s with cxl := { s.cxl with rasCorrectable := true, aerCorrected := true } }).msi 2
/-- Bits that time has upset in device memory, in the hub caches and in the MRAM, and on the CXL link (R306, R359, R408, R414). -/
def State.upsets (e : SoftErrors) (s : State) : State :=
  let s := if e.cxlCrc then s.linkCrc else s
  let s := e.mram.foldl State.mramUpset (e.ddr.foldl State.spoil s)
  { s with tmk := { s.tmk with cacheBad := s.tmk.cacheBad ++ e.cache.filter fun c => !(c ∈ s.tmk.cacheBad) } }

/-- BUDGET_EPOCH: 1 µs passes, in which soft errors may arise. While parked, time alone passes. With the grants of the epoch the uncore units
take up what waited for one (R24). -/
def execBudgetEpoch (reqs : List ReqWord) (errs : SoftErrors) (s : State) : Res :=
  .next (let s := State.upsets errs { s with us := s.us + 1 }
    if !s.hub.mgmtUp then s else if s.bw.parked then s.loseEntries else (s.budget reqs).serveHeld.pumpAll.resumeRing.drainCq)

/-- DOMAIN_WAKE_DONE: the ramp of a core's logic domain, switched on by UNBEACH, completes; it starts only in an epoch that granted the
core's wakes, and a die wakes at most 16 domains in one (R372, R373). -/
def execDomainWakeDone (core : CoreId) (s : State) : Res :=
  .next (let c : Nat := core
    let left := Tab.get 0 s.bw.wakeGranted c
    let n := Tab.get 0 s.bw.wakes (coreDie c)
    if (s.core c).logicOff && c ∈ s.hub.selftest && decide (0 < left) && decide (n < 16) then
      let s := { s with bw := { s.bw with wakeGranted := Tab.set 0 s.bw.wakeGranted c (left - 1), wakes := Tab.set 0 s.bw.wakes (coreDie c) (n + 1) } }
      s.modCore c fun k => { k with logicOff := false }
    else s)

end Sys2Proof.Machine
end

