-- ==== Sys2Proof/Machine/Rom.lean ====
section
/-! DEFINITION. The row-wise tables of R82 and their evaluation. The entries of TEXP, TGELU and TSILU are computed: each function is
summed to 320 bits and rounded once, far below half a unit of any entry's 24 bits. -/
-- Log entries (notes/assumptions): DESIGN CHOICE 40.

namespace Sys2Proof.Machine.Rom

/-- The fraction bits of the fixed-point sums. -/
def prec : Nat := 320
/-- One. -/
def one : Int := 2 ^ prec

/-- Σ over i < n of terms, where each term is the last one times `num` over den (i + 1). -/
def series (den : Nat → Int) (num : Int) : Nat → Nat → Int → Int
  | 0, _, _ => 0
  | n + 1, i, t => t + series den num n (i + 1) (t * num / (one * den (i + 1)))

/-- exp(x) for a fixed-point x of at most 1 in magnitude. -/
def expSmall (x : Int) : Int := series (fun i => (i : Int)) x 80 0 one
/-- A power by squaring, over the bits of the exponent. -/
def powFix (b : Int) : Nat → Nat → Int
  | 0, _ => one
  | k + 1, n => let h := powFix (b * b / one) k (n / 2); if n % 2 = 1 then h * b / one else h
/-- exp(n / 32) in fixed point, n of either sign and at most 1,024 in magnitude. -/
def expRat (n : Int) : Int :=
  if 0 ≤ n then powFix (expSmall (one / 32)) 11 n.toNat else powFix (expSmall (-(one / 32))) 11 (-n).toNat

/-- atan(1 / k), k at least 5. -/
def atanInv (k : Nat) : Int :=
  (List.range 160).foldl (fun s i => s + (if i % 2 = 0 then 1 else -1) * (one / ((2 * i + 1) * k ^ (2 * i + 1) : Nat))) 0
/-- π. -/
def pi : Int := 16 * atanInv 5 - 4 * atanInv 239
/-- The square root of 2 / π. -/
def rootTwoOverPi : Int := F32.isqrt (2 * one * one * one / pi).toNat 330 0

/-- Σ (−1)^n x^(2n+1) / (2^n n! (2n+1)) for a fixed-point x: the terms t are x^(2n+1) / (2^n n!). -/
def erfSum (x : Int) : Nat → Nat → Int → Int
  | 0, _, _ => 0
  | n + 1, i, t => t / (2 * i + 1) + erfSum x n (i + 1) (-(t * x / one) * x / (one * (2 * (i + 1))))
/-- erf(x / √2) for a fixed-point x of at most 8 in magnitude. -/
def erfRoot2 (x : Int) : Int := rootTwoOverPi * erfSum x 330 0 x / one

/-- Rounds a fixed-point value divided by a positive number. -/
def toF32 (v : Int) (d : Nat) : W32 := F32.round (decide (v < 0)) (v.natAbs / d) (-(prec : Int)) true

/-- Entry j of TEXP: exp(−32 + j / 32). -/
def texp (j : Nat) : W32 := if j = 1024 then 0x3F800000 else toF32 (expRat ((j : Int) - 1024)) 1
/-- Entry j of TGELU: x / 2 × (1 + erf(x / √2)) at x = −8 + j / 64. -/
def tgelu (j : Nat) : W32 :=
  let n : Int := (j : Int) - 512
  if n = 0 then 0 else toF32 (n * (one + erfRoot2 (n * one / 64))) 128
/-- Entry j of TSILU: x / (1 + exp(−x)) at x = −16 + j / 32. -/
def tsilu (j : Nat) : W32 :=
  let n : Int := (j : Int) - 512
  if n = 0 then 0 else toF32 (n * (one * one / (one + expRat (-n)))) 32

/-- A table: its bounds, its constant, its tails and its entries (R82). -/
structure Table where
  xlo : W32
  xhi : W32
  k : W32
  tailLo : W32 → W32
  tailHi : W32 → W32
  entry : Nat → W32

/-- TEXP. -/
def expTable : Table := ⟨0xC2000000, 0, 0x42000000, fun _ => 0, fun _ => 0x3F800000, texp⟩
/-- TGELU. -/
def geluTable : Table := ⟨0xC1000000, 0x41000000, 0x42800000, fun _ => 0, id, tgelu⟩
/-- TSILU. -/
def siluTable : Table := ⟨0xC1800000, 0x41800000, 0x42000000, fun _ => 0, id, tsilu⟩

/-- Evaluates a table (R82). -/
def Table.eval (t : Table) (x : W32) : W32 :=
  if F32.isNan x then x
  else if F32.lt x t.xlo then t.tailLo x
  else if F32.ge x t.xhi then t.tailHi x
  else
    let p := F32.mul (F32.sub x t.xlo) t.k
    if F32.isNan p || F32.lt p 0 then Config.tableOutside x
    else
      let j := if F32.isInf p then 1023 else min (F32.floor p).toNat 1023
      let f := F32.sub p (F32.ofInt j 0)
      F32.add (t.entry j) (F32.mul f (F32.sub (t.entry (j + 1)) (t.entry j)))

end Sys2Proof.Machine.Rom
end

