-- ==== Sys2Proof/Machine/RowUnit.lean ====
section
/-! DEFINITION. The ROW unit: ROWF (R80 to R83, R93) and CENS (R57, R83, R93). -/
-- Log entries (notes/assumptions): DESIGN CHOICE 132, 135; DEDUCED 36, 37, 38, 42.

namespace Sys2Proof.Machine

/-! ### Row-wise functions -/

/-- SUM in the fixed order of R81. -/
def sumRow (f : List W32) : W32 :=
  let p := (List.range 16).map fun j => ((List.range (f.length / 16)).foldl (fun a i => F32.add a (f.getD (j + 16 * i) 0)) (0 : W32))
  let fold := fun (p : List W32) (n : Nat) => (List.range n).map fun j => F32.add (p.getD j 0) (p.getD (j + n) 0)
  (fold (fold (fold (fold p 8) 4) 2) 1).getD 0 0

/-- The maximum of a row by ordered comparison in ascending position (R81). -/
def maxRow : List W32 → W32
  | [] => 0
  | x :: xs => xs.foldl (fun m x => if F32.lt m x then x else m) x

/-- The constant 1 / L. -/
def recipLen (n : Nat) : W32 := F32.recip (F32.ofInt n 0)

/-- A parameter record's words: EPS, γ and β (R81), or a user table (R82). -/
def f32At (ws : List W256) (i : Nat) : W32 := BitVec.ofNat 32 (listEntry ws i)

/-- A user table from its record (R82). -/
def userTable (ws : List W256) : Rom.Table :=
  let tail := bitAt (ws.getD 0 0) 96
  let e := fun j => f32At ws (8 + j)
  ⟨f32At ws 0, f32At ws 1, f32At ws 2, fun _ => if tail = 0 then e 0 else 0, fun x => if tail = 0 then e 1024 else x, e⟩

/-- The words of a function's parameter record over rows of `n` elements. -/
def paramWords (func n : Nat) : Nat := match func with | 3 => 1 + 2 * (n / 8) | 4 => 1 + n / 8 | 7 => 130 | _ => 0

/-- One row's results, and m and s for SMAXP (R80). -/
def rowFn (func : Nat) (ws : List W256) (x : List W32) : List W32 × W32 × W32 :=
  let n := x.length
  let only := fun (f : W32 → W32) => (x.map f, (0 : W32), (0 : W32))
  match func with
  | 1 =>
    let m := maxRow x
    let e := x.map fun a => Rom.expTable.eval (F32.sub a m)
    let r := F32.recip (sumRow e)
    (e.map fun a => F32.mul a r, 0, 0)
  | 2 =>
    let m := maxRow x
    let e := x.map fun a => Rom.expTable.eval (F32.sub a m)
    (e, m, sumRow e)
  | 3 =>
    let mu := F32.mul (sumRow x) (recipLen n)
    let d := x.map fun a => F32.sub a mu
    let rho := F32.rsqrt (F32.add (F32.mul (sumRow (d.map fun a => F32.mul a a)) (recipLen n)) (f32At ws 0))
    (d.mapIdx fun i a => F32.add (F32.mul (F32.mul a rho) (f32At ws (8 + i))) (f32At ws (8 + n + i)), 0, 0)
  | 4 =>
    let rho := F32.rsqrt (F32.add (F32.mul (sumRow (x.map fun a => F32.mul a a)) (recipLen n)) (f32At ws 0))
    (x.mapIdx fun i a => F32.mul (F32.mul a rho) (f32At ws (8 + i)), 0, 0)
  | 5 => only Rom.geluTable.eval
  | 6 => only Rom.siluTable.eval
  | 7 => only (userTable ws).eval
  | _ => only id

/-- Passes over the buffer (R80). -/
def rowPasses (func : Nat) : Nat := match func with | 1 => 3 | 2 => 2 | 3 => 3 | 4 => 2 | _ => 1

/-- A result as an activation: RNE(y × 2^OSH) clamped, and whether CORE_ROWF_SAT counts it (R83). The product is taken exactly, not rounded to
binary32 first (DESIGN CHOICE, notes/assumptions/135.md). -/
def toAct (bin : Bool) (lo hi osh : Int) (y : W32) : Int × Bool :=
  if F32.isNan y then (0, true)
  else if bin then (if 0 ≤ F32.key y then 1 else 0, false)
  else if F32.isInf y then (if F32.neg y then lo else hi, true)
  else let (v, e) := F32.signed y; clampTo lo hi (F32.rneShift v (e + osh))

/-! ### CENS -/

/-- A vector quantised: its elements, its mantissas and its saturations. -/
structure CensVec where
  elems : List Int
  mant : List Nat
  sats : Nat

/-- The largest magnitude of a list. -/
def maxAbs (xs : List Int) : Nat := xs.foldl (fun m x => max m x.natAbs) 0

/-- The exponent E of a CENS tile (R57). -/
def censExpOf (xs : List (List Int)) : Nat := F32.bitlen (xs.foldl (fun m v => max m (maxAbs v)) 0) - 8

/-- Quantises one vector under exponent E (R57). -/
def censVec (q : SlotCfg) (exp : Nat) (x : List Int) : CensVec :=
  let int := q.afmt = 0
  let qmax : Int := if int then 2 ^ (q.ba - 1) - 1 else 2 ^ q.ba - 1
  let lo : Int := if int then -2 ^ (q.ba - 1) else 0
  let groups := (List.range (x.length / q.group)).map fun g => (x.drop (g * q.group)).take q.group
  let one := groups.map fun xs =>
    let c := max 1 (ceilDiv (maxAbs xs) (2 ^ exp))
    let ma := min 255 c
    let as := xs.map fun v => clampTo lo qmax (F32.rneDiv (v * qmax) (ma * 2 ^ exp))
    (as.map (·.1), ma, (as.filter (·.2)).length + (if 255 < c then 1 else 0))
  ⟨one.flatMap (·.1), one.map (·.2.1), (one.map (·.2.2)).sum⟩

/-- The words of a vector's scale entries and the bits of each that it writes: BSEQ is the group index modulo 16 (R53, R56). -/
def scaleWords (mant : List Nat) : List (W256 × W256) :=
  let es := mant.mapIdx fun g m => m + 256 * (g % 16)
  (List.range (ceilDiv es.length 16)).map fun i =>
    let part := (es.drop (16 * i)).take 16
    (packFields 16 part, packFields 16 (part.map fun _ => 0xFFFF))

/-- The plane words of a vector of 256-element blocks (R49). -/
def planeBlocks (b : Nat) (xs : List Int) : List W256 :=
  (List.range (xs.length / 256)).flatMap fun i => toPlanes b ((xs.drop (256 * i)).take 256)

/-- A word and the bits of it to write. -/
abbrev MaskedWord := Nat × W256 × W256

/-- Writes words under masks to the scratchpad or to the APB; a whole word is a plain write. -/
def State.putWords (c : Nat) (apb : Bool) (ws : List MaskedWord) (s : State) : State :=
  if apb then s.modCore c fun k => { k with apb := Tab.setAll 0 k.apb (ws.map fun x =>
      (x.1, (Tab.get 0 k.apb x.1 &&& ~~~x.2.2) ||| (x.2.1 &&& x.2.2))) }
  else ws.foldl (fun s x => if x.2.2 = BitVec.allOnes 256 then (s.spdWrite c c x.1 x.2.1 false).1
    else (s.spdWriteMask c c x.1 x.2.1 x.2.2).1) s

/-- Words written whole. -/
def wholeWords (a : Nat) (ws : List W256) : List MaskedWord := ws.mapIdx fun i x => (a + i, x, BitVec.allOnes 256)

/-- The destination words of one vector. -/
def vectorWords (q : SlotCfg) (withScales : Bool) (n : Nat) : Nat :=
  n / 256 * q.planesA + (if withScales then ceilDiv (n / q.group) 16 else 0)

/-- Runs CENS over vectors and writes planes and scale entries from `a` on, `ostr` apart (R57, R83). -/
def State.censWrite (c : Nat) (q : SlotCfg) (apb : Bool) (a ostr : Nat) (xs : List (List Int)) (s : State) : State :=
  let exp := censExpOf xs
  let vs := xs.map (censVec q exp)
  let s := s.modCore c fun k => { k.saturate ((vs.map (·.sats)).sum) with censExp := exp }
  (vs.mapIdx fun i v => (i, v)).foldl (fun s x =>
    let base := a + x.1 * ostr
    let planes := planeBlocks q.planesA x.2.elems
    s.putWords c apb (wholeWords base planes ++ (scaleWords x.2.mant).mapIdx fun j y => (base + planes.length + j, y.1, y.2))) s

/-- ROWF: one function over each row of the ROW buffer, converted to activations of a slot's format (R80 to R83). -/
def execRowf (c : CoreId) (t : SlotId) (ev : UnitEvents) (s : State) : Res :=
  .next (s.issue c t .rowf fun w s =>
    let k := s.core c
    let ts := k.slot t
    let func := bits w 52 49
    let nv := nvecOf (bits w 48 43)
    let dst := bits w 42 41
    let apb := decide (dst % 2 = 1)
    let cens := decide (2 ≤ dst)
    let q := k.cfg (bits w 23 20)
    let n := ts.blocks * 256
    let out := vectorWords q cens n
    let a := if apb then apbVectors ts (bits w 40 38) (bits w 37 24) out nv ts.ostr else spVectors ts k.spd (bits w 40 38) (bits w 37 24) out nv ts.ostr
    let pw := if func = 2 then ceilDiv nv 4 else paramWords func n
    let pOk := pw = 0 || (decide (ts.dbase ≤ ts.param) && decide (ts.param + pw ≤ ts.dbound) && k.spd.mapped ts.param pw)
    let fmtBad := cens && (decide (2 ≤ q.afmt) || q.gsize = 0)
    s.checked c t [(!q.valid, 0x23), (decide (16384 < n * nv) || fmtBad, 0x31), (a.isNone || !pOk, 0x32), (apb && ts.fusedBarred, 0x34)] fun s =>
      let (rs, s) := s.spdReads c (if func = 2 then [] else (List.range pw).map (ts.param + ·))
      let s := (s.modCore c (Core.freezeFor (ce2At rs) (if apb && pw = 0 then [] else k.lateOf .row ev.late))).sawUe c ev.ue
      s.checked c t [(poisoned rs, 0x35)] fun s =>
        let ws := datas rs
        let vm := min nv ts.vm
        let rows := (List.range vm).map fun v => rowFn func ws ((List.range n).map fun i => Tab.get 0 k.row (v * n + i))
        let osh := sext (bits w 19 14) 6
        let (lo, hi) := if cens then ((-32768 : Int), (32767 : Int))
          else if q.afmt = 0 then (-2 ^ (q.ba - 1), 2 ^ (q.ba - 1) - 1) else (0, 2 ^ q.ba - 1)
        let acts := rows.map fun r => r.1.map (toAct (!cens && q.afmt = 2) lo hi osh)
        let s := s.modCore c fun k => { k with rowfSat := satAdd k.rowfSat ((acts.map fun v => (v.filter (·.2)).length).sum) }
        let vals := acts.map fun v => v.map (·.1)
        let s := if cens then s.censWrite c q apb (a.getD 0) ts.ostr vals
          else s.putWords c apb ((vals.mapIdx fun v x => wholeWords (a.getD 0 + v * ts.ostr) (planeBlocks q.planesA x)).flatten)
        let s := if func = 2 then
            let ms := rows.flatMap fun r => [r.2.1.toNat, r.2.2.toNat]
            s.putWords c false (((List.range pw).filter fun i => decide (4 * i < vm)).map fun i =>
              (ts.param + i, packFields 32 ((ms.drop (8 * i)).take 8),
                packFields 32 ((List.range 8).map fun j => if vm ≤ 4 * i + j / 2 ∧ 4 * i + j / 2 < nv then 0 else 0xFFFFFFFF)))
          else s
        s.occupy c t .row w (rowPasses func * ceilDiv (n * nv) 16 + 24 + (if func = 7 then 272 else 0)))

/-- CENS: quantises a present tensor into activations with per-group mantissas and a shared exponent. -/
def execCens (c : CoreId) (t : SlotId) (ev : UnitEvents) (s : State) : Res :=
  .next (s.issue c t .cens fun w s =>
    let k := s.core c
    let ts := k.slot t
    let q := k.cfg (bits w 52 49)
    let nv := nvecOf (bits w 48 43)
    let apb := decide (bits w 42 41 = 1)
    let sw := bits w 5 1
    let n := ts.blocks * 256
    let per := if sw = 0 then 32 else sw
    let src := spVectors ts k.spd (bits w 22 20) (bits w 19 6) (ts.blocks * per) nv ts.vstr
    let out := vectorWords q true n
    let a := if apb then apbVectors ts (bits w 40 38) (bits w 37 24) out nv ts.ostr else spVectors ts k.spd (bits w 40 38) (bits w 37 24) out nv ts.ostr
    s.checked c t [(!q.valid, 0x23), (decide (2 ≤ q.afmt) || q.gsize = 0, 0x31), (src.isNone || a.isNone, 0x32), (apb && ts.fusedBarred, 0x34)] fun s =>
      let vm := min nv ts.vm
      let (rs, s) := s.spdReads c ((List.range vm).flatMap fun v => (List.range (ts.blocks * per)).map fun i => src.getD 0 + v * ts.vstr + i)
      let s := (s.modCore c (Core.freezeFor (ce2At rs) (k.lateOf .row ev.late))).sawUe c ev.ue
      s.checked c t [(poisoned rs, 0x35)] fun s =>
        let ws := datas rs
        let xs := (List.range vm).map fun v => (List.range ts.blocks).flatMap fun b =>
          let bw := (ws.drop ((v * ts.blocks + b) * per)).take per
          if sw = 0 then (elements 32 bw).map fun e => sext e 32 else (List.range 256).map fun i => planeVal bw true i
        (s.censWrite c q apb (a.getD 0) ts.ostr xs).occupy c t .row w (2 * ceilDiv (n * nv) 16 + 24))

end Sys2Proof.Machine
end

