-- ==== Sys2Proof/Machine/Lookout.lean ====
section
/-! DEFINITION. The Lookout predictor's PRED (R122 to R126) and the Swash unit's DELTA (R141 to R145). -/
-- Log entries (notes/assumptions): DESIGN CHOICE 143, 144, 169; DEDUCED 36, 163.

namespace Sys2Proof.Machine

/-- The words of an index list of items, written under a mask that covers its entries (R125): the other entries of its last word keep their values
(DESIGN CHOICE, notes/assumptions/143.md). -/
def listWrite (a : Nat) (items : List Nat) : List MaskedWord :=
  let es := items.length :: items
  (List.range (ceilDiv es.length 8)).map fun i =>
    let part := (es.drop (8 * i)).take 8
    (a + i, packFields 32 part, packFields 32 (part.map fun _ => 0xFFFFFFFF))

/-! ### PRED -/

/-- The score of candidate row r of block b for one vector: lanes below RANK, weights and z of one or two planes, ±1 for one (R124). The rows are
those that `map` gives, as LDW and STRM have them (R74, R122). -/
def predScore (e : EngineSt) (map : Nat → Nat) (bp : Nat) (z : List W256) (b r rank : Nat) : Int :=
  let wp := (List.range bp).map fun p => Tab.get 0 e.planes (8 * physRow map r + b * bp + p)
  ((List.range rank).map fun i =>
    let wv := if bp = 1 then 2 * planeVal wp false i - 1 else planeVal wp true i
    let zv := if z.length = 1 then 2 * planeVal z false i - 1 else planeVal z true i
    wv * zv).sum

/-- PRED: scores every candidate against every vector and writes the active neurons; N goes into X4 when it completes (R125). A neuron number
NBASE + n is taken modulo 2^32, so that a list that passes it is not ascending (DESIGN CHOICE: the manual states no number there;
notes/assumptions/169.md). -/
def execPred (c : CoreId) (t : SlotId) (ev : UnitEvents) (s : State) : Res :=
  .next (s.issue c t .pred fun w s =>
    let k := s.core c
    let ts := k.slot t
    let bp := if bit w 52 then 2 else 1
    let ap := if bit w 51 then 2 else 1
    let blocks := bits w 14 3
    let nv := ts.blocks
    let z := spVectors ts k.spd (bits w 48 46) (bits w 45 32) ap nv ts.vstr
    let out := spRange ts k.spd (bits w 31 29) (bits w 28 15) (listWords (256 * blocks))
    let pOk := decide (ts.dbase ≤ ts.param) && decide (ts.param + 1 ≤ ts.dbound) && k.spd.mapped ts.param 1
    s.checked c t [(z.isNone || out.isNone || !pOk, 0x32)] fun s =>
      let (rs, s) := s.spdReads c (ts.param :: (List.range nv).flatMap fun v => (List.range ap).map fun p => z.getD 0 + v * ts.vstr + p)
      let s := (s.modCore c (Core.freezeFor (ce2At rs) (k.lateOf .array ev.late))).sawUe c ev.ue
      let rec_ := ((datas rs).getD 0 0).toNat
      let rank := bits rec_ 168 160
      let quorum := bits rec_ 175 169
      let recBad := !(poisoned (rs.take 1)) && (rank = 0 || decide (256 < rank) || quorum = 0)
      s.checked c t [(recBad, 0x31), (poisoned rs, 0x35)] fun s =>
        let thr := sext (bits rec_ (32 * bits w 50 49 + 31) (32 * bits w 50 49)) 32
        let zs := datas (rs.drop 1)
        let e := (s.core c).flat
        let active := (List.range (256 * blocks)).filter fun n =>
          decide (quorum ≤ ((List.range nv).filter fun v =>
            decide (thr ≤ predScore e (k.rows false) bp ((zs.drop (v * ap)).take ap) (n / 256) (n % 256) rank)).length)
        let items := active.map fun n => (bits rec_ 159 128 + n) % 2 ^ 32
        let n := items.length
        let s := s.putWords c false (listWrite (out.getD 0) items)
        (s.modCore c fun k => { k with cnt := { k.cnt with predLast := n, predCand := satAdd k.cnt.predCand (256 * blocks),
                                                           predAct := satAdd k.cnt.predAct n } }).occupy
          c t .array w (nv * (blocks * bp * ap + 6) + 8 + ceilDiv (n + 1) 8) fun b => { b with wb := [(4, BitVec.ofNat 32 n)] })

/-! ### DELTA -/

/-- How one element of a frame comes out: its Δ, the new s, and 0 zero, 1 below the threshold, 2 applied (R142). -/
def deltaElem (key : Bool) (thr : Nat) (x s : Int) : Int × Int × Nat :=
  if key then (x, x, 2)
  else
    let d := x - s
    if d = 0 then (0, s, 0) else if d.natAbs < thr then (0, s, 1) else (d, x, 2)

/-- The smallest width, at least 2, whose two's complement range holds a value. -/
def intWidth (v : Int) : Nat := max 2 (if 0 ≤ v then F32.bitlen v.natAbs + 1 else F32.bitlen (v.natAbs - 1) + 1)
/-- The smallest width class 2, 4, 8 or 12 that is at least a width (R143). -/
def widthClass (n : Nat) : Nat := if n ≤ 2 then 2 else if n ≤ 4 then 4 else if n ≤ 8 then 8 else 12

/-- The BA that the layer of a slot's held tile declares: that of the engine slot its LAYER record names (R144, notes/assumptions/144.md). -/
def State.layerBa (s : State) (c t : Nat) : Option Nat :=
  match ((s.core c).slot t).held with
  | none => none
  | some h =>
    let q := (s.die (coreDie c)).ctr h.ctr
    (s.layerOf q.handle q.layer).map fun l => ((s.core c).cfg l.slot).ba

/-- A Swash frame, DELTA or KEY (R142 to R145). -/
def State.swash (c t : Nat) (key : Bool) (ev : UnitEvents) (w : Nat) (s : State) : State :=
  let k := s.core c
  let ts := k.slot t
  let cnt := bits w 14 3
  let nv := ts.blocks
  match spRange ts k.spd (bits w 31 29) (bits w 28 15) 1 with
  | none => s.fault c t 0x32
  | some a =>
    let (hs, s) := s.spdReads c [a]
    let s := s.modCore c (Core.freezeFor (ce2At hs) [])
    let hp := poisoned hs
    let h := ((datas hs).getD 0 0).toNat
    let ba := bits h 19 16
    let bad := !hp && (decide (ba < 2) || decide (11 < ba) || (!key && (!bit h 20 || (match s.layerBa c t with | some b => b ≠ ba | none => false))))
    let stride := cnt * ba
    let frame := spVectors ts k.spd (bits w 48 46) (bits w 45 32) stride nv ts.vstr
    let area := spRange ts k.spd (bits w 31 29) (bits w 28 15) (10 + nv * stride + nv * cnt * 12)
    s.checked c t [(bad, 0x31), (!hp && (frame.isNone || area.isNone), 0x32), (hp, 0x35)] fun s =>
      let xa := (List.range nv).flatMap fun v => (List.range stride).map fun i => frame.getD 0 + v * ts.vstr + i
      let sa := if key then [] else (List.range (nv * stride)).map (a + 10 + ·)
      let (rs, s) := (s.sawUe c ev.ue).spdReads c (xa ++ sa)
      let s := s.modCore c (Core.freezeFor ((ce2At rs).map (1 + ·)) (k.lateOf .swash ev.late))
      s.checked c t [(poisoned rs, 0x35)] fun s =>
        let ws := datas rs
        let elem := fun (base v i : Nat) => planeVal ((ws.drop (base + v * stride + i / 256 * ba)).take ba) true (i % 256)
        let frames := (List.range nv).map fun v => (v, (List.range (256 * cnt)).map fun i =>
          deltaElem key (bits h 15 0) (elem 0 v i) (if key then 0 else elem (nv * stride) v i))
        let all := frames.flatMap (·.2)
        let count := fun n => (all.filter fun e => e.2.2 = n).length
        let applied := frames.filter fun f => f.2.any fun e => e.2.2 = 2
        let n := applied.length
        let wd := if key then widthClass ba
          else widthClass ((all.filter fun e => e.2.2 = 2).foldl (fun m e => max m (intWidth e.1)) 2)
        let area := a + 10 + nv * stride
        let deltas := (applied.mapIdx fun i f => wholeWords (area + i * cnt * wd) (planeBlocks wd (f.2.map (·.1)))).flatten
        let states := applied.flatMap fun f => wholeWords (a + 10 + f.1 * stride) (planeBlocks ba (f.2.map (·.2.1)))
        let fr := if key then 0 else (bits h 63 32 + 1) % 2 ^ 32
        let head := h - bits h 63 32 * 2 ^ 32 + fr * 2 ^ 32 + (if bit h 20 then 0 else 2 ^ 20)
        let s := s.putWords c false (listWrite (a + 1) (applied.map (·.1)) ++ deltas ++ states ++ wholeWords a [BitVec.ofNat 256 head])
        (s.modCore c fun k => { k with cnt := { k.cnt with
            swZero := satAdd k.cnt.swZero (count 0), swBelow := satAdd k.cnt.swBelow (count 1), swAppl := satAdd k.cnt.swAppl (count 2),
            swVskip := satAdd k.cnt.swVskip (nv - n) } }).occupy
          c t .swash w (nv * cnt * ba + n * cnt * (ba + wd) + 16) fun b => { b with wb := [(3, BitVec.ofNat 32 n), (4, BitVec.ofNat 32 wd)] }

/-- DELTA: forms deltas against the stored state. -/
def execDelta (c : CoreId) (t : SlotId) (ev : UnitEvents) (s : State) : Res := .next (s.issue c t .delta (State.swash c t false ev))
/-- DELTA KEY: a key frame applies every element and restarts FRAME. -/
def execDeltaKey (c : CoreId) (t : SlotId) (ev : UnitEvents) (s : State) : Res := .next (s.issue c t .deltaKey (State.swash c t true ev))

end Sys2Proof.Machine
end

