-- ==== Sys2Proof/Machine/Mgmt.lean ====
section
/-! DEFINITION. Management commands over cores, dies and units (R27, R28, R241, R251, R394, R399, R400, R448), Tidemark reads by the BMC
(R419) and attestation (R451). -/
-- Log entries (notes/assumptions): DESIGN CHOICE 94, 180; DEDUCED 74, 123, 125, 127.

namespace Sys2Proof.Machine

/-! ### Cores (R27, R241, R251, R394) -/

/-- A command that names a core: INVALID for a number that names none, or a core disabled at test (R373). -/
def State.coreCmd (i : Instr) (src : Source) (op : Nat) (from_ : List Source) (core : Nat) (go : State → State) (s : State) : State :=
  s.cmd i src op from_ false fun s =>
    if 144 ≤ core ∨ s.role core = .disabled then s.answerCmd src op .invalid [] else go s

/-- FENCE_CORE once it is taken in: CORE_BEACHED for a core already beached (R27). -/
def State.fenceCore (i : Instr) (src : Source) (core : Nat) (s : State) : State :=
  s.coreCmd i src 0xC010 [.host, .bmc, .hub] core fun s =>
    if s.fenced core then s.answerCmd src 0xC010 .coreBeached []
    else (s.beach (coreDie core) [coreLocal core] 5).answerCmd src 0xC010 .success []

/-- FENCE_CORE: beaches a core with cause COMMAND. A command from the hub Headland crosses the mailbox meeting point, `link` (R26). -/
def execFenceCore (src : Source) (core : Nat) (link : MboxLink) (s : State) : Res :=
  let i := Instr.fenceCore src core link
  .next (match src with
    | .hub => s.hubCmd i 0xC010 link (State.fenceCore i .hub core)
    | src => s.fenceCore i src core)

/-- UNBEACH: resets a beached core and starts its self-test; STATE for a core that is not beached, that is in self-test, or that was
beached with its die (R251). -/
def execUnbeach (src : Source) (core : Nat) (s : State) : Res :=
  .next (s.coreCmd (.unbeach src core) src 0xC011 [.host, .bmc] core fun s =>
    let d := coreDie core
    if s.role core ≠ .beached || core ∈ s.hub.selftest || (s.die d).isolated || decide (Tab.get 0 (s.die d).fenceCause (coreLocal core) = 6) then
      s.answerCmd src 0xC011 .state []
    else
      let s := s.coreReset core
      ({ s with hub := { s.hub with selftest := s.hub.selftest ++ [core] } }).answerCmd src 0xC011 .success [])

/-- CORE_RESET: an in-service core of a group that a loaded stream claims is beached first, and reset once its fence has completed;
any other core is reset at once and keeps its role (R394). -/
def execCoreReset (src : Source) (core : Nat) (s : State) : Res :=
  .next (s.coreCmd (.coreReset src core) src 0xC012 [.host, .bmc] core fun s =>
    let s := if s.role core = .inService && (s.claimOf core).isSome then
        let s := s.beach (coreDie core) [coreLocal core] 5
        { s with hub := { s.hub with resetAfterFence := s.hub.resetAfterFence ++ [core] } }
      else s.coreReset core
    s.answerCmd src 0xC012 .success [])

/-! ### Dies and units (R399, R400, R449) -/

/-- DIE_RESET. The die's cores stop issue, and the reset follows once their grants have fallen away under R381; with no grant held it comes at once
(R399). A die that isolation holds in reset is not reset again (R20). -/
def execDieReset (src : Source) (die : Nat) (s : State) : Res :=
  .next (s.cmd (.dieReset src die) src 0xC013 [.host, .bmc] false fun s =>
    if 4 ≤ die then s.answerCmd src 0xC013 .invalid []
    else if (s.die die).isolated then s.answerCmd src 0xC013 .state []
    else (if s.dieGrants die = 0 then s.dieReset die 1 else s.modDie die fun x => { x with resetDue := 1 }).answerCmd src 0xC013 .success [])

/-- DIE_RESET_RELEASE: the die and its cores leave reset, its PLL locked; an isolated die stays in reset. -/
def execDieResetRelease (d : DieId) (s : State) : Res :=
  .next (if !(s.die d).inReset || (s.die d).isolated || s.bw.parked || s.hub.warm then s
    else
      let s := s.modDie d fun x => { x with inReset := false }
      let s := ((List.range 36).map (36 * (d : Nat) + ·)).foldl (fun (s : State) c => s.modCore c fun k => { k with inReset := false }) s
      ({ s with bw := { s.bw with lock := s.bw.lock ||| (1#5 <<< (d : Nat)), pll := s.bw.pll ||| (1#5 <<< (d : Nat)) } }).watch ((List.range 36).map (36 * (d : Nat) + ·)))

/-- The unit of a code (R449). -/
def unitOfCode : Nat → Option ResetUnit
  | 0x10 => some .dieHeadland | 0x11 => some .hubHeadland | 0x12 => some .updateEngine | 0x13 => some .sorzeind | _ => none
/-- The code of a unit. -/
def unitCode : ResetUnit → Nat
  | .dieHeadland => 0x10 | .hubHeadland => 0x11 | .updateEngine => 0x12 | .sorzeind => 0x13
/-- An incarnation number after a reset (R395). -/
def nextInc (n : Nat) : Nat := (n + 1) % 16
/-- Unit reset (R400): the cause is 0 command or 1 watchdog. The hub Headland's own mailbox commands that wait, or whose reply is to come again,
complete RESET_LOST. -/
def State.unitReset (u : ResetUnit) (d cause : Nat) (s : State) : State :=
  let s := match u with
    | .dieHeadland =>
      let lost := s.est.steps.filter fun (e : EStep) => e.handed && e.cols.any fun c => c.2.1 = d && c.2.2 ≠ 0
      (lost.foldl (fun (s : State) (e : EStep) => s.failStep e.num 2) s).modDie d fun x => { x with headInc := nextInc x.headInc }
    | .hubHeadland =>
      let s := s.est.steps.foldl (fun (s : State) (e : EStep) => s.failStep e.num 2) s
      let s := { s with dies := s.dies.map fun (x : Nat × Die) => (x.1, { x.2 with evts := x.2.evts.map fun (v : FenceEvt) => { v with hub := v.hub.forget } }) }
      let lost := s.hub.mbxReissue.isSome || s.sec.cmds.any fun i => cmdSource i = Source.hub
      { s with hub := { s.hub with hubInc := nextInc s.hub.hubInc, mbxReissue := none }, sec := { s.sec with cmds := s.sec.cmds.filter fun i => cmdSource i ≠ Source.hub },
               out := { s.out with hubStatus := if lost then Status.resetLost.code else s.out.hubStatus } }
    | .updateEngine =>
      let (v, s) := s.draw
      let s := s.abortAll ([1, 2, 3, 6].getD (v % 4) 1)
      { s with hub := { s.hub with updInc := nextInc s.hub.updInc } }
    | .sorzeind => { s with hub := { s.hub with sorzInc := nextInc s.hub.sorzInc } }
  s.record 0x0004 (if u = ResetUnit.dieHeadland then d else 4) (b8 cause) 0xFF (unitCode u)

/-- UNIT_RESET: codes 0x10 to 0x13. -/
def execUnitReset (src : Source) (code : Nat) (die : Nat) (s : State) : Res :=
  .next (s.cmd (.unitReset src code die) src 0xC014 [.host, .bmc] false fun s =>
    match unitOfCode code with
    | none => s.answerCmd src 0xC014 .invalid []
    | some u =>
      if u = ResetUnit.dieHeadland ∧ 4 ≤ die then s.answerCmd src 0xC014 .invalid []
      else (s.unitReset u die 0).answerCmd src 0xC014 .success [])
/-- UNIT_WATCHDOG: a unit's watchdog expires. -/
def execUnitWatchdog (u : ResetUnit) (d : DieId) (s : State) : Res := .next (if s.bw.parked then s else s.unitReset u d 1)

/-! ### Heartbeats (R28) -/

/-- HEARTBEAT: the hub Headland's command reaches the management plane. -/
def execHeartbeat (link : MboxLink) (s : State) : Res :=
  .next (s.hubCmd (.heartbeat link) 0xC0FF link fun s => s.cmd (.heartbeat link) .hub 0xC0FF [.hub] false fun s =>
      ({ s with hub := { s.hub with hbLast := s.us, hbMissed := 0, silent := false } }).answerCmd .hub 0xC0FF .success [])
/-- HEARTBEAT_MISS: three heartbeats of 1 ms have been missed: CONTROL_SILENT, once a silence, and nothing is reset. -/
def execHeartbeatMiss (s : State) : Res :=
  .next (if !s.hub.mgmtUp || s.hub.silent || s.bw.parked || decide (s.us < s.hub.hbLast + 3000) then s
    else (({ s with hub := { s.hub with silent := true, hbMissed := 3 } }).record 0x0026 4 (b8 3)).alert 0)

/-! ### Tidemark reads (R418, R419) -/

/-- TMK_READ: the snapshot of a sequence is started; the reply follows it. RECOVERY serves the host too (R440). -/
def execTmkRead (src : Source) (seq : Nat) (s : State) : Res :=
  .next (s.cmd (.tmkRead src seq) src 0xC050 (if s.sec.recovery then [.host, .bmc] else [.bmc]) true fun s =>
    { s with tmk := { s.tmk with bmc := { s.tmk.bmc with seq := seq % 2 ^ 64, busy := true }, readSrc := src, readQuiet := false } })
/-- The reply to TMK_READ: RESULT, and the entry when it is VALID; otherwise there is no such entry. -/
def State.readReply (x : Snap) (s : State) : State :=
  let src := s.tmk.readSrc
  if s.tmk.readQuiet || (src = .host && s.bw.pfail) then s
  else if x.result = 0 then s.answerCmd src 0xC050 .success (b8 0 ++ x.data) else s.answerCmd src 0xC050 .notFound (b8 x.result)
/-- A snapshot is complete: the host's, in its registers, or that of TMK_READ, which is answered. -/
def State.snapshotDone (src : Source) (s : State) : State :=
  match src with
  | .host =>
    if !s.tmk.host.busy then s
    else let (x, s) := s.snapshot s.tmk.host; { s with tmk := { s.tmk with host := x } }
  | .bmc =>
    if !s.tmk.bmc.busy then s
    else let (x, s) := s.snapshot s.tmk.bmc; ({ s with tmk := { s.tmk with bmc := x } }).readReply x
  | .hub => s

/-! ### Attestation (R451) -/

/-- A handle's state code (R181). -/
def handleCode : HandleSt → Nat
  | .empty => 0 | .loading => 1 | .loaded => 2 | .replacing => 3 | .unloading => 4
/-- Component records of the running image: ID, VERSION and DIGEST; zero where none runs. -/
def Sec.compRecords (x : Sec) : List Byte :=
  if x.recovery then List.replicate 360 0
  else (List.range 5).flatMap fun k =>
    let e := compEntry (x.flash x.running) k
    b8 k ++ leBytes 3 0 ++ fitBytes 4 (cut e 4 4) ++ fitBytes 64 (cut e 64 64)
/-- A handle's stream record; zero for EMPTY. -/
def Handle.attest (h : Handle) : List Byte :=
  match h.st, h.stream with
  | .empty, _ => List.replicate 88 0
  | st, x =>
    leBytes 8 h.ident ++ leBytes 8 h.key ++ fitBytes 64 (match x with | some y => y.digest | none => []) ++ b8 (handleCode st) ++ leBytes 7 0
/-- DEVICE_ID. -/
def deviceId : List Byte := shake256 8 (Config.ed448Public devIdKey)
/-- Bytes 0 to 847 of the report. -/
def State.reportBody (nonce : List Byte) (s : State) : List Byte :=
  let x := s.sec
  let flags := b2n x.trialRun + 2 * b2n s.hub.lock + 4 * b2n x.signedOnly + 8 * b2n x.recovery + 16 * b2n s.tmk.defaulted
  ascii "K4AT" ++ leBytes 2 1 ++ b8 Config.steppingNumber ++ b8 flags ++ deviceId ++ nonce ++ leBytes 8 s.tmk.head ++ leBytes 4 s.tmk.bootCount ++
    leBytes 4 x.rollback ++ leBytes 4 x.svn ++ b8 x.running ++ leBytes 3 0 ++ x.compRecords ++ ((List.range 4).flatMap fun h => (s.handle h).attest) ++
    shake256 64 (keyStoreBytes x.keys)
/-- The report: its body, SIG under AK, 6 reserved bytes. -/
def State.report (nonce : List Byte) (s : State) : List Byte :=
  let b := s.reportBody nonce
  b ++ fitBytes 114 (Config.ed448Sign s.sec.ak b (ascii "K4-ATTEST")) ++ leBytes 6 0
/-- The CERT reply: DevID, AK, the ROM's endorsement of AK with its SVN, the certificate. -/
def State.certReply (s : State) : List Byte :=
  s.sec.devIdPub ++ Config.ed448Public s.sec.ak ++ s.sec.endorsement ++ Config.devIdCertificate
/-- An attestation request: through DOE for the host, by MCTP for the BMC; one without a 32-byte nonce is no request. -/
def State.attest (src : Source) (nonce : List Byte) (go : State → List Byte) (s : State) : State :=
  if nonce.length ≠ 32 then s
  else match src with
    | .host => s.doe true go
    | .bmc => if s.hub.mgmtUp then { s with out := { s.out with bmcStatus := 0, bmcReply := go s } } else s
    | .hub => s

/-- ATTEST_REPORT. -/
def execAttestReport (src : Source) (nonce : List Byte) (s : State) : Res := .next (s.attest src nonce fun s => s.report nonce)
/-- ATTEST_CERT. -/
def execAttestCert (src : Source) (nonce : List Byte) (s : State) : Res := .next (s.attest src nonce State.certReply)

end Sys2Proof.Machine
end

