-- ==== Sys2Proof/Machine/Serve.lean ====
section
/-! DEFINITION. The management commands that wait, served in arrival order when the one in service is over (R423, R424, R448), and the events that end
one: a bank write, a Tidemark snapshot, a power failure (R369, R386). -/
-- Log entries (notes/assumptions): DEDUCED 59, 111.

namespace Sys2Proof.Machine

/-- The service of a command of R448 (each row's own meaning). -/
def serveCmd (i : Instr) (s : State) : Res :=
  match i with
  | .updState src => execUpdState src s
  | .updCancel src => execUpdCancel src s
  | .fwConfirm src => execFwConfirm src s
  | .fenceCore src core link => execFenceCore src core link s
  | .unbeach src core => execUnbeach src core s
  | .coreReset src core => execCoreReset src core s
  | .dieReset src die => execDieReset src die s
  | .unitReset src code die => execUnitReset src code die s
  | .slack src enter => execSlack src enter s
  | .neap src enter => execNeap src enter s
  | .settingSet src ident v => execSettingSet src ident v s
  | .settingGet src ident => execSettingGet src ident s
  | .factoryReset src => execFactoryReset src s
  | .keyEnroll src key => execKeyEnroll src key s
  | .keyRevoke src keyId => execKeyRevoke src keyId s
  | .keyList src => execKeyList src s
  | .tmkRead src seq => execTmkRead src seq s
  | .heartbeat link => execHeartbeat link s
  | .mailboxUnsupported src opcode link => execMailboxUnsupported src opcode link s
  | _ => .next s
/-- Up to `n` waiting commands are served, until one stays in service. -/
def State.serveCmds : Nat → State → State
  | 0, s => s
  | n + 1, s =>
    if s.serving then s
    else match s.sec.cmds with
      | [] => s
      | i :: rest => match serveCmd i { s with sec := { s.sec with cmds := rest } } with
        | .next t => t.serveCmds n
        | _ => s
/-- The waiting commands are served. -/
def State.serveWaiting (s : State) : State := s.serveCmds s.sec.cmds.length

/-- SETTINGS_BANK_WRITE: the write in progress commits and is read back (R423); what waits behind its command follows. -/
def execSettingsBankWrite (readBackOk : Bool) (s : State) : Res :=
  .next (if s.hub.mgmtUp && !s.bw.pfail then (s.bankWrite readBackOk).serveWaiting else s)
/-- TMK_SNAPSHOT_DONE: a snapshot is complete (R418, R419). -/
def execTmkSnapshotDone (src : Source) (s : State) : Res :=
  .next (if s.hub.mgmtUp then (s.snapshotDone src).serveWaiting else s)

/-- PWR_FAIL_ASSERT: two low samples of PWR_FAIL_N; a command of the BMC that waits for a bank write is answered STATE (R424). -/
def execPwrFailAssert (uj : Nat) (s : State) : Res :=
  .next (let s := { s with bw := { s.bw with failHigh := false } }
    if s.hub.mgmtUp then (s.powerFail uj).serveWaiting else s)
/-- REFCLK_LOSS: the clock monitor detects it and the package parks (R369). -/
def execRefclkLoss (s : State) : Res :=
  .next (if !s.hub.mgmtUp || s.bw.parked then s
    else
      let (v, s) := s.draw
      let s := ((s.record 0x0018 4 []).powerFail v).serveWaiting
      { s with bw := { s.bw with lock := 0, pll := 0 } })

end Sys2Proof.Machine
end

