-- ==== Sys2Proof/Machine/Sideband.lean ====
section
/-! DEFINITION. The sideband and boundary scan: alerts (R463), PLDM sensors, MCTP control, I3C (R466) and JTAG (R467). -/
-- Log entries (notes/assumptions): DESIGN CHOICE 128; DEDUCED 113.

namespace Sys2Proof.Machine

/-- A sideband transaction: before step 2 of cold reset the K4 NAKs it (R466). -/
def State.sideband (go : State → State) (s : State) : State := if s.hub.mgmtUp then go s else s

/-! ### Alerts (R463) -/

/-- Clears alert cause bits, and the IBIs that waited for them. -/
def State.clearAlerts (m : BitVec 4) (s : State) : State :=
  { s with hub := { s.hub with alert := s.hub.alert &&& ~~~m, ibi := s.hub.ibi.filter fun k => !m.getLsbD k } }

/-- HUB_ALERT_CLEAR: a host write of 1 clears a bit. -/
def execHubAlertClear (v : W32) (s : State) : Res := .next (s.clearAlerts (v.truncate 4))
/-- SMBUS_ALERT_RESPONSE: with ALERT_N asserted, the read returns 0x60 + SBADDR and clears every bit set when it began. -/
def execSmbusAlertResponse (s : State) : Res :=
  .next (s.sideband fun s =>
    if s.hub.alert = 0 then s
    else ({ s with out := { s.out with smbus := 0x60 + s.hub.sbaddr } }).clearAlerts s.hub.alert)
/-- IBI_ACK: the acknowledgement of a raised IBI clears its bit; its mandatory data byte is the bit number. -/
def execIbiAck (k : Fin 4) (s : State) : Res :=
  .next (s.sideband fun s =>
    if (k : Nat) ∈ s.hub.ibi then ({ s with out := { s.out with i3c := b8 k } }).clearAlerts (1#4 <<< (k : Nat)) else s)

/-! ### PLDM and MCTP (R466) -/

/-- PLDM_GET_SENSOR_READING: the hottest sensor of a die, the package draw in 1/4 W, or a fan's speed; a die not yet read is unavailable. -/
def execPldmGetSensorReading (sensor : PldmSensor) (s : State) : Res :=
  .next (s.sideband fun s =>
    let bytes := match sensor with
      | .dieTemp d => match Tab.get none s.bw.temps d with | some t => b8 0 ++ [BitVec.ofInt 8 t] | none => b8 1
      | .draw => b8 0 ++ leBytes 2 s.bw.draw
      | .fan n => b8 0 ++ leBytes 2 (Tab.get {} s.bw.fans n).rpm
    { s with out := { s.out with pldm := bytes } })

/-- MCTP_CONTROL: Set and Get Endpoint ID act on the EID of the binding they came on; SetTID and GetTID of the PLDM base act on the terminus. -/
def execMctpControl (b : Binding) (m : MctpMsg) (s : State) : Res :=
  .next (s.sideband fun s =>
    let eid := match b with | .smbus => s.hub.eidSmb | .i3c => s.hub.eidI3c
    match m with
    | .setEid e =>
      let h := match b with | .smbus => { s.hub with eidSmb := e % 256 } | .i3c => { s.hub with eidI3c := e % 256 }
      { s with hub := h, out := { s.out with mctp := b8 0 ++ b8 e } }
    | .getEid => { s with out := { s.out with mctp := b8 0 ++ b8 eid } }
    | .other code => { s with out := { s.out with mctp := Config.mctpControlReply code } }
    | .pldmSetTid t => { s with hub := { s.hub with pldmTid := t % 256 }, out := { s.out with pldm := b8 0 } }
    | .pldmGetTid => { s with out := { s.out with pldm := b8 0 ++ b8 s.hub.pldmTid } }
    | .pldmBase code => { s with out := { s.out with pldm := Config.pldmBaseReply code } })

/-! ### I3C (R463, R466) -/

/-- The static address (R460). -/
def Hub.staticAddr (h : Hub) : Nat := 0x60 + h.sbaddr
/-- I3C_CCC: address assignment, IBI enables and the GET commands; others are not supported. -/
def execI3cCcc (c : Ccc) (s : State) : Res :=
  .next (s.sideband fun s =>
    let hub := fun (f : Hub → Hub) => { s with hub := f s.hub }
    let get := fun (n : Nat) => { s with out := { s.out with i3c := Config.i3cAnswer n } }
    match c with
    | .entdaa a => if s.hub.i3cAddr.isNone then hub fun h => { h with i3cAddr := some a } else s
    | .setdasa st a => if st = s.hub.staticAddr ∧ s.hub.i3cAddr.isNone then hub fun h => { h with i3cAddr := some a } else s
    | .setnewda a => if s.hub.i3cAddr.isSome then hub fun h => { h with i3cAddr := some a } else s
    | .rstdaa => hub fun h => { h with i3cAddr := none }
    | .enec ibi => if ibi then hub fun h => { h with ibiEn := true } else s
    | .disec ibi => if ibi then hub fun h => { h with ibiEn := false } else s
    | .getpid => get 0
    | .getbcr => get 1
    | .getdcr => get 2
    | .getstatus => get 3
    | .getmxds => get 4
    | .unsupported => { s with out := { s.out with i3c := [] } })

/-! ### JTAG (R467) -/

/-- Whether an instruction drives or floats balls. -/
def jtagDrives : JtagInstr → Bool
  | .extest | .clamp | .highz | .extestPulse | .extestTrain => true
  | .bypass | .idcode | .samplePreload => false
/-- IDCODE: version, part number, Ahnilo's JEP106 code, 1. -/
def idcode : Nat := Config.steppingNumber * 2 ^ 28 + Config.partNumber * 2 ^ 12 + Config.jep106.toNat * 2 + 1
/-- The instruction that acts: one that drives balls acts as BYPASS while PERST_N is deasserted. -/
def Hub.jtagActs (h : Hub) : JtagInstr := if jtagDrives h.jtag && !h.perst then .bypass else h.jtag
/-- JTAG_INSTRUCTION: the instruction enters the instruction register, and TDO answers for the one that acts. -/
def execJtagInstruction (i : JtagInstr) (s : State) : Res :=
  .next (let h := { s.hub with jtag := i }
    let a := h.jtagActs
    { s with hub := h, out := { s.out with tdo := if a = .idcode then leBytes 4 idcode else if a = .bypass then b8 0 else s.out.tdo } })

end Sys2Proof.Machine
end

