-- ==== Sys2Proof/Machine/Dispatch.lean ====
section
/-! DEFINITION. Dispatch: one arm per command, each one direct call of its meaning. -/

namespace Sys2Proof.Machine

def exec (i : Instr) (s : State) : Host.Outcome State Fault Refusal :=
  match i with
  | .cfgXset c t => Sys2Proof.Machine.execCfgXset c t s
  | .cfgXadd c t => Sys2Proof.Machine.execCfgXadd c t s
  | .cfgXmad c t => Sys2Proof.Machine.execCfgXmad c t s
  | .cfgSetl c t => Sys2Proof.Machine.execCfgSetl c t s
  | .cfgSetstr c t => Sys2Proof.Machine.execCfgSetstr c t s
  | .cfgSbarm c t => Sys2Proof.Machine.execCfgSbarm c t s
  | .cfgLdrq c t ev => Sys2Proof.Machine.execCfgLdrq c t ev s
  | .cfgSetparam c t => Sys2Proof.Machine.execCfgSetparam c t s
  | .ldw c t slice ups ue late => Sys2Proof.Machine.execLdw c t slice ups ue late s
  | .strm c t slice ups ue late => Sys2Proof.Machine.execStrm c t slice ups ue late s
  | .freezeEnd c => Sys2Proof.Machine.execFreezeEnd c s
  | .gathRow c t => Sys2Proof.Machine.execGathRow c t s
  | .gathLane c t => Sys2Proof.Machine.execGathLane c t s
  | .gathPack c t ev => Sys2Proof.Machine.execGathPack c t ev s
  | .gathPacku c t ev => Sys2Proof.Machine.execGathPacku c t ev s
  | .scatAdd32 c t ev => Sys2Proof.Machine.execScatAdd32 c t ev s
  | .scatAdd64 c t ev => Sys2Proof.Machine.execScatAdd64 c t ev s
  | .scatVadd c t ev => Sys2Proof.Machine.execScatVadd c t ev s
  | .scatLoad c t ev => Sys2Proof.Machine.execScatLoad c t ev s
  | .scatStore c t ev => Sys2Proof.Machine.execScatStore c t ev s
  | .rqnt c t ev => Sys2Proof.Machine.execRqnt c t ev s
  | .rowf c t ev => Sys2Proof.Machine.execRowf c t ev s
  | .cens c t ev => Sys2Proof.Machine.execCens c t ev s
  | .pred c t ev => Sys2Proof.Machine.execPred c t ev s
  | .delta c t ev => Sys2Proof.Machine.execDelta c t ev s
  | .deltaKey c t ev => Sys2Proof.Machine.execDeltaKey c t ev s
  | .fill c t ev => Sys2Proof.Machine.execFill c t ev s
  | .copyLocal c t ev => Sys2Proof.Machine.execCopyLocal c t ev s
  | .copyWindow c t => Sys2Proof.Machine.execCopyWindow c t s
  | .send c t => Sys2Proof.Machine.execSend c t s
  | .asyncComplete c u => Sys2Proof.Machine.execAsyncComplete c u s
  | .wait c t => Sys2Proof.Machine.execWait c t s
  | .waitRelease c t => Sys2Proof.Machine.execWaitRelease c t s
  | .waitTimeout c t => Sys2Proof.Machine.execWaitTimeout c t s
  | .sig c t => Sys2Proof.Machine.execSig c t s
  | .sigRemoteDelivery src t dest => Sys2Proof.Machine.execSigRemoteDelivery src t dest s
  | .take c t => Sys2Proof.Machine.execTake c t s
  | .takeServe c t => Sys2Proof.Machine.execTakeServe c t s
  | .done c t => Sys2Proof.Machine.execDone c t s
  | .leaseCommit c t pairOk upsets => Sys2Proof.Machine.execLeaseCommit c t pairOk upsets s
  | .doneComplete c t => Sys2Proof.Machine.execDoneComplete c t s
  | .loop c t => Sys2Proof.Machine.execLoop c t s
  | .br c t => Sys2Proof.Machine.execBr c t s
  | .halt c t => Sys2Proof.Machine.execHalt c t s
  | .slotRestart c t => Sys2Proof.Machine.execSlotRestart c t s
  | .tsStart c t r => Sys2Proof.Machine.execTsStart c t r s
  | .tsStop c t => Sys2Proof.Machine.execTsStop c t s
  | .clockGateIdle c => Sys2Proof.Machine.execClockGateIdle c s
  | .hbeatAdvance c checksPass ue => Sys2Proof.Machine.execHbeatAdvance c checksPass ue s
  | .spdRemoteWrite src t target stuck => Sys2Proof.Machine.execSpdRemoteWrite src t target stuck s
  | .spdRemoteRead src t target ups stuck => Sys2Proof.Machine.execSpdRemoteRead src t target ups stuck s
  | .spdPatrolScrub c b upset => Sys2Proof.Machine.execSpdPatrolScrub c b upset s
  | .spdBankReqWrite c on => Sys2Proof.Machine.execSpdBankReqWrite c on s
  | .bankWakeStart c b => Sys2Proof.Machine.execBankWakeStart c b s
  | .bankWakeDone c b => Sys2Proof.Machine.execBankWakeDone c b s
  | .bankDrainDone c b => Sys2Proof.Machine.execBankDrainDone c b s
  | .spdForcedOff c b reads writes => Sys2Proof.Machine.execSpdForcedOff c b reads writes s
  | .postingOpen d step layer census halo writer => Sys2Proof.Machine.execPostingOpen d step layer census halo writer s
  | .affwaitExpiry d ctr => Sys2Proof.Machine.execAffwaitExpiry d ctr s
  | .retryAvailable d => Sys2Proof.Machine.execRetryAvailable d s
  | .leaseExpired d e upsets => Sys2Proof.Machine.execLeaseExpired d e upsets s
  | .heartbeatTimeout c => Sys2Proof.Machine.execHeartbeatTimeout c s
  | .ce2WindowEnd => Sys2Proof.Machine.execCe2WindowEnd s
  | .fenceEvent d toHub pairOk => Sys2Proof.Machine.execFenceEvent d toHub pairOk s
  | .fenceResend d => Sys2Proof.Machine.execFenceResend d s
  | .fenceAck d fromHub pairOk => Sys2Proof.Machine.execFenceAck d fromHub pairOk s
  | .joinComplete c => Sys2Proof.Machine.execJoinComplete c s
  | .fenceRelease d ns => Sys2Proof.Machine.execFenceRelease d ns s
  | .selftestDone c pass pairOk => Sys2Proof.Machine.execSelftestDone c pass pairOk s
  | .estEnable v => Sys2Proof.Machine.execEstEnable v s
  | .estDisable v => Sys2Proof.Machine.execEstDisable v s
  | .estInitDone => Sys2Proof.Machine.execEstInitDone s
  | .estWindowRegWrite offset v => Sys2Proof.Machine.execEstWindowRegWrite offset v s
  | .intakeStaleWrite slot => Sys2Proof.Machine.execIntakeStaleWrite slot s
  | .streamOpen n => Sys2Proof.Machine.execStreamOpen n s
  | .streamSubmit n => Sys2Proof.Machine.execStreamSubmit n s
  | .streamClose n => Sys2Proof.Machine.execStreamClose n s
  | .tornTimeout slot => Sys2Proof.Machine.execTornTimeout slot s
  | .biSnoopDelay line => Sys2Proof.Machine.execBiSnoopDelay line s
  | .cqHeadWrite => Sys2Proof.Machine.execCqHeadWrite s
  | .streamTableFill n => Sys2Proof.Machine.execStreamTableFill n s
  | .deferTimeout n => Sys2Proof.Machine.execDeferTimeout n s
  | .deferredReexamine => Sys2Proof.Machine.execDeferredReexamine s
  | .stepForm h cls => Sys2Proof.Machine.execStepForm h cls s
  | .stepHandoff step cols => Sys2Proof.Machine.execStepHandoff step cols s
  | .stepComplete step outLens => Sys2Proof.Machine.execStepComplete step outLens s
  | .stepFailed step => Sys2Proof.Machine.execStepFailed step s
  | .notifyWrite => Sys2Proof.Machine.execNotifyWrite s
  | .loaderLoad slot => Sys2Proof.Machine.execLoaderLoad slot s
  | .loaderReplace slot => Sys2Proof.Machine.execLoaderReplace slot s
  | .loaderUnload slot => Sys2Proof.Machine.execLoaderUnload slot s
  | .ctrlRecordBad slot => Sys2Proof.Machine.execCtrlRecordBad slot s
  | .loaderCommit h => Sys2Proof.Machine.execLoaderCommit h s
  | .unloadComplete h => Sys2Proof.Machine.execUnloadComplete h s
  | .streamRewrite h scope => Sys2Proof.Machine.execStreamRewrite h scope s
  | .cxlMemRead hpa copy err => Sys2Proof.Machine.execCxlMemRead hpa copy err s
  | .cxlMemWrite hpa data poison copy err => Sys2Proof.Machine.execCxlMemWrite hpa data poison copy err s
  | .birspReceived line dirty => Sys2Proof.Machine.execBirspReceived line dirty s
  | .h2dSnoop addr => Sys2Proof.Machine.execH2dSnoop addr s
  | .zeroFillPage d ch => Sys2Proof.Machine.execZeroFillPage d ch s
  | .countingWindowEnd => Sys2Proof.Machine.execCountingWindowEnd s
  | .replicaCopyDone page d => Sys2Proof.Machine.execReplicaCopyDone page d s
  | .replicaRetireDone page d => Sys2Proof.Machine.execReplicaRetireDone page d s
  | .moveComplete page => Sys2Proof.Machine.execMoveComplete page s
  | .plmRelGo => Sys2Proof.Machine.execPlmRelGo s
  | .releaseDone => Sys2Proof.Machine.execReleaseDone s
  | .dieLostWalkDone d => Sys2Proof.Machine.execDieLostWalkDone d s
  | .evacuationDone d ch => Sys2Proof.Machine.execEvacuationDone d ch s
  | .ddrPatrolScrub d ch => Sys2Proof.Machine.execDdrPatrolScrub d ch s
  | .ddrRefresh d ch temp => Sys2Proof.Machine.execDdrRefresh d ch temp s
  | .ddrTrainDone failed => Sys2Proof.Machine.execDdrTrainDone failed s
  | .ucieRetryFail d m => Sys2Proof.Machine.execUcieRetryFail d m s
  | .klPortEnWrite p v => Sys2Proof.Machine.execKlPortEnWrite p v s
  | .klPortTrain p => Sys2Proof.Machine.execKlPortTrain p s
  | .portTrainRetry p => Sys2Proof.Machine.execPortTrainRetry p s
  | .portTrainDone p r => Sys2Proof.Machine.execPortTrainDone p r s
  | .portTrainTimeout p => Sys2Proof.Machine.execPortTrainTimeout p s
  | .flitReceive p bytes => Sys2Proof.Machine.execFlitReceive p bytes s
  | .retrainDone p r => Sys2Proof.Machine.execRetrainDone p r s
  | .ackTimer p => Sys2Proof.Machine.execAckTimer p s
  | .ringForm => Sys2Proof.Machine.execRingForm s
  | .ringDissolve => Sys2Proof.Machine.execRingDissolve s
  | .ringBypass on => Sys2Proof.Machine.execRingBypass on s
  | .hello p m => Sys2Proof.Machine.execHello p m s
  | .token p => Sys2Proof.Machine.execToken p s
  | .formed p wrapRank => Sys2Proof.Machine.execFormed p wrapRank s
  | .hopCheckTimeout missing => Sys2Proof.Machine.execHopCheckTimeout missing s
  | .formTimeout => Sys2Proof.Machine.execFormTimeout s
  | .tensorHandover tid => Sys2Proof.Machine.execTensorHandover tid s
  | .ringOpen p m => Sys2Proof.Machine.execRingOpen p m s
  | .redBlockReceive p opid b u fault => Sys2Proof.Machine.execRedBlockReceive p opid b u fault s
  | .adderLocalReady p b fault => Sys2Proof.Machine.execAdderLocalReady p b fault s
  | .rdone p opid rank poison arrays => Sys2Proof.Machine.execRdone p opid rank poison arrays s
  | .updateApply => Sys2Proof.Machine.execUpdateApply s
  | .parBlockReceive p opid b u => Sys2Proof.Machine.execParBlockReceive p opid b u s
  | .pdone p opid rank cand => Sys2Proof.Machine.execPdone p opid rank cand s
  | .paramWrite tid => Sys2Proof.Machine.execParamWrite tid s
  | .ringAbort cause => Sys2Proof.Machine.execRingAbort cause s
  | .operationRerun => Sys2Proof.Machine.execOperationRerun s
  | .cxlLinkTrain rate width latOpt pbr biId => Sys2Proof.Machine.execCxlLinkTrain rate width latOpt pbr biId s
  | .cxlLinkRecovery rate width latOpt => Sys2Proof.Machine.execCxlLinkRecovery rate width latOpt s
  | .hotReset => Sys2Proof.Machine.execHotReset s
  | .dlDown => Sys2Proof.Machine.execDlDown s
  | .flr => Sys2Proof.Machine.execFlr s
  | .cxlReset => Sys2Proof.Machine.execCxlReset s
  | .hdmDecoderCommit base size ways lock => Sys2Proof.Machine.execHdmDecoderCommit base size ways lock s
  | .cacheEnableChange ctl => Sys2Proof.Machine.execCacheEnableChange ctl s
  | .bar0BadAccess write => Sys2Proof.Machine.execBar0BadAccess write s
  | .registerWrite path offset v hi => Sys2Proof.Machine.execRegisterWrite path offset v hi s
  | .rwcValueWrite path r v => Sys2Proof.Machine.execRwcValueWrite path r v s
  | .rwcComplementWrite path r v => Sys2Proof.Machine.execRwcComplementWrite path r v s
  | .rwcPendingTimeout path r => Sys2Proof.Machine.execRwcPendingTimeout path r s
  | .getEventRecords log => Sys2Proof.Machine.execGetEventRecords log s
  | .clearEventRecords log handles all => Sys2Proof.Machine.execClearEventRecords log handles all s
  | .getEventInterruptPolicy => Sys2Proof.Machine.execGetEventInterruptPolicy s
  | .setEventInterruptPolicy v => Sys2Proof.Machine.execSetEventInterruptPolicy v s
  | .getFwInfo => Sys2Proof.Machine.execGetFwInfo s
  | .transferFw slot offset data last => Sys2Proof.Machine.execTransferFw slot offset data last s
  | .activateFw slot onNextColdReset => Sys2Proof.Machine.execActivateFw slot onNextColdReset s
  | .getTimestamp => Sys2Proof.Machine.execGetTimestamp s
  | .setTimestamp v => Sys2Proof.Machine.execSetTimestamp v s
  | .getSupportedLogs => Sys2Proof.Machine.execGetSupportedLogs s
  | .getLog log => Sys2Proof.Machine.execGetLog log s
  | .mailboxUnsupported src opcode link => Sys2Proof.Machine.execMailboxUnsupported src opcode link s
  | .doeDiscovery index => Sys2Proof.Machine.execDoeDiscovery index s
  | .doeCdat entry => Sys2Proof.Machine.execDoeCdat entry s
  | .attestReport src nonce => Sys2Proof.Machine.execAttestReport src nonce s
  | .attestCert src nonce => Sys2Proof.Machine.execAttestCert src nonce s
  | .updState src => Sys2Proof.Machine.execUpdState src s
  | .updCancel src => Sys2Proof.Machine.execUpdCancel src s
  | .fwConfirm src => Sys2Proof.Machine.execFwConfirm src s
  | .fenceCore src core link => Sys2Proof.Machine.execFenceCore src core link s
  | .unbeach src core => Sys2Proof.Machine.execUnbeach src core s
  | .coreReset src core => Sys2Proof.Machine.execCoreReset src core s
  | .dieReset src die => Sys2Proof.Machine.execDieReset src die s
  | .dieResetRelease d => Sys2Proof.Machine.execDieResetRelease d s
  | .unitReset src code die => Sys2Proof.Machine.execUnitReset src code die s
  | .unitWatchdog u d => Sys2Proof.Machine.execUnitWatchdog u d s
  | .slack src enter => Sys2Proof.Machine.execSlack src enter s
  | .neap src enter => Sys2Proof.Machine.execNeap src enter s
  | .bwCtrlSlackWrite on => Sys2Proof.Machine.execBwCtrlSlackWrite on s
  | .bwCtrlNeapWrite on => Sys2Proof.Machine.execBwCtrlNeapWrite on s
  | .settingSet src ident v => Sys2Proof.Machine.execSettingSet src ident v s
  | .settingsBankWrite readBackOk => Sys2Proof.Machine.execSettingsBankWrite readBackOk s
  | .settingGet src ident => Sys2Proof.Machine.execSettingGet src ident s
  | .factoryReset src => Sys2Proof.Machine.execFactoryReset src s
  | .keyEnroll src key => Sys2Proof.Machine.execKeyEnroll src key s
  | .keyRevoke src keyId => Sys2Proof.Machine.execKeyRevoke src keyId s
  | .keyList src => Sys2Proof.Machine.execKeyList src s
  | .tmkRead src seq => Sys2Proof.Machine.execTmkRead src seq s
  | .heartbeat link => Sys2Proof.Machine.execHeartbeat link s
  | .heartbeatMiss => Sys2Proof.Machine.execHeartbeatMiss s
  | .requestUpdate => Sys2Proof.Machine.execRequestUpdate s
  | .passComponentTable data => Sys2Proof.Machine.execPassComponentTable data s
  | .updateComponent => Sys2Proof.Machine.execUpdateComponent s
  | .firmwareDataReceived offset data last => Sys2Proof.Machine.execFirmwareDataReceived offset data last s
  | .activateFirmware selfContained => Sys2Proof.Machine.execActivateFirmware selfContained s
  | .pldmGetStatus => Sys2Proof.Machine.execPldmGetStatus s
  | .cancelUpdate => Sys2Proof.Machine.execCancelUpdate s
  | .updateSessionTimeout => Sys2Proof.Machine.execUpdateSessionTimeout s
  | .imageVerifyDone flashError => Sys2Proof.Machine.execImageVerifyDone flashError s
  | .pldmGetSensorReading sensor => Sys2Proof.Machine.execPldmGetSensorReading sensor s
  | .mctpControl b m => Sys2Proof.Machine.execMctpControl b m s
  | .smbusAlertResponse => Sys2Proof.Machine.execSmbusAlertResponse s
  | .ibiAck k => Sys2Proof.Machine.execIbiAck k s
  | .hubAlertClear v => Sys2Proof.Machine.execHubAlertClear v s
  | .budgetEpoch reqs errs => Sys2Proof.Machine.execBudgetEpoch reqs errs s
  | .domainWakeDone core => Sys2Proof.Machine.execDomainWakeDone core s
  | .baseRecalibrate r => Sys2Proof.Machine.execBaseRecalibrate r s
  | .thermalUpdate temps => Sys2Proof.Machine.execThermalUpdate temps s
  | .acousticUpdate => Sys2Proof.Machine.execAcousticUpdate s
  | .fanUpdate pulses0 pulses1 => Sys2Proof.Machine.execFanUpdate pulses0 pulses1 s
  | .fanStall n => Sys2Proof.Machine.execFanStall n s
  | .holdupSample mv => Sys2Proof.Machine.execHoldupSample mv s
  | .pwrWarnAssert => Sys2Proof.Machine.execPwrWarnAssert s
  | .neapExit => Sys2Proof.Machine.execNeapExit s
  | .pwrFailAssert uj => Sys2Proof.Machine.execPwrFailAssert uj s
  | .powerReturn => Sys2Proof.Machine.execPowerReturn s
  | .thermtrip temp die => Sys2Proof.Machine.execThermtrip temp die s
  | .pllUnlock d => Sys2Proof.Machine.execPllUnlock d s
  | .refclkLoss => Sys2Proof.Machine.execRefclkLoss s
  | .perstAssert => Sys2Proof.Machine.execPerstAssert s
  | .coldReset p => Sys2Proof.Machine.execColdReset p s
  | .tidemarkEntryWrite whole => Sys2Proof.Machine.execTidemarkEntryWrite whole s
  | .tmkRdSeqHiWrite v => Sys2Proof.Machine.execTmkRdSeqHiWrite v s
  | .tmkSnapshotDone src => Sys2Proof.Machine.execTmkSnapshotDone src s
  | .pairEpisodeEnd k => Sys2Proof.Machine.execPairEpisodeEnd k s
  | .blockingInstructionComplete c u => Sys2Proof.Machine.execBlockingInstructionComplete c u s
  | .pwrWarnDeassert => Sys2Proof.Machine.execPwrWarnDeassert s
  | .warmResetComplete => Sys2Proof.Machine.execWarmResetComplete s
  | .memberSwitchedOff p => Sys2Proof.Machine.execMemberSwitchedOff p s
  | .jtagInstruction op => Sys2Proof.Machine.execJtagInstruction op s
  | .i3cCcc c => Sys2Proof.Machine.execI3cCcc c s

end Sys2Proof.Machine
end

