-- ==== Sys2Proof/Safety.lean ====
section
/-! DEFINITION. Safe steps, and when a program word issues: the terms that claims use. The K4 answers every command with its effect; the
one stop of the model is an access of the host to an address that is no address of the K4 (`Fault.noSuchAddress`). -/

namespace Sys2Proof.Machine

/-- The next step goes on. -/
def Safe (s : State) : Prop := ∃ t, step s = .next t

/-- Slot `t` of core `c` issues the word `w`, an instruction of kind `kd`: the core's sequencer issues, the slot is READY, its program counter
lies in its program range, the word there is `w`, a heavy instruction has its energy granted, its unit is free, and it
is the slot's turn (R87 to R90, R101). -/
def State.issues (s : State) (c t : Nat) (kd : Kind) (w : Nat) : Bool :=
  let k := s.core c
  let ts := k.slot t
  s.canIssue c && decide (ts.st = .ready) && decide (ts.pbase ≤ ts.pc) && decide (ts.pc < ts.pbound) && decide (k.wordAt t = w) &&
    decide (kindOf w = some kd) && (!kd.heavy || (!k.gstall && decide (0 < k.account))) &&
    (match kd.unit with | some u => (k.inUnit u).isNone | none => true) && s.turn c t

/-- The state after a CTRL-unit instruction that leaves its slot as `ts` and takes `n` cycles. -/
def State.ctrlDone (s : State) (c t n : Nat) (ts : TaskSlot) : State :=
  s.setCore c { (s.core c).setSlot t ts with cycle := (s.core c).cycle + n, progress := true, lastIssue := t }

/-- `u` is `s` from the entry into a warm reset on, until its end (R38, R395, R396, R398): the gates are closed, the package is in slack
water, cores hold nothing, Estuary and Sorzeind are at their reset values and HUB_LOCK is clear; HDM, Tidemark's ring, the flash and the rollback counter are kept. -/
def State.WarmBegun (s u : State) (cause : Nat) : Prop :=
  u.hub.warm = true ∧ u.hub.warmCause = cause ∧ u.hub.hubUp = false ∧ u.hub.lock = false ∧ u.hub.mgmtUp = s.hub.mgmtUp ∧ u.bw.state = .slackWater ∧
  (∀ c < 144, (u.core c).inReset = true ∧ (u.core c).slots = [] ∧ (u.core c).spd = {} ∧ (u.core c).inc = (s.core c).inc) ∧ u.est = {} ∧ u.ldr = {} ∧
  (∀ d < 4, (u.die d).leases = [] ∧ (u.die d).ctrs = [] ∧ (u.die d).inc = (s.die d).inc) ∧ u.fabric = [] ∧ u.cxl.filter = [] ∧ u.cxl.waiting = [] ∧
  u.kl.bypass = true ∧ u.kl.st ≠ .forming ∧ u.kl.st ≠ .formed ∧ u.kl.st ≠ .wrapped ∧ u.kl.ops = [] ∧ u.bw.limit = 0 ∧ u.bw.coreGrant = 0 ∧ u.bw.temps = [] ∧
  u.plm.mem = s.plm.mem ∧ u.tmk.slots = s.tmk.slots ∧ u.tmk.head = s.tmk.head ∧ u.sec.flash0 = s.sec.flash0 ∧ u.sec.flash1 = s.sec.flash1 ∧
  u.sec.rollback = s.sec.rollback ∧ u.us = s.us

/-- No stored line has an error and no page is LOST, so that reads of device memory meet nothing but their data. -/
structure State.Calm (s : State) : Prop where
  sound : ∀ i, (s.chanAt i).damage = []
  kept : ∀ x ∈ s.plm.map, x.2.st ≠ .lost

/-- No window request that core `c` made, or that was made of it, is on its way or held by a bank. -/
def State.NoTraffic (s : State) (c : Nat) : Prop :=
  (∀ f ∈ s.fabric, match f with | .write _ _ target _ _ _ _ => target ≠ c | .read src _ target _ _ _ => src ≠ c ∧ target ≠ c | .sig .. => True) ∧
  (∀ x, ∀ b ∈ (s.core x).spd.banks, ∀ q ∈ b.2.queue, q.src / 4 ≠ c) ∧ ∀ b ∈ (s.core c).spd.banks, b.2.queue = []

/-- The commands that may clear HUB_LOCK: warm and cold resets (R38). -/
def lockEnds : Instr → Bool
  | .hotReset | .dlDown | .flr | .cxlReset | .perstAssert | .coldReset _ => true
  | _ => false

end Sys2Proof.Machine
end

