-- ==== Sys2Proof/WellFormed.lean ====
section
/-! DEFINITION. Which commands are well formed: operands within the widths and lengths that the manual gives what they stand for. `exec` is
total on every command; a command from outside is well formed. -/

namespace Sys2Proof

/-- Upset bits lie in words of the scratchpad (R152). -/
def upsetsOk (ups : List Upset) : Bool := ups.all fun u => decide (u.word < 16384) && decide (u.bits ≤ 276)
/-- A BS16 block (R324): 32 elements, an exponent of −32 to 31, ESC of 0 to 7, a residue of 0 to 126, BSEQ of 8 bits. -/
def Block.wf (b : Block) : Bool :=
  decide (-32 ≤ b.exp) && decide (b.exp ≤ 31) && decide (b.esc ≤ 7) && decide (b.res ≤ 126) && decide (b.bseq < 256) && decide (b.elems.length = 32)
/-- The widths of a flit header's fields, and the 272-byte payload (R315, R316). -/
def Flit.wf (f : Flit) : Bool :=
  decide (f.ftype < 16) && decide (f.txseq < 1024) && decide (f.ackseq < 1024) && decide (f.cvc < 4) && decide (f.cred < 32) && decide (f.ring < 4) &&
    decide (f.nblk < 4) && decide (f.opid < 65536) && decide (f.payload.length = 272)
/-- A flit that arrives: the 320 bytes as a lane brings them, errors and all (R315). -/
def rxWf (bs : List Byte) : Bool := decide (bs.length = 320)
/-- A line that a channel stores (R304). -/
def DdrUpset.wf (u : DdrUpset) : Bool := decide (u.chan < 16) && decide (u.ppn < 2 ^ 22) && decide (u.line < 512)
/-- The widths of an OPEN message (R331). -/
def OpenMsg.wf (m : OpenMsg) : Bool := decide (m.rank < 16) && decide (m.opid < 65536) && decide (m.tid < 16384) && decide (-32 ≤ m.gexp) && decide (m.gexp ≤ 31)
/-- The widths of a HELLO message (R320). -/
def HelloMsg.wf (m : HelloMsg) : Bool := decide (m.ident < 2 ^ 64) && decide (m.n ≤ 16) && decide (m.rank < 16) && decide (m.port < 4)
/-- The widths of a request word, and unit numbers each named once (R375, R377). -/
def reqsOk (rs : List ReqWord) : Bool :=
  (rs.all fun r => decide (r.req < 1024) && decide (r.used < 1024) && decide (r.wake ≤ 16)) && decide ((rs.map fun r => r.unit).Nodup)
/-- A slot of the intake window (R253). -/
def SlotRef.wf : SlotRef → Bool
  | .stream n => decide (n < 1048576)
  | .ctrl n => decide (n < 15)
/-- An address of a 64-byte line in the host's physical address space (R347). -/
def lineOk (a : Nat) : Bool := decide (a % 64 = 0) && decide (a < 2 ^ 52)

/-- Well-formed commands. -/
def Instr.wf : Instr → Bool
  | .ldw _ _ _ ups _ _ => upsetsOk ups
  | .strm _ _ _ ups _ _ => upsetsOk ups
  | .spdRemoteRead _ _ _ ups _ => upsetsOk ups
  | .estWindowRegWrite off _ => decide (off = 0x8 ∨ off = 0xC ∨ off = 0x10)
  | .intakeStaleWrite r => r.wf
  | .tornTimeout r => r.wf
  | .streamOpen n => decide (n < 1048576)
  | .streamSubmit n => decide (n < 1048576)
  | .streamClose n => decide (n < 1048576)
  | .cxlMemRead a _ _ => lineOk a
  | .cxlMemWrite a data _ _ _ => lineOk a && decide (data.length = 64)
  | .ddrTrainDone failed => decide (failed.length ≤ 16) && failed.all fun i => decide (i < 16)
  | .postingOpen _ _ _ cs _ _ => cs.all fun c => c.entries.all fun e => decide (e < 32768)
  | .portTrainDone _ r => decide (r.polinv < 16)
  | .birspReceived _ d => match d with | some bs => decide (bs.length = 64) | none => true
  | .rdone _ opid rank _ _ => decide (opid < 65536) && decide (rank < 16)
  | .pdone _ opid rank _ => decide (opid < 65536) && decide (rank < 16)
  | .ucieRetryFail _ m => decide (m < 4)
  | .flitReceive _ bs => rxWf bs
  | .hello _ m => m.wf
  | .ringOpen _ m => m.wf
  | .redBlockReceive _ opid _ b _ => decide (opid < 65536) && b.wf
  | .parBlockReceive _ opid _ b => decide (opid < 65536) && b.wf
  | .registerWrite _ off _ hi => decide (off % 4 = 0) && decide (off < 2 ^ 27) && (hi.isNone || decide (off % 8 = 0))
  | .setEventInterruptPolicy v => decide (v.length = 4)
  | .transferFw _ _ data _ => decide (data.length ≤ 4096)
  | .setTimestamp v => decide (v < 2 ^ 64)
  | .attestReport src nonce => src ≠ .hub && decide (nonce.length = 32)
  | .attestCert src nonce => src ≠ .hub && decide (nonce.length = 32)
  | .unitReset _ code die => decide (code < 256) && decide (die < 256)
  | .settingSet _ ident v => decide (ident < 65536) && decide (v.length < 65536)
  | .keyRevoke _ k => decide (k < 2 ^ 64)
  | .tmkRead _ seq => decide (seq < 2 ^ 64)
  | .firmwareDataReceived _ data _ => decide (data.length ≤ 4096)
  | .budgetEpoch rs errs => reqsOk rs && errs.ddr.all DdrUpset.wf
  | _ => true

end Sys2Proof
end

