-- ==== Sys2Proof/Certificates/Slice0/Obligations.lean ====
section
/-! DEFINITION. What the provers are asked to prove: one proposition a statement, over the commands, the step and the state after reset.
Each docstring names the commands it covers and the sections or rules of the manual that it rests on. -/

open Sys2Proof Sys2Proof.Machine

/-- The register instructions of the CTRL unit. CFG_XSET, CFG_XADD, CFG_XMAD, CFG_SETL, CFG_SETSTR. Rests on
03_core_engines_and_tile_programs, Instruction formats; 03_core_engines_and_tile_programs, The sequencer and task slots;
03_core_engines_and_tile_programs, Timing per opcode. -/
def Obligations.ConfigInstructionsSetRegisters : Prop := ∀ (c : CoreId) (t : SlotId) (s : State) (w : Nat),
  let ts := (s.core c).slot t
  let up : TaskSlot := { ts with pc := ts.pc + 1 }
  (s.issues c t .xset w = true →
    exec (.cfgXset c t) s = .next (s.ctrlDone c t 1 (up.setX (bits w 48 46) (BitVec.ofNat 32 (bits w 31 0))))) ∧
  (s.issues c t .xadd w = true →
    exec (.cfgXadd c t) s = .next (s.ctrlDone c t 1 (up.setX (bits w 48 46) (ts.getX (bits w 45 43) + BitVec.ofNat 32 (bits w 31 0))))) ∧
  (s.issues c t .xmad w = true →
    exec (.cfgXmad c t) s = .next (s.ctrlDone c t 1 (up.setX (bits w 48 46)
      (ts.getX (bits w 45 43) * BitVec.ofNat 32 (bits w 15 0) + ts.getX (bits w 42 40))))) ∧
  (s.issues c t .setl w = true →
    exec (.cfgSetl c t) s = .next (s.ctrlDone c t 1 (up.setL (bits w 48 47) (BitVec.ofNat 16 (bits w 15 0))))) ∧
  (s.issues c t .setstr w = true →
    exec (.cfgSetstr c t) s = .next (s.ctrlDone c t 1 { up with vstr := bits w 47 34, ostr := bits w 33 20, rowl := bits w 19 14 }))

/-- Branches, loops, halt, barrier entries and parameters. CFG_SBARM, CFG_SETPARAM, LOOP, BR, HALT. Rests on
03_core_engines_and_tile_programs, Instruction formats; 03_core_engines_and_tile_programs, Scoreboards, WAIT and SIG;
03_core_engines_and_tile_programs, The sequencer and task slots. -/
def Obligations.ControlFlowAndBarrier : Prop := ∀ (c : CoreId) (t : SlotId) (s : State) (w : Nat),
  let k := s.core c
  let ts := k.slot t
  (∀ a, s.issues c t .sbarm w = true → ts.spOperand (bits w 44 42) (bits w 41 28) (bits w 27 13) = some a →
    exec (.cfgSbarm c t) s = .next ((s.setCore c { k with sb := Tab.set {} k.sb (bits w 48 45) ⟨a, bits w 27 13, 0⟩ }).ctrlDone c t 1
      { ts with pc := ts.pc + 1 })) ∧
  (∀ a, s.issues c t .setparam w = true → ts.spOperand (bits w 48 46) (bits w 45 32) 0 = some a →
    exec (.cfgSetparam c t) s = .next (s.ctrlDone c t 1 { ts with pc := ts.pc + 1, param := a })) ∧
  (∀ p, s.issues c t .loop w = true → ts.target (bits w 50 39) = some p →
    let lc := bits w 52 51
    let n : BitVec 16 := if ts.getL lc = 0 then 0 else ts.getL lc - 1
    let ts1 := ts.setX (bits w 38 36) (ts.getX (bits w 38 36) + BitVec.ofInt 32 (sext (bits w 35 20) 16))
    let ts2 := (ts1.setX (bits w 19 17) (ts1.getX (bits w 19 17) + BitVec.ofInt 32 (sext (bits w 16 1) 16))).setL lc n
    exec (.loop c t) s = .next (if n = 0 then s.ctrlDone c t 1 { ts2 with pc := ts.pc + 1 } else s.ctrlDone c t 2 { ts2 with pc := p })) ∧
  (∀ p, s.issues c t .br w = true → ts.target (bits w 43 32) = some p →
    exec (.br c t) s = .next (if brTaken (bits w 52 50) (ts.getX (bits w 49 47)) (ts.getX (bits w 46 44)) = true
      then s.ctrlDone c t 2 { ts with pc := p } else s.ctrlDone c t 1 { ts with pc := ts.pc + 1 })) ∧
  (s.issues c t .halt w = true → ts.held = none → ts.variant = none →
    exec (.halt c t) s = .next (s.ctrlDone c t 1 { ts with st := .halted, pc := ts.pc + 1 }))

/-- WAIT and SIG over scoreboard counts. WAIT, WAIT_RELEASE, WAIT_TIMEOUT, SIG, SIG_REMOTE_DELIVERY. Rules R103; R104. -/
def Obligations.WaitAndSignal : Prop := ∀ (c : CoreId) (t : SlotId) (s : State) (w : Nat),
  let k := s.core c
  let ts := k.slot t
  let target := ts.getX (bits w 48 46) + BitVec.ofNat 32 (bits w 45 22)
  (s.issues c t .wait w = true → exec (.wait c t) s = .next
    (if k.reached (bits w 52 49) target = true then s.ctrlDone c t 1 { ts with pc := ts.pc + 1 }
     else s.setCore c { k.setSlot t { ts with st := .blocked, blk := .wait (bits w 52 49) target (bits w 21 20) s.us } with
       progress := true, lastIssue := t, cycle := k.cycle + 1 })) ∧
  (∀ n goal tmo since, ts.blk = .wait n goal tmo since → s.canIssue c = true → k.reached n goal = true →
    exec (.waitRelease c t) s = .next (s.setCore c (k.setSlot t { ts with st := .ready, blk := .none, pc := ts.pc + 1 }))) ∧
  (∀ n goal tmo since lim, ts.blk = .wait n goal tmo since → k.reached n goal = false → waitLimit tmo = some lim → since + lim ≤ s.us →
    exec (.waitTimeout c t) s = .next (s.faultAt c t 0x33 (opOf (k.wordAt t)) ts.pc)) ∧
  (s.issues c t .sig w = true → (bits w 48 41 = 0xFF ∨ bits w 48 41 = c) →
    exec (.sig c t) s = .next ((s.setCore c (k.sbAdd (bits w 52 49) (BitVec.ofNat 32 (bits w 40 25)))).ctrlDone c t 1 { ts with pc := ts.pc + 1 })) ∧
  (s.issues c t .sig w = true → bits w 48 41 ≠ 0xFF → bits w 48 41 ≠ c → k.ue = false →
    exec (.sig c t) s = .next ({ s with fabric := s.fabric ++ [Flight.sig c t (bits w 48 41) (bits w 52 49) (bits w 40 25)] }.ctrlDone c t 1
      { ts with pc := ts.pc + 1 })) ∧
  (∀ (dest : CoreId) n v fs, takeSig c t dest s.fabric = some ((n, v), fs) → (s.core dest).spd.sendQueued (4 * c + t) = false →
    s.carries (coreDie c) (coreDie dest) = true → s.fenced dest = false → (s.core dest).inReset = false →
    exec (.sigRemoteDelivery c t dest) s = .next ((({ s with fabric := fs } : State).modSpd dest (Spad.sigDelivered (4 * c + t))).modCore dest
      (Core.sbAdd n (BitVec.ofNat 32 v)))) ∧
  (∀ (dest : CoreId), takeSig c t dest s.fabric = none ∨ (s.core dest).spd.sendQueued (4 * c + t) = true →
    exec (.sigRemoteDelivery c t dest) s = .next s) ∧
  (∀ n goal tmo since, ts.st = .blocked → ts.blk = .wait n goal tmo since → s.wantsIssue c t = false ∧
    ((∀ u < 4, u ≠ t → (k.slot u).st ≠ .ready ∧ (k.slot u).st ≠ .blocked) → s.fenced c = false → k.inReset = false → k.logicOff = false →
      ∃ u, exec (.hbeatAdvance c true false) s = .next u ∧ (u.core c).hbeat = k.hbeat + 1)) ∧
  (∀ (dest : CoreId) n v fs, takeSig c t dest s.fabric = some ((n, v), fs) → (s.core dest).spd.sendQueued (4 * c + t) = false →
    s.carries (coreDie c) (coreDie dest) = true → s.fenced dest = true ∨ (s.core dest).inReset = true →
    exec (.sigRemoteDelivery c t dest) s = .next (({ s with fabric := fs } : State).modSpd dest (Spad.sigDelivered (4 * c + t))))

/-- Completion, the freeze, clock gate and starts and stops of slots. FREEZE_END, ASYNC_COMPLETE, SLOT_RESTART, TS_START, TS_STOP,
CLOCK_GATE_IDLE, HBEAT_ADVANCE, BLOCKING_INSTRUCTION_COMPLETE, SIG. Rests on 03_core_engines_and_tile_programs, Scoreboards, WAIT and SIG;
03_core_engines_and_tile_programs, Cycle-count scheduling and the freeze; 03_core_engines_and_tile_programs, The sequencer and task slots;
07_tiles_leases_and_fencing, Leases; 07_tiles_leases_and_fencing, Beaching a core; 12_breakwater_power_clocks_reset, Power domains. Which
waits count as blocked well is the model's reading (notes/assumptions/162.md). -/
def Obligations.CompletionFreezeAndSlots : Prop := ∀ (c : CoreId) (t : SlotId) (s : State),
  let k := s.core c
  let ts := k.slot t
  (∀ u b, k.inUnit u = some b → b.async = true → b.op ≠ 0 → s.mayComplete c u b = true →
    exec (.asyncComplete c u) s = .next (s.setCore c (((k.leave u b).sbAdd b.sb 1).modSlot b.slot fun x => { x with async := x.async - 1 }))) ∧
  (∀ u b, k.inUnit u = some b → b.async = false → s.mayComplete c u b = true → (k.slot b.slot).st = .blocked → (k.slot b.slot).blk = .unit u →
    exec (.blockingInstructionComplete c u) s = .next (s.setCore c ((k.leave u b).modSlot b.slot fun x =>
      if (k.slot b.slot).stopReq = true then { x with st := .stopped, blk := .drain false } else { x with st := .ready, blk := .none }))) ∧
  (exec (.freezeEnd c) s = .next (s.setCore c { k with frzCycles := satAdd k.frzCycles k.freeze, freeze := 0 })) ∧
  (k.running = false → exec (.clockGateIdle c) s = .next (s.setCore c { k with gated := true })) ∧
  (∀ pass ue, s.fenced c = false → k.inReset = false → k.logicOff = false → exec (.hbeatAdvance c pass ue) s = .next
    (s.setCore c { k with hbeat := if pass = true ∧ (k.progress = true ∨ k.blockedWell = true) then k.hbeat + 1 else k.hbeat, progress := false,
                          ue := k.ue || ue })) ∧
  (∀ r, s.fenced c = false → k.inReset = false → k.logicOff = false → ts.st ≠ .ready → ts.st ≠ .blocked →
    exec (.tsStart c t r) s = .next (s.setCore c { k.setSlot t { ts.start r with variant := none } with gated := false })) ∧
  (ts.st ≠ .ready → ts.st ≠ .blocked →
    exec (.tsStop c t) s = .next (s.setCore c (k.setSlot t { ts with stopReq := true, blk := .none, variant := none }))) ∧
  (∀ u, ts.st = .blocked → ts.held = none → ts.blk = .unit u →
    exec (.tsStop c t) s = .next (s.setCore c (k.setSlot t { ts with stopReq := true, variant := none }))) ∧
  ((ts.st = .ready ∨ ts.st = .blocked ∧ ∀ u, ts.blk ≠ .unit u) → ts.held = none →
    exec (.tsStop c t) s = .next (s.setCore c ((k.abandon t).setSlot t
      { ts with st := .stopped, blk := .drain false, held := none, stopReq := true, variant := none }))) ∧
  (ts.st = .stopped → ts.blk = .drain true → ts.async = 0 → s.fenced c = false → k.inReset = false →
    exec (.slotRestart c t) s = .next (s.setCore c { k.setSlot t (ts.start ts.ranges) with gated := false })) ∧
  (∀ w, s.issues c t .sig w = true → bits w 48 41 ≠ 0xFF → bits w 48 41 ≠ c → k.ue = true → exec (.sig c t) s = .next (s.ctrlDone c t 1 { ts with pc := ts.pc + 1 })) ∧
  (s.turn c t = false → ∀ ev, ∀ i ∈ [Instr.cfgXset c t, .loop c t, .br c t, .halt c t, .wait c t, .sig c t, .take c t, .done c t, .fill c t ev],
    exec i s = .next s)

/-- CFG_LDRQ and LDW with readable operands. CFG_LDRQ, LDW. Rests on 03_core_engines_and_tile_programs, Engines;
03_core_engines_and_tile_programs, Instruction formats; 03_core_engines_and_tile_programs, Timing per opcode; 02_bit_planes_and_formats,
Group scales and exact accumulation; 04_sparsity_prediction_and_deltas, The Reef engine. The order of the freezes and the row map are the
model's readings (notes/assumptions/34.md, 163.md). -/
def Obligations.WeightLoads : Prop := ∀ (c : CoreId) (t : SlotId) (s : State) (w : Nat),
  let k := s.core c
  let ts := k.slot t
  (∀ ev a, s.issues c t .ldrq w = true → spRange ts k.spd (bits w 48 46) (bits w 45 32) 128 = some a →
    let r := s.spdReads c ((List.range 128).map (a + ·))
    poisoned r.1 = false →
    exec (.cfgLdrq c t ev) s = .next ((((r.2.modCore c fun k => k.freezeFor (ce2At r.1) (k.lateOf .load ev.late)).sawUe c ev.ue).modCore c fun k => { k with
      rq := Tab.setAll {} k.rq ((r.1.flatMap fun x => [rqEntryOf x.data 0, rqEntryOf x.data 1]).mapIdx fun i e => (i, e)) }).occupy c t .load w 256)) ∧
  (∀ slice ups ue late a b, s.issues c t .ldw w = true →
    let q := k.cfg (bits w 52 49)
    let reef := onReef q (bits w 48 47) ts.held
    let n := segments q reef
    let words := 256 * rowWords q reef
    q.valid = true → (∀ x, k.inUnit .array = some x → x.reef ≠ reef) →
    spRange ts k.spd (bits w 46 44) (bits w 43 30) words = some a →
    (if q.wscale = true then spRange ts k.spd (bits w 18 16) (bits w 15 2) (16 * n) else some 0) = some b →
    let r := ((s.upset c ups).sawUe c ue).spdReads c
      ((List.range words).map (a + ·) ++ if q.wscale = true then (List.range (16 * n)).map (b + ·) else [])
    let sc := datas (r.1.drop words)
    poisoned r.1 = false →
    (q.wscale = true → ∀ row < 256, ∀ g < n, (scaleEntry sc (row * n + g)).2 = (slice * n + g) % 16) →
    exec (.ldw c t slice ups ue late) s = .next (((r.2.modCore c (Core.freezeFor (ce2At r.1) (k.lateOf .load late))).modCore c fun k =>
      k.setEngine reef (loadEngine k.cb q reef (k.rows reef) (datas (r.1.take words)) sc (k.engine reef))).occupy
        c t .load w (ldwCycles q reef) fun b => { b with reef := reef }))

/-- STRM passes and RQNT results. STRM, RQNT. Rests on 02_bit_planes_and_formats, Lanes, rows and passes; 02_bit_planes_and_formats,
Requantisation; 03_core_engines_and_tile_programs, Accumulator file and requantiser; 03_core_engines_and_tile_programs, Instruction
formats; 03_core_engines_and_tile_programs, Timing per opcode. -/
def Obligations.StreamPassAndRequantise : Prop := ∀ (c : CoreId) (t : SlotId) (s : State) (w : Nat),
  let k := s.core c
  let ts := k.slot t
  (∀ slice ups ue late a b due u, s.issues c t .strm w = true →
    let q := k.cfg (bits w 52 49)
    let reef := onReef q (bits w 48 47) ts.held
    let nv := nvecOf (bits w 24 19)
    let planes := (if reef = true then 2 else 1) * q.planesA
    let range := fun xr imm n => if bit w 25 = true then apbVectors ts xr imm n nv ts.vstr else spVectors ts k.spd xr imm n nv ts.vstr
    let m : Strm := ⟨q, reef, bit w 25, a, b, ts.vstr, bits w 29 26, bit w 1, q.tag k.censExp, ts.vm,
      match ts.held with | some h => h.depth - slice * (if reef = true then 512 else 256) | none => 512, slice⟩
    q.valid = true → range (bits w 46 44) (bits w 43 30) planes = some a →
    (if q.ascale = true then range (bits w 18 16) (bits w 15 2) 1 else some 0) = some b →
    ts.accOk (bits w 29 26) (ceilDiv nv 8) = true →
    m.run c (List.range nv) [] ((s.upset c ups).sawUe c ue) = (none, due, u) →
    exec (.strm c t slice ups ue late) s = .next ((u.modCore c (Core.freezeFor due (if bit w 25 = true then [] else k.lateOf .array late))).occupy
      c t .array w (nv * m.passCycles) fun b =>
        { b with reef := reef, first := bit w 1, lands := (List.range nv).map fun v => (k.cycle + m.landsAt v, 8 * bits w 29 26 + v) })) ∧
  (∀ ev a, s.issues c t .rqnt w = true →
    let nv := nvecOf (bits w 29 24)
    let blk := bits w 33 30
    let tag := Tab.get 0 k.tags blk
    let q := k.cfg (bits tag.toNat 3 0)
    let exp := bits tag.toNat 26 22
    let dst := bits w 52 51
    let block := (ts.getX (bits w 50 48)).toNat + bits w 47 34
    ts.accOk blk (ceilDiv nv 8) = true → (∀ i < ceilDiv nv 8, Tab.get 0 k.tags (blk + i) = tag) → q.valid = true →
    bits tag.toNat 15 12 ≠ 0 →
    (dst = 0 → spVectors ts k.spd (bits w 50 48) (bits w 47 34) q.outWords nv ts.ostr = some a) →
    (dst = 1 → apbVectors ts (bits w 50 48) (bits w 47 34) q.outWords nv ts.ostr = some a ∧ ts.fusedBarred = false) →
    (dst = 2 → q.ofmt = 6 ∧ block < ts.blocks ∧ ts.blocks * 256 * nv ≤ 16384) →
    let outs : List (Nat × List (Nat × Bool)) := (List.range (min nv ts.vm)).map fun v => (v, (List.range 256).map fun n =>
      requant q (levelsOf k.cb q.ocbsel q.ofmt q.ocbsgn) (Tab.get {} k.rq n) exp (Tab.get 0 k.acc (accIx (blk + v / 8) (v % 8) n)))
    let words := outs.flatMap fun o => (outBlock q (o.2.map (·.1))).mapIdx fun i x => (a + o.1 * ts.ostr + i, x)
    let s1 := s.modCore c fun k => { k.saturate ((outs.map fun o => (o.2.filter (·.2)).length).sum) with rqTag := tag, ue := k.ue || ev.ue }
    let dur := (if (q.ofmt = 5 ∨ q.ofmt = 6) ∧ dst ≠ 2 then 32 else 16) * nv + 10
    (dst = 0 → exec (.rqnt c t ev) s = .next (((s1.starve c .result ev.late).spdWrites c words).occupy c t .result w dur)) ∧
    (dst = 1 → exec (.rqnt c t ev) s = .next ((s1.modCore c (Core.apbWrites words)).occupy c t .result w dur)) ∧
    (dst = 2 → exec (.rqnt c t ev) s = .next ((s1.modCore c fun k => { k with row := Tab.setAll 0 k.row (outs.flatMap fun o =>
      o.2.mapIdx fun n y => (o.1 * (ts.blocks * 256) + block * 256 + n, BitVec.ofNat 32 y.1)) }).occupy c t .result w dur)))

/-- The five scatter instructions. SCAT_ADD32, SCAT_ADD64, SCAT_VADD, SCAT_LOAD, SCAT_STORE. Rests on 04_sparsity_prediction_and_deltas,
Scatter into banked accumulators; 03_core_engines_and_tile_programs, Instruction formats; 03_core_engines_and_tile_programs, Timing per
opcode. That the array's passes delay updates alone and VADD's adds fall at fixed cycles is the model's (notes/assumptions/168.md). -/
def Obligations.ScatterResults : Prop := ∀ (c : CoreId) (t : SlotId) (s : State) (w : Nat),
  let k := s.core c
  let ts := k.slot t
  let cap := bits w 14 3
  (∀ ev bitsOf kd i, (kd, bitsOf, i) ∈ [(Kind.scatAdd32, 32, Instr.scatAdd32 c t ev), (Kind.scatAdd64, 64, Instr.scatAdd64 c t ev)] → s.issues c t kd w = true →
    ∀ vals list es s1, spRange ts k.spd (bits w 48 46) (bits w 45 32) (ceilDiv (cap * bitsOf) 256) = some vals →
    spRange ts k.spd (bits w 31 29) (bits w 28 15) (listWords cap) = some list →
    s.indexList c list cap = (.ok es, s1) →
    let r := s1.spdReads c ((List.range (ceilDiv (es.length * bitsOf) 256)).map (vals + ·))
    poisoned r.1 = false →
    let us := es.zip ((List.range es.length).map fun i =>
      sext (fieldAt ((datas r.1).getD (i * bitsOf / 256) 0) bitsOf (i % (256 / bitsOf))) bitsOf)
    (∀ u ∈ us, u.1 < 32768 ∧ ts.accOk (u.1 / 2048) 1 = true) →
    let s2 := (r.2.modCore c (Core.freezeFor ((ce2At r.1).map (listWords es.length + ·)) (k.lateOf .result ev.late))).sawUe c ev.ue
    let lands := (s2.core c).arrayPasses
    let run := scatRun lands (s2.core c).cycle (us.map (·.1))
    let adds := run.adds (s2.core c).cycle us
    let k2 := scatAdds adds (s2.core c)
    exec i s = .next ((s2.setCore c { k2 with cnt := { k2.cnt with scatStall := satAdd k2.cnt.scatStall run.stalls } }).occupy
      c t .result w (run.last + 8) fun b => { b with lands := lands, adds := adds, ups := us, stalls := run.stalls })) ∧
  (∀ ev list us s1, s.issues c t .scatVadd w = true → spRange ts k.spd (bits w 31 29) (bits w 28 15) (listWords cap) = some list →
    s.indexList c list cap = (.ok us, s1) →
    let s2 := (s1.starve c .result ev.late).sawUe c ev.ue
    let v := scatVadds ts (bits w 35 32) (us.mapIdx fun i u => (i, u)) [] (s2.core c)
    v.1 = none → exec (.scatVadd c t ev) s = .next ((s2.setCore c v.2.2).occupy c t .result w (16 * us.length + 9) fun b => { b with adds := v.2.1 })) ∧
  (∀ a,
    let h := s.spdReads c [a]
    let n := listEntry (datas h.1) 0
    let s1 := h.2.modCore c (Core.freezeFor (ce2At h.1) [])
    let r := s1.spdReads c ((List.range (listWords n - 1)).map (a + 1 + ·))
    poisoned h.1 = false → n ≤ cap → poisoned r.1 = false →
    s.indexList c a cap = (.ok ((List.range n).map fun i => listEntry (datas (h.1 ++ r.1)) (i + 1)),
      r.2.modCore c (Core.freezeFor ((ce2At r.1).map (1 + ·)) []))) ∧
  (∀ ev a, s.issues c t .scatLoad w = true → spRange ts k.spd (bits w 48 46) (bits w 45 32) (513 * cap) = some a → ts.accOk (bits w 18 15) cap = true →
    let r := s.spdReads c ((List.range (513 * cap)).map (a + ·))
    poisoned r.1 = false →
    exec (.scatLoad c t ev) s = .next ((((r.2.modCore c (Core.freezeFor (ce2At r.1) (k.lateOf .result ev.late))).sawUe c ev.ue).modCore c fun k => { k with
      tags := Tab.setAll 0 k.tags ((List.range cap).map fun i => (bits w 18 15 + i, BitVec.ofNat 32 (fieldAt ((datas r.1).getD (513 * i) 0) 32 0))),
      acc := Tab.setAll 0 k.acc ((List.range cap).flatMap fun i => (List.range 2048).map fun e =>
        (2048 * (bits w 18 15 + i) + e, BitVec.ofNat 64 (fieldAt ((datas r.1).getD (513 * i + 1 + e / 4) 0) 64 (e % 4)))) }).occupy
        c t .result w (64 * cap + 9))) ∧
  (∀ ev a, s.issues c t .scatStore w = true → spRange ts k.spd (bits w 48 46) (bits w 45 32) (513 * cap) = some a → ts.accOk (bits w 18 15) cap = true →
    exec (.scatStore c t ev) s = .next ((((s.starve c .result ev.late).sawUe c ev.ue).spdWrites c (((List.range cap).flatMap fun i => k.blockImage (bits w 18 15 + i)).mapIdx fun i x =>
      (a + i, x))).occupy c t .result w (64 * cap + 9)))

/-- The four gather instructions. GATH_ROW, GATH_LANE, GATH_PACK, GATH_PACKU. Rests on 04_sparsity_prediction_and_deltas, The gather unit;
04_sparsity_prediction_and_deltas, Packing on the device; 03_core_engines_and_tile_programs, Instruction formats;
03_core_engines_and_tile_programs, Timing per opcode; 01_package_and_planes, The grant. Which work waits for which unit's grant is the
model's (notes/assumptions/150.md). That lanes are cleared at issue is the model's reading (notes/assumptions/48.md). -/
def Obligations.GatherResults : Prop := ∀ (c : CoreId) (t : SlotId) (s : State) (w : Nat),
  let k := s.core c
  let ts := k.slot t
  let o := ts.ostr
  let n := ts.blocks
  let cap := bits w 14 3
  let tiles := fun m : Nat => ceilDiv m 256
  (∀ list dst items s1, s.issues c t .gathRow w = true → 1 ≤ o → o ≤ 18 →
    spRange ts k.spd (bits w 48 46) (bits w 45 32) (listWords cap) = some list →
    spRange ts k.spd (bits w 31 29) (bits w 28 15) (tiles cap * n * 256 * o) = some dst →
    s.indexList c list cap = (.ok items, s1) →
    let row := fun i l : Nat => dst + (i / 256 * n + l) * 256 * o + i % 256 * o
    let fs : List Fetch := (items.mapIdx fun i x => (i, x)).flatMap fun (x : Nat × Nat) => (List.range n).flatMap fun l =>
      (List.range o).map fun j => (x.2 * ts.vstr + l * o + j, Landing.word (row x.1 l + j))
    let zero := (List.range (256 * tiles items.length - items.length)).flatMap fun i => (List.range n).flatMap fun l =>
      (List.range o).map fun j => (row (items.length + i) l + j, (0 : W256))
    s1.fetchable c (bits w 2 0) fs = (fs, false) → s1.fetchWorks c (bits w 2 0) fs = true → s1.fetchLines c (bits w 2 0) fs = [] →
    exec (.gathRow c t) s = .next (((s1.modCore c fun k =>
      { k with cnt := { k.cnt with gathItems := satAdd k.cnt.gathItems items.length } }).spdWrites c zero).fetchAll c t (bits w 2 0) w fs)) ∧
  (∀ list dst items s1, s.issues c t .gathLane w = true → 1 ≤ o → o ≤ 8 →
    spRange ts k.spd (bits w 48 46) (bits w 45 32) (listWords cap) = some list →
    spRange ts k.spd (bits w 31 29) (bits w 28 15) (tiles cap * n * 256 * o) = some dst →
    s.indexList c list cap = (.ok items, s1) →
    let fs : List Fetch := (items.mapIdx fun i x => (i, x)).flatMap fun (x : Nat × Nat) => (List.range n).flatMap fun b =>
      (List.range o).map fun p => (x.2 * ts.vstr + b * o + p, Landing.lane (dst + (b * tiles items.length + x.1 / 256) * 256 * o) o p (x.1 % 256))
    s1.fetchable c (bits w 2 0) fs = (fs, false) → s1.fetchWorks c (bits w 2 0) fs = true → s1.fetchLines c (bits w 2 0) fs = [] →
    exec (.gathLane c t) s = .next (((s1.modCore c fun k =>
      { k with cnt := { k.cnt with gathItems := satAdd k.cnt.gathItems items.length } }).clearWords c
        ((List.range (tiles items.length * n * 256 * o)).map (dst + ·))).fetchAll c t (bits w 2 0) w fs)) ∧
  (∀ win (fs : List Fetch), s.fetchable c win fs = (fs, false) → s.fetchWorks c win fs = true → s.fetchLines c win fs = [] →
    s.fetchAll c t win w fs = (((none :: fs.map some).zip fs).foldl (State.fetchWord c t win) s).occupy c t .move w 1) ∧
  (∀ ev signed src dst, s.issues c t (if signed = true then .gathPack else .gathPacku) w = true → (if signed = true then 2 else 1) ≤ o → o ≤ 8 →
    let per := 2 * o + 2
    spVectors ts k.spd (bits w 48 46) (bits w 45 32) (n * per) cap ts.vstr = some src →
    spRange ts k.spd (bits w 31 29) (bits w 28 15) (n * 256 * (o + 2)) = some dst →
    let from_ := (List.range n).flatMap fun l => (List.range cap).flatMap fun i => (List.range per).map fun j =>
      (src + i * ts.vstr + l * per + j, dst + (l * 256 + i) * (o + 2))
    let r := s.spdReads c (from_.map (·.1))
    let rows := (List.range (n * 256)).map fun i =>
      let mine := if i % 256 < cap then (r.1.drop ((i / 256 * cap + i % 256) * per)).take per else []
      (packRow o signed (datas mine), poisoned mine)
    exec (if signed = true then .gathPack c t ev else .gathPacku c t ev) s = .next ((((r.2.modCore c fun k => k.freezeFor (ce2At r.1) (k.lateOf .move ev.late)).modCore c fun k =>
      { k with cnt := { k.cnt with packDrop := satAdd k.cnt.packDrop ((rows.map fun x => x.1.2).sum) } }).writeReads c dst
        (rows.flatMap fun x => x.1.1.map fun y => ⟨y, x.2, false⟩)).occupy c t .move w (n * 256 * (3 * o + 4) + 12) fun b =>
          { b with moves := from_.map fun x => (x.1, .here x.2 (o + 2)) }))

/-- FILL, COPY and SEND. FILL, COPY_LOCAL, COPY_WINDOW, SEND. Rests on 05_scratchpad, FILL and COPY; 05_scratchpad, Windows;
03_core_engines_and_tile_programs, Instruction formats; 03_core_engines_and_tile_programs, Timing per opcode; 01_package_and_planes, The
grant. Which work waits for which unit's grant is the model's (notes/assumptions/150.md). A word beyond the scratchpad is rejected
(notes/assumptions/50.md), for the MOVE that sent it (notes/assumptions/51.md). -/
def Obligations.MoveUnit : Prop := ∀ (c : CoreId) (t : SlotId) (s : State) (w : Nat),
  let k := s.core c
  let ts := k.slot t
  let n := wordCount w
  let off := (ts.getX (bits w 30 28)).toNat + bits w 27 12
  (∀ ev a, s.issues c t .fill w = true → spRange ts k.spd (bits w 47 45) (bits w 44 31) n = some a →
    exec (.fill c t ev) s = .next (((s.starve c .move ev.late).spdWrites c ((List.range n).map fun i =>
      (a + i, packFields 16 (List.replicate 16 (bits w 27 12))))).occupy c t .move w (n + 8))) ∧
  (∀ ev a b, s.issues c t .copyLocal w = true → spRange ts k.spd (bits w 47 45) (bits w 44 31) n = some a →
    spRange ts k.spd (bits w 30 28) (bits w 27 12) n = some b →
    let r := s.spdReads c ((List.range n).map (b + ·))
    exec (.copyLocal c t ev) s = .next (((r.2.modCore c fun k => k.freezeFor (ce2At r.1) (k.lateOf .move ev.late)).writeReads c a r.1).occupy c t .move w (n + 14)
      fun x => { x with moves := (List.range n).map fun i => (b + i, .here (a + i) 1) })) ∧
  (∀ a, s.issues c t .copyWindow w = true → spRange ts k.spd (bits w 47 45) (bits w 44 31) n = some a →
    let fs : List Fetch := (List.range n).map fun i => (off + i, Landing.word (a + i))
    s.fetchable c (bits w 50 48) fs = (fs, false) → s.fetchWorks c (bits w 50 48) fs = true → s.fetchLines c (bits w 50 48) fs = [] →
    exec (.copyWindow c t) s = .next ((((none :: fs.map some).zip fs).foldl (State.fetchWord c t (bits w 50 48)) s).occupy c t .move w 1)) ∧
  (∀ a u, s.issues c t .send w = true → spRange ts k.spd (bits w 47 45) (bits w 44 31) n = some a →
    s.sendWorks c (bits w 50 48) off n = true →
    let r := s.spdReads c ((List.range n).map (a + ·))
    (r.2.modCore c (Core.freezeFor (ce2At r.1) [])).sendAll c t (bits w 50 48) off r.1 = (false, u) →
    exec (.send c t) s = .next (u.occupy c t .move w 1 fun x =>
      { x with moves := (List.range n).map fun i => (a + i, u.sendDst c (bits w 50 48) off i) }))

/-- ROWF and CENS. ROWF, CENS. Rests on 03_core_engines_and_tile_programs, The row-wise function unit and the fused pair;
02_bit_planes_and_formats, Group scales and exact accumulation; 03_core_engines_and_tile_programs, Instruction formats;
03_core_engines_and_tile_programs, Timing per opcode. -/
def Obligations.RowFunctionAndCensus : Prop := ∀ (c : CoreId) (t : SlotId) (s : State) (w : Nat),
  let k := s.core c
  let ts := k.slot t
  let n := ts.blocks * 256
  let nv := nvecOf (bits w 48 43)
  let vm := min nv ts.vm
  (∀ ev a, s.issues c t .rowf w = true →
    let func := bits w 52 49
    let dst := bits w 42 41
    let apb := decide (dst % 2 = 1)
    let cens := decide (2 ≤ dst)
    let q := k.cfg (bits w 23 20)
    let out := vectorWords q cens n
    let pw := if func = 2 then ceilDiv nv 4 else paramWords func n
    q.valid = true → n * nv ≤ 16384 → (cens = true → q.afmt < 2 ∧ q.gsize ≠ 0) →
    (if apb = true then apbVectors ts (bits w 40 38) (bits w 37 24) out nv ts.ostr
      else spVectors ts k.spd (bits w 40 38) (bits w 37 24) out nv ts.ostr) = some a →
    (pw = 0 ∨ ts.dbase ≤ ts.param ∧ ts.param + pw ≤ ts.dbound ∧ k.spd.mapped ts.param pw = true) →
    (apb = true → ts.fusedBarred = false) →
    let r := s.spdReads c (if func = 2 then [] else (List.range pw).map (ts.param + ·))
    poisoned r.1 = false →
    let rows := (List.range vm).map fun v => rowFn func (datas r.1) ((List.range n).map fun i => Tab.get 0 k.row (v * n + i))
    let range : Int × Int := if cens = true then (-32768, 32767) else if q.afmt = 0 then (-2 ^ (q.ba - 1), 2 ^ (q.ba - 1) - 1) else (0, 2 ^ q.ba - 1)
    let acts := rows.map fun x => x.1.map (toAct (!cens && decide (q.afmt = 2)) range.1 range.2 (sext (bits w 19 14) 6))
    let vals := acts.map fun v => v.map (·.1)
    let s1 := ((r.2.modCore c (Core.freezeFor (ce2At r.1) (if apb = true ∧ pw = 0 then [] else k.lateOf .row ev.late))).sawUe c ev.ue).modCore c fun k =>
      { k with rowfSat := satAdd k.rowfSat ((acts.map fun v => (v.filter (·.2)).length).sum) }
    let s2 := if cens = true then s1.censWrite c q apb a ts.ostr vals
      else s1.putWords c apb ((vals.mapIdx fun v x => wholeWords (a + v * ts.ostr) (planeBlocks q.planesA x)).flatten)
    let ms := rows.flatMap fun x => [x.2.1.toNat, x.2.2.toNat]
    let s3 := if func = 2 then s2.putWords c false (((List.range pw).filter fun i => decide (4 * i < vm)).map fun i => (ts.param + i, packFields 32 ((ms.drop (8 * i)).take 8),
      packFields 32 ((List.range 8).map fun j => if vm ≤ 4 * i + j / 2 ∧ 4 * i + j / 2 < nv then 0 else 0xFFFFFFFF))) else s2
    exec (.rowf c t ev) s = .next (s3.occupy c t .row w (rowPasses func * ceilDiv (n * nv) 16 + 24 + if func = 7 then 272 else 0))) ∧
  (∀ ev src a, s.issues c t .cens w = true →
    let q := k.cfg (bits w 52 49)
    let apb := decide (bits w 42 41 = 1)
    let per := if bits w 5 1 = 0 then 32 else bits w 5 1
    let out := vectorWords q true n
    q.valid = true → q.afmt < 2 → q.gsize ≠ 0 →
    spVectors ts k.spd (bits w 22 20) (bits w 19 6) (ts.blocks * per) nv ts.vstr = some src →
    (if apb = true then apbVectors ts (bits w 40 38) (bits w 37 24) out nv ts.ostr
      else spVectors ts k.spd (bits w 40 38) (bits w 37 24) out nv ts.ostr) = some a →
    (apb = true → ts.fusedBarred = false) →
    let r := s.spdReads c ((List.range vm).flatMap fun v => (List.range (ts.blocks * per)).map fun i => src + v * ts.vstr + i)
    poisoned r.1 = false →
    let xs := (List.range vm).map fun v => (List.range ts.blocks).flatMap fun b =>
      let ws := ((datas r.1).drop ((v * ts.blocks + b) * per)).take per
      if bits w 5 1 = 0 then (elements 32 ws).map fun e => sext e 32 else (List.range 256).map fun i => planeVal ws true i
    exec (.cens c t ev) s = .next ((((r.2.modCore c (Core.freezeFor (ce2At r.1) (k.lateOf .row ev.late))).sawUe c ev.ue).censWrite c q apb a ts.ostr xs).occupy
      c t .row w (2 * ceilDiv (n * nv) 16 + 24)))

/-- PRED, DELTA and DELTA KEY. PRED, DELTA, DELTA_KEY. Rests on 04_sparsity_prediction_and_deltas, The Lookout predictor;
04_sparsity_prediction_and_deltas, Swash deltas; 03_core_engines_and_tile_programs, Instruction formats; 03_core_engines_and_tile_programs,
Timing per opcode. A neuron's number beyond 32 bits wraps, which is the model's choice (notes/assumptions/169.md). -/
def Obligations.PredictionAndDeltas : Prop := ∀ (c : CoreId) (t : SlotId) (s : State) (w : Nat),
  let k := s.core c
  let ts := k.slot t
  let nv := ts.blocks
  let cnt := bits w 14 3
  (∀ ev z out, s.issues c t .pred w = true →
    let bp := if bit w 52 = true then 2 else 1
    let ap := if bit w 51 = true then 2 else 1
    spVectors ts k.spd (bits w 48 46) (bits w 45 32) ap nv ts.vstr = some z →
    spRange ts k.spd (bits w 31 29) (bits w 28 15) (listWords (256 * cnt)) = some out →
    ts.dbase ≤ ts.param → ts.param + 1 ≤ ts.dbound → k.spd.mapped ts.param 1 = true →
    let r := s.spdReads c (ts.param :: (List.range nv).flatMap fun v => (List.range ap).map fun p => z + v * ts.vstr + p)
    let rec_ := ((datas r.1).getD 0 0).toNat
    let rank := bits rec_ 168 160
    let quorum := bits rec_ 175 169
    poisoned r.1 = false → 1 ≤ rank → rank ≤ 256 → quorum ≠ 0 →
    let s1 := (r.2.modCore c (Core.freezeFor (ce2At r.1) (k.lateOf .array ev.late))).sawUe c ev.ue
    let thr := sext (bits rec_ (32 * bits w 50 49 + 31) (32 * bits w 50 49)) 32
    let active := (List.range (256 * cnt)).filter fun n => decide (quorum ≤ ((List.range nv).filter fun v =>
      decide (thr ≤ predScore (s1.core c).flat (k.rows false) bp ((((datas (r.1.drop 1)).drop (v * ap)).take ap)) (n / 256) (n % 256) rank)).length)
    let items := active.map fun n => (bits rec_ 159 128 + n) % 2 ^ 32
    let m := items.length
    exec (.pred c t ev) s = .next (((s1.putWords c false (listWrite out items)).modCore c fun k =>
      { k with cnt := { k.cnt with predLast := m, predCand := satAdd k.cnt.predCand (256 * cnt), predAct := satAdd k.cnt.predAct m } }).occupy
        c t .array w (nv * (cnt * bp * ap + 6) + 8 + ceilDiv (m + 1) 8) fun b => { b with wb := [(4, BitVec.ofNat 32 m)] })) ∧
  (∀ ev key a frame area, s.issues c t (if key = true then .deltaKey else .delta) w = true →
    spRange ts k.spd (bits w 31 29) (bits w 28 15) 1 = some a →
    let hd := s.spdReads c [a]
    let h := ((datas hd.1).getD 0 0).toNat
    let ba := bits h 19 16
    let stride := cnt * ba
    let s1 := hd.2.modCore c (Core.freezeFor (ce2At hd.1) [])
    poisoned hd.1 = false → 2 ≤ ba → ba ≤ 11 → (key = true ∨ bit h 20 = true ∧ ∀ b, s1.layerBa c t = some b → b = ba) →
    spVectors ts k.spd (bits w 48 46) (bits w 45 32) stride nv ts.vstr = some frame →
    spRange ts k.spd (bits w 31 29) (bits w 28 15) (10 + nv * stride + nv * cnt * 12) = some area →
    let r := (s1.sawUe c ev.ue).spdReads c (((List.range nv).flatMap fun v => (List.range stride).map fun i => frame + v * ts.vstr + i) ++
      if key = true then [] else (List.range (nv * stride)).map (a + 10 + ·))
    poisoned r.1 = false →
    let elem := fun (base v i : Nat) => planeVal (((datas r.1).drop (base + v * stride + i / 256 * ba)).take ba) true (i % 256)
    let frames := (List.range nv).map fun v => (v, (List.range (256 * cnt)).map fun i =>
      deltaElem key (bits h 15 0) (elem 0 v i) (if key = true then 0 else elem (nv * stride) v i))
    let all := frames.flatMap (·.2)
    let count := fun n => (all.filter fun e => decide (e.2.2 = n)).length
    let applied := frames.filter fun f => f.2.any fun e => decide (e.2.2 = 2)
    let n := applied.length
    let wd := if key = true then widthClass ba
      else widthClass ((all.filter fun e => decide (e.2.2 = 2)).foldl (fun m e => max m (intWidth e.1)) 2)
    let deltas := (applied.mapIdx fun i f => wholeWords (a + 10 + nv * stride + i * cnt * wd) (planeBlocks wd (f.2.map (·.1)))).flatten
    let states := applied.flatMap fun f => wholeWords (a + 10 + f.1 * stride) (planeBlocks ba (f.2.map (·.2.1)))
    let fr := if key = true then 0 else (bits h 63 32 + 1) % 2 ^ 32
    let head := h - bits h 63 32 * 2 ^ 32 + fr * 2 ^ 32 + (if bit h 20 = true then 0 else 2 ^ 20)
    exec (if key = true then .deltaKey c t ev else .delta c t ev) s = .next ((((r.2.modCore c (Core.freezeFor ((ce2At r.1).map (1 + ·)) (k.lateOf .swash ev.late))).putWords c false
      (listWrite (a + 1) (applied.map (·.1)) ++ deltas ++ states ++ wholeWords a [BitVec.ofNat 256 head])).modCore c fun k =>
      { k with cnt := { k.cnt with
          swZero := satAdd k.cnt.swZero (count 0), swBelow := satAdd k.cnt.swBelow (count 1),
          swAppl := satAdd k.cnt.swAppl (count 2), swVskip := satAdd k.cnt.swVskip (nv - n) } }).occupy
        c t .swash w (nv * cnt * ba + n * cnt * (ba + wd) + 16) fun b => { b with wb := [(3, BitVec.ofNat 32 n), (4, BitVec.ofNat 32 wd)] }))

/-- A slot takes a tile and sends its commit. TAKE, TAKE_SERVE, DONE, DONE_COMPLETE. Rests on 07_tiles_leases_and_fencing, Tile counters;
07_tiles_leases_and_fencing, Leases; 03_core_engines_and_tile_programs, Instruction formats; 07_tiles_leases_and_fencing, Beaching a core.
-/
def Obligations.TakeAndDone : Prop := ∀ (c : CoreId) (t : SlotId) (s : State) (w : Nat),
  let k := s.core c
  let ts := k.slot t
  (∀ p, s.issues c t .take w = true → ts.held = none → ts.target (bits w 46 35) = some p →
    exec (.take c t) s = .next (s.setCore c { k.setSlot t
      { ts with st := .blocked, blk := .take (bits w 52 47) (sext (bits w 46 35) 12) } with progress := true, lastIssue := t, cycle := k.cycle + 1 })) ∧
  ((c : Nat) ∈ (s.die (coreDie c)).joining → exec (.takeServe c t) s = .next s) ∧
  (∀ n exh, ts.blk = .take n exh → s.canIssue c = true → (c : Nat) ∉ (s.die (coreDie c)).joining →
    let q := (s.die (coreDie c)).ctr n
    (q.st ≠ .open → q.st ≠ .closed →
      exec (.takeServe c t) s = .next (s.setCore c { k.setSlot t
        { ts with st := .ready, blk := .none, pc := ((ts.pc : Int) + exh).toNat } with progress := true })) ∧
    (q.st = .open ∨ q.st = .closed → q.held = false →
      ∀ tile retry entry, s.nextTile c t n q = some (tile, retry, entry) →
      ∃ u, exec (.takeServe c t) s = .next u ∧
        let us := (u.core c).slot t
        us.st = .ready ∧ us.blk = .none ∧ us.pc = ts.pc + 1 ∧ us.getX 7 = BitVec.ofNat 32 tile ∧
        us.held.map (fun h => (h.tile, h.gen, h.ctr)) = some (BitVec.ofNat 32 tile, BitVec.ofNat 32 (q.pseq * 256 + retry), n) ∧
        (u.die (coreDie c)).lease (leaseIx c t) = Lease.make (BitVec.ofNat 32 tile) (BitVec.ofNat 32 (q.pseq * 256 + retry)) (leaseCtl 1 n 0) ∧
        (entry = none → tile ∈ ((u.die (coreDie c)).ctr n).taken) ∧ (u.core c).satTile = 0)) ∧
  (∀ h, s.issues c t .done w = true → ts.held = some h →
    exec (.done c t) s = .next (s.setCore c { k.setSlot t
      { ts with st := .blocked, blk := .done, commit := if k.ue = true then .none else .sent h.tile h.gen h.ctr k.satTile } with
        progress := true, lastIssue := t, cycle := k.cycle + 1 })) ∧
  (∀ ok, ts.commit = .answered ok → ts.blk = .done → s.canIssue c = true →
    exec (.doneComplete c t) s = .next (s.setCore c { k.setSlot t
      { ts with st := .ready, blk := .none, pc := ts.pc + 1, held := none, commit := .none } with progress := true }))

/-- The lease table takes a commit of the held tile alone. LEASE_COMMIT. Rests on 07_tiles_leases_and_fencing, Leases. What a bad stored
pair of a lease leads to is the model's (notes/assumptions/145.md). -/
def Obligations.CommitIsOnceOnly : Prop := ∀ (c : CoreId) (t : SlotId) (s : State) (tile gen : W32) (n sat : Nat),
  let d := coreDie c
  let e := leaseIx c t
  let l := (s.die d).lease e
  ((s.core c).slot t).commit = .sent tile gen n sat →
  (l.pairOk = true → l.st = 1 → l.tile = tile → l.gen = gen → l.ctr = n →
    ∃ u, exec (.leaseCommit c t true []) s = .next u ∧ ((u.core c).slot t).commit = .answered true ∧
      ((u.die d).lease e).st = 0 ∧
      ((u.die d).ctr n).committed = ((s.die d).ctr n).committed ++ (if gen.toNat / 256 = ((s.die d).ctr n).pseq then [tile.toNat] else []) ∧
      (gen.toNat / 256 = ((s.die d).ctr n).pseq → Tab.get 0 ((u.die d).ctr n).sats tile.toNat = sat)) ∧
  (¬ (l.pairOk = true ∧ l.st = 1 ∧ l.tile = tile ∧ l.gen = gen ∧ l.ctr = n) →
    ∃ u, exec (.leaseCommit c t true []) s = .next u ∧ ((u.core c).slot t).commit = .answered false ∧ ((u.die d).lease e).st ≠ 1 ∧
      (u.die d).statStale = satInc (s.die d).statStale ∧ ∀ m, ((u.die d).ctr m).committed = ((s.die d).ctr m).committed) ∧
  (∃ u, exec (.leaseCommit c t false []) s = .next u ∧ ((u.core c).slot t).commit = .answered false ∧ u.tmk.pair.getLsbD 6 = true ∧
      ∀ m, ((u.die d).ctr m).committed = ((s.die d).ctr m).committed)

/-- Postings, affinity, retries and lease expiry. POSTING_OPEN, AFFWAIT_EXPIRY, RETRY_AVAILABLE, LEASE_EXPIRED. Rests on
07_tiles_leases_and_fencing, Postings; 07_tiles_leases_and_fencing, Tile counters; 07_tiles_leases_and_fencing, Leases. What a bad stored
pair of a lease leads to is the model's (notes/assumptions/145.md), and so are when a core is free for a part and a part's places in AUX
(notes/assumptions/174.md, 21.md). -/
def Obligations.PostingsAndRetries : Prop := ∀ (d : DieId) (s : State),
  (∀ step layer census halo writer e st l r b, s.step? step = some e → (s.handle e.handle).stream = some st →
    (s.stepLayers e).find? (fun l => decide (l.index = layer)) = some l → st.cls l.cls = some r → st.bucketFor layer e.m = some b →
    let q := (s.die d).ctr l.ctr
    (q.st = .open → q.step = step → q.layer = layer →
      exec (.postingOpen d step layer census halo writer) s = .next (s.addSplits d l.ctr)) ∧
    (¬ (q.st = .open ∧ q.step = step ∧ q.layer = layer) → e.handed = true → e.fail = 0 → (e.colsOn layer d).2 ≠ 0 → (layer, (d : Nat)) ∉ e.posted →
      ((∀ p ps, q.queue = p :: ps → p.step = step ∧ p.layer = layer) → s.mayOpen d e l = true → q.st ≠ .open → q.st ≠ .closed →
        exec (.postingOpen d step layer census halo writer) s = .next (halo.foldl (fun (s : State) z =>
          s.ownWrite (dieSrc d) z.1 (List.replicate z.2 0)) (s.openPosting d e st l r b census writer))) ∧
      ((∀ p ∈ q.queue, p.step ≠ step ∨ p.layer ≠ layer) → q.queue.length < 15 →
        (s.mayOpen d e l = false ∨ q.st = .open ∨ q.st = .closed ∨ q.queue ≠ []) →
        exec (.postingOpen d step layer census halo writer) s = .next (s.modCtr d l.ctr fun q =>
          { q with queue := q.queue ++ [⟨step, e.handle, layer⟩] })))) ∧
  (∀ n, let q := (s.die d).ctr n
    q.st = .open ∨ q.st = .closed → q.opened + (s.die d).affwait ≤ s.us →
    exec (.affwaitExpiry d n) s = .next (s.modCtr d n fun q => { q with affOver := true })) ∧
  (∀ before r after, (s.die d).retry = before ++ r :: after → (∀ x ∈ before, x.avail = true ∨ s.us < x.since + 2) → r.avail = false →
    r.since + 2 ≤ s.us →
    exec (.retryAvailable d) s = .next (s.modDie d fun x => { x with retry := before ++ { r with avail := true } :: after })) ∧
  (∀ e, let l := (s.die d).lease e
    (l.pairOk = true → l.st = 1 → (s.die d).leaseTmo ≠ 0 → 16 * (s.die d).leaseTmo ≤ l.age →
      exec (.leaseExpired d e []) s = .next ((s.record 0x0024 d (b8 d ++ b8 l.ctr ++ b8 0 ++ b8 0 ++ leBytes 4 l.tile.toNat ++ leBytes 4 l.gen.toNat)
        (leaseCore d e)).stopSlot (leaseCore d e) (e % 4) true)) ∧
    (l.pairOk = false → exec (.leaseExpired d e []) s = .next (s.leasePairFault d e none)))

/-- Beaching, the fencing sequence and the return of a core. HEARTBEAT_TIMEOUT, CE2_WINDOW_END, FENCE_EVENT, FENCE_RESEND, FENCE_ACK,
JOIN_COMPLETE, FENCE_RELEASE, SELFTEST_DONE. Rests on 07_tiles_leases_and_fencing, Beaching a core; 01_package_and_planes, The three planes.
That an isolated die's control plane takes its event and that a beached core's share leaves the fall limit are the model's readings
(notes/assumptions/74.md, 114.md). -/
def Obligations.FencingAndJoins : Prop := ∀ (d : DieId) (c : CoreId) (s : State),
  (s.fenced c = false → (s.core c).inReset = false → s.role c ≠ .disabled → (Tab.get (0, 0) s.bw.hbeatSeen c).2 + 10 ≤ s.us →
    ∃ u, exec (.heartbeatTimeout c) s = .next u ∧ u.fenced c = true ∧ (u.core c).gated = true ∧
      (u.die (coreDie c)).evts = (s.die (coreDie c)).evts ++
        [{ seq := (s.hub.fenceSeq + 1) % 65536, mask := 2 ^ coreLocal c, causes := [(coreLocal c, 2)], sent := s.us }]) ∧
  (s.bw.epoch % 2 ^ 20 = 0 → s.bw.epoch ≠ 0 →
    ∃ u, exec .ce2WindowEnd s = .next u ∧
      u.bw = { s.bw with ce2Prev := s.bw.ce2Cur, ce2Cur := [],
                         fallCores := s.bw.fallCores + (((List.range 144).filter fun x => !s.fenced x && decide (s.sec.ce2Limit < Tab.get 0 s.bw.ce2Prev x) &&
                           decide (s.sec.ce2Limit < Tab.get 0 s.bw.ce2Cur x)).map fun x => min coreRated (s.bw.grantOf x).grant).sum } ∧
      ∀ x < 144, s.sec.ce2Limit < Tab.get 0 s.bw.ce2Prev x → s.sec.ce2Limit < Tab.get 0 s.bw.ce2Cur x → u.fenced x = true) ∧
  (∀ toHub v, (s.die d).evts.find? (fun v => (v.link toHub).onWay) = some v →
    (if toHub = true then s.hub.hubUp = true else (s.die d).inReset = false ∨ (s.die d).isolated = true) →
    let s1 := s.modDie d (Die.modEvt v.seq (FenceEvt.modLink toHub fun y => { y with onWay := false }))
    exec (.fenceEvent d toHub false) s = .next (s1.pairError 0) ∧
    ((v.link toHub).received = true → exec (.fenceEvent d toHub true) s = .next s1) ∧
    (toHub = true → v.hub.received = false → exec (.fenceEvent d toHub true) s =
      .next (s1.modDie d (Die.modEvt v.seq (FenceEvt.modLink true fun y => { y with received := true })))) ∧
    (toHub = false → v.die.received = false →
      ∃ u, exec (.fenceEvent d toHub true) s = .next u ∧ (u.die d).fencing = true ∧
        ∀ x < 36, bit v.mask x = true → u.role (36 * (d : Nat) + x) = .beached ∧ bit (u.die d).fenceMask x = true ∧
          ∀ t < 4, ((u.die d).lease (4 * x + t)).st ≠ 1 ∧
            (((u.core (36 * (d : Nat) + x)).slot t).st = .stopped ∨ (u.core (36 * (d : Nat) + x)).logicOff = true))) ∧
  (∀ before v after, (s.die d).evts = before ++ v :: after → (∀ x ∈ before, s.us < x.sent + 1) → v.sent + 1 ≤ s.us →
    exec (.fenceResend d) s = .next (s.modDie d fun x =>
      { x with evts := before ++ { v with die := v.die.resend, hub := v.hub.resend, sent := s.us } :: after })) ∧
  (∀ fromHub v, (s.die d).evts.find? (fun v => (v.link fromHub).received && !(v.link fromHub).acked) = some v →
    exec (.fenceAck d fromHub false) s = .next (s.pairError 0) ∧
    ∃ u, exec (.fenceAck d fromHub true) s = .next u ∧ (u.die d).fenceSeq = (if fromHub = true then (s.die d).fenceSeq else v.seq) ∧
      ∀ x ∈ (u.die d).evts, x.seq = v.seq → (x.link fromHub).acked = true ∧ ¬ (x.die.acked = true ∧ x.hub.acked = true)) ∧
  (∀ h st r, (c : Nat) ∈ (s.die (coreDie c)).joining → s.banksReady c = true → s.fenced c = false → s.claimOf c = some (h, st, r) →
    let pre := (st.recsOf r c).parts.filter fun p => 0 < p.pwords
    s.preloadLines pre = [] → s.rangesWork (preloadRanges pre) = true → exec (.joinComplete c) s = .next (((s.fillData c (st.recsOf r c) pre).modDie (coreDie c) fun x =>
      { x with joining := x.joining.filter (· ≠ (c : Nat)) }).joinPostings c)) ∧
  (∀ ns, (s.die d).fencing = true → (∀ v ∈ (s.die d).evts, v.open_ = false) →
    let n := if (s.die d).heldCls = [] then (s.die d).holdLast else min ns max32
    let s1 := s.modDie d fun x => { x with
      ctrs := x.ctrs.map (fun q => (q.1, { q.2 with held := false })), fencing := false, heldCls := [],
      holdLast := n, holdMax := max x.holdMax n }
    let due := s.hub.resetAfterFence.filter fun x => decide (coreDie x = d ∧ s.role x = .beached)
    (due = [] → exec (.fenceRelease d ns) s = .next s1) ∧
    exec (.fenceRelease d ns) s = .next (due.foldl (fun s x => s.coreReset x) { s1 with hub := { s1.hub with
      resetAfterFence := s1.hub.resetAfterFence.filter fun x => x ∉ due } })) ∧
  ((c : Nat) ∈ s.hub.selftest → (s.core c).logicOff = false →
    (s.hub.hubUp = false → ∀ pass pairOk, exec (.selftestDone c pass pairOk) s = .next s) ∧
    (s.hub.hubUp = true → ∀ pass, exec (.selftestDone c pass false) s = .next (s.pairError 3)) ∧
    (s.hub.hubUp = true →
      ∃ u, exec (.selftestDone c true true) s = .next u ∧ u.role c = .standby ∧ (u.core c).gated = false ∧ (c : Nat) ∉ u.hub.selftest ∧
        bit (u.die (coreDie c)).fenceMask (coreLocal c) = false) ∧
    (s.hub.hubUp = true →
      exec (.selftestDone c false true) s = .next ({ s with hub := { s.hub with selftest := s.hub.selftest.filter (· ≠ (c : Nat)) } }.logicCheck c)))

/-- Remote accesses, scrub and bank power. SPD_REMOTE_WRITE, SPD_REMOTE_READ, SPD_PATROL_SCRUB, SPD_BANK_REQ_WRITE, BANK_WAKE_START,
BANK_WAKE_DONE, BANK_DRAIN_DONE, SPD_FORCED_OFF. Rests on 05_scratchpad, Windows; 05_scratchpad, Bank power; 05_scratchpad, Patrol scrub;
12_breakwater_power_clocks_reset, Power domains; 12_breakwater_power_clocks_reset, Reset scopes. What a requester does while a core is in
reset, and the order of words of several windows, are the model's (notes/assumptions/165.md, 170.md, 50.md). -/
def Obligations.ScratchpadBanks : Prop := ∀ (c target : CoreId) (t : SlotId) (b : BankId) (s : State),
  let m := (s.core c).spd
  let g := (s.core target).spd
  (∀ stuck, (s.core target).inReset = true →
    exec (.spdRemoteWrite c t target stuck) s = .next s ∧ ∀ ups, exec (.spdRemoteRead c t target ups stuck) s = .next s) ∧
  (∀ a data p fs, s.carries (coreDie c) (coreDie target) = true → (s.core target).inReset = false → takeWrite c t target 0 s.fabric = some (a, fs) →
    a.body = .write data p →
    let s1 : State := { s with fabric := fs }
    let bank := g.bankOf a.word
    let q : QReq := ⟨4 * c + t, a.word, a.body, a.sigs⟩
    (16384 ≤ a.word → exec (.spdRemoteWrite c t target false) s = .next (s1.reject c t a.num target)) ∧
    (a.word < 16384 → g.isOn a.word = false →
      exec (.spdRemoteWrite c t target false) s = .next ((s1.spdDiscard target c a.word).unpowered c)) ∧
    (a.word < 16384 → g.isOn a.word = true → g.grants a.word true = false →
      exec (.spdRemoteWrite c t target false) s = .next (s1.reject c t a.num target)) ∧
    (a.word < 16384 → g.isOn a.word = true → g.grants a.word true = true →
      exec (.spdRemoteWrite c t target false) s = .next ((s1.bankRetire target bank).bankServe target q) ∧
      ((g.bank bank).queue = [] → ∃ u, exec (.spdRemoteWrite c t target false) s = .next u ∧ (u.core target).spd.word a.word = data ∧
        Tab.get false (u.core target).spd.poison a.word = p ∧ ∀ w, w ≠ a.word → (u.core target).spd.word w = g.word w) ∧
      ((g.bank bank).queue.length < 8 → exec (.spdRemoteWrite c t target true) s = .next (s1.modSpd target (Spad.modBank bank fun x =>
        { x with queue := x.queue ++ [q] }))) ∧
      (8 ≤ (g.bank bank).queue.length → exec (.spdRemoteWrite c t target true) s = .next s))) ∧
  (∀ a l fs, s.carries (coreDie c) (coreDie target) = true → (s.core target).inReset = false → takeRead c t target s.fabric = some (a, fs) →
    a.body = .read l → a.word < 16384 →
    let s1 := ({ s with fabric := fs } : State).upset target []
    let bank := g.bankOf a.word
    let q : QReq := ⟨4 * c + t, a.word, a.body, a.sigs⟩
    (g.isOn a.word = false → exec (.spdRemoteRead c t target [] false) s = .next ((s1.unpowered c).land c l 0 true)) ∧
    (g.isOn a.word = true → g.grants a.word false = false →
      exec (.spdRemoteRead c t target [] false) s = .next (s1.reject c t a.num target)) ∧
    (g.isOn a.word = true → g.grants a.word false = true →
      (let u := s1.bankRetire target bank
       let r := u.spdReadOn target a.word
       exec (.spdRemoteRead c t target [] false) s = .next (r.2.land ((4 * c + t) / 4) l r.1.data r.1.poison)) ∧
      ((g.bank bank).queue.length < 8 → exec (.spdRemoteRead c t target [] true) s = .next (s1.modSpd target (Spad.modBank bank fun x =>
        { x with queue := x.queue ++ [q] }))))) ∧
  (m.scrubEn = true → (m.bank b).st = .on →
    ∃ u, exec (.spdPatrolScrub c b 0) s = .next u ∧ ((u.core c).spd.bank b).scrubRow = ((m.bank b).scrubRow + 1) % 1024 ∧
      (u.core c).spd.scrubPass = if (m.bank b).scrubRow = 1023 then satInc m.scrubPass else m.scrubPass) ∧
  (∀ on, ∃ u, exec (.spdBankReqWrite c on) s = .next u ∧ (u.core c).spd.bankReq = on ∧
    ((m.bank b).st = .on → ((u.core c).spd.bank b).st = if on.getLsbD b = true then .on else .draining) ∧
    ((m.bank b).st = .draining → (m.bank b).fenced = false → ((u.core c).spd.bank b).st = if on.getLsbD b = true then .on else .draining) ∧
    ((m.bank b).st = .off ∨ (m.bank b).st = .waking ∨ (m.bank b).fenced = true ∧ (m.bank b).st = .draining → (u.core c).spd.bank b = m.bank b)) ∧
  (let left := Tab.get 0 s.bw.wakeGranted c;
    let die := Tab.get 0 s.bw.wakes (coreDie c);
    (m.bank b).st = .off → m.bankReq.getLsbD b = true → s.role c ≠ .disabled → 0 < left → die < 16 →
    exec (.bankWakeStart c b) s = .next ({ s with bw := { s.bw with
      wakeGranted := Tab.set 0 s.bw.wakeGranted c (left - 1), wakes := Tab.set 0 s.bw.wakes (coreDie c) (die + 1) } }.modSpd c fun m =>
        m.modBank b fun x => { x with st := .waking, since := s.us, fenced := false })) ∧
  ((m.bank b).st = .waking →
    ∃ u, exec (.bankWakeDone c b) s = .next u ∧ ((u.core c).spd.bank b).st = (if m.bankReq.getLsbD b = true then .on else .draining) ∧
      ∀ w, m.bankOf w = b → (u.core c).spd.word w = 0) ∧
  ((m.bank b).st = .draining →
    ∃ u, exec (.bankDrainDone c b) s = .next u ∧ ((u.core c).spd.bank b).st = .off ∧ ((u.core c).spd.bank b).queue = [] ∧
      ((u.core c).spd.bank b).fenced = false ∧ ((m.bank b).queue = [] → ∀ w, m.bankOf w = b → (u.core c).spd.word w = 0)) ∧
  (∀ (reads : List (UnitName × Nat)) (writes : List Nat), (m.bank b).st = .draining → (∀ r ∈ reads, m.bankOf r.2 = b) → (∀ w ∈ writes, m.bankOf w = b) →
    0 < (m.bank b).queue.length + reads.length + writes.length →
    (m.bank b).queue.length + reads.length + writes.length ≤ 8 → (m.bank b).since + 20 ≤ s.us →
    ∃ u, exec (.spdForcedOff c b reads writes) s = .next u ∧ ((u.core c).spd.bank b).st = .off ∧ ((u.core c).spd.bank b).queue = [] ∧
      ((u.core c).spd.forced = true ∨ (u.core c).logicOff = true))

/-- Open, submit and close records. STREAM_OPEN, STREAM_SUBMIT, STREAM_CLOSE. Rests on 08_estuary_streams, Records; 08_estuary_streams, The
stream table; 08_estuary_streams, Admission. -/
def Obligations.EstuaryStreamRequests : Prop := ∀ (n : Nat) (e : Exam) (es : List Exam) (s : State),
  let s1 := (({ s with est := { s.est with examine := es } }).goLive e).touch (.stream n)
  let w := recField e.rec_ 0 8
  let x := s1.ent n
  s.intake = true → s.est.nextExam (.stream n) = some (e, es) → s.cached (.stream n) = true → s.seqCase e = .live →
  (recOp e.rec_ = 1 → s1.policy n e = none → s1.opened (bits w 25 24) < (s1.estClass (bits w 25 24)).openMax →
    ∃ u, exec (.streamOpen n) s = .next u ∧
      u.ent n = { seq := recSeq e.rec_, st := .idle, cls := bits w 25 24, handle := bits w 27 26, ctx := recField e.rec_ 8 8 }) ∧
  (recOp e.rec_ = 2 → s1.policy n e = none → (s1.handle x.handle).st ≠ .unloading →
    (s1.deferReason x.handle x.cls = none → ∃ u, exec (.streamSubmit n) s = .next u ∧ (u.ent n).st = .admitted ∧ (u.ent n).tadm = s.us ∧
      (u.ent n).reqSeq = recSeq e.rec_ ∧ (u.ent n).inLen = bits w 47 32) ∧
    (∀ why, s1.deferReason x.handle x.cls = some why → s1.deferred x.cls < (s1.estClass x.cls).deferMax →
      ∃ u, exec (.streamSubmit n) s = .next u ∧ (u.ent n).st = .deferred ∧ (u.ent n).reason = why ∧ (u.ent n).tadm = s.us)) ∧
  (recOp e.rec_ = 3 → s1.policy n e = none →
    (x.st = .idle → ∃ u, exec (.streamClose n) s = .next u ∧ u.ent n = { seq := recSeq e.rec_ }) ∧
    (x.st = .deferred → ∃ u, exec (.streamClose n) s = .next u ∧ u.ent n = { seq := recSeq e.rec_ }) ∧
    (x.st = .admitted ∨ x.st = .inStep → exec (.streamClose n) s = .next ((s1.modEnt n fun x =>
      { x with st := .closing, closeSeq := recSeq e.rec_, closeUser := recUser e.rec_ }).answer
        { slot := .stream n, op := 3, answer := 0, reason := 0, seq := recSeq e.rec_, user := recUser e.rec_, pos := x.pos }))) ∧
  (∀ why, s1.policy n e = some why → exec (match recOp e.rec_ with | 2 => .streamSubmit n | 3 => .streamClose n | _ => .streamOpen n) s =
    .next (s1.refuse n e why))

/-- Stale, bad and torn records, the stream cache and deferral. INTAKE_STALE_WRITE, TORN_TIMEOUT, STREAM_TABLE_FILL, DEFER_TIMEOUT,
DEFERRED_REEXAMINE. Rests on 08_estuary_streams, The intake window; 08_estuary_streams, Records; 08_estuary_streams, The stream table;
08_estuary_streams, Admission. What waits for lines that the host holds is the model's (notes/assumptions/20.md), and so is a table line
that meets an error (notes/assumptions/176.md). -/
def Obligations.EstuaryIntakeAndDeferral : Prop := ∀ (slot : SlotRef) (n : Nat) (s : State),
  (∀ e es, s.intake = true → s.est.nextExam slot = some (e, es) → s.cached slot = true →
    let s1 : State := { s with est := { s.est with
      examine := es
      cache := match slot with | .ctrl _ => s.est.cache | .stream n => n :: s.est.cache.filter (· ≠ n) } }
    (s.seqCase e = .stale → exec (.intakeStaleWrite slot) s = .next { s1 with est := { s1.est with
      stat := { s.est.stat with stale := satInc s.est.stat.stale } } }) ∧
    (s.seqCase e = .bad → ∃ u, exec (.intakeStaleWrite slot) s = .next u ∧ u.est.stat.seqBad = satInc s.est.stat.seqBad ∧
      u.est.lastBadSeq = recSeq e.rec_ ∧ u.est.table = s.est.table ∧ u.est.ctrlSeq = s.est.ctrlSeq ∧ u.est.cache = s1.est.cache) ∧
    (s.seqCase e = .torn → (∀ p ∈ s.est.pend, p.slot ≠ slot) → exec (.intakeStaleWrite slot) s = .next { s1 with est := { s1.est with
      pend := s.est.pend ++ [⟨slot, e.since, recSeq e.rec_⟩] } })) ∧
  (∀ p, s.est.pend.find? (fun p => decide (p.slot = slot)) = some p → s.intake = true → p.since + s.est.tornWait ≤ s.us →
    s.hubWorks (s.slotDla slot) 64 = true →
    (s.dirtyLines (s.slotDla slot) 64 = [] →
      ∃ u, exec (.tornTimeout slot) s = .next u ∧ (∀ q ∈ u.est.pend, q.slot ≠ slot) ∧ u.est.stat.torn = satInc s.est.stat.torn) ∧
    (s.dirtyLines (s.slotDla slot) 64 ≠ [] → exec (.tornTimeout slot) s = .next (s.snoopData (s.dirtyLines (s.slotDla slot) 64)))) ∧
  (n ∈ s.est.misses → n ∉ s.est.cache →
    let s1 := (State.tableLine (s.entDla n) false true { s with est := { s.est with misses := s.est.misses.filter (· ≠ n) } }).2
    (s.est.cache.length < 4096 → ∃ u, exec (.streamTableFill n) s = .next u ∧ u.est = { s1.est with cache := n :: s.est.cache } ∧ u.plm = s1.plm) ∧
    (4096 ≤ s.est.cache.length → ∀ v, s.est.cache.reverse.find? (fun m => !(s.ent m).st.pins) = some v →
      ∃ u, exec (.streamTableFill n) s = .next u ∧ u.est = { s1.est with cache := n :: s.est.cache.filter (· ≠ v) } ∧ u.plm = s1.plm)) ∧
  ((s.ent n).st = .deferred → (s.ent n).tadm + 1000 * (s.estClass (s.ent n).cls).deferTmo ≤ s.us →
    ∃ u, exec (.deferTimeout n) s = .next u ∧ (u.ent n).st = .idle ∧ (u.ent n).pos = (s.ent n).pos) ∧
  (s.est.en = true → exec .deferredReexamine s = .next ((List.range 4).foldl (fun (s : State) c => s.reexamine (s.deferred c) c) s))

/-- Enabling, disabling and the window registers. EST_ENABLE, EST_DISABLE, EST_INIT_DONE, EST_WINDOW_REG_WRITE. Rests on 08_estuary_streams,
The intake window; 08_estuary_streams, EST_ register map. When the number of streams changes and CFG_ERR clears is the model's choice
(notes/assumptions/175.md). -/
def Obligations.EstuaryEnable : Prop := ∀ (v : W32) (s : State),
  (v.getLsbD 0 = true → s.est.en = false → s.windowOk = true → s.cxl.mode ≠ 2 →
    ∃ u, exec (.estEnable v) s = .next u ∧ u.est.en = true ∧ u.est.ready = false ∧ u.est.winBase = s.est.base ∧ u.est.winSize = s.est.size ∧
      u.est.streams = (s.est.size - 1024) / 64 ∧ Tab.get {} u.plm.regions 5 = ⟨true, s.est.base, s.est.size, 5, true⟩ ∧
      u.est.biDelay = bits v.toNat 15 8 ∧ u.est.tornWait = bits v.toNat 23 16 ∧ u.plm.mem = s.plm.mem) ∧
  (v.getLsbD 0 = true → s.est.en = false → (s.windowOk = false ∨ s.cxl.mode = 2) →
    exec (.estEnable v) s = .next { s with est := { s.est.ctrlFields v with cfgErr := true } }) ∧
  (s.est.en = true → s.est.ready = false →
    ∃ u, exec .estInitDone s = .next u ∧ u.est = { s.est with ready := true } ∧ u.plm.mem = s.plm.mem ∧ u.plm.map = s.plm.map) ∧
  (s.est.en = false ∨ s.est.ready = true → exec .estInitDone s = .next s) ∧
  (v.getLsbD 0 = false → s.est.en = true →
    ∃ u, exec (.estDisable v) s = .next u ∧ u.est.en = false ∧ u.est.ready = false ∧ (∀ n, (u.ent n).st = .closed) ∧
      Tab.get {} u.plm.regions 5 = {} ∧ u.plm.mem = s.plm.mem) ∧
  (∀ off, off = 0x8 ∨ off = 0xC ∨ off = 0x10 → s.est.en = true ∨ s.hub.lock = true →
    exec (.estWindowRegWrite off v) s = .next { s with
      est := { s.est with winWrite := s.est.winWrite || s.est.en }, hub := { s.hub with lockedWrite := s.hub.lockedWrite || s.hub.lock } }) ∧
  (s.est.en = false → s.hub.lock = false →
    exec (.estWindowRegWrite 0x8 v) s = .next { s with est := { s.est with base := s.est.base / 2 ^ 32 * 2 ^ 32 + v.toNat / 65536 * 65536 } } ∧
    exec (.estWindowRegWrite 0xC v) s = .next { s with est := { s.est with base := s.est.base % 2 ^ 32 + 2 ^ 32 * bits v.toNat 8 0 } } ∧
    exec (.estWindowRegWrite 0x10 v) s = .next { s with est := { s.est with size := bits v.toNat 26 0 } })

/-- Steps are formed, handed over, completed and failed. STEP_FORM, STEP_HANDOFF, STEP_COMPLETE, STEP_FAILED. Rests on 08_estuary_streams,
Steps; 08_estuary_streams, Completion and notification. -/
def Obligations.EstuarySteps : Prop := ∀ (h : HandleId) (cls : Fin 4) (s : State),
  (let k := s.estClass cls;
    let pool := (s.est.table.filter fun e => e.2.waits && decide (e.2.handle = h.val) && decide (e.2.cls = cls.val)).insertionSort (byTadm · ·);
    let mine := takeStep k.batch k.mtok pool;
    s.est.en = true → (s.handle h).st = .loaded → mine ≠ [] →
    (k.batch ≤ pool.length ∨ k.mtok ≤ (pool.map fun e => e.2.inLen).sum ∨ ∃ e es, pool = e :: es ∧ e.2.tadm + k.wait ≤ s.us) →
    (s.est.steps.filter fun e => decide (e.handle = h.val) && decide (e.cls = cls.val)).length < k.inflight →
    s.readsHeld h cls = false → s.sharesTensor h cls = false → s.est.ringFull = false → s.cxl.cacheOn = true →
    ∃ u v, exec (.stepForm h cls) s = .next u ∧ u.est.nextStep = s.est.nextStep + 1 ∧
      u.est.steps = s.est.steps ++ [{ num := s.est.nextStep + 1, handle := h, cls := cls, streams := mine.map (·.1), m := (mine.map fun e => e.2.inLen).sum,
                                      listDla := s.workDla + 64 * v, list := mine.map fun e => e.2.stepReq e.1 }] ∧
      ∀ e ∈ mine, (u.ent e.1).step = s.est.nextStep + 1) ∧
  (∀ step cols e, s.step? step = some e → e.handed = false → s.hub.hubUp = true → s.colsOk e cols = true →
    exec (.stepHandoff step cols) s = .next (s.modStep step fun e =>
      { e with handed := true, cols := cols, place := (s.est.steps.map (·.place)).foldl max 0 + 1 })) ∧
  (∀ step outLens e, s.step? step = some e → e.handed = true → e.fail = 0 → (∀ l ∈ s.stepLayers e, e.layerClosed l.index = true) →
    s.hub.hubUp = true → s.outWaits e = false → s.kl.waitsOn step = false → ∃ u, exec (.stepComplete step outLens) s = .next u ∧ (∀ f ∈ u.est.steps, f.num ≠ step) ∧
      ∀ n, e.streams = [n] →
        (e.orphan n = none → (s.ent n).step = step → (s.ent n).st = .inStep →
          (u.ent n).st = .idle ∧ (u.ent n).pos = (s.ent n).pos + (s.ent n).inLen) ∧
        (∀ o, e.orphan n = some o → u = State.answer { o.ent.doneAns n (outLens.getD 0 0) with at_ := some o.status }
          { s with est := { s.est with steps := s.est.steps.filter fun f => decide (f.num ≠ step) } })) ∧
  (∀ step e, s.step? step = some e → e.fail ≠ 0 →
    (s.hub.hubUp = false → exec (.stepFailed step) s = .next s) ∧
    (s.hub.hubUp = true → ∃ u, exec (.stepFailed step) s = .next u ∧ (∀ f ∈ u.est.steps, f.num ≠ step) ∧
      ∀ n, e.streams = [n] →
        (e.orphan n = none → (s.ent n).step = step → (s.ent n).st = .inStep → (u.ent n).st = .idle ∧ (u.ent n).pos = (s.ent n).pos) ∧
        (∀ o, e.orphan n = some o → u = State.answer ⟨.stream n, 2, 6, if e.fail = 1 then 0x20 else 0x21, o.ent.reqSeq, o.ent.user, 0, o.ent.pos, true,
            some o.status⟩
          { s with est := { s.est with steps := s.est.steps.filter fun f => decide (f.num ≠ step) } })))

/-- The completion head, the notify write and the delayed snoop. BI_SNOOP_DELAY, CQ_HEAD_WRITE, NOTIFY_WRITE. Rests on 08_estuary_streams,
The intake window; 08_estuary_streams, Completion and notification. BI_DELAY is taken in whole microseconds, rounded down
(notes/assumptions/13.md). What waits for lines that the host holds is the model's (notes/assumptions/20.md). -/
def Obligations.EstuaryHostRegisters : Prop := ∀ (s : State),
  (let r := s.devRead .hub (s.est.winBase + 0x3C0) 4;
    let ls := s.dirtyLines (s.est.winBase + 0x3C0) 4
    s.est.en = true → s.hubWorks (s.est.winBase + 0x3C0) 4 = true →
    (ls = [] → r.2.1 = false → exec .cqHeadWrite s = .next ({ r.2.2 with est := { r.2.2.est with head := BitVec.ofNat 32 (leNat r.1) } }).drainCq) ∧
    (ls ≠ [] → exec .cqHeadWrite s = .next (s.snoopData ls))) ∧
  (s.est.notifyEn = true → s.est.notifyDue = true → s.cxl.cacheOn = true → s.works cxlUnit = true →
    (s.est.notifyLast = 0 ∨ s.est.notifyLast + s.est.notifyGap ≤ s.us + 1) →
    exec .notifyWrite s = .next { s with
      out := { s.out with hostMem := putMem s.out.hostMem s.est.notifyAddr (leBytes 8 s.est.tail.toNat),
                          d2h := s.out.d2h ++ [D2hReq.woWrInv (lineOf s.est.notifyAddr) (0xFF#64 <<< (s.est.notifyAddr % 64))] },
      cxl := { s.cxl with d2hWr := satInc s.cxl.d2hWr },
      est := { s.est with notifyDue := false, notifyLast := s.us + 1 } }) ∧
  (∀ line since, s.est.biWait.find? (fun w => decide (w.1 = line)) = some (line, since) →
    (since + s.est.biDelay / 10 ≤ s.us → ∃ u, exec (.biSnoopDelay line) s = .next u ∧ (∀ w ∈ u.est.biWait, w.1 ≠ line) ∧
      (∃ inv, (line, inv) ∈ u.cxl.snoops) ∧
      ((∀ q ∈ s.cxl.snoops, q.1 ≠ line) → u.cxl.snoops = s.cxl.snoops ++ [(line, true)] ∧ u.cxl.bisnp = satInc s.cxl.bisnp)) ∧
    (s.us < since + s.est.biDelay / 10 → exec (.biSnoopDelay line) s = .next s))

/-- LOAD, REPLACE, UNLOAD and bad control records. LOADER_LOAD, LOADER_REPLACE, LOADER_UNLOAD, CTRL_RECORD_BAD. Rests on 06_sorzeind_stream,
Handles and requests; 06_sorzeind_stream, The loader's checks in order; 06_sorzeind_stream, Refusal codes. What waits for lines that the
host holds, and for grants, is the model's (notes/assumptions/20.md, 150.md). -/
def Obligations.LoaderCommands : Prop := ∀ (slot : Fin 15) (h : HandleId) (r : List Byte) (rest : List (Nat × List Byte)) (s : State),
  bits (recField r 0 8) 5 4 = h →
  (∀ (op : Nat) (i : Instr) (before during : HandleSt),
    (op, i, before, during) ∈ [(8, Instr.loaderLoad slot, .empty, .loading), (9, Instr.loaderReplace slot, .loaded, HandleSt.replacing)] →
    let s1 := s.ctrlPass slot op
    let dla := recField r 8 8
    let n := recField r 16 4
    s1.est.ctrlQueue = ((slot : Nat), r) :: rest → ctrlOp r = op → s1.ldrBusy = false → s1.hub.hubUp = true → (s1.handle h).copying = false →
    ((s1.handle h).st ≠ before → exec i s = .next (({ s1 with est := { s1.est with ctrlQueue := rest } }).ldrEnd slot r ⟨0x02, 0, 0xFFFFFFFF⟩)) ∧
    ((s1.handle h).st = before →
      let s2 := s1.modHandle h fun x => { x with st := during, busy := true, op := op - 8, code := 0, section_ := 0, frame := 0xFFFFFFFF, copying := true,
                                                 ctrlSlot := slot, ctrlRec := r }
      (∀ l ls, s2.dirtyLines dla (64 * min n 1048576) = l :: ls → exec i s = .next (s2.snoopData (l :: ls))) ∧
      (s2.dirtyLines dla (64 * min n 1048576) = [] → s2.hubWorks dla (64 * min n 1048576) = false → exec i s = .next s2) ∧
      (∀ (img : List Byte) (s3 : State), s2.dirtyLines dla (64 * min n 1048576) = [] → s2.hubWorks dla (64 * min n 1048576) = true →
        dla % 64 = 0 → 1 ≤ n → n ≤ 1048576 → s2.openDla dla (64 * n) = true → ({ s2 with est := { s2.est with ctrlQueue := rest } }).devRead .hub dla (64 * n) = (img, false, s3) →
        let s4 := s3.ownWrite hubSrc (s3.stagingDla h) img
        (∀ st, s4.checkStream h n img = .ok st → exec i s = .next (s4.modHandle h fun x => { x with next := some st, copying := false })) ∧
        (∀ f, s4.checkStream h n img = .error f → f.code ≠ 0x04 →
          let s5 := (s4.ldrEnd slot r f).modHandle h fun x => { x with st := before }
          exec i s = .next (if op = 8 then s5.refuseDeferred h 0x16 else s5))))) ∧
  (let s1 := s.ctrlPass slot 0xA;
    s1.est.ctrlQueue = ((slot : Nat), r) :: rest → ctrlOp r = 0xA → s1.ldrBusy = false → s1.hub.hubUp = true → (s1.handle h).copying = false →
    (s1.handle h).st = .loaded →
    ∃ u, exec (.loaderUnload slot) s = .next u ∧ (u.handle h).st = .unloading ∧ (u.handle h).busy = true ∧ (u.handle h).op = 2 ∧
      (u.handle h).stream = (s1.handle h).stream ∧ u.est.ctrlQueue = rest) ∧
  (∀ e es, s.intake = true → s.est.nextExam (.ctrl slot) = some (e, es) → ctrlOk e = false → s.seqCase e = .live →
    exec (.ctrlRecordBad slot) s = .next ((({ s with est := { s.est with examine := es } }).goLive e).ctrlAnswer slot e.rec_ 4 0x10))

/-- Commit of a stream, the end of an unload, and a rewrite. LOADER_COMMIT, UNLOAD_COMPLETE, STREAM_REWRITE. Rests on 06_sorzeind_stream,
Commit, replacement and unload; 09_strandmap_and_ddr4, Counting, replication and migration. What waits for lines that the host holds, and
for grants, is the model's (notes/assumptions/20.md, 150.md). -/
def Obligations.LoaderStages : Prop := ∀ (h : HandleId) (s : State),
  (∀ st, (s.handle h).next = some st → s.stepsOf h = false → s.hub.hubUp = true →
    let old := match (s.handle h).stream with | some o => o.cores | none => []
    let mine := st.cores.filter s.reachable
    let s1 := mine.foldl (fun (s : State) c => match st.classOf c with | some r => s.requestBanks st r c | none => s)
      (s.stopCores (mine ++ old.filter fun c => !decide (c ∈ mine)))
    let pre := mine.flatMap fun c => s1.preloadsOf st c
    s1.preloadLines pre ++ s1.prepLines st = [] → mine.all s1.banksReady = true → s1.rangesWork (preloadRanges pre) = true → s1.prepWorks st = true →
    ∃ u, exec (.loaderCommit h) s = .next u ∧ (u.handle h).st = .loaded ∧ (u.handle h).stream = some st ∧ (u.handle h).ident = st.ident ∧
      (∀ c, c ∈ u.ldr.rewrite ↔ (c ∈ s.ldr.rewrite ∧ c ∉ st.cores ∧ c ∉ old) ∨ (c ∈ st.cores ∧ s.reachable c = false)) ∧
      ∀ l ∈ st.layers, ∀ w, st.weightRange h l = some w → w ∈ u.plm.ranges) ∧
  (∀ st, (s.handle h).stream = some st → (s.handle h).st = .unloading → s.stepsOf h = false → s.hub.hubUp = true →
    ∃ u, exec (.unloadComplete h) s = .next u ∧ (u.handle h).st = .empty ∧ (u.handle h).stream = none ∧
      (∀ n, (u.ent n).handle = h.val → (u.ent n).st = .closed) ∧ ∀ w ∈ u.plm.ranges, w.handle ≠ h.val) ∧
  (∀ st (c : CoreId), (s.handle h).stream = some st → (c : Nat) ∈ st.cores → s.reachable c = true → (c : Nat) ∈ s.ldr.rewrite →
    ∀ r, st.classOf c = some r →
    let s1 := s.requestBanks st r c
    s1.preloadLines (s1.preloadsOf st c) = [] → s1.rangesWork (preloadRanges (s1.preloadsOf st c)) = true → s1.banksReady c = true →
    let s2 := s1.writeCore st r c
    let s3 := ({ s2 with ldr := { s2.ldr with rewrite := s2.ldr.rewrite.filter fun x => !decide (x ∈ [(c : Nat)]) } }).record 0x0042 4
      (b8 h ++ b8 (coreDie c)) 0xFF 0x13
    exec (.streamRewrite h (.core c)) s = .next
      (if s3.role c = .inService ∧ (c : Nat) ∉ (s3.die (coreDie c)).joining then s3.joinPostings c else s3)) ∧
  (∀ c : CoreId, (c : Nat) ∉ s.ldr.rewrite → exec (.streamRewrite h (.core c)) s = .next s)

/-- Host reads and writes inside the committed decoder. CXL_MEM_READ, CXL_MEM_WRITE. Rests on 11_cxl_host_attachment, CXL.mem and HDM
decoding; 09_strandmap_and_ddr4, Pages and the map; 09_strandmap_and_ddr4, Finding a page; 09_strandmap_and_ddr4, DDR4 channels;
01_package_and_planes, The grant. Which work waits for which unit's grant is the model's (notes/assumptions/150.md). -/
def Obligations.HostMemoryAccess : Prop := ∀ (hpa dla : Nat) (copy : HostCopy) (err : DdrErr) (s : State),
  s.hostDla hpa = some dla →
  let page := pageOf dla
  let home := (s.page page).st = .mapped ∨ (s.page page).st = .moving
  (s.works cxlUnit = false ∨ s.hubWorks dla 1 = false ∨ (∃ h ∈ s.cxl.held, h.line = lineOf dla) →
    exec (.cxlMemRead hpa copy err) s = .next { s with cxl := { s.cxl with held := s.cxl.held ++
      [{ line := lineOf dla, addr := dla, isRead := true, copy := copy, err := err }] } } ∧
    ∀ data poison, exec (.cxlMemWrite hpa data poison copy err) s = .next { s with cxl := { s.cxl with held := s.cxl.held ++
      [{ line := lineOf dla, addr := dla, data := data.take (64 - dla % 64), poison := poison, copy := copy, err := err }] } }) ∧
  (s.works cxlUnit = true → s.hubWorks dla 1 = true → (∀ h ∈ s.cxl.held, h.line ≠ lineOf dla) → CacheUpset.snoop (filterSet (lineOf dla)) ∉ s.tmk.cacheBad → (∀ q ∈ s.cxl.snoops, q.1 ≠ lineOf dla) →
    (copy = .none ∨ s.cxl.victim (lineOf dla) = none) →
    (∃ u, exec (.cxlMemRead hpa copy err) s = .next u ∧ u.plm.mem = s.plm.mem ∧
      (s.pinned page = true → u.out.memData = List.replicate 64 0 ∧ u.out.memPoison = false) ∧
      (s.pinned page = false → (s.page page).st = .lost → u.out.memData = List.replicate 64 0 ∧ u.out.memPoison = true) ∧
      (s.pinned page = false → s.Calm → (s.page page).st = .unmapped → u.out.memData = List.replicate 64 0 ∧ u.out.memPoison = false) ∧
      (s.pinned page = false → s.Calm → err = {} → home →
        u.out.memData = s.plm.bytes (64 * lineOf dla) 64 ∧ u.out.memPoison = Tab.get false s.plm.poison (lineOf dla)) ∧
      (s.pinned page = false → s.Calm → page ∈ s.plm.cache → CacheUpset.map page ∉ s.tmk.cacheBad → home →
        u.out.memData = s.plm.bytes (64 * lineOf dla) 64 ∧
        u.out.memPoison = (Tab.get false s.plm.poison (lineOf dla) || decide (meets err = .uncorrectable)))) ∧
    (∀ data poison, ∃ u, exec (.cxlMemWrite hpa data poison copy err) s = .next u ∧
      (s.pinned page = true → u.plm.mem = s.plm.mem ∧ u.plm.statRsvWr = satInc s.plm.statRsvWr) ∧
      (∀ a, pageOf a ≠ page → u.plm.byte a = s.plm.byte a) ∧
      (s.pinned page = false → s.Calm → (err = {} ∨ page ∈ s.plm.cache ∧ CacheUpset.map page ∉ s.tmk.cacheBad) → home →
        let bs := data.take (64 - dla % 64)
        ∀ a, u.plm.byte a = if dla ≤ a ∧ a < dla + bs.length then bs.getD (a - dla) 0 else s.plm.byte a)))

/-- Back-invalidate responses and snoops of the K4. BIRSP_RECEIVED, H2D_SNOOP. Rests on 11_cxl_host_attachment, CXL.mem and HDM decoding;
11_cxl_host_attachment, CXL.cache; 09_strandmap_and_ddr4, Pages and the map. The code of RspIHitI is log entry 25. -/
def Obligations.SnoopResponses : Prop := ∀ (s : State),
  (∀ line inv, s.cxl.snoops.find? (fun q => decide (q.1 = line)) = some (line, inv) → (∀ w ∈ s.cxl.waiting, w.line ≠ line) →
    (∃ u, exec (.birspReceived line none) s = .next u ∧ (∀ q ∈ u.cxl.snoops, q.1 ≠ line) ∧ u.plm.mem = s.plm.mem ∧
      u.cxl.mayHoldModified line = false ∧ (inv = true → u.cxl.tracks line = false)) ∧
    (∀ bs, bs.length = 64 → ∃ u, exec (.birspReceived line (some bs)) s = .next u ∧ (∀ q ∈ u.cxl.snoops, q.1 ≠ line) ∧
      (s.pinned (pageOf (64 * line)) = true → u.plm.mem = s.plm.mem ∧ u.plm.statRsvWr = satInc s.plm.statRsvWr) ∧
      (s.pinned (pageOf (64 * line)) = false → s.Calm → (s.page (pageOf (64 * line))).st = .mapped ∨ (s.page (pageOf (64 * line))).st = .moving →
        u.plm.bytes (64 * line) 64 = bs))) ∧
  (∀ line, (∀ q ∈ s.cxl.snoops, q.1 ≠ line) → exec (.birspReceived line none) s = .next s ∧
    ∀ bs, bs.length = 64 → exec (.birspReceived line (some bs)) s = .next (s.hostStore (64 * line) bs false)) ∧
  (∀ addr, exec (.h2dSnoop addr) s = .next { s with out := { s.out with snpRsp := rspIHitI } })

/-- The HDM decoder, Cache_Enable, the link and bad BAR0 accesses. CXL_LINK_TRAIN, CXL_LINK_RECOVERY, HDM_DECODER_COMMIT,
CACHE_ENABLE_CHANGE, BAR0_BAD_ACCESS. Rests on 11_cxl_host_attachment, CXL.mem and HDM decoding; 11_cxl_host_attachment, Link rates and
fallbacks; 11_cxl_host_attachment, CXL.cache; 11_cxl_host_attachment, The register space; 11_cxl_host_attachment, What the K4 implements.
What configuration space shows of the state is log entry 164, and which bits the row of Cache_Enable carries log entry 166 (the model's
choice). What configuration space shows of the state is log entry 164, and which bits the row of Cache_Enable carries log entry 166 (the
model's choice). -/
def Obligations.CxlPortAndDecoder : Prop := ∀ (s : State),
  (∀ base lock, (s.cxl.committed = false ∨ s.cxl.locked = false) → base % 2 ^ 28 = 0 → s.cxl.mode = 1 →
    exec (.hdmDecoderCommit base s.hdmBytes 1 lock) s = .next { s with cxl := { s.cxl with committed := true, base := base, locked := lock, dec := ⟨s.hdmBytes, 1, lock, false⟩ } }) ∧
  (∀ base size ways lock, (s.cxl.committed = false ∨ s.cxl.locked = false) →
    (size ≠ s.hdmBytes ∨ ways ≠ 1 ∨ base % 2 ^ 28 ≠ 0 ∨ s.cxl.mode ≠ 1) →
    exec (.hdmDecoderCommit base size ways lock) s = .next { s with cxl := { s.cxl with committed := false, sizeErr := true, dec := ⟨size, ways, lock, true⟩ } }) ∧
  (∀ ctl : CfgCtl, exec (.cacheEnableChange ctl) s = .next (((List.range 4).foldl (fun (s : State) n => s.msiPending n) { s with cxl := { s.cxl with
    cacheEn := ctl.cache, memEn := ctl.mem, viralEn := ctl.viral, busMaster := ctl.busMaster, aerInternal := s.cxl.aerInternal && !ctl.clearErr,
    aerCorrected := s.cxl.aerCorrected && !ctl.clearErr, rasCorrectable := s.cxl.rasCorrectable && !ctl.clearErr } }).drainCq)) ∧
  (∀ rate width latOpt pbr biId, 1 ≤ rate → rate ≤ 6 → width = 1 ∨ width = 2 ∨ width = 4 ∨ width = 8 →
    (4 ≤ rate → width = 8 ∨ width = 4 → exec (.cxlLinkTrain rate width latOpt pbr biId) s = .next { s with cxl := { s.cxl with
      rate := rate, width := width, mode := 1, flit := if rate = 6 then (if latOpt = true then 2 else 1) else 0, pbr := pbr, biId := biId } }.drainCq) ∧
    (rate < 4 ∨ width < 4 → exec (.cxlLinkTrain rate width latOpt pbr biId) s = .next ({ s with cxl := { s.cxl with
      rate := rate, width := width, mode := 2, flit := 3, pbr := pbr, biId := biId } }.record 0x0058 4 (b8 rate ++ b8 width))) ∧
    (s.cxl.mode ≠ 0 → ∃ u, exec (.cxlLinkRecovery rate width latOpt) s = .next u ∧ u.cxl.recovery = satInc s.cxl.recovery ∧
      u.cxl.rate = rate ∧ u.cxl.width = width ∧ u.cxl.mode = if 4 ≤ rate ∧ (width = 8 ∨ width = 4) then 1 else 2)) ∧
  (exec (.bar0BadAccess true) s = .next { s with cxl := { s.cxl with badAcc := satInc s.cxl.badAcc } }) ∧
  (exec (.bar0BadAccess false) s = .next { s with cxl := { s.cxl with badAcc := satInc s.cxl.badAcc }, out := { s.out with bar0 := 0xFFFFFFFF } }) ∧
  (let g := s.cfgSpace
   g.device = 0x4B34 ∧ g.classCode = 0x120000 ∧ g.cacheCapable = true ∧ g.ioCapable = true ∧ g.memCapable = true ∧ g.hdmCount = 1 ∧
   g.memHwInit = false ∧ g.range1Size = s.hdmBytes ∧ g.range2Size = 0 ∧ g.blocks = [0x710000, 0x720000] ∧
   ∀ ctl : CfgCtl, ∃ u, exec (.cacheEnableChange ctl) s = .next u ∧ u.cfgSpace = { g with
     cacheEnable := ctl.cache, memEnable := ctl.mem, viralEnable := ctl.viral, busMaster := ctl.busMaster,
     aerUncorrectable := g.aerUncorrectable && !ctl.clearErr, aerCorrected := g.aerCorrected && !ctl.clearErr })

/-- Zero fill, counting windows, replicas and moves. ZERO_FILL_PAGE, COUNTING_WINDOW_END, REPLICA_COPY_DONE, REPLICA_RETIRE_DONE,
MOVE_COMPLETE. Rests on 09_strandmap_and_ddr4, Allocation; 09_strandmap_and_ddr4, Counting, replication and migration;
12_breakwater_power_clocks_reset, The budget epoch; 01_package_and_planes, The grant. Which work waits for which unit's grant is the model's
(notes/assumptions/150.md). -/
def Obligations.PagePlacement : Prop := ∀ (d : DieId) (ch : ChanId) (page : Nat) (s : State),
  let i := 4 * d.val + ch.val
  (∀ p rest, s.works (ddrUnit i) = true → (s.chanAt i).zeroing = p :: rest →
    exec (.zeroFillPage d ch) s = .next (s.setChan i ((s.chanAt i).zeroed p))) ∧
  (s.plm.ready = true → s.plm.windowSince + s.plm.windowLen ≤ s.us → ∃ u, exec .countingWindowEnd s = .next u ∧ u.plm.window = s.plm.window + 1 ∧
    u.plm.windowSince = s.us ∧ u.plm.hostWrites = [] ∧ (∀ d, (u.die d).counts = []) ∧ u.plm.mem = s.plm.mem ∧ u.plm.poison = s.plm.poison) ∧
  (s.us < s.plm.windowSince + s.plm.windowLen → exec .countingWindowEnd s = .next s) ∧
  (∀ r, s.works strandmapUnit = true → s.plm.copying.find? (fun r => decide (r.page = page) && decide (r.die = d.val)) = some r →
    (s.page page).st = .mapped →
    ∃ u, exec (.replicaCopyDone page d) s = .next u ∧ r ∉ u.plm.copying ∧ r ∈ u.plm.replicas ∧ bit (u.page page).rmask d = true ∧
      u.plm.statRepl = satInc s.plm.statRepl ∧ u.plm.mem = s.plm.mem ∧ ∀ l < 512, (u.chanAt (4 * r.die + r.chan)).errAt r.ppn l = {}) ∧
  (∀ r, s.plm.retiring.find? (fun r => decide (r.page = page) && decide (r.die = d.val)) = some r →
    exec (.replicaRetireDone page d) s = .next ({ s with plm := { s.plm with
      retiring := s.plm.retiring.filter (· ≠ r), statRetire := satInc s.plm.statRetire,
      idle := Tab.erase s.plm.idle (4 * r.page + r.die) } }.freePage (4 * r.die + r.chan) r.ppn)) ∧
  (∀ r, s.works strandmapUnit = true → s.plm.moves.find? (fun r => decide (r.page = page)) = some r →
    let e := s.page page
    ∃ u, exec (.moveComplete page) s = .next u ∧
      (u.page page).st = .mapped ∧ (u.page page).die = r.die ∧ (u.page page).chan = r.chan ∧ (u.page page).ppn = r.ppn ∧
      u.plm.mem = s.plm.mem ∧ u.plm.statMove = satInc s.plm.statMove ∧
      ∀ l < 512, Tab.get false s.plm.poison (512 * page + l) = true ∨ meets ((s.chanAt (4 * e.die + e.chan)).errAt e.ppn l) = .uncorrectable →
        Tab.get false u.plm.poison (512 * page + l) = true) ∧
  (s.works strandmapUnit = false → exec (.moveComplete page) s = .next s ∧ exec (.replicaCopyDone page d) s = .next s)

/-- Release of a range and loss of a die. PLM_REL_GO, RELEASE_DONE, DIE_LOST_WALK_DONE, UCIE_RETRY_FAIL. Rests on 09_strandmap_and_ddr4,
Pages and the map; 09_strandmap_and_ddr4, Loss and retirement; 01_package_and_planes, The on-package fabric. The numbers of a die's modules,
and an isolated die's beached cores, are the model's (notes/assumptions/181.md, 74.md). -/
def Obligations.ReleaseAndDieLoss : Prop := ∀ (d : DieId) (s : State),
  (let clash := s.plm.regions.any fun r => r.2.valid && decide (r.2.base < s.plm.relBase + 32768 * s.plm.relPages) &&
      decide (s.plm.relBase < r.2.base + r.2.size);
    s.plm.relBusy = false → exec .plmRelGo s = .next { s with plm := if s.plm.relBase % 32768 = 0 ∧ clash = false
      then { s.plm with relBusy := true, relRun := (s.plm.relBase, s.plm.relPages) } else { s.plm with relErr := true } }) ∧
  (s.plm.relBusy = true → ∃ u, exec .releaseDone s = .next u ∧ u.plm.relBusy = false ∧
    ∀ p ∈ s.plm.map.map (·.1), s.plm.relRun.1 ≤ 32768 * p → 32768 * p < s.plm.relRun.1 + 32768 * s.plm.relRun.2 → s.pinned p = false →
      (u.page p).st = .unmapped ∧ ∀ a, pageOf a = p → u.plm.byte a = 0) ∧
  (∀ n, s.plm.walks.find? (fun w => decide (w.1 = d.val)) = some (d.val, n) → exec (.dieLostWalkDone d) s =
    .next ({ s with plm := { s.plm with walks := s.plm.walks.erase (d.val, n) } }.record 0x0037 4 (b8 d ++ leBytes 3 0 ++ leBytes 4 n))) ∧
  (∀ m, m < 2 → (s.die d).hubMods.getLsbD m = true →
    let s1 := s.modDie d fun x => { x with hubMods := x.hubMods &&& ~~~(1#2 <<< m) }
    ((s.die d).hubMods = 3 → exec (.ucieRetryFail d m) s = .next (s1.record 0x0038 d (b8 d ++ b8 m) 0xFF 2)) ∧
    ((s.die d).hubMods ≠ 3 → exec (.ucieRetryFail d m) s = .next (s1.isolate d))) ∧
  (∀ m, 2 ≤ m → m < 4 → exec (.ucieRetryFail d m) s = .next { s with hub := { s.hub with
    uciePeer := s.hub.uciePeer &&& ~~~(1#4 <<< (if (d : Nat) = 0 then 3 * (m - 2) else if (d : Nat) = 1 then m - 2 else if (d : Nat) = 2 then m else m - 1)) } })

/-- Evacuation, scrub, refresh and training of channels. EVACUATION_DONE, DDR_PATROL_SCRUB, DDR_REFRESH, DDR_TRAIN_DONE. Rests on
09_strandmap_and_ddr4, Loss and retirement; 09_strandmap_and_ddr4, DDR4 channels; 01_package_and_planes, The grant. Which work waits for
which unit's grant is the model's (notes/assumptions/150.md). -/
def Obligations.DdrChannels : Prop := ∀ (d : DieId) (ch : ChanId) (s : State),
  let i := 4 * d.val + ch.val
  let x := s.chanAt i
  (x.st = .evacuating → s.underWay i = false → s.works strandmapUnit = true →
    let pages := (s.plm.map.filter fun y => decide (y.2.st = .mapped) && !y.2.pin && decide (4 * y.2.die + y.2.chan = i)).map (·.1)
    let reps := s.plm.replicas.filter fun r => decide (4 * r.die + r.chan = i)
    let a := pages.foldl (fun (a : State × Nat) p => ((a.1.evacuatePage i p).1, a.2 + (a.1.evacuatePage i p).2)) (s, 0)
    let b := reps.foldl (fun (a : State × Nat) q => ((a.1.evacuateReplica i q).1, a.2 + (a.1.evacuateReplica i q).2)) a
    (b.2 = 0 → exec (.evacuationDone d ch) s = .next (b.1.setChan i { b.1.chanAt i with st := .retired })) ∧
    (b.2 ≠ 0 → exec (.evacuationDone d ch) s = .next (b.1.record 0x0036 d (b8 d ++ b8 ch ++ leBytes 2 0 ++ leBytes 4 b.2)))) ∧
  (x.st = .ready → x.scrubPeriod ≠ 0 → s.works (ddrUnit i) = true →
    (x.damage = [] → exec (.ddrPatrolScrub d ch) s = .next (s.setChan i { x with
      rdLines := addLines x.rdLines (512 * gibPages * x.gib), scrubPass := satInc x.scrubPass })) ∧
    (∀ ppn line e, line < 512 → x.damage = [(512 * ppn + line, e)] →
      (∀ lane, meets e = .corrected lane → ∃ u, exec (.ddrPatrolScrub d ch) s = .next u ∧ (u.chanAt i).ce = satInc x.ce ∧
        (u.chanAt i).ceLane = lane ∧ (u.chanAt i).damage = [] ∧ (u.chanAt i).scrubPass = satInc x.scrubPass) ∧
      (meets e = .uncorrectable → ∃ u, exec (.ddrPatrolScrub d ch) s = .next u ∧ (u.chanAt i).ue = satInc x.ue ∧
        (u.chanAt i).uePpn = ppn ∧ (u.chanAt i).ueLine = line ∧ (u.chanAt i).scrubPass = satInc x.scrubPass))) ∧
  (∀ t, x.selfRefresh = true → exec (.ddrRefresh d ch t) s = .next s) ∧
  (∀ t, x.selfRefresh = false → x.st = .ready ∨ x.st = .evacuating ∨ x.st = .retired →
    exec (.ddrRefresh d ch t) s = .next (s.setChan i { x with temp := t, tempValid := true, ref2x := decide (85 < t) })) ∧
  (∀ failed, s.plm.ready = false →
    let s1 := ((List.range 16).map fun i => (i, failed.getD i 0)).foldl State.trainChan { s with sec := s.sec.runs 7 }
    let up := (List.range 16).filter fun i => decide ((s1.chanAt i).st = .ready)
    let gib := min 2048 (up.map fun i => (s1.chanAt i).gib).sum
    (x.st = .training → (s1.chanAt i).st = if failed.getD i 0 = 0 then .ready else .failed) ∧
    (gib = 0 → exec (.ddrTrainDone failed) s = .next s1) ∧
    let rate := (up.head?.map fun i => (s1.chanAt i).rate).getD 0
    (gib ≠ 0 → exec (.ddrTrainDone failed) s = .next { s1 with
      bw := { s1.bw with dsrc := rate, memSrc := rate },
      plm := { s1.plm with ready := true, hdmGib := gib, window := 0, windowSince := s1.us, windowLen := s1.plm.windowUs,
                           regions := reservedRegions (gib * 2 ^ 30) } })) ∧
  (∀ e : DdrErr, let ws := [e.w0, e.w1, e.w2, e.w3]
    (meets e = .clean ↔ ∀ w ∈ ws, w = .none) ∧
    ∀ lane : Fin 18, meets e = .corrected lane ↔ (∃ w ∈ ws, w ≠ .none) ∧ ∀ w ∈ ws, w = .none ∨ w = .lane lane) ∧
  (∀ p l q m, l < 512 → m < 512 → x.dramAddr p l = x.dramAddr q m → p = q ∧ l = m)

/-- Enabling and training a port. KL_PORT_EN_WRITE, KL_PORT_TRAIN, PORT_TRAIN_RETRY, PORT_TRAIN_DONE, PORT_TRAIN_TIMEOUT. Rests on
10_korpor_ring_and_updates, Ports and links. -/
def Obligations.KorporPorts : Prop := ∀ (p : PortId) (s : State),
  let x := s.port p
  (∀ v, v.getLsbD 0 = false → x.st ≠ .disabled → ∃ u, exec (.klPortEnWrite p v) s = .next u ∧ (u.port p).st = .disabled ∧ (u.port p).en = false ∧
    (u.port p).maxgen = v.getLsbD 1 ∧ (u.port p).replayBuf = []) ∧
  (∀ v, v.getLsbD 0 = true → x.st = .disabled → exec (.klPortEnWrite p v) s = .next (s.modPort p fun x =>
    { x with en := true, maxgen := v.getLsbD 1, st := if v.getLsbD 2 = true then .training else .down, since := s.us })) ∧
  (x.st = .down → exec (.klPortTrain p) s = .next (s.modPort p fun x => { x with st := .training, since := s.us })) ∧
  (x.st = .down → x.since + 1000000 ≤ s.us → exec (.portTrainRetry p) s = .next (s.modPort p fun x => { x with st := .training, since := s.us })) ∧
  (∀ r, x.st = .training → widthOf r.locked ≠ 0 → s.us ≤ x.since + 50000 → exec (.portTrainDone p r) s = .next (s.modPort p fun x => { x with
    st := .up, gen := x.maxgen && r.farGen2 && !r.gen2Bad, width := widthOf r.locked, reversed := r.reversed, polinv := r.polinv % 16,
    rxSeq := 0, ackDue := 0, txSeq := 0, txq := [], replayBuf := [], rx := [], credDue := [0, 0, 0], sinceIdle := 0, naks := [], retrains := [],
    credits := [64, 64, 8] })) ∧
  (∀ r, x.st = .training → (widthOf r.locked = 0 ∨ x.since + 50000 < s.us) →
    exec (.portTrainDone p r) s = .next (s.modPort p fun x => { x with st := .down, since := s.us })) ∧
  (∀ l : BitVec 4, widthOf l = if ∀ i : Fin 4, l.getLsbD i = true then 3 else if l.getLsbD 0 = true ∧ l.getLsbD 1 = true then 1
    else if l.getLsbD 2 = true ∧ l.getLsbD 3 = true then 2 else 0) ∧
  (x.st = .training → x.since + 50000 ≤ s.us → exec (.portTrainTimeout p) s = .next (s.modPort p fun x => { x with st := .down, since := s.us })) ∧
  (x.st = .retrain → x.since + 50000 ≤ s.us → exec (.portTrainTimeout p) s = .next (s.portDown p))

/-- Flits as the wire carries them, retraining, acknowledgements and a switched-off member. FLIT_RECEIVE, RETRAIN_DONE, ACK_TIMER,
MEMBER_SWITCHED_OFF. Rests on 10_korpor_ring_and_updates, Ports and links; 10_korpor_ring_and_updates, The BS16 wire format. The bit order
of the CRC is the model's choice (notes/assumptions/155.md), and the code's generator is opaque (notes/assumptions/181.md). -/
def Obligations.KorporFlits : Prop := ∀ (p : PortId) (s : State),
  let x := s.port p
  let naked := fun u : State => ∃ g, (u.port p).wire = x.wire ++ [g] ∧ g.ftype = 0 ∧ g.nak = true ∧ g.ackseq = (x.rxSeq + 1023) % 1024
  (∀ y : List Byte, x.st = .up → flitOf (flitFixed y).1 = none → ∃ u, exec (.flitReceive p y) s = .next u ∧ (u.port p).crcErr = satInc x.crcErr ∧
    naked u ∧ (u.port p).rxSeq = x.rxSeq ∧ (u.port p).rx = x.rx ∧ (u.port p).fec = satAdd x.fec (flitFixed y).2) ∧
  (∀ (y : List Byte) f, x.st = .up → flitOf (flitFixed y).1 = some f → f.ftype ≠ 0 → f.txseq ≠ x.rxSeq → ∃ u, exec (.flitReceive p y) s = .next u ∧
    naked u ∧ (u.port p).rxSeq = x.rxSeq ∧ (u.port p).rx = x.rx ∧ (u.port p).crcErr = x.crcErr) ∧
  (∀ (y : List Byte) f, x.st = .up → flitOf (flitFixed y).1 = some f → 1 ≤ f.ftype → f.ftype ≤ 3 → f.ring ≤ 1 → f.txseq = x.rxSeq → s.bypassed = false →
    ∃ u, exec (.flitReceive p y) s = .next u ∧ (u.port p).rxSeq = (x.rxSeq + 1) % 1024 ∧
      (u.port p).rx = x.rx ++ [{ chan := f.ftype - 1, ring := f.ring, opid := if f.ftype < 3 then f.opid else 0,
                                 blocks := if f.ftype < 3 then flitBlocks f else [] }]) ∧
  (∀ (y : List Byte) f, x.st = .up → flitOf (flitFixed y).1 = some f → f.ftype = 0 → ∃ u, exec (.flitReceive p y) s = .next u ∧ (u.port p).rxSeq = x.rxSeq ∧
    (u.port p).rx = x.rx ∧ (f.nak = false → x.txq = [] → (u.port p).replayBuf = (x.acked f.ackseq).replayBuf ∧
      (f.cvc < 2 → (u.port p).credits = x.credits.modify f.cvc fun c => min (c + f.cred) 64))) ∧
  (∀ r, x.st = .retrain → widthOf r.locked ≠ 0 → lanesOf (widthOf r.locked) ≤ lanesOf x.width → x.retrains.length < 3 → s.us ≤ x.since + 50000 →
    (∀ e ∈ x.replayBuf, e.replays < 7) → ∃ u, exec (.retrainDone p (some r)) s = .next u ∧ (u.port p).st = .up ∧ (u.port p).width = widthOf r.locked ∧ (u.port p).rxSeq = x.rxSeq) ∧
  (∀ r, x.st = .retrain →
    (∀ y, r = some y → widthOf y.locked = 0 ∨ lanesOf x.width < lanesOf (widthOf y.locked) ∨ 3 ≤ x.retrains.length ∨ x.since + 50000 < s.us) →
    ∃ u, exec (.retrainDone p r) s = .next u ∧ (u.port p).st = .down ∧ (u.port p).replayBuf = []) ∧
  (x.st = .up → 0 < x.ackDue → ∃ u g, exec (.ackTimer p) s = .next u ∧ (u.port p).ackDue = 0 ∧ (u.port p).wire = x.wire ++ [g] ∧ g.ftype = 0 ∧
    g.nak = false ∧ g.txseq = x.txSeq ∧ g.ackseq = (x.rxSeq + 1023) % 1024) ∧
  (x.linked = true → ∃ u, exec (.memberSwitchedOff p) s = .next u ∧ (u.port p).st = .down ∧ (u.port p).replayBuf = []) ∧
  (∀ f : Flit, f.wf = true → (flitChecked f).length = 288 ∧ flitOf (flitChecked f) = some f) ∧
  (∀ bs : List Byte, bs.length = 288 → (withParity bs).length = 320 ∧ flitFixed (withParity bs) = (bs, 0)) ∧
  (∀ cw par : List Byte, cw.length = 144 → par.length = 16 → (fecFix cw par).2 ≤ 8 ∧
    ((fecFix cw par).2 = 0 → (fecFix cw par).1 = cw) ∧
    ((fecFix cw par).2 ≠ 0 → byteErrors ((fecFix cw par).1 ++ parityOf (fecFix cw par).1) (cw ++ par) = (fecFix cw par).2)) ∧
  (∀ b : Block, b.wf = true → (blockBytes b).length = 68 ∧ blockOf (blockBytes b) = b) ∧
  (∀ f seq nak, f.ftype ≠ 0 → ∃ g h, g.ftype = f.ftype ∧ g.payload = f.payload ∧ g.txseq = seq ∧ h.ftype = 0 ∧
    (x.transmit f seq nak).wire = x.wire ++ g :: (if x.sinceIdle < 1022 then [] else [h]))

/-- The ring is formed, or fails to form. RING_FORM, HELLO, TOKEN, FORMED, HOP_CHECK_TIMEOUT, FORM_TIMEOUT. Rests on
10_korpor_ring_and_updates, The ring. -/
def Obligations.RingFormation : Prop := ∀ (s : State),
  let k := s.kl
  (k.n ≠ 1 → ∃ u, exec .ringForm s = .next u ∧ u.kl.st = .forming ∧ u.kl.formFail = 0 ∧ u.kl.tokens = 0 ∧ u.kl.formSince = s.us ∧ u.kl.n = k.n) ∧
  (k.n = 1 → exec .ringForm s = .next (s.enterRing none)) ∧
  (∀ (p : PortId) m, s.bypassed = false → ((s.port p).front 2).isSome = true → k.st = .forming → k.formFail = 0 →
    exec (.hello p m) s = .next
      (let t := (s.modPort p (Port.consume 2)).modPort p fun x => { x with hello := some m, farOk := decide (k.helloFail p m = 0), farRank := m.rank % 16 }
       { t with kl := { t.kl with formFail := k.helloFail p m } })) ∧
  (∀ (p : PortId) m, s.bypassed = false → ((s.port p).front 2).isSome = true → k.st = .formed ∨ k.st = .wrapped → m.rank ≠ (k.partner p).1 →
    ∃ u, exec (.hello p m) s = .next u ∧ u.kl.st = .broken) ∧
  (∀ (p : PortId) r, (s.port p).front 2 = some r → s.bypassed = false → k.st = .forming →
    let t := s.modPort p (Port.consume 2)
    (k.addsAt r.ring p = false → ∀ w, exec (.token p) s = .next (t.passOn p r.ring 0 (.msg .token)) ∧
      exec (.formed p w) s = .next (t.passOn p r.ring 0 (.msg (.formed w)))) ∧
    (k.addsAt r.ring p = true → k.formFail ≠ 0 → ∀ w, exec (.token p) s = .next t ∧ exec (.formed p w) s = .next t) ∧
    (k.addsAt r.ring p = true → k.formFail = 0 →
      (k.rank ≠ 0 → exec (.token p) s = .next (t.sendRing r.ring 0 (.msg .token))) ∧
      (k.rank = 0 → ∃ u, exec (.token p) s = .next u ∧ u.kl.tokens = k.tokens ||| (1#2 <<< r.ring) ∧ u.kl.st = .forming) ∧
      (∀ w, exec (.formed p w) s = .next ((if k.rank = 0 then t else t.sendRing r.ring 0 (.msg (.formed w))).enterRing w)))) ∧
  (∀ missing, k.st = .forming → k.formSince + 50000 ≤ s.us → ∃ u, exec (.hopCheckTimeout missing) s = .next u ∧
    let up := fun h : Nat => decide ((s.port (2 * h)).st = .up) || decide ((s.port (2 * h + 1)).st = .up)
    let own := (if up 0 = true then [] else [k.rank]) ++ (if up 1 = true then [] else [k.prev])
    let all := (List.range k.n).filter fun r => decide (r ∈ own) || (decide (r ∈ missing) && decide (r ≠ k.rank) && decide (r ≠ k.prev))
    (2 ≤ all.length → u.kl.formFail = if k.formFail = 0 then 5 else k.formFail) ∧ (all.length < 2 → u.kl.formWrap = all.head?)) ∧
  (k.st = .forming → k.formSince + 100000 ≤ s.us → ∃ u, exec .formTimeout s = .next u ∧ u.kl.st = .broken ∧
    u.kl.failcode = if k.formFail = 0 then 1 else k.formFail)

/-- Dissolving, bypassing, aborting and rerunning. RING_DISSOLVE, RING_BYPASS, TENSOR_HANDOVER, RING_ABORT, OPERATION_RERUN. Rests on
10_korpor_ring_and_updates, The ring; 10_korpor_ring_and_updates, The reduction operation. What a rerun does with blocks and messages that
come before it is decided is the model's (notes/assumptions/158.md). -/
def Obligations.RingLossAndRerun : Prop := ∀ (s : State),
  (∃ u, exec .ringDissolve s = .next u ∧ u.kl.st = .idle ∧ u.kl.members = 0) ∧
  (∃ u, exec (.ringBypass true) s = .next u ∧ u.kl.bypass = true ∧ u.kl.st ≠ .formed ∧ u.kl.st ≠ .wrapped ∧ u.kl.st ≠ .forming ∧
    ∀ p < 4, (u.port p).rx = []) ∧
  (exec (.ringBypass false) s = .next { s with kl := { s.kl with bypass := false } }) ∧
  (∀ p : PortId, (s.port p).linked = false → s.ringReady = true → (∃ o ∈ s.kl.ops, o.ended = false ∧ o.phase ≠ .aborted) →
    ∃ u, exec (.ringAbort (.port p)) s = .next u ∧ u.kl.opCause = 1 ∧ ∀ o ∈ u.kl.ops, o.ended = true ∨ o.phase = .aborted) ∧
  (∀ r, s.bypassed = false → r < s.kl.n → s.kl.st = .formed → ∃ u, exec (.ringAbort (.hop r)) s = .next u ∧ u.kl.st = .wrapped ∧ u.kl.wrapRank = r) ∧
  (s.bypassed = false → s.kl.st = .formed ∨ s.kl.st = .wrapped → ∃ u, exec (.ringAbort .member) s = .next u ∧ u.kl.st = .broken) ∧
  (∀ (p : PortId) r opid c, (s.port p).front 2 = some r → s.bypassed = false → s.kl.addsAt r.ring p = true → c ≠ 4 → c ≠ 5 → c ≠ 6 → c ≠ 7 →
    (∃ o ∈ s.kl.ops, o.ended = false ∧ o.phase ≠ .aborted ∧ o.opid = opid) → exec (.ringAbort (.abortMsg p (some opid) c)) s =
      .next (((s.modPort p (Port.consume 2)).abortOps (fun o => decide (o.opid = opid)) c).sendBoth (.abort (some opid) c))) ∧
  (∀ tid x e, s.tensor tid = some x → s.hub.hubUp = true → s.trainStep tid x.2.index = some e → (∀ q ∈ s.kl.queued, q.1 ≠ tid) →
    (∀ o ∈ s.kl.ops, o.tid = tid → o.handed = true → o.ended = true) →
    exec (.tensorHandover tid) s = .next ({ s with kl := { s.kl with queued := s.kl.queued ++ [(tid, e.num)] } }.takeQueued)) ∧
  (∀ tid, s.tensor tid ≠ none → s.hub.hubUp = false → exec (.tensorHandover tid) s = .next s) ∧
  (s.ringReady = true → (∀ o ∈ s.kl.ops, o.ended = true ∨ o.phase ≠ .aborted ∨ o.member ≠ (s.kl.n, s.kl.rank)) →
    exec .operationRerun s = .next s.takeQueued) ∧
  (∀ o x, s.ringReady = true → s.kl.ops.filter (fun o => !o.ended && decide (o.phase = .aborted) && decide (o.member = (s.kl.n, s.kl.rank))) = [o] →
    s.tensor o.tid = some x → o.handed = true →
    let s1 := s.modOp o.opid fun o => { o with phase := .reduce, rerun := o.handed }
    let mine := s1.ownOpen o x.2.nelem
    exec .operationRerun s = .next ((((s1.modOp o.opid fun o => { o with opens := o.opens ++ [mine] }).sendBoth (.opening mine)).decideRerun o.opid).takeQueued))

/-- OPEN, reduction blocks, the adder's checks and RDONE. RING_OPEN, RED_BLOCK_RECEIVE, ADDER_LOCAL_READY, RDONE. Rests on
10_korpor_ring_and_updates, The reduction operation; 10_korpor_ring_and_updates, The BS16 wire format; 01_package_and_planes, The grant.
Which work waits for which unit's grant is the model's (notes/assumptions/150.md). The flag for arrays in RDONE, and what early messages do,
are the model's readings (notes/assumptions/86.md, 158.md). -/
def Obligations.InLinkReduction : Prop := ∀ (s : State),
  (∀ (p : PortId) r m o x, (s.port p).front 2 = some r → s.ringReady = true → s.kl.addsAt r.ring p = true → m.rank < s.kl.n → m.rank ≠ s.kl.rank →
    m.opid ∉ s.kl.given → s.op? m.opid = some o → (∀ y ∈ o.opens, y.rank ≠ m.rank) → s.tensor o.tid = some x →
    let s1 := ((s.modPort p (Port.consume 2)).sendRing r.ring 0 (.msg (.opening m))).modOp m.opid fun o => { o with opens := o.opens ++ [m] }
    exec (.ringOpen p m) s = .next (if openMismatch m o x.2.nelem = true then s1.abortOne m.opid 4 else (s1.decideRerun m.opid).takeQueued)) ∧
  (∀ (p : PortId) opid b u fault ring o st l, s.nextBlock p 0 opid u = some ring → s.op? opid = some o → s.tensor o.tid = some (st, l) →
    s.ringReady = true → o.phase ≠ .aborted → b < l.nb →
    (o.rerun = true → exec (.redBlockReceive p opid b u fault) s = .next s) ∧ (o.rerun = false →
    let s1 := s.modPort p (Port.consume 0)
    (s.kl.addsAt ring p = false → exec (.redBlockReceive p opid b u fault) s = .next (s1.passOn p ring b (.red opid b u))) ∧
    (s.kl.addsAt ring p = true → o.handed = true → s.blockWait o b = [] → s.works adderUnit = true → s.hubWorks (o.gradDla b) 128 = true →
      exec (.redBlockReceive p opid b u fault) s = .next (s1.addAt p o st l b u fault)) ∧
    (s.kl.addsAt ring p = true → o.handed = false → exec (.redBlockReceive p opid b u fault) s =
      .next (s.modOp opid fun o => { o with heldUp := if (p.val, b, u) ∈ o.heldUp then o.heldUp else o.heldUp ++ [(p.val, b, u)] })))) ∧
  (∀ (p : PortId) opid b u fault ring, s.nextBlock p 0 opid u = some ring → s.op? opid = none → s.ringReady = true →
    (s.opOver opid = true → exec (.redBlockReceive p opid b u fault) s = .next (s.modPort p (Port.consume 0))) ∧
    (s.opOver opid = false → s.kl.addsAt ring p = true → exec (.redBlockReceive p opid b u fault) s = .next s) ∧
    (s.opOver opid = false → s.kl.addsAt ring p = false → exec (.redBlockReceive p opid b u fault) s =
      .next ((s.modPort p (Port.consume 0)).passOn p ring b (.red opid b u)))) ∧
  (∀ (p : PortId) b fault o h st l,
    s.kl.ops.find? (fun o => !o.ended && o.handed && o.heldUp.any fun h => decide (h.1 = p.val) && decide (h.2.1 = b)) = some o →
    o.heldUp.find? (fun h => decide (h.1 = p.val) && decide (h.2.1 = b)) = some h → s.tensor o.tid = some (st, l) →
    s.blockWait o b = [] → (s.nextBlock p 0 o.opid h.2.2).isSome = true → s.works adderUnit = true → s.hubWorks (o.gradDla b) 128 = true →
    exec (.adderLocalReady p b fault) s =
      .next (((s.modPort p (Port.consume 0)).modOp o.opid fun o => { o with heldUp := o.heldUp.erase h }).addAt p o st l b h.2.2 fault)) ∧
  (∀ (p : PortId) r opid rank poison arrays o, (s.port p).front 2 = some r → s.bypassed = false → s.kl.addsAt r.ring p = true →
    s.op? opid = some o → o.phase ≠ .aborted → rank < s.kl.n → rank ≠ s.kl.rank → (∀ r ∈ o.rdones, r.1 ≠ rank) →
    exec (.rdone p opid rank poison arrays) s = .next ((((s.modPort p (Port.consume 2)).sendRing r.ring 0 (.msg (.rdone opid rank poison arrays))).gotRdone
      opid rank poison arrays).takeQueued)) ∧
  (∀ o opid rank poison arrays, s.op? opid = some o → o.rerun = true → (∀ r ∈ o.early, r.1 ≠ rank) →
    s.gotRdone opid rank poison arrays = s.modOp opid fun o => { o with early := o.early ++ [(rank, poison, arrays)] }) ∧
  (∀ v fault u m, (blockSound u = false ∨ blockSound m = false ∨ u.bseq ≠ m.bseq) →
    (addBlocks v fault u m).2.2 = false ∧ (addBlocks v fault u m).1.poison = true)

/-- The update, parameter blocks, PDONE and the write-back. UPDATE_APPLY, PAR_BLOCK_RECEIVE, PDONE, PARAM_WRITE. Rests on
10_korpor_ring_and_updates, The update engine; 10_korpor_ring_and_updates, The reduction operation; 01_package_and_planes, The grant. Which
work waits for which unit's grant is the model's (notes/assumptions/150.md). The flag for arrays in RDONE and a poisoned parameter's block
are the model's readings (notes/assumptions/86.md, 178.md). -/
def Obligations.UpdateAndParameters : Prop := ∀ (s : State),
  (∀ o st l, s.kl.ops.find? (fun o => !o.ended && o.handed && (decide (o.phase = .update) || s.rdoneWaits o)) = some o → s.tensor o.tid = some (st, l) →
    let bs := shardBlocks s.kl.n l.nb s.kl.rank
    let rs := o.updateRanges st l bs s
    (o.phase ≠ .update → exec .updateApply s = .next (s.checkShard o.opid l)) ∧
    (o.phase = .update → o.applied = true → exec .updateApply s = .next (s.sendWhenRead o l bs).takeQueued) ∧
    (o.phase = .update → o.applied = false → s.rangesUnread rs = [] → s.works updateUnit = true → s.rangesWork rs = true →
      exec .updateApply s = .next ((s.applyUpdate o st l bs).sendWhenRead o l bs).takeQueued)) ∧
  (∀ (o : RingOp) (st : Stream) (l : LayerRec) bs, (∃ r ∈ o.rdones, r.2.2 = true) → ∃ u : State, s.applyUpdate o st l bs = u.setStatus o.tid 1 ∧
    u.plm.mem = s.plm.mem ∧ u.kl.updSkip = satInc s.kl.updSkip ∧ u.kl.updElems = s.kl.updElems) ∧
  (∀ (p : PortId) opid b u ring o st l, s.nextBlock p 1 opid u = some ring → s.paramOp? opid = some o → s.tensor o.tid = some (st, l) →
    s.ringReady = true → b < l.nb →
    let s0 := s.modPort p (Port.consume 1)
    (s.kl.addsAt ring p = false → exec (.parBlockReceive p opid b u) s = .next (s0.passOn p ring b (.par opid b u))) ∧
    (s.kl.addsAt ring p = true → blockSound u = true → u.bseq = b % 256 →
      let s1 := s0.ownWriteMarked hubSrc (descField o.desc 72 8 + 64 * b) ((u.elems.take (min 32 (l.nelem - 32 * b))).flatMap fun e => leBytes 2 e.toNat) u.poison
      let s2 := { s1 with kl := { s1.kl with ops := s1.kl.ops.map fun x =>
        if x.opid = opid ∧ x.phase ≠ .aborted ∧ b ∉ x.params then { x with params := x.params ++ [b] } else x } }
      exec (.parBlockReceive p opid b u) s = .next
        (if (if ring = 0 then s2.kl.next else s2.kl.prev) = chunkOf s.kl.n l.nb b % s2.kl.n then s2 else s2.sendRing ring b (.par opid b u))) ∧
    (s.kl.addsAt ring p = true → (blockSound u = false ∨ u.bseq ≠ b % 256) → exec (.parBlockReceive p opid b u) s = .next
      (((({ s0 with kl := { s0.kl with statReserr := satInc s0.kl.statReserr } } : State).record 0x0053 4
        (b8 p ++ b8 0 ++ leBytes 2 opid ++ leBytes 4 b)).reopen opid).abortOne opid 6))) ∧
  (∀ (p : PortId) r opid rank cand o, (s.port p).front 2 = some r → s.bypassed = false → s.kl.addsAt r.ring p = true →
    s.op? opid = some o → o.phase ≠ .aborted → rank < s.kl.n → rank ≠ s.kl.rank → (∀ r ∈ o.pdones, r.1 ≠ rank) →
    exec (.pdone p opid rank cand) s = .next ((((s.modPort p (Port.consume 2)).sendRing r.ring 0 (.msg (.pdone opid rank cand))).gotPdone
      opid rank (max (-32) (min 31 cand))).takeQueued)) ∧
  (∀ tid o st l, s.kl.ops.find? (fun o => decide (o.tid = tid) && o.ended && !o.written) = some o → tid ∈ s.kl.writeHeld → s.tensor tid = some (st, l) →
    (∀ b < l.nb, b ∈ o.params) → s.stepReads l = false → s.works updateUnit = true →
    s.rangesUnread (o.writeRanges l) = [] → s.rangesWork (o.writeRanges l) = true →
    exec (.paramWrite tid) s = .next ((s.writeTensor tid o st l).tensorWritten tid))

/-- Hot reset, DL_Down, FLR, CXL reset and the end of warm reset. HOT_RESET, DL_DOWN, FLR, CXL_RESET, WARM_RESET_COMPLETE. Rests on
12_breakwater_power_clocks_reset, Reset scopes; 11_cxl_host_attachment, Bring-up and resets; 01_package_and_planes, Identity and lock
registers. Which fields keep what stands behind them, and the draw's fall before the reset, are the model's readings
(notes/assumptions/29.md, 172.md). -/
def Obligations.WarmReset : Prop := ∀ (s : State),
  (s.bw.parked = false →
    (∃ u, exec .hotReset s = .next u ∧ s.WarmBegun u 2 ∧ u.cxl.committed = false ∧ u.cxl.memEn = false ∧ u.cxl.width = 0) ∧
    (∃ u, exec .dlDown s = .next u ∧ s.WarmBegun u 3 ∧ u.cxl.committed = false ∧ u.cxl.memEn = false ∧ u.cxl.linkDown = satInc s.cxl.linkDown) ∧
    (∃ u, exec .flr s = .next u ∧ u.hub.lock = false ∧
      ((∀ w ∈ s.cxl.waiting ++ s.cxl.held, w.src ≠ 0) → s.WarmBegun u 4 ∧ u.cxl.committed = s.cxl.committed ∧ u.cxl.memEn = s.cxl.memEn ∧ u.cxl.width = s.cxl.width)) ∧
    (∃ u, exec .cxlReset s = .next u ∧ u.hub.lock = false ∧
      ((∀ w ∈ s.cxl.waiting ++ s.cxl.held, w.src ≠ 0) → s.WarmBegun u 5 ∧ u.cxl.committed = s.cxl.committed ∧ u.cxl.memEn = s.cxl.memEn ∧ u.cxl.width = s.cxl.width))) ∧
  (s.hub.warm = true → ∃ u, exec .warmResetComplete s = .next u ∧ u.hub.warm = false ∧ u.hub.hubUp = (!s.hub.endOfService && !s.sec.recovery) ∧
    u.hub.pkgInc = (s.hub.pkgInc + 1) % 16 ∧
    u.hub.hubInc = (s.hub.hubInc + 1) % 16 ∧ u.hub.updInc = (s.hub.updInc + 1) % 16 ∧ u.hub.sorzInc = (s.hub.sorzInc + 1) % 16 ∧
    (∀ c < 144, (u.core c).inc = ((s.core c).inc + 1) % 16 ∧ (u.core c).inReset = (s.die (coreDie c)).inReset) ∧
    (∀ d < 4, (u.die d).headInc = ((s.die d).headInc + 1) % 16) ∧
    u.bw.slackWarm = false ∧ u.bw.rstCause = s.hub.warmCause ∧ u.tmk = s.tmk.enqueue (s.entry 0x0001 4 (b8 s.hub.warmCause)) ∧ u.plm = s.plm)

/-- Register writes, locked writes and RWC pairs. REGISTER_WRITE, RWC_VALUE_WRITE, RWC_COMPLEMENT_WRITE, RWC_PENDING_TIMEOUT. Rests on
13_integrity_tidemark_settings, Complement pairs; 01_package_and_planes, Identity and lock registers; 11_cxl_host_attachment, The register
space; 12_breakwater_power_clocks_reset, BW_ register map; 11_cxl_host_attachment, Mailbox, events and DOE; 05_scratchpad, SPD_ register
map. The layout and reset of the MSI-X table are PCIe's (notes/assumptions/159.md). -/
def Obligations.RegisterWrites : Prop := ∀ (p : Path) (s : State),
  (∀ q off v f, pathEffect q off v.toNat = some (false, f) → exec (.registerWrite q off v none) s = .next (f s)) ∧
  (∀ q off v f, pathEffect q off v.toNat = some (true, f) → exec (.registerWrite q off v none) s =
    .next (if s.hub.lock = true then { s with hub := { s.hub with lockedWrite := true } } else f s)) ∧
  (∀ q off v, pathEffect q off v.toNat = none → exec (.registerWrite q off v none) s = .next s) ∧
  (∀ q off v w u, exec (.registerWrite q off v none) s = .next u → exec (.registerWrite q off v (some w)) s = exec (.registerWrite q (off + 4) w none) u) ∧
  (∀ (d : DieId) l (v : W32), l < 36 → (s.core (36 * d + l)).inReset = false →
    ∃ u, exec (.registerWrite (.die d) (0x1000000 * ((d : Nat) + 1) + 0x100000 + 0x10000 * l + 0x400C) v none) s = .next u ∧
      let m := (s.core (36 * d + l)).spd
      (u.core (36 * d + l)).spd = { m with unpwr := m.unpwr && !v.getLsbD 0, forced := m.forced && !v.getLsbD 1, ueSeen := m.ueSeen && !v.getLsbD 2,
                                           rej := m.rej && !v.getLsbD 3 } ∧ ∀ x, x ≠ 36 * d + l → u.core x = s.core x) ∧
  (∀ n : Fin 4, ∀ v : W32, v.getLsbD 0 = false → s.cxl.msixPend.getLsbD n = true → s.cxl.busMaster = true →
    ∃ u, exec (.registerWrite .host (0x73000C + 16 * (n : Nat)) v none) s = .next u ∧ u.out.msix = s.out.msix ++ [(n : Nat)] ∧
      u.cxl.msixPend = s.cxl.msixPend &&& ~~~(1#4 <<< (n : Nat)) ∧ (Tab.get {} u.cxl.msixTable n).masked = false) ∧
  (∀ n : Fin 4, if s.cxl.busMaster = false ∨ (Tab.get {} s.cxl.msixTable n).masked = true then s.msi n = { s with cxl := { s.cxl with msixPend := s.cxl.msixPend ||| (1#4 <<< (n : Nat)) } }
    else s.msi n = { s with out := { s.out with msix := s.out.msix ++ [(n : Nat)] } }) ∧
  (∀ r v, s.pendingRwc (rwcLatch p r) = none → exec (.rwcValueWrite p r v) s = .next (s.setRwc (rwcLatch p r) (some (v, s.us)))) ∧
  (∀ r v x, s.pendingRwc (rwcLatch p r) = some x → ∃ u, exec (.rwcValueWrite p r v) s = .next u ∧ u.pendingRwc (rwcLatch p r) = some (v, s.us) ∧
    u.tmk.pair = s.tmk.pair ||| 0x100#9 ∧ u.hub = s.hub ∧ u.bw = s.bw) ∧
  (∀ v (t : Nat), s.pendingRwc (rwcLatch p .hubLock) = some (v, t) → ∃ u, exec (.rwcComplementWrite p .hubLock (~~~v)) s = .next u ∧
    u.pendingRwc (rwcLatch p .hubLock) = none ∧ u.hub.lock = (s.hub.lock || (decide (p = .host) && v.getLsbD 0)) ∧ u.tmk.pair = s.tmk.pair) ∧
  (∀ v (t : Nat), s.pendingRwc (rwcLatch p .bwCeil) = some (v, t) → ∃ u, exec (.rwcComplementWrite p .bwCeil (~~~v)) s = .next u ∧
    u.pendingRwc (rwcLatch p .bwCeil) = none ∧ u.tmk.pair = s.tmk.pair ∧ u.bw =
      (if 120 ≤ v.toNat % 512 ∧ v.toNat % 512 ≤ 420 then { s.bw with ceil := v.toNat % 512 } else { s.bw with ceilErr := true })) ∧
  (∀ r v w (t : Nat), s.pendingRwc (rwcLatch p r) = some (v, t) → w ≠ ~~~v → ∃ u, exec (.rwcComplementWrite p r w) s = .next u ∧
    u.pendingRwc (rwcLatch p r) = none ∧ u.tmk.pair = s.tmk.pair ||| 0x100#9 ∧ u.hub = s.hub ∧ u.bw = s.bw) ∧
  (∀ r v (t : Nat), s.pendingRwc (rwcLatch p r) = some (v, t) → t + 1000 ≤ s.us → ∃ u, exec (.rwcPendingTimeout p r) s = .next u ∧
    u.pendingRwc (rwcLatch p r) = none ∧ u.tmk.pair = s.tmk.pair ||| 0x100#9 ∧ u.hub = s.hub ∧ u.bw = s.bw)

/-- The generic mailbox commands. GET_EVENT_RECORDS, CLEAR_EVENT_RECORDS, GET_EVENT_INTERRUPT_POLICY, SET_EVENT_INTERRUPT_POLICY,
GET_TIMESTAMP, SET_TIMESTAMP, GET_SUPPORTED_LOGS, GET_LOG, MAILBOX_UNSUPPORTED. Rests on 11_cxl_host_attachment, Mailbox, events and DOE.
Reply layouts and the bound of 31 records are the model's: log entries 28 and 30. -/
def Obligations.MailboxGeneric : Prop := ∀ (s : State), s.takesFrom .host = true →
  let ok := fun (u : State) (reply : List Byte) (x : State) => u = ({ x with out := { x.out with hostStatus := 0, hostReply := reply } } : State).msi 0
  (s.sec.recovery = false →
    (∀ log : Fin 3, let l := s.evLog log
      ∃ u, exec (.getEventRecords log) s = .next u ∧
        ok u (b8 ((if l.overflow ≠ 0 then 1 else 0) + if 31 < l.recs.length then 2 else 0) ++ leBytes 2 l.overflow ++ leBytes 2 (min 31 l.recs.length) ++
          (l.recs.take 31).flatMap (evBytes log)) s) ∧
    (∀ (log : Fin 3) handles all, ∃ u, exec (.clearEventRecords log handles all) s = .next u ∧ u.out.hostStatus = 0 ∧ u.tmk = s.tmk ∧
      (∀ n : Nat, n ≠ log → u.evLog n = s.evLog n) ∧
      (all = true → u.evLog log = {}) ∧
      (all = false → (u.evLog log).overflow = (s.evLog log).overflow ∧ ∀ r, r ∈ (u.evLog log).recs ↔ r ∈ (s.evLog log).recs ∧ r.handle ∉ handles)) ∧
    (∃ u, exec .getEventInterruptPolicy s = .next u ∧ ok u s.cxl.evtPolicy s) ∧
    (∀ v, v.length = 4 → ∃ u, exec (.setEventInterruptPolicy v) s = .next u ∧ ok u [] { s with cxl := { s.cxl with evtPolicy := v } }) ∧
    (∃ u, exec .getTimestamp s = .next u ∧ ok u (leBytes 8 s.wall) s) ∧
    (∀ v, v < 2 ^ 64 → ∃ u, exec (.setTimestamp v) s = .next u ∧ ok u [] { s with tmk := { s.tmk with stamp := some (v, s.us) } } ∧ u.wall = v) ∧
    (∃ u, exec .getSupportedLogs s = .next u ∧ ok u Config.supportedLogs s) ∧
    (∀ log, ∃ u, exec (.getLog log) s = .next u ∧ ok u (Config.logContents log) s)) ∧
  (∀ op l, op ∉ opsOf .host → op < 0xC000 → exec (.mailboxUnsupported .host op l) s = .next
    (({ s with out := { s.out with hostStatus := CxlRc.unsupported.code, hostReply := [] } } : State).msi 0)) ∧
  (∀ src op l, src ≠ .hub → op ∉ opsOf src → (src = .host → 0xC000 ≤ op) →
    (s.serving = false → exec (.mailboxUnsupported src op l) s = .next (s.answerCmd src op .unsupported [])) ∧
    (s.serving = true → exec (.mailboxUnsupported src op l) s = .next
      { s with sec := { s.sec with cmds := s.sec.cmds ++ [.mailboxUnsupported src op l] } })) ∧
  (∀ op (l : MboxLink), op ∉ opsOf .hub → s.serving = false → s.hub.hubUp = true → l.cmdOk = true → l.replyOk = true → s.hub.mbxReissue ≠ some l.seq →
    exec (.mailboxUnsupported .hub op l) s = .next (let t := s.answerCmd .hub op .unsupported []
      { t with hub := { t.hub with mbxLast := some (l.seq, 2), mbxReissue := none } }))

/-- DOE Discovery, CDAT, attestation and Get FW Info. GET_FW_INFO, DOE_DISCOVERY, DOE_CDAT, ATTEST_REPORT, ATTEST_CERT. Rests on
11_cxl_host_attachment, Mailbox, events and DOE; 14_firmware_update_and_identity, Attestation; 14_firmware_update_and_identity, Update
sessions. The order of the protocols and the CDAT layout are the model's: log entry 58. -/
def Obligations.DoeAttestationAndFwInfo : Prop := ∀ (s : State),
  (s.takesFrom .host = true → s.sec.recovery = false →
    (∀ i, 3 ≤ i → exec (.doeDiscovery i) s = .next { s with out := { s.out with doe := [0xFF#8, 0xFF#8, 0, 0] } }) ∧
    (∀ i, i < 3 → ∃ u, exec (.doeDiscovery i) s = .next u ∧ u.out.doe.length = 4 ∧ u.out.doe.getD 3 0 = BitVec.ofNat 8 ((i + 1) % 3)) ∧
    (∀ i, 2 ≤ i → i < 6 → ∃ u, exec (.doeCdat i) s = .next { s with out := { s.out with doe := u } } ∧ u.length = 24 ∧ u.take 4 = [1, 0, 24, 0] ∧
      leNat ((u.drop 16).take 2) * leNat ((u.drop 8).take 8) = if i < 4 then 200000 else 32000)) ∧
  (s.takesFrom .host = true → ∀ nonce : List Byte, nonce.length = 32 →
    exec (.attestReport .host nonce) s = .next { s with out := { s.out with doe := s.report nonce } } ∧
    exec (.attestCert .host nonce) s = .next { s with out := { s.out with doe := s.certReply } }) ∧
  (s.hub.mgmtUp = true → ∀ nonce : List Byte, nonce.length = 32 →
    exec (.attestReport .bmc nonce) s = .next { s with out := { s.out with bmcStatus := 0, bmcReply := s.report nonce } } ∧
    exec (.attestCert .bmc nonce) s = .next { s with out := { s.out with bmcStatus := 0, bmcReply := s.certReply } }) ∧
  (s.takesFrom .host = true → ∃ u, exec .getFwInfo s = .next u ∧ u.out.hostStatus = 0 ∧ u.sec = s.sec ∧
    u.out.hostReply.take 2 = b8 2 ++ b8 ((if s.sec.recovery = true then 0 else s.sec.running + 1) + 8 * if s.sec.stage = .pending then s.sec.trial + 1 else 0))

/-- Transfer FW, Activate FW and the session commands. TRANSFER_FW, ACTIVATE_FW, UPD_STATE, UPD_CANCEL, FW_CONFIRM. Rests on
14_firmware_update_and_identity, Update sessions; 14_firmware_update_and_identity, Management commands. Return codes are log entry 28.
Confirmation in RECOVERY and data that arrives before the erase are the model's (notes/assumptions/180.md). -/
def Obligations.HostFirmwareCommands : Prop := ∀ (s : State),
  let x := s.sec
  (s.takesFrom .host = true →
    (∀ slot off data last, slot = x.active + 1 ∨ slot = 0 ∨ 2 < slot → exec (.transferFw slot off data last) s = .next (s.rc .invalidSlot [])) ∧
    (∀ slot off data last, 0 < slot → slot ≤ 2 → slot ≠ x.active + 1 → slot ≠ x.trial + 1 → x.holder = 2 → exec (.transferFw slot off data last) s = .next (s.rc .busy [])) ∧
    (∀ slot data, 0 < slot → slot ≤ 2 → slot ≠ x.active + 1 → slot ≠ x.trial + 1 → x.holder = 0 → x.noSession = false → data.length < hdrLen →
      ∃ u, exec (.transferFw slot 0 data false) s = .next u ∧ u.out.hostStatus = 0 ∧ u.sec.stage = .download ∧ u.sec.holder = 1 ∧ u.sec.target = slot - 1 ∧
        u.sec.bytes = satAdd 0 data.length ∧ u.sec.header = data ∧ u.sec.lastTraffic = s.us ∧ u.sec.flash0 = x.flash0 ∧ u.sec.flash1 = x.flash1) ∧
    (∀ slot data, 0 < slot → slot ≤ 2 → slot ≠ x.active + 1 → slot ≠ x.trial + 1 → x.holder = 0 → x.noSession = false → hdrLen ≤ data.length →
      x.headerCode (data.take hdrLen) = none → ∃ u, exec (.transferFw slot 0 data false) s = .next u ∧ u.out.hostStatus = 0 ∧ u.sec.stage = .download ∧
        u.sec.holder = 1 ∧ u.sec.erasing = true ∧ u.sec.held = x.held ++ data.drop hdrLen ∧ u.sec.flash0 = x.flash0 ∧ u.sec.flash1 = x.flash1 ∧
        u.tmk.jobs.map (·.job) = s.tmk.jobs.map (·.job) ++ [.erase]) ∧
    (∀ slot off data last, 0 < slot → slot ≤ 2 → slot ≠ x.active + 1 → slot ≠ x.trial + 1 → x.holder = 1 → x.stage = .download → x.target + 1 = slot →
      x.header.length = hdrLen → x.bytes = off → x.erasing = true → ∃ u, exec (.transferFw slot off data last) s = .next u ∧ u.out.hostStatus = 0 ∧
        u.sec.held = x.held ++ data ∧ u.sec.heldLast = last ∧ u.sec.stage = .download ∧ u.sec.flash0 = x.flash0 ∧ u.sec.flash1 = x.flash1) ∧
    (∀ slot off data, 0 < slot → slot ≤ 2 → slot ≠ x.active + 1 → slot ≠ x.trial + 1 → x.holder = 1 → x.stage = .download → x.target + 1 = slot → x.header.length = hdrLen →
      x.bytes = off → x.erasing = false → ∃ u, exec (.transferFw slot off data false) s = .next u ∧ u.out.hostStatus = 0 ∧ u.sec.stage = .download ∧
        u.sec.bytes = satAdd off data.length ∧ u.sec.flash (slot - 1) = (x.flash (slot - 1) ++ data).take slotLen ∧
        ∀ k < 2, k ≠ slot - 1 → u.sec.flash k = x.flash k) ∧
    (∀ slot off data last, 0 < slot → slot ≤ 2 → slot ≠ x.active + 1 → slot ≠ x.trial + 1 → x.holder = 1 → x.stage = .download → x.target + 1 = slot → x.bytes ≠ off →
      ∃ u, exec (.transferFw slot off data last) s = .next u ∧ u.sec.stage = .idle ∧ u.sec.holder = 0 ∧ u.sec.code = 9 ∧ u.sec.flash0 = x.flash0 ∧ u.sec.flash1 = x.flash1) ∧
    (∀ slot, exec (.activateFw slot false) s = .next (s.rc .invalidInput [])) ∧
    (∀ slot, x.holder = 1 → x.stage = .ready → x.target + 1 = slot → exec (.activateFw slot true) s = .next ((s.queueJob (.activate x.target)).rc .success []))) ∧
  (∀ src, src ≠ .hub → s.takesFrom src = true → s.serving = true →
    exec (.updState src) s = .next { s with sec := { x with cmds := x.cmds ++ [.updState src] } } ∧
    exec (.updCancel src) s = .next { s with sec := { x with cmds := x.cmds ++ [.updCancel src] } } ∧
    exec (.fwConfirm src) s = .next { s with sec := { x with cmds := x.cmds ++ [.fwConfirm src] } }) ∧
  (∀ src, src ≠ .hub → s.takesFrom src = true → s.serving = false →
    exec (.updState src) s = .next (s.answerCmd src 0xC000 .success (leBytes 4 x.updStatus ++ leBytes 4 s.slotReg ++ b8 x.holder)) ∧
    (x.recovery = false → x.sessionOpen = true → x.holder = holderNum src →
      ∃ u, exec (.updCancel src) s = .next u ∧ u.sec.stage = .idle ∧ u.sec.holder = 0 ∧ u.sec.cmdStatus = 0 ∧ u.sec.code = x.code ∧
        u.tmk = s.tmk.enqueue (s.entry 0x0077 4 (b8 (holderNum src) ++ b8 0))) ∧
    (x.recovery = false → x.sessionOpen = true → x.holder ≠ holderNum src → exec (.updCancel src) s = .next (s.answerCmd src 0xC001 .busy [])) ∧
    (x.recovery = false → x.sessionOpen = false → exec (.updCancel src) s = .next (s.answerCmd src 0xC001 .state [])) ∧
    (x.trialRun = false → (x.recovery = false ∨ x.trial = 0xFF) → exec (.fwConfirm src) s = .next (s.answerCmd src 0xC002 .state [])) ∧
    (x.trialRun = true ∨ x.recovery = true ∧ x.trial ≠ 0xFF → s.tmk.jobs = [] → s.bw.pfail = false → ∃ u, exec (.fwConfirm src) s = .next u ∧ u.sec = x ∧
      let boot := putItem bootId ({ x with active := x.trial, trial := 0xFF, attempts := 0 } : Sec).bootItem
      let w : BankWrite := { job := .confirm src, started := true }
      u.tmk.jobs = [if x.recovery = false ∧ s.otherFormat = false then { w with payload := itemBytes (boot s.items), format := x.setFmt }
        else match s.tmk.selected with
          | some b => { w with payload := itemBytes (boot b.items), format := b.format }
          | none => { w with payload := itemBytes (boot []), format := x.setFmt }]))

/-- The PLDM update path, the session timeout and verification. REQUEST_UPDATE, PASS_COMPONENT_TABLE, UPDATE_COMPONENT,
FIRMWARE_DATA_RECEIVED, ACTIVATE_FIRMWARE, PLDM_GET_STATUS, CANCEL_UPDATE, UPDATE_SESSION_TIMEOUT, IMAGE_VERIFY_DONE. Rests on
14_firmware_update_and_identity, Update sessions. Completion codes are log entry 31. -/
def Obligations.PldmFirmwareUpdate : Prop := ∀ (s : State),
  let x := s.sec
  (s.hub.mgmtUp = true →
    (x.holder = 0 → x.noSession = false → s.bw.pfail = false → exec .requestUpdate s = .next { s with
      sec := { x with stage := .download, holder := 2, code := 0, comp := 0, bytes := 0, target := 1 - x.active, header := [], total := 0, pldm := .learn, lastTraffic := s.us },
      out := { s.out with pldm := [0] } }) ∧
    (x.holder ≠ 0 → ∃ u, exec .requestUpdate s = .next u ∧ u.sec = x) ∧
    (∀ d, x.holder = 2 → x.pldm = .learn →
      (cut d 1 2 = leBytes 2 Config.pldmClass.toNat → exec (.passComponentTable d) s = .next { s with
        sec := { x with pldm := .readyXfer, lastTraffic := s.us }, out := { s.out with pldm := [0, 0, 0] } }) ∧
      (cut d 1 2 ≠ leBytes 2 Config.pldmClass.toNat → exec (.passComponentTable d) s = .next { s with
        sec := { x with lastTraffic := s.us }, out := { s.out with pldm := [0, 1, 6] } })) ∧
    (x.holder = 2 → x.pldm = .readyXfer → exec .updateComponent s = .next { s with
      sec := { x with pldm := .download, lastTraffic := s.us },
      out := { s.out with pldm := [0], pldmReq := s.out.pldmReq ++ [.requestFirmwareData x.bytes (if x.total = 0 then 4096 else min 4096 (x.total - x.bytes))] } }) ∧
    (∀ off data, x.holder = 2 → x.pldm = .download → x.stage = .download → data.length ≤ 4096 → s.bw.pfail = false → x.header.length = hdrLen → x.bytes = off →
      x.erasing = false → ∃ u, exec (.firmwareDataReceived off data false) s = .next u ∧ u.sec.stage = .download ∧ u.sec.bytes = satAdd off data.length ∧
        u.sec.lastTraffic = s.us ∧ u.sec.flash x.target = (x.flash x.target ++ data).take slotLen ∧ u.out.pldmReq = s.out.pldmReq ++
          [.requestFirmwareData u.sec.bytes (if x.total = 0 then 4096 else min 4096 (x.total - u.sec.bytes))]) ∧
    (∀ off data, x.holder = 2 → x.pldm = .download → x.stage = .download → data.length ≤ 4096 → s.bw.pfail = false → x.header.length = hdrLen → x.bytes = off →
      x.erasing = false → ∃ u, exec (.firmwareDataReceived off data true) s = .next u ∧ u.sec.stage = .verify ∧ u.sec.pldm = .verify ∧
        u.out.pldmReq = s.out.pldmReq ++ [.transferComplete 0]) ∧
    (x.holder = 2 → x.pldm = .apply → x.stage = .ready → s.bw.pfail = false → ∃ u, exec (.activateFirmware false) s = .next u ∧ u.sec.pldm = .activate ∧
      u.sec.stage = .ready ∧ u.out.pldm = [0] ∧ u.tmk.jobs.map (·.job) = s.tmk.jobs.map (·.job) ++ [.activate x.target]) ∧
    (x.holder = 2 → x.pldm = .apply → s.bw.pfail = true → exec (.activateFirmware false) s = .next { s with
      sec := { x with lastTraffic := s.us }, out := { s.out with pldm := [4] } }) ∧
    (x.holder = 2 → x.pldm = .apply → ∃ u, exec (.activateFirmware true) s = .next u ∧ u.tmk = s.tmk ∧ u.sec.stage = x.stage) ∧
    (exec .pldmGetStatus s = .next { s with out := { s.out with pldm := b8 0 ++ (b8 (pldmNum x.pldm) ++ leBytes 4 x.updStatus ++ leBytes 4 x.bytes) } }) ∧
    (x.holder = 2 → x.sessionOpen = true → ∃ u, exec .cancelUpdate s = .next u ∧ u.sec.stage = .idle ∧ u.sec.holder = 0 ∧ u.sec.pldm = .idle ∧ u.out.pldm = [0] ∧
      u.tmk = s.tmk.enqueue (s.entry 0x0077 4 (b8 2 ++ b8 0)))) ∧
  (x.sessionOpen = true → x.lastTraffic + 60000000 ≤ s.us → ∃ u, exec .updateSessionTimeout s = .next u ∧ u.sec.stage = .idle ∧ u.sec.holder = 0 ∧
    u.tmk = s.tmk.enqueue (s.entry 0x0077 4 (b8 x.holder ++ b8 1))) ∧
  (x.stage = .verify → s.hub.mgmtUp = true → s.bw.pfail = false →
    (∃ u, exec (.imageVerifyDone true) s = .next u ∧ u.sec.stage = .idle ∧ u.sec.holder = 0 ∧ u.sec.code = 10 ∧
      u.tmk = s.tmk.enqueue (s.entry 0x0077 4 (b8 x.holder ++ b8 3))) ∧
    (x.verify x.target = none → ∃ u, exec (.imageVerifyDone false) s = .next u ∧ u.sec.stage = .ready ∧ u.sec.slotSt x.target = 2 ∧ u.sec.holder = x.holder ∧
      (x.holder = 2 → u.out.pldmReq = s.out.pldmReq ++ [.verifyComplete 0, .applyComplete 0]) ∧ u.tmk.jobs.map (·.job) = s.tmk.jobs.map (·.job) ++ [.boot]) ∧
    (∀ c, x.verify x.target = some (some c) → ∃ u, exec (.imageVerifyDone false) s = .next u ∧ u.sec.stage = .idle ∧ u.sec.holder = 0 ∧ u.sec.code = 8 ∧
      u.sec.comp = c ∧ u.tmk = s.tmk.enqueue (s.entry 0x0072 4 (b8 x.target ++ b8 c))))

/-- FENCE_CORE, UNBEACH and CORE_RESET. FENCE_CORE, UNBEACH, CORE_RESET. Rests on 14_firmware_update_and_identity, Management commands;
12_breakwater_power_clocks_reset, Reset scopes; 07_tiles_leases_and_fencing, Beaching a core; 01_package_and_planes, The mailbox. RESET_LOST
at a requester, and which replies are stale, are the model's (notes/assumptions/165.md, 173.md). -/
def Obligations.CoreCommands : Prop := ∀ (src : Source) (c : Nat) (s : State), s.takesFrom src = true → s.sec.recovery = false → s.serving = false →
  (∀ l : MboxLink, s.hub.hubUp = true → l.replyOk = true → s.hub.mbxReissue ≠ some l.seq → src = .hub → exec (.fenceCore .hub c l) s =
    .next (if l.cmdOk = true then let t := s.fenceCore (.fenceCore .hub c l) .hub c
             { t with hub := { t.hub with mbxLast := some (l.seq, t.out.hubStatus), mbxReissue := none } }
           else let t := (s.pairError 3).answerCmd .hub 0xC010 .pairError []; { t with hub := { t.hub with mbxReissue := none } })) ∧
  (∀ l, src ≠ .hub → exec (.fenceCore src c l) s = .next (s.fenceCore (.fenceCore src c l) src c)) ∧
  (144 ≤ c ∨ s.role c = .disabled → ∀ i, s.fenceCore i src c = s.answerCmd src 0xC010 .invalid []) ∧
  (c < 144 → s.role c ≠ .disabled →
    (s.fenced c = true → ∀ i, s.fenceCore i src c = s.answerCmd src 0xC010 .coreBeached []) ∧
    (s.fenced c = false → ∀ l, src ≠ .hub → ∃ u, exec (.fenceCore src c l) s = .next u ∧ u.fenced c = true ∧ u.core c = { s.core c with gated := true } ∧
      (∀ x, x ≠ c → u.core x = s.core x) ∧ u.hub.fenceSeq = (s.hub.fenceSeq + 1) % 65536 ∧ u.sec.cmdStatus = 0 ∧ u.plm = s.plm ∧ u.tmk = s.tmk) ∧
    (src ≠ .hub → s.role c = .beached → c ∉ s.hub.selftest → (s.die (coreDie c)).isolated = false →
      Tab.get 0 (s.die (coreDie c)).fenceCause (coreLocal c) ≠ 6 →
      ∃ u, exec (.unbeach src c) s = .next u ∧ u.hub.selftest = s.hub.selftest ++ [c] ∧ u.role c = .beached ∧
        u.core c = Core.reset s.us (s.core c) ∧ (s.NoTraffic c → ∀ x, x ≠ c → u.core x = s.core x) ∧ u.sec.cmdStatus = 0 ∧ u.plm = s.plm) ∧
    (src ≠ .hub → s.role c ≠ .beached → exec (.unbeach src c) s = .next (s.answerCmd src 0xC011 .state [])) ∧
    (src ≠ .hub → (s.role c ≠ .inService ∨ s.claimOf c = none) → ∃ u, exec (.coreReset src c) s = .next u ∧ u.core c = Core.reset s.us (s.core c) ∧
      (s.NoTraffic c → ∀ x, x ≠ c → u.core x = s.core x) ∧ u.roles = s.roles ∧ u.sec.cmdStatus = 0 ∧ u.plm = s.plm) ∧
    (src ≠ .hub → s.role c = .inService → (s.claimOf c).isSome = true → ∃ u, exec (.coreReset src c) s = .next u ∧ u.fenced c = true ∧
      u.hub.resetAfterFence = s.hub.resetAfterFence ++ [c] ∧ u.sec.cmdStatus = 0)) ∧
  (∀ b w l src' slot n, c < 144 → s.fabric = [.read src' slot c w (.word l) n] → src' < 144 → src' ≠ c → (s.core src').spd.isOn l = true →
    (∀ x, ∀ y ∈ (s.core x).spd.banks, y.2.queue = []) → ∃ u, s.resetLost c = u ∧ u.fabric = [] ∧ Tab.get false (u.core src').spd.poison l = true ∧
      ∀ x, x ≠ src' → ((u.core x).spd.bank b).queue = [] ∧ (x ≠ c → u.core x = s.core x))

/-- Die reset, its release, and unit resets. DIE_RESET, DIE_RESET_RELEASE, UNIT_RESET, UNIT_WATCHDOG. Rests on
12_breakwater_power_clocks_reset, Reset scopes; 14_firmware_update_and_identity, Management commands. RESET_LOST at a requester is the
model's (notes/assumptions/165.md). -/
def Obligations.DieAndUnitResets : Prop := ∀ (s : State),
  (∀ src d, src ≠ .hub → s.takesFrom src = true → s.sec.recovery = false → s.serving = false → d < 4 →
    ((s.die d).isolated = true → exec (.dieReset src d) s = .next (s.answerCmd src 0xC013 .state [])) ∧
    ((s.die d).isolated = false → s.dieGrants d ≠ 0 →
      exec (.dieReset src d) s = .next ((s.modDie d fun x => { x with resetDue := 1 }).answerCmd src 0xC013 .success [])) ∧
    ((s.die d).isolated = false → s.dieGrants d = 0 → ∃ u, exec (.dieReset src d) s = .next u ∧ u.die d = Die.reset 1 (s.die d) ∧
      (∀ l < 36, let k := (s.core (36 * d + l)).dieReset
        u.core (36 * d + l) = if s.role (36 * d + l) = .beached ∧ 36 * d + l ∉ s.hub.selftest then k.logicLost else k) ∧
      ((∀ l < 36, s.NoTraffic (36 * d + l)) → ∀ c, coreDie c ≠ d → u.core c = s.core c) ∧
      (∀ e < 4, e ≠ d → (u.die e).leases = (s.die e).leases ∧ (u.die e).evts = (s.die e).evts ∧ (u.die e).inc = (s.die e).inc ∧ ∀ n, (u.die e).ctr n =
        let q := (s.die e).ctr n
        { q with queue := q.queue.filter fun p => !s.est.steps.any fun x => decide (x.num = p.step) && x.handed && x.cols.any fun y => decide (y.2.1 = d) && decide (y.2.2 ≠ 0) }) ∧
      u.sec.cmdStatus = 0 ∧ u.plm = s.plm)) ∧
  (∀ d : DieId, (s.die d).inReset = true → (s.die d).isolated = false → s.bw.parked = false → s.hub.warm = false →
    ∃ u, exec (.dieResetRelease d) s = .next u ∧ u.die d = { s.die d with inReset := false } ∧ u.bw.lock = s.bw.lock ||| (1#5 <<< (d : Nat)) ∧
      (∀ l < 36, u.core (36 * d + l) = { s.core (36 * d + l) with inReset := false }) ∧ u.plm = s.plm ∧ u.hub = s.hub) ∧
  (∀ src code d unit, src ≠ .hub → s.takesFrom src = true → s.sec.recovery = false → s.serving = false → unitOfCode code = some unit → (unit = ResetUnit.dieHeadland → d < 4) →
    exec (.unitReset src code d) s = .next ((s.unitReset unit d 0).answerCmd src 0xC014 .success [])) ∧
  (∀ src code d, src ≠ .hub → s.takesFrom src = true → s.sec.recovery = false → s.serving = false → unitOfCode code = none →
    exec (.unitReset src code d) s = .next (s.answerCmd src 0xC014 .invalid [])) ∧
  (∀ (unit : ResetUnit) (d : DieId), s.bw.parked = false → ∃ u, exec (.unitWatchdog unit d) s = .next u ∧
    (u.die d).headInc = (if unit = ResetUnit.dieHeadland then ((s.die d).headInc + 1) % 16 else (s.die d).headInc) ∧
    u.hub.hubInc = (if unit = ResetUnit.hubHeadland then (s.hub.hubInc + 1) % 16 else s.hub.hubInc) ∧
    u.hub.updInc = (if unit = ResetUnit.updateEngine then (s.hub.updInc + 1) % 16 else s.hub.updInc) ∧
    u.hub.sorzInc = (if unit = ResetUnit.sorzeind then (s.hub.sorzInc + 1) % 16 else s.hub.sorzInc) ∧
    (unit = ResetUnit.hubHeadland → (∀ e ∈ u.est.steps, e.fail ≠ 0) ∧ (∀ i ∈ u.sec.cmds, cmdSource i ≠ .hub) ∧
      (s.hub.mbxReissue ≠ none ∨ (∃ i ∈ s.sec.cmds, cmdSource i = .hub) → u.out.hubStatus = 8)))

/-- Slack water and neap by register and by command. SLACK, NEAP, BW_CTRL_SLACK_WRITE, BW_CTRL_NEAP_WRITE. Rests on
12_breakwater_power_clocks_reset, Power states; 14_firmware_update_and_identity, Management commands. -/
def Obligations.SlackAndNeap : Prop := ∀ (on : Bool) (s : State),
  let count := fun (u : State) => u.bw.statNeap = if s.bw.state ≠ .neap ∧ u.bw.state = .neap then satInc s.bw.statNeap else s.bw.statNeap
  (∃ u, exec (.bwCtrlSlackWrite on) s = .next u ∧ u.bw.slackReg = on ∧ (on = true → u.bw.state = .slackWater) ∧ count u ∧
    u = { s with bw := { s.bw with slackReg := on, statNeap := u.bw.statNeap } } ∧
    ∀ src, src ≠ .hub → s.takesFrom src = true → s.sec.recovery = false → s.serving = false → exec (.slack src on) s = .next (u.answerCmd src 0xC020 .success [])) ∧
  (∃ u, exec (.bwCtrlNeapWrite on) s = .next u ∧ u.bw.neapReg = on ∧ (on = true → s.bw.state ≠ .slackWater → u.bw.state = .neap) ∧
    (s.bw.state = .slackWater → u.bw.state = .slackWater) ∧ count u ∧
    u = { s with bw := { s.bw with neapReg := on, statNeap := u.bw.statNeap } } ∧
    ∀ src, src ≠ .hub → s.takesFrom src = true → s.sec.recovery = false → s.serving = false → exec (.neap src on) s = .next (u.answerCmd src 0xC021 .success []))

/-- Settings and the writes of their banks. SETTING_SET, SETTINGS_BANK_WRITE, SETTING_GET, FACTORY_RESET. Rests on
13_integrity_tidemark_settings, Settings banks A and B; 14_firmware_update_and_identity, Management commands. Which write carries which
items is the model's reading (notes/assumptions/104.md, 109.md). -/
def Obligations.SettingsAndBanks : Prop := ∀ (s : State),
  (∀ src id v, src ≠ .hub → s.takesFrom src = true → s.serving = true → exec (.settingSet src id v) s =
    .next { s with sec := { s.sec with cmds := s.sec.cmds ++ [.settingSet src id v] } }) ∧
  (∀ src, src ≠ .hub → s.takesFrom src = true → s.sec.recovery = false → s.serving = false →
    (∀ id v it, settingItem id = some it → v.length = it.len → it.inRange v = true → s.settingsHeld = false →
      ∃ u, exec (.settingSet src id v) s = .next u ∧ u.tmk.jobs.map (·.job) = s.tmk.jobs.map (·.job) ++ [.setting src id v] ∧
        u.tmk.inForce = s.tmk.inForce ∧ u.out = s.out ∧ u.bw = s.bw ∧ u.sec = s.sec) ∧
    (∀ id v, (∀ it, settingItem id = some it → v.length ≠ it.len ∨ it.inRange v = false) →
      exec (.settingSet src id v) s = .next (s.answerCmd src 0xC030 .invalid [])) ∧
    (∀ id it, settingItem id = some it → exec (.settingGet src id) s = .next (s.answerCmd src 0xC031 .success (s.setting id))) ∧
    (exec (.settingGet src bootId) s = .next (s.answerCmd src 0xC031 .success s.sec.bootItem)) ∧
    (s.settingsHeld = false → (src = .host → s.hub.lock = false) → ∃ u, exec (.factoryReset src) s = .next u ∧
      u.tmk.jobs.map (·.job) = s.tmk.jobs.map (·.job) ++ [.factory src] ∧ u.tmk.inForce = s.tmk.inForce ∧ u.sec = s.sec) ∧
    (src = .host → s.hub.lock = true → exec (.factoryReset src) s = .next (s.answerCmd src 0xC032 .locked []))) ∧
  (∀ src id v (w : BankWrite), src ≠ .hub → s.hub.mgmtUp = true → s.bw.pfail = false → s.tmk.jobs = [w] → w.job = .setting src id v → w.quiet = false →
    s.sec.cmds = [] →
    ((s.tmk.bank s.tmk.target).stuck = false → ∃ u, exec (.settingsBankWrite true) s = .next u ∧
      u.tmk.selected = some ((s.tmk.bank s.tmk.target).written w.format s.tmk.nextSeq w.payload) ∧ u.tmk.inForce = putItem id v s.tmk.inForce ∧
      u.tmk.jobs = [] ∧ u.tmk.writes = satInc s.tmk.writes ∧ u.sec.cmdStatus = 0 ∧ (id = 1 → u.bw.ceil = leNat v)) ∧
    (w.repeated = false → ∃ u, exec (.settingsBankWrite false) s = .next u ∧ u.tmk.jobs = [{ w with repeated := true }] ∧
      u.tmk.selected = s.tmk.selected ∧ u.tmk.inForce = s.tmk.inForce ∧ u.out = s.out) ∧
    (w.repeated = true → ∃ u, exec (.settingsBankWrite false) s = .next u ∧ u.tmk.jobs = [] ∧ u.tmk.selected = s.tmk.selected ∧ u.tmk.writeFail = true ∧
      u.tmk.inForce = s.tmk.inForce ∧ u.sec.cmdStatus = 0xA ∧ u.bw = s.bw)) ∧
  (∀ items, itemsRise items = true → (∀ i ∈ items, i.1 < 65536 ∧ i.2.length < 65536) → parseItems (itemBytes items) = some items)

/-- Enrolling, revoking and listing stream keys. KEY_ENROLL, KEY_REVOKE, KEY_LIST. Rests on 14_firmware_update_and_identity, Keys;
14_firmware_update_and_identity, Management commands. That a store whose tag has failed gets no new one is the model's
(notes/assumptions/180.md). -/
def Obligations.StreamKeys : Prop := ∀ (src : Source) (s : State), src ≠ .hub → s.takesFrom src = true → s.sec.recovery = false → s.serving = false →
  (∀ key, (src = .host → s.hub.lock = false) → key.length = 57 → s.sec.keys.length < 16 → ∃ u, exec (.keyEnroll src key) s = .next u ∧
    u.sec.keys = s.sec.keys ++ [⟨key, false⟩] ∧ u.sec.tagBad = s.sec.tagBad ∧ u.sec.cmdStatus = 0 ∧ u.tmk = s.tmk.enqueue (s.entry 0x0079 4 (leBytes 8 (keyIdOf key)))) ∧
  (∀ key, s.sec.keys.length = 16 → key.length = 57 → (src = .host → s.hub.lock = false) → exec (.keyEnroll src key) s = .next (s.answerCmd src 0xC040 .state [])) ∧
  (∀ key, key.length ≠ 57 → (src = .host → s.hub.lock = false) → exec (.keyEnroll src key) s = .next (s.answerCmd src 0xC040 .invalid [])) ∧
  (∀ key, src = .host → s.hub.lock = true → exec (.keyEnroll src key) s = .next (s.answerCmd src 0xC040 .locked [])) ∧
  (∀ n, (∃ k ∈ s.sec.keys, keyIdOf k.key = n) → ∃ u, exec (.keyRevoke src n) s = .next u ∧ u.sec.cmdStatus = 0 ∧
    u.sec.keys.map (·.key) = s.sec.keys.map (·.key) ∧ (∀ k ∈ u.sec.keys, keyIdOf k.key = n → k.revoked = true) ∧
    (∀ k, keyIdOf k.key ≠ n → (k ∈ u.sec.keys ↔ k ∈ s.sec.keys))) ∧
  (∀ n, (∀ k ∈ s.sec.keys, keyIdOf k.key ≠ n) → exec (.keyRevoke src n) s = .next (s.answerCmd src 0xC041 .notFound [])) ∧
  (exec (.keyList src) s = .next (s.answerCmd src 0xC042 .success (s.sec.keys.flatMap fun k =>
    leBytes 8 (keyIdOf k.key) ++ b8 (if k.revoked = true ∨ s.sec.tagBad = true then 1 else 0))))

/-- Heartbeats of the hub, Tidemark's slots and snapshots, and pair episodes. TMK_READ, HEARTBEAT, HEARTBEAT_MISS, TMK_RD_SEQ_HI_WRITE,
TMK_SNAPSHOT_DONE, TIDEMARK_ENTRY_WRITE, PAIR_EPISODE_END. Rests on 01_package_and_planes, The three planes; 13_integrity_tidemark_settings, Tidemark;
13_integrity_tidemark_settings, Complement pairs; 01_package_and_planes, The mailbox. NOT_FOUND with RESULT for an entry that is not VALID
is log entry 59. -/
def Obligations.HeartbeatsAndTidemarkReads : Prop := ∀ (s : State),
  (∀ l : MboxLink, s.hub.mgmtUp = true → s.hub.hubUp = true → s.sec.recovery = false → s.serving = false → s.hub.mbxReissue ≠ some l.seq →
    (l.cmdOk = true → l.replyOk = true → ∃ u, exec (.heartbeat l) s = .next u ∧ u.out.hubStatus = 0 ∧ u.tmk = s.tmk ∧
      u.hub = { s.hub with hbLast := s.us, hbMissed := 0, silent := false, mbxLast := some (l.seq, 0), mbxReissue := none }) ∧
    (l.cmdOk = true → l.replyOk = false → ∃ u, exec (.heartbeat l) s = .next u ∧ u.out.hubStatus = s.out.hubStatus ∧ u.hub.mbxReissue = some l.seq ∧
      u.hub.hbLast = s.us ∧ u.tmk.pair = s.tmk.pair ||| 0x10#9) ∧
    (l.cmdOk = false → l.replyOk = true → exec (.heartbeat l) s = .next
      (let t := (s.pairError 3).answerCmd .hub 0xC0FF .pairError []; { t with hub := { t.hub with mbxReissue := none } }))) ∧
  (∀ (l : MboxLink) st, s.hub.mgmtUp = true → s.hub.hubUp = true → s.serving = false → s.hub.mbxReissue = some l.seq → s.hub.mbxLast = some (l.seq, st) → l.cmdOk = true →
    l.replyOk = true → exec (.heartbeat l) s = .next { s with out := { s.out with hubStatus := st }, hub := { s.hub with mbxReissue := none } }) ∧
  (s.hub.mgmtUp = true → s.hub.silent = false → s.bw.parked = false → s.hub.hbLast + 3000 ≤ s.us → ∃ u, exec .heartbeatMiss s = .next u ∧
    u.hub.silent = true ∧ u.hub.alert = s.hub.alert ||| 1 ∧ u.tmk = s.tmk.enqueue (s.entry 0x0026 4 (b8 3)) ∧ u.cores = s.cores ∧ u.dies = s.dies) ∧
  (∀ v : W32, exec (.tmkRdSeqHiWrite v) s = .next { s with tmk := { s.tmk with rdHi := v, host := { s.tmk.host with
    seq := s.tmk.rdLo.toNat + 4294967296 * v.toNat, busy := true } } }) ∧
  (∀ src seq, seq < 2 ^ 64 → s.takesFrom src = true → s.serving = false → (src = .bmc ∨ src = .host ∧ s.sec.recovery = true) → exec (.tmkRead src seq) s =
    .next { s with tmk := { s.tmk with bmc := { s.tmk.bmc with seq := seq, busy := true }, readSrc := src, readQuiet := false } }) ∧
  (∀ seq, s.takesFrom .host = true → s.serving = false → s.sec.recovery = false → exec (.tmkRead .host seq) s =
    .next (s.answerCmd .host 0xC050 .unsupported [])) ∧
  (s.hub.mgmtUp = true → s.tmk.host.busy = true → s.sec.cmds = [] → ∃ u, exec (.tmkSnapshotDone .host) s = .next u ∧ u.tmk.host.busy = false ∧
    u.tmk.host.seq = s.tmk.host.seq ∧ u.tmk.host.result = s.tmk.result s.tmk.host.seq ∧ u.tmk.slots = s.tmk.slots ∧
    (s.tmk.result s.tmk.host.seq = 0 → ∃ e, (s.tmk.slot (s.tmk.host.seq % 16384)).entry = some e ∧ u.tmk.host.data = e.bytes s.tmk.host.seq)) ∧
  (s.hub.mgmtUp = true → s.tmk.bmc.busy = true → s.sec.cmds = [] → s.tmk.readSrc = .bmc → s.tmk.readQuiet = false →
    ∃ u, exec (.tmkSnapshotDone .bmc) s = .next u ∧ u.tmk.bmc.busy = false ∧ u.sec.cmdStatus = (if s.tmk.result s.tmk.bmc.seq = 0 then 0 else 9) ∧
    (s.tmk.result s.tmk.bmc.seq = 0 → ∃ e, (s.tmk.slot (s.tmk.bmc.seq % 16384)).entry = some e ∧ u.out.bmcReply = b8 0 ++ (b8 0 ++ e.bytes s.tmk.bmc.seq))) ∧
  (∀ e rest, s.hub.mgmtUp = true → s.tmk.queue = e :: rest → ∃ u, exec (.tidemarkEntryWrite true) s = .next u ∧ u.tmk.head = s.tmk.head + 1 ∧
    u.tmk.slot (s.tmk.head % 16384) = { entry := some (e.atWrite rest.length), seq := s.tmk.head, complete := true, bad := false,
                                        stuck := (s.tmk.slot (s.tmk.head % 16384)).stuck } ∧
    (∀ n, n ≠ s.tmk.head % 16384 → u.tmk.slot n = s.tmk.slot n) ∧ u.tmk.queue.take rest.length = rest) ∧
  (∀ e rest, s.hub.mgmtUp = true → s.tmk.queue = e :: rest → ∃ u, exec (.tidemarkEntryWrite false) s = .next u ∧ u.tmk.queue = s.tmk.queue ∧
    (u.tmk.slot (s.tmk.head % 16384)).valid (s.tmk.head % 16384) = false ∧ ∀ n, n ≠ s.tmk.head % 16384 → u.tmk.slot n = s.tmk.slot n) ∧
  (∀ k : Fin 9, s.tmk.episodes.getLsbD k = true → Tab.get 0 s.tmk.pairLast k + 1000000 ≤ s.us → ∃ u, exec (.pairEpisodeEnd k) s = .next u ∧
    u.tmk.episodes = s.tmk.episodes &&& ~~~(1#9 <<< (k : Nat)) ∧ u.tmk.pair = s.tmk.pair ∧ u.tmk.queue = s.tmk.queue)

/-- Sensors, MCTP, alerts, I3C and boundary scan. PLDM_GET_SENSOR_READING, MCTP_CONTROL, SMBUS_ALERT_RESPONSE, IBI_ACK, HUB_ALERT_CLEAR,
JTAG_INSTRUCTION, I3C_CCC. Rests on 15_balls_supplies_signals, Signals. The answers' bodies that the manual does not give are opaque
(notes/assumptions/128.md). -/
def Obligations.Sideband : Prop := ∀ (s : State),
  (∀ v : W32, exec (.hubAlertClear v) s = .next { s with hub := { s.hub with
    alert := s.hub.alert &&& ~~~(v.truncate 4), ibi := s.hub.ibi.filter fun k => !(v.truncate 4 : BitVec 4).getLsbD k } }) ∧
  (s.hub.mgmtUp = true →
    (∀ (d : Fin 5) t, Tab.get none s.bw.temps d = some t →
      exec (.pldmGetSensorReading (.dieTemp d)) s = .next { s with out := { s.out with pldm := [0, BitVec.ofInt 8 t] } }) ∧
    (exec (.pldmGetSensorReading .draw) s = .next { s with out := { s.out with pldm := b8 0 ++ leBytes 2 s.bw.draw } }) ∧
    (∀ n : Fin 2, exec (.pldmGetSensorReading (.fan n)) s = .next { s with out := { s.out with pldm := b8 0 ++ leBytes 2 (Tab.get {} s.bw.fans n).rpm } }) ∧
    (∀ e, e < 256 → ∃ u, exec (.mctpControl .smbus (.setEid e)) s = .next u ∧ u.hub = { s.hub with eidSmb := e }) ∧
    (∀ e, e < 256 → ∃ u, exec (.mctpControl .i3c (.setEid e)) s = .next u ∧ u.hub = { s.hub with eidI3c := e }) ∧
    (exec (.mctpControl .smbus .getEid) s = .next { s with out := { s.out with mctp := b8 0 ++ b8 s.hub.eidSmb } }) ∧
    (∀ b t, t < 256 → ∃ u, exec (.mctpControl b (.pldmSetTid t)) s = .next u ∧ u.hub = { s.hub with pldmTid := t } ∧ u.out.pldm = [0]) ∧
    (∀ b, exec (.mctpControl b .pldmGetTid) s = .next { s with out := { s.out with pldm := b8 0 ++ b8 s.hub.pldmTid } }) ∧
    (exec (.mctpControl .i3c .getEid) s = .next { s with out := { s.out with mctp := b8 0 ++ b8 s.hub.eidI3c } }) ∧
    (s.hub.alert ≠ 0 → ∃ u, exec .smbusAlertResponse s = .next u ∧ u.out.smbus = 0x60 + s.hub.sbaddr ∧ u.hub.alert = 0) ∧
    (∀ k : Fin 4, (k : Nat) ∈ s.hub.ibi → ∃ u, exec (.ibiAck k) s = .next u ∧ u.out.i3c = b8 k ∧ u.hub.alert = s.hub.alert &&& ~~~(1#4 <<< (k : Nat)) ∧
      u.hub.ibi = s.hub.ibi.filter (· ≠ (k : Nat))) ∧
    (∀ a, s.hub.i3cAddr = none → exec (.i3cCcc (.entdaa a)) s = .next { s with hub := { s.hub with i3cAddr := some a } }) ∧
    (∀ a, s.hub.i3cAddr = none → exec (.i3cCcc (.setdasa (0x60 + s.hub.sbaddr) a)) s = .next { s with hub := { s.hub with i3cAddr := some a } }) ∧
    (∀ a b, s.hub.i3cAddr = some b → exec (.i3cCcc (.setnewda a)) s = .next { s with hub := { s.hub with i3cAddr := some a } }) ∧
    (exec (.i3cCcc .rstdaa) s = .next { s with hub := { s.hub with i3cAddr := none } }) ∧
    (exec (.i3cCcc (.enec true)) s = .next { s with hub := { s.hub with ibiEn := true } }) ∧
    (exec (.i3cCcc (.disec true)) s = .next { s with hub := { s.hub with ibiEn := false } }) ∧
    (∀ c n, (c, n) ∈ [(Ccc.getpid, 0), (.getbcr, 1), (.getdcr, 2), (.getstatus, 3), (.getmxds, 4)] →
      exec (.i3cCcc c) s = .next { s with out := { s.out with i3c := Config.i3cAnswer n } })) ∧
  (∀ op, ∃ u, exec (.jtagInstruction op) s = .next u ∧ u.hub = { s.hub with jtag := op } ∧ (op = .idcode → u.out.tdo = leBytes 4 idcode) ∧
    (jtagDrives op = true → s.hub.perst = false → u.hub.jtagActs = .bypass ∧ u.out.tdo = b8 0) ∧ (s.hub.perst = true → u.hub.jtagActs = op))

/-- An epoch passes. BUDGET_EPOCH, DOMAIN_WAKE_DONE, BASE_RECALIBRATE. Rests on 12_breakwater_power_clocks_reset, The budget epoch;
12_breakwater_power_clocks_reset, Power domains; 12_breakwater_power_clocks_reset, The slew rule and ballast; 01_package_and_planes, The
grant; 09_strandmap_and_ddr4, DDR4 channels. That soft errors arise with an epoch, how requests for wakes are compared with the rated
maximum, and the fall before a reset are the model's (notes/assumptions/151.md, 119.md, 172.md). -/
def Obligations.BudgetEpoch : Prop := ∀ (s : State),
  (∀ reqs errs, s.hub.mgmtUp = true → s.bw.parked = false → ∃ u : State, exec (.budgetEpoch reqs errs) s = .next (u.serveHeld.pumpAll.resumeRing.drainCq) ∧ u.us = s.us + 1 ∧
    u.bw.epoch = s.bw.epoch + 1 ∧ u.bw.limit = s.bw.budget.1 ∧ u.bw.fallFree = false ∧ u.plm.mem = s.plm.mem ∧ (errs.ddr = [] → u.plm = s.plm) ∧
    (errs.mram = [] → u.sec = s.sec) ∧ (∀ c ∈ errs.cache, c ∈ u.tmk.cacheBad) ∧
    ∀ c < 144, s.fenced c = false → (s.core c).inReset = false → s.role c ≠ .disabled → (reqOf reqs c).pairOk = true → (reqOf reqs c).grantOk = true →
      (reqOf reqs c).ue = false → (s.core c).ue = false → (s.coreTier c).getD 0 ≤ 5 →
      ((reqOf reqs c).grantEpoch = none ∨ (reqOf reqs c).grantEpoch = some ((s.bw.epoch + 1) % 16)) → (s.die (coreDie c)).resetDue = 0 →
      (u.bw.grantOf c).grantMiss = 0 ∧ (u.bw.grantOf c).reqMiss = 0 ∧ (u.bw.grantOf c).inForce = (u.bw.grantOf c).grant ∧
      (u.core c).account = min ((s.core c).account - (max (reqOf reqs c).used (s.bw.grantOf c).floorNow : Nat)) ((s.bw.grantOf c).inForce : Int) + ((u.bw.grantOf c).grant : Int) ∧
      (u.core c).gstall = (decide (s.bw.state = .slackWater) || decide ((u.core c).account ≤ 0))) ∧
  (∀ reqs errs, s.hub.mgmtUp = true → s.bw.parked = true → s.us + 1 ≠ s.bw.pfailUs + 100 →
    exec (.budgetEpoch reqs errs) s = .next (State.upsets errs { s with us := s.us + 1 })) ∧
  (∀ reqs errs, s.hub.mgmtUp = false → exec (.budgetEpoch reqs errs) s = .next (State.upsets errs { s with us := s.us + 1 })) ∧
  (∀ c : CoreId, (s.core c).logicOff = true → (c : Nat) ∈ s.hub.selftest → 0 < Tab.get 0 s.bw.wakeGranted c → Tab.get 0 s.bw.wakes (coreDie c) < 16 →
    ∃ u, exec (.domainWakeDone c) s = .next u ∧ u.core c = { s.core c with logicOff := false } ∧ (∀ x, x ≠ (c : Nat) → u.core x = s.core x) ∧
      Tab.get 0 u.bw.wakes (coreDie c) = Tab.get 0 s.bw.wakes (coreDie c) + 1 ∧ Tab.get 0 u.bw.wakeGranted c = Tab.get 0 s.bw.wakeGranted c - 1) ∧
  (∀ r : RailReading, r.ok = true → s.hub.mgmtUp = true → exec (.baseRecalibrate r) s =
    .next { s with bw := { s.bw with base := min r.base 0xFFFF, draw := min r.draw 0xFFFF } })

/-- Grants never exceed the budget or the requests while the fall limit is aside. Rests on 12_breakwater_power_clocks_reset, The budget
epoch; 12_breakwater_power_clocks_reset, The slew rule and ballast. What the fall limit leaves out is the model's reading
(notes/assumptions/114.md). -/
def Obligations.AllocationWithinBudget : Prop := ∀ (b : Bw) (asks : List Ask) (el : Nat → Bool), (asks.map (·.unit)).Nodup → b.fallAside = true →
  ((b.allocate asks el).map (·.grant)).sum ≤ b.budget.2 ∧ ∀ x ∈ b.allocate asks el, x.grant ≤ x.ask.req ∧ x.ask ∈ asks ∧
    (x.answer = 3 → x.grant = 0) ∧ (x.answer = 0 ↔ x.ask.req ≤ x.grant ∧ x.answer ≠ 3)

/-- Temperature, acoustic limit, fans and hold-up. THERMAL_UPDATE, ACOUSTIC_UPDATE, FAN_UPDATE, FAN_STALL, HOLDUP_SAMPLE, THERMTRIP. Rests
on 12_breakwater_power_clocks_reset, Thermal and acoustic limits; 12_breakwater_power_clocks_reset, Supply warning and power failure;
12_breakwater_power_clocks_reset, The budget epoch; 15_balls_supplies_signals, Signals. How a fan's speed is measured, and that a fan that
turns again is no longer stalled, are the model's choice (notes/assumptions/171.md). -/
def Obligations.ThermalAcousticFansHoldup : Prop := ∀ (s : State), s.hub.mgmtUp = true →
  (∀ temps m, hottest temps = some m →
    ∃ u, exec (.thermalUpdate temps) s = .next u ∧ u.bw.tmax = m.temp ∧ (m.temp ≤ s.bw.target → u.bw.fT = (1, 1)) ∧
      (s.bw.target < m.temp → 100 ≤ m.temp → u.bw.fT = (1, 4)) ∧
      (s.bw.target < m.temp → m.temp < 100 →
        (u.bw.fT.1 : Int) = 4 * (100 - s.bw.target) - 3 * (m.temp - s.bw.target) ∧ (u.bw.fT.2 : Int) = 4 * (100 - s.bw.target)) ∧
      u.bw.budget.2 ≤ u.bw.spring * u.bw.fT.1 / u.bw.fT.2 ∧
      (105 ≤ m.temp → u.bw.slack105 = true ∧ u.bw.state = .slackWater) ∧ (m.temp < 97 → u.bw.slack105 = false) ∧
      (97 ≤ m.temp → m.temp < 105 → u.bw.slack105 = s.bw.slack105) ∧
      u.tmk = if 105 ≤ m.temp ∧ s.bw.slack105 = false then s.tmk.enqueue (s.entry 0x0014 (min m.die 4) (tempByte m.temp ++ b8 m.sensor)) else s.tmk) ∧
  (let a := s.bw.acousticNow
   let atMax := 100 * s.bw.fanMax ≤ s.bw.duty
   State.reset.bw.acousticNow = State.reset.bw.spring ∧ ∃ u, exec .acousticUpdate s = .next u ∧ u = { s with bw := { s.bw with acoustic := u.bw.acoustic } } ∧
     (atMax → (s.bw.target : Int) - 5 ≤ s.bw.tmax → u.bw.acoustic = some (max (a - 32) (s.bw.spring / 4))) ∧
     (¬ atMax → u.bw.acoustic = some (min (a + 32) s.bw.spring)) ∧
     (s.bw.tmax < (s.bw.target : Int) - 7 → u.bw.acoustic = some (min (a + 32) s.bw.spring)) ∧
     (atMax → (s.bw.target : Int) - 7 ≤ s.bw.tmax → s.bw.tmax < (s.bw.target : Int) - 5 → u.bw.acoustic = some a)) ∧
  (∀ p q, ∃ u, exec (.fanUpdate p q) s = .next u ∧ (Tab.get {} u.bw.fans 1).duty = u.bw.duty ∧
     (Tab.get {} u.bw.fans 0).rpm = min (30 * p) 65535 ∧ (Tab.get {} u.bw.fans 1).rpm = min (30 * q) 65535 ∧ (100 ≤ s.bw.tmax → u.bw.duty = 10000) ∧
     (s.bw.tmax < 100 → s.bw.duty < s.bw.fanDemand → u.bw.duty = min (s.bw.duty + 2) s.bw.fanDemand) ∧
     (s.bw.tmax < 100 → s.bw.fanDemand ≤ s.bw.duty → u.bw.duty = max (s.bw.duty - 2) s.bw.fanDemand)) ∧
  (∀ (n : Fin 2) t, let fan := Tab.get {} s.bw.fans n
     fan.stall = false → fan.slowSince = some t → t + 2000000 ≤ s.us → ∃ u, exec (.fanStall n) s = .next u ∧ u.bw.fanStall = true ∧ (Tab.get {} u.bw.fans n).stall = true ∧
     u.bw.limitA = u.bw.spring / 2 ∧ u.hub.alert = s.hub.alert ||| 8 ∧ u.tmk = s.tmk.enqueue (s.entry 0x0016 4 (b8 n ++ leBytes 2 fan.rpm))) ∧
  (∀ mv, mv ≤ 64000 → let e := s.bw.holdCap * (mv * mv - s.bw.holdVmin * s.bw.holdVmin)
     ∃ u, exec (.holdupSample mv) s = .next u ∧ u.bw.holdMv = mv ∧ u.bw.holdMj = min (e / 20000000) 0xFFFF ∧
       (u.bw.holdupLow = true ↔ s.bw.holdCap ≠ 0 ∧ e < 50000000000) ∧
       u.tmk = if u.bw.holdupLow = true ∧ s.bw.holdupLow = false then s.tmk.enqueue (s.entry 0x0013 4 (leBytes 2 mv ++ leBytes 2 u.bw.holdMj)) else s.tmk) ∧
  (∀ (t : Int) (d : Fin 5), 115 ≤ t → s.bw.thermtrip = false → s.hub.perst = false → ∃ u, exec (.thermtrip t d) s = .next u ∧ u.bw.thermtrip = true ∧
     u.tmk = s.tmk.enqueue (s.entry 0x0015 d (tempByte t)))

/-- Supply warning, power failure, clock losses and their ends. PWR_WARN_ASSERT, NEAP_EXIT, PWR_FAIL_ASSERT, POWER_RETURN, PLL_UNLOCK,
REFCLK_LOSS, PWR_WARN_DEASSERT. Rests on 12_breakwater_power_clocks_reset, Supply warning and power failure;
12_breakwater_power_clocks_reset, Clocks. -/
def Obligations.SupplyAndClockEvents : Prop := ∀ (s : State),
  (exec .pwrWarnDeassert s = .next { s with bw := { s.bw with warn := false, warnHighSince := s.us } }) ∧
  (s.hub.mgmtUp = true → s.bw.parked = false →
    (∃ u, exec .pwrWarnAssert s = .next u ∧ u.bw.warn = true ∧ u.bw.warnNeap = true ∧ (s.bw.state ≠ .slackWater → u.bw.state = .neap) ∧
      (s.bw.warnNeap = false → ∀ c, (u.core c).pfreeze = ((s.core c).pfreeze || decide ((s.core c).account < 0)))) ∧
    (∀ uj, s.sec.cmds = [] → ∃ u e, exec (.pwrFailAssert uj) s = .next u ∧ u.bw.parked = true ∧ u.bw.pfail = true ∧ u.bw.coreGrant = 0 ∧ u.bw.uncoreGrant = 0 ∧
      u.tmk.queue.head? = some e ∧ e.type = 0x10 ∧ e.payload = leBytes 4 (min uj 4294967295) ++ b8 0 ++ b8 (if s.tmk.jobs.any (·.started) then 1 else 0) ∧
      u.tmk.queue.tail = s.tmk.queue ∧ u.tmk.jobs = [] ∧ u.hub.mgmtUp = true ∧ u.hub.hubUp = false ∧ (∀ c < 144, (u.core c).inReset = true ∧ (u.core c).logicOff = true) ∧
      u.cxl.width = 0 ∧ u.plm.mem = s.plm.mem) ∧
    (s.sec.cmds = [] → ∃ u, exec .refclkLoss s = .next u ∧ u.bw.parked = true ∧ u.bw.lock = 0 ∧ u.tmk.queue.head?.map (·.type) = some 0x10) ∧
    (∀ d : Fin 4, (s.die d).isolated = false → (s.pllRecent d).length < 3 → ∃ u, exec (.pllUnlock (d.castLE (by decide))) s = .next u ∧
      (u.die d).inReset = true ∧ (u.die d).inc = ((s.die d).inc + 1) % 16 ∧ (u.die d).rstCause = 2 ∧ u.bw.lock.getLsbD d = false ∧ (u.die d).isolated = false) ∧
    (∀ d : Fin 4, (s.die d).isolated = false → 3 ≤ (s.pllRecent d).length → ∃ u, exec (.pllUnlock (d.castLE (by decide))) s = .next u ∧ (u.die d).isolated = true) ∧
    (∃ u, exec (.pllUnlock 4) s = .next u ∧ u.hub.endOfService = true ∧ u.hub.hubUp = false ∧ u.bw.lock.getLsbD 4 = false ∧
      (if s.cxl.viralEn = true then u.cxl.viral = true ∧ u.out = s.out else u.cxl.aerInternal = true))) ∧
  (s.bw.warnNeap = true → s.bw.warn = false → s.bw.parked = false → s.bw.warnHighSince + 100 ≤ s.us → ∃ u, exec .neapExit s = .next u ∧
    u.bw.warnNeap = false ∧ u.bw.statDip = satInc s.bw.statDip ∧ (s.bw.neapReg = false → u.bw.state ≠ .neap) ∧
    u.tmk = s.tmk.enqueue (s.entry 0x0012 4 (leBytes 4 (min (s.us - s.bw.neapSince) 4294967295)))) ∧
  (s.bw.parked = true → s.bw.failHigh = false → ∃ u, exec .powerReturn s = .next u ∧ u.bw = { s.bw with failHigh := true } ∧
    u.tmk = s.tmk.enqueue (s.entry 0x0011 4 []) ∧ u.hub.alert = s.hub.alert ||| 4)

/-- PERST_N and cold reset. PERST_ASSERT, COLD_RESET. Rests on 12_breakwater_power_clocks_reset, Reset scopes;
13_integrity_tidemark_settings, Tidemark; 14_firmware_update_and_identity, The boot flash; 15_balls_supplies_signals, Signals;
09_strandmap_and_ddr4, DDR4 channels; 03_core_engines_and_tile_programs, Engines. The row map is the part's own (notes/assumptions/163.md).
-/
def Obligations.ColdReset : Prop := ∀ (s : State),
  let kept := fun (u : State) => u.tmk.floor = s.tmk.floor ∧ u.tmk.slots = s.tmk.slots ∧ u.sec.flash0 = s.sec.flash0 ∧ u.sec.flash1 = s.sec.flash1 ∧
    u.sec.keys = s.sec.keys ∧ u.sec.sigRevoked = s.sec.sigRevoked ∧ u.out.hostMem = s.out.hostMem ∧ u.us = 0 ∧ u.plm.mem = [] ∧ u.plm.map = [] ∧ u.plm.regions = [] ∧ u.est = {} ∧ u.ldr = {} ∧ u.hub.lock = false
  (∃ u, exec .perstAssert s = .next u ∧ kept u ∧ u.hub.perst = true ∧ u.hub.mgmtUp = false ∧ u.sec.rollback = s.sec.rollback ∧ (∀ c < 144, u.core c = { inReset := true, logicOff := true }) ∧
    (∀ d < 4, u.die d = { inReset := true }) ∧ u.plm = {} ∧
    u.cxl = {} ∧ u.tmk.bankA = s.tmk.bankA ∧ u.tmk.bankB = s.tmk.bankB) ∧
  (∀ p : BootPins, p.testEn = true → ∃ u, exec (.coldReset p) s = .next u ∧ kept u ∧ u.hub.mgmtUp = false ∧ u.hub.testEn = true ∧ u.sec.rollback = s.sec.rollback) ∧
  (∀ p : BootPins, p.testEn = false → p.failLow = false → ∃ u, exec (.coldReset p) s = .next u ∧ kept u ∧ u.hub.mgmtUp = true ∧ u.hub.perst = false ∧
    u.tmk.head = s.tmk.nextHead ∧ u.tmk.bootCount = min (s.tmk.bootCount + 1) 4294967295 ∧ s.sec.rollback ≤ u.sec.rollback ∧
    u.bw.lock = (if u.sec.recovery = true then 0x10 else 0x1F) ∧ u.bw.rstCause = (if p.powerOn = true then 0 else 1) ∧ u.hub.sbaddr = p.sbaddr % 8 ∧ (u.hub.hubUp = true ↔ u.sec.recovery = false) ∧
    (p.bootsrc % 4 = 2 → u.sec.recovery = true) ∧ (u.bw.warnNeap = p.warnLow) ∧
    (∀ c < 144, (u.core c).inReset = u.sec.recovery ∧ (u.core c).logicOff = (u.sec.recovery || decide (s.role c = .disabled)) ∧
      (u.sec.recovery = false → ∀ g < 16, Tab.get 32 (u.core c).rowMap g = Config.rowRepair c g % 33)) ∧
    u.sec.started = (if u.sec.recovery = true then [] else [0, 1, 3, 2]) ∧
    (let ms := (List.range 16).map fun i => p.dimms.getD i none
     u.sec.recovery = false → ∀ i < 16, (u.chanAt i).st = match p.dimms.getD i none with
       | none => .absent
       | some m => if accepted ms m = true then .training else .failed) ∧
    ∃ e, u.tmk.queue.head? = some e ∧ e.type = 1 ∧ e.payload = b8 (if p.powerOn = true then 0 else 1) ∧ e.boot = min (s.tmk.bootCount + 1) 4294967295 ∧ e.time = 0)

/-- Tidemark entries are written in sequence, across power failures and cold resets. COLD_RESET, TIDEMARK_ENTRY_WRITE. Rules R415. -/
def Obligations.TidemarkWritesAndSequence : Prop := ∀ (s : State),
  (∀ e rest, s.hub.mgmtUp = true → s.tmk.queue = e :: rest → ∃ u, exec (.tidemarkEntryWrite true) s = .next u ∧
    u.tmk.floor = (if s.tmk.head % 4096 = 0 then s.tmk.head else s.tmk.floor)) ∧
  (∀ e rest, s.hub.mgmtUp = true → s.tmk.queue = e :: rest → ∃ u, exec (.tidemarkEntryWrite false) s = .next u ∧ u.tmk.head = s.tmk.head ∧
    u.tmk.floor = (if s.tmk.head % 4096 = 0 then s.tmk.head else s.tmk.floor)) ∧
  (∀ p : BootPins, p.testEn = false → p.failLow = false → ∃ u e, exec (.coldReset p) s = .next u ∧ u.tmk.queue.head? = some e ∧ e.type = 1 ∧
    e.payload = b8 u.bw.rstCause ∧
    (∀ h, s.tmk.highest = some h → s.tmk.floor ≤ h → u.tmk.head = h + 1) ∧
    ((∀ h, s.tmk.highest = some h → h < s.tmk.floor) → s.tmk.floor ≠ 0 → u.tmk.head = s.tmk.floor + 4096) ∧
    (s.tmk.highest = none → s.tmk.floor = 0 → u.tmk.head = 1))

/-- A step runs the command at the front of the queue. Rests on Host interface of the block (INVENTORY.md, Host interface); log entry 11. An
empty queue idles by log entry 11. -/
def Obligations.StepRunsFront : Prop := ∀ (c : Instr) (rest : List Instr) (s : State),
  step { s with pending := c :: rest } = exec c { s with pending := rest } ∧ (s.pending = [] → step s = .next s)

/-- Every command goes on, but for host accesses outside the decoder. Rests on 11_cxl_host_attachment, CXL.mem and HDM decoding. -/
def Obligations.EveryCommandGoesOn : Prop := ∀ (c : Instr) (s : State),
  (∃ t, exec c s = .next t) ∨
  (exec c s = .fault .noSuchAddress ∧ ∃ hpa, s.hostDla hpa = none ∧ ((∃ copy err, c = .cxlMemRead hpa copy err) ∨ ∃ data p copy err, c = .cxlMemWrite hpa data p copy err))

/-- The state after reset. Rests on 12_breakwater_power_clocks_reset, Reset scopes; 13_integrity_tidemark_settings, Settings banks A and B;
07_tiles_leases_and_fencing, DIE_ register map; 05_scratchpad, SPD_ register map. Values the manual does not give are log entry 3. -/
def Obligations.ResetState : Prop :=
  let s := State.reset
  s.pending = [] ∧ s.hub.lock = false ∧ s.bw.ceil = 350 ∧ s.bw.slew = 32 ∧ s.bw.target = 90 ∧ s.bw.fanMin = 20 ∧ s.bw.fanMax = 100 ∧ s.bw.tlo = 50 ∧
  s.tmk.queue = [] ∧ s.tmk.pair = 0 ∧ s.est.en = false ∧ s.sec.rollback = 0 ∧ s.plm.mem = [] ∧ (∀ h, (s.handle h).st = .empty) ∧
  (∀ c < 144, s.role c = if c % 9 = 8 then .standby else .inService) ∧
  (∀ c t n, ((s.core c).slot t).getX n = 0 ∧ ((s.core c).slot t).st = .idle) ∧ (∀ c b, ((s.core c).spd.bank b).st = .off) ∧
  (∀ d n, ((s.die d).ctr n).st = .idle) ∧ (∀ d, ∀ g < 4, Tab.get 0 (s.die d).stbyLocal g = 9 * g + 8) ∧ (∀ d e, ((s.die d).lease e).st = 0 ∧ ((s.die d).lease e).pairOk = true) ∧
  (∀ p, (s.port p).st = .down ∧ (s.port p).en = true) ∧ s.cxl.committed = false ∧ s.kl.st = .idle ∧ s.bw.state = .spring ∧ Tab.wf 0 s.plm.mem = true

/-- Every step keeps memory in its canonical form. Rests on 09_strandmap_and_ddr4, Pages and the map; 11_cxl_host_attachment, CXL.mem and HDM
decoding. -/
def Obligations.StepKeepsMemoryCanonical : Prop := ∀ (s t : State), Tab.wf 0 s.plm.mem = true → step s = .next t → Tab.wf 0 t.plm.mem = true

/-- Rollback, signing fuses, revoked keys and HUB_LOCK hold against every command. RWC_COMPLEMENT_WRITE. Rests on
14_firmware_update_and_identity, Keys; 14_firmware_update_and_identity, Update sessions; 14_firmware_update_and_identity, Management
commands; 01_package_and_planes, Identity and lock registers; 12_breakwater_power_clocks_reset, Reset scopes. -/
def Obligations.ProtectedStateHolds : Prop := ∀ (c : Instr) (s t : State), exec c s = .next t →
  s.sec.rollback ≤ t.sec.rollback ∧ (∀ k, s.sec.sigRevoked.getLsbD k = true → t.sec.sigRevoked.getLsbD k = true) ∧
  (∀ k ∈ s.sec.keys, k.revoked = true → k ∈ t.sec.keys) ∧
  (s.hub.lock = true → t.hub.lock = false → lockEnds c = true) ∧
  (s.hub.lock = false → t.hub.lock = true → ∃ v, c = .rwcComplementWrite .host .hubLock v)

/-- RECOVERY serves its own commands and no other. Rests on 14_firmware_update_and_identity, The boot flash; 14_firmware_update_and_identity,
Update sessions; 11_cxl_host_attachment, Mailbox, events and DOE. -/
def Obligations.RecoveryRefuses : Prop := ∀ (s : State), s.sec.recovery = true →
  (∀ src, src ≠ .hub → s.takesFrom src = true → s.serving = false →
    let no := fun (c : Instr) (op : Nat) => exec c s = .next (s.answerCmd src op .unsupported [])
    no (.updCancel src) 0xC001 ∧ (∀ c l, no (.fenceCore src c l) 0xC010) ∧ (∀ c, no (.unbeach src c) 0xC011) ∧ (∀ c, no (.coreReset src c) 0xC012) ∧
    (∀ d, no (.dieReset src d) 0xC013) ∧ (∀ u d, no (.unitReset src u d) 0xC014) ∧ (∀ b, no (.slack src b) 0xC020) ∧ (∀ b, no (.neap src b) 0xC021) ∧
    (∀ i v, no (.settingSet src i v) 0xC030) ∧ (∀ i, no (.settingGet src i) 0xC031) ∧ no (.factoryReset src) 0xC032 ∧
    (∀ k, no (.keyEnroll src k) 0xC040) ∧ (∀ k, no (.keyRevoke src k) 0xC041) ∧ no (.keyList src) 0xC042) ∧
  (s.takesFrom .host = true →
    let no := fun (c : Instr) => exec c s = .next (s.rc .unsupported [])
    (∀ l, no (.getEventRecords l)) ∧ (∀ l h a, no (.clearEventRecords l h a)) ∧ no .getEventInterruptPolicy ∧ (∀ v, no (.setEventInterruptPolicy v)) ∧
    no .getTimestamp ∧ (∀ v, no (.setTimestamp v)) ∧ no .getSupportedLogs ∧ (∀ l, no (.getLog l)) ∧
    (∃ u, exec .getFwInfo s = .next u ∧ u.out.hostStatus = 0) ∧
    (∀ nonce : List Byte, nonce.length = 32 → exec (.attestReport .host nonce) s = .next { s with out := { s.out with doe := s.report nonce } }) ∧
    (s.serving = false → exec (.updState .host) s = .next (s.answerCmd .host 0xC000 .success (leBytes 4 s.sec.updStatus ++ leBytes 4 s.slotReg ++ b8 s.sec.holder)))) ∧
  (∀ src seq, src ≠ .hub → seq < 2 ^ 64 → s.takesFrom src = true → s.serving = false → exec (.tmkRead src seq) s =
    .next { s with tmk := { s.tmk with bmc := { s.tmk.bmc with seq := seq, busy := true }, readSrc := src, readQuiet := false } })
end

