-- ==== Sys2Proof/Laws/Tab.lean ====
section
/-! SUPPORT. Sparse tables: what a read gives after a write, and that every operation keeps the canonical form. -/

namespace Sys2Proof.Machine

variable {α : Type}

@[simp] theorem Tab.get_nil (d : α) (k : Nat) : Tab.get d [] k = d := rfl

/-- A read of the index just put gives the value put. -/
@[simp] theorem Tab.get_insert_self (d : α) (t : Tab α) (k : Nat) (v : α) : Tab.get d (Tab.insert t k v) k = v := by
  induction t with
  | nil => simp [Tab.insert, Tab.get]
  | cons p t ih =>
    obtain ⟨j, w⟩ := p
    simp only [Tab.insert]
    split
    · simp [Tab.get]
    · split
      · simp [Tab.get]
      · rename_i h
        simp [Tab.get, h, ih]

/-- A read of another index gives what it gave. -/
theorem Tab.get_insert_ne (d : α) (t : Tab α) {k j : Nat} (v : α) (h : j ≠ k) : Tab.get d (Tab.insert t k v) j = Tab.get d t j := by
  induction t with
  | nil => simp [Tab.insert, Tab.get, Ne.symm h]
  | cons p t ih =>
    obtain ⟨i, w⟩ := p
    simp only [Tab.insert]
    split
    · simp [Tab.get, Ne.symm h]
    · split
      · rename_i hi
        subst hi
        simp [Tab.get, Ne.symm h]
      · simp only [Tab.get, ih]

/-- The second of two values put at one index stays. -/
@[simp] theorem Tab.insert_insert (t : Tab α) (k : Nat) (v w : α) : Tab.insert (Tab.insert t k v) k w = Tab.insert t k w := by
  induction t with
  | nil => simp [Tab.insert]
  | cons p t ih =>
    obtain ⟨j, x⟩ := p
    simp only [Tab.insert]
    split
    · simp [Tab.insert]
    · split
      · simp [Tab.insert]
      · rename_i h1 h2
        simp [Tab.insert, h1, h2, ih]

/-- An index removed reads as unlisted. -/
@[simp] theorem Tab.get_erase_self (d : α) (t : Tab α) (k : Nat) : Tab.get d (Tab.erase t k) k = d := by
  induction t with
  | nil => rfl
  | cons p t ih =>
    obtain ⟨j, w⟩ := p
    simp only [Tab.erase]
    split
    · exact ih
    · rename_i h
      simp [Tab.get, h, ih]

/-- Other indices read as before a removal. -/
theorem Tab.get_erase_ne (d : α) (t : Tab α) {k j : Nat} (h : j ≠ k) : Tab.get d (Tab.erase t k) j = Tab.get d t j := by
  induction t with
  | nil => rfl
  | cons p t ih =>
    obtain ⟨i, w⟩ := p
    simp only [Tab.erase]
    split
    · rename_i hi
      subst hi
      simp [Tab.get, Ne.symm h, ih]
    · simp only [Tab.get, ih]

variable [DecidableEq α]

/-- What a read gives after a write that keeps the canonical form. -/
theorem Tab.get_set (d : α) (t : Tab α) (k j : Nat) (v : α) : Tab.get d (Tab.set d t k v) j = if j = k then v else Tab.get d t j := by
  unfold Tab.set
  split
  · rename_i hv
    split
    · rename_i hj
      subst hj hv
      simp
    · rename_i hj
      exact Tab.get_erase_ne d t hj
  · split
    · rename_i hj
      subst hj
      simp
    · rename_i hj
      exact Tab.get_insert_ne d t v hj

@[simp] theorem Tab.get_set_self (d : α) (t : Tab α) (k : Nat) (v : α) : Tab.get d (Tab.set d t k v) k = v := by simp [Tab.get_set]

/-- The canonical form above a bound holds above any lower bound. -/
theorem Tab.wfFrom_weaken (d : α) {lo lo' : Option Nat} (t : Tab α) (h : ∀ l', lo' = some l' → ∃ l, lo = some l ∧ l' ≤ l)
    (ht : Tab.wfFrom d lo t = true) : Tab.wfFrom d lo' t = true := by
  cases t with
  | nil => rfl
  | cons p t =>
    obtain ⟨j, v⟩ := p
    simp only [Tab.wfFrom, Bool.and_eq_true] at ht ⊢
    refine ⟨⟨?_, ht.1.2⟩, ht.2⟩
    cases lo' with
    | none => rfl
    | some l' =>
      obtain ⟨l, rfl, hl⟩ := h l' rfl
      have := of_decide_eq_true ht.1.1
      exact decide_eq_true (by omega)

theorem Tab.wfFrom_erase (d : α) (lo : Option Nat) (t : Tab α) (k : Nat) (ht : Tab.wfFrom d lo t = true) :
    Tab.wfFrom d lo (Tab.erase t k) = true := by
  induction t generalizing lo with
  | nil => rfl
  | cons p t ih =>
    obtain ⟨j, v⟩ := p
    simp only [Tab.wfFrom, Bool.and_eq_true] at ht
    simp only [Tab.erase]
    split
    · refine ih lo (Tab.wfFrom_weaken d t ?_ ht.2)
      intro l hl
      subst hl
      exact ⟨j, rfl, Nat.le_of_lt (of_decide_eq_true ht.1.1)⟩
    · simp only [Tab.wfFrom, Bool.and_eq_true]
      exact ⟨ht.1, ih (some j) ht.2⟩

theorem Tab.above (lo : Option Nat) (k : Nat) :
    (∀ l, lo = some l → l < k) → (match lo with | none => true | some l => decide (l < k)) = true := by
  intro h
  cases lo with
  | none => rfl
  | some l => simp [h l rfl]

theorem Tab.wfFrom_insert (d : α) (lo : Option Nat) (t : Tab α) (k : Nat) (v : α) (hv : v ≠ d) (hk : ∀ l, lo = some l → l < k)
    (ht : Tab.wfFrom d lo t = true) : Tab.wfFrom d lo (Tab.insert t k v) = true := by
  have hd := Tab.above lo k hk
  induction t generalizing lo with
  | nil =>
    simp only [Tab.insert, Tab.wfFrom, Bool.and_eq_true, and_true]
    exact ⟨hd, by simp [hv]⟩
  | cons p t ih =>
    obtain ⟨j, w⟩ := p
    have ht' := ht
    simp only [Tab.wfFrom, Bool.and_eq_true] at ht
    simp only [Tab.insert]
    split
    · rename_i hlt
      simp only [Tab.wfFrom, Bool.and_eq_true]
      exact ⟨⟨hd, by simp [hv]⟩, ⟨by simp [hlt], ht.1.2⟩, ht.2⟩
    · split
      · rename_i hjk
        subst hjk
        simp only [Tab.wfFrom, Bool.and_eq_true]
        exact ⟨⟨ht.1.1, by simp [hv]⟩, ht.2⟩
      · rename_i h1 h2
        have hjk : j < k := by omega
        simp only [Tab.wfFrom, Bool.and_eq_true]
        exact ⟨ht.1, ih (some j) (by intro l hl; cases hl; exact hjk) ht.2 (by simp [hjk])⟩

/-- A write keeps the canonical form. -/
theorem Tab.wf_set (d : α) (t : Tab α) (k : Nat) (v : α) (ht : Tab.wf d t = true) : Tab.wf d (Tab.set d t k v) = true := by
  unfold Tab.wf Tab.set at *
  split
  · exact Tab.wfFrom_erase d none t k ht
  · rename_i hv
    exact Tab.wfFrom_insert d none t k v hv (by simp) ht

/-- A removal keeps the canonical form. -/
theorem Tab.wf_erase (d : α) (t : Tab α) (k : Nat) (ht : Tab.wf d t = true) : Tab.wf d (Tab.erase t k) = true := Tab.wfFrom_erase d none t k ht

theorem Tab.wfFrom_filter (d : α) (lo : Option Nat) (t : Tab α) (p : Nat × α → Bool) (ht : Tab.wfFrom d lo t = true) :
    Tab.wfFrom d lo (t.filter p) = true := by
  induction t generalizing lo with
  | nil => rfl
  | cons q t ih =>
    obtain ⟨j, v⟩ := q
    simp only [Tab.wfFrom, Bool.and_eq_true] at ht
    simp only [List.filter_cons]
    split
    · simp only [Tab.wfFrom, Bool.and_eq_true]
      exact ⟨ht.1, ih (some j) ht.2⟩
    · refine ih lo (Tab.wfFrom_weaken d t ?_ ht.2)
      intro l hl
      subst hl
      exact ⟨j, rfl, Nat.le_of_lt (of_decide_eq_true ht.1.1)⟩

/-- Leaving out entries keeps the canonical form. -/
theorem Tab.wf_filter (d : α) (t : Tab α) (p : Nat × α → Bool) (ht : Tab.wf d t = true) : Tab.wf d (t.filter p) = true :=
  Tab.wfFrom_filter d none t p ht

/-- Equal reads of canonical tables: an index below every listed one reads as unlisted. -/
theorem Tab.get_of_lt (d : α) (lo : Nat) (t : Tab α) (k : Nat) (h : k ≤ lo) (ht : Tab.wfFrom d (some lo) t = true) : Tab.get d t k = d := by
  induction t generalizing lo with
  | nil => rfl
  | cons q t ih =>
    obtain ⟨j, v⟩ := q
    simp only [Tab.wfFrom, Bool.and_eq_true] at ht
    have hj : lo < j := of_decide_eq_true ht.1.1
    have : j ≠ k := by omega
    simp only [Tab.get, this, if_false]
    exact ih j (by omega) ht.2

end Sys2Proof.Machine
end

