-- ==== Sys2Proof/Laws/State.lean ====
section
/-! SUPPORT. State: one lemma for each field that an update leaves alone, and what a unit's record reads as after its own update. -/

namespace Sys2Proof.Machine

variable (s : State)

/-! ### Fields an update leaves alone -/

@[simp] theorem State.setCore_roles (c : Nat) (k : Core) : (s.setCore c k).roles = s.roles := rfl
@[simp] theorem State.setCore_fabric (c : Nat) (k : Core) : (s.setCore c k).fabric = s.fabric := rfl
@[simp] theorem State.setCore_dies (c : Nat) (k : Core) : (s.setCore c k).dies = s.dies := rfl
@[simp] theorem State.setCore_ldr (c : Nat) (k : Core) : (s.setCore c k).ldr = s.ldr := rfl
@[simp] theorem State.setCore_est (c : Nat) (k : Core) : (s.setCore c k).est = s.est := rfl
@[simp] theorem State.setCore_plm (c : Nat) (k : Core) : (s.setCore c k).plm = s.plm := rfl
@[simp] theorem State.setCore_kl (c : Nat) (k : Core) : (s.setCore c k).kl = s.kl := rfl
@[simp] theorem State.setCore_cxl (c : Nat) (k : Core) : (s.setCore c k).cxl = s.cxl := rfl
@[simp] theorem State.setCore_bw (c : Nat) (k : Core) : (s.setCore c k).bw = s.bw := rfl
@[simp] theorem State.setCore_tmk (c : Nat) (k : Core) : (s.setCore c k).tmk = s.tmk := rfl
@[simp] theorem State.setCore_sec (c : Nat) (k : Core) : (s.setCore c k).sec = s.sec := rfl
@[simp] theorem State.setCore_hub (c : Nat) (k : Core) : (s.setCore c k).hub = s.hub := rfl
@[simp] theorem State.setCore_out (c : Nat) (k : Core) : (s.setCore c k).out = s.out := rfl
@[simp] theorem State.setCore_us (c : Nat) (k : Core) : (s.setCore c k).us = s.us := rfl
@[simp] theorem State.setCore_fresh (c : Nat) (k : Core) : (s.setCore c k).fresh = s.fresh := rfl
@[simp] theorem State.setCore_pending (c : Nat) (k : Core) : (s.setCore c k).pending = s.pending := rfl

@[simp] theorem State.modCore_roles (c : Nat) (f : Core → Core) : (s.modCore c f).roles = s.roles := rfl
@[simp] theorem State.modCore_fabric (c : Nat) (f : Core → Core) : (s.modCore c f).fabric = s.fabric := rfl
@[simp] theorem State.modCore_dies (c : Nat) (f : Core → Core) : (s.modCore c f).dies = s.dies := rfl
@[simp] theorem State.modCore_ldr (c : Nat) (f : Core → Core) : (s.modCore c f).ldr = s.ldr := rfl
@[simp] theorem State.modCore_est (c : Nat) (f : Core → Core) : (s.modCore c f).est = s.est := rfl
@[simp] theorem State.modCore_plm (c : Nat) (f : Core → Core) : (s.modCore c f).plm = s.plm := rfl
@[simp] theorem State.modCore_kl (c : Nat) (f : Core → Core) : (s.modCore c f).kl = s.kl := rfl
@[simp] theorem State.modCore_cxl (c : Nat) (f : Core → Core) : (s.modCore c f).cxl = s.cxl := rfl
@[simp] theorem State.modCore_bw (c : Nat) (f : Core → Core) : (s.modCore c f).bw = s.bw := rfl
@[simp] theorem State.modCore_tmk (c : Nat) (f : Core → Core) : (s.modCore c f).tmk = s.tmk := rfl
@[simp] theorem State.modCore_sec (c : Nat) (f : Core → Core) : (s.modCore c f).sec = s.sec := rfl
@[simp] theorem State.modCore_hub (c : Nat) (f : Core → Core) : (s.modCore c f).hub = s.hub := rfl
@[simp] theorem State.modCore_out (c : Nat) (f : Core → Core) : (s.modCore c f).out = s.out := rfl
@[simp] theorem State.modCore_us (c : Nat) (f : Core → Core) : (s.modCore c f).us = s.us := rfl
@[simp] theorem State.modCore_fresh (c : Nat) (f : Core → Core) : (s.modCore c f).fresh = s.fresh := rfl
@[simp] theorem State.modCore_pending (c : Nat) (f : Core → Core) : (s.modCore c f).pending = s.pending := rfl

@[simp] theorem State.modSlot_roles (c t : Nat) (f : TaskSlot → TaskSlot) : (s.modSlot c t f).roles = s.roles := rfl
@[simp] theorem State.modSlot_fabric (c t : Nat) (f : TaskSlot → TaskSlot) : (s.modSlot c t f).fabric = s.fabric := rfl
@[simp] theorem State.modSlot_dies (c t : Nat) (f : TaskSlot → TaskSlot) : (s.modSlot c t f).dies = s.dies := rfl
@[simp] theorem State.modSlot_ldr (c t : Nat) (f : TaskSlot → TaskSlot) : (s.modSlot c t f).ldr = s.ldr := rfl
@[simp] theorem State.modSlot_est (c t : Nat) (f : TaskSlot → TaskSlot) : (s.modSlot c t f).est = s.est := rfl
@[simp] theorem State.modSlot_plm (c t : Nat) (f : TaskSlot → TaskSlot) : (s.modSlot c t f).plm = s.plm := rfl
@[simp] theorem State.modSlot_kl (c t : Nat) (f : TaskSlot → TaskSlot) : (s.modSlot c t f).kl = s.kl := rfl
@[simp] theorem State.modSlot_cxl (c t : Nat) (f : TaskSlot → TaskSlot) : (s.modSlot c t f).cxl = s.cxl := rfl
@[simp] theorem State.modSlot_bw (c t : Nat) (f : TaskSlot → TaskSlot) : (s.modSlot c t f).bw = s.bw := rfl
@[simp] theorem State.modSlot_tmk (c t : Nat) (f : TaskSlot → TaskSlot) : (s.modSlot c t f).tmk = s.tmk := rfl
@[simp] theorem State.modSlot_sec (c t : Nat) (f : TaskSlot → TaskSlot) : (s.modSlot c t f).sec = s.sec := rfl
@[simp] theorem State.modSlot_hub (c t : Nat) (f : TaskSlot → TaskSlot) : (s.modSlot c t f).hub = s.hub := rfl
@[simp] theorem State.modSlot_out (c t : Nat) (f : TaskSlot → TaskSlot) : (s.modSlot c t f).out = s.out := rfl
@[simp] theorem State.modSlot_us (c t : Nat) (f : TaskSlot → TaskSlot) : (s.modSlot c t f).us = s.us := rfl
@[simp] theorem State.modSlot_fresh (c t : Nat) (f : TaskSlot → TaskSlot) : (s.modSlot c t f).fresh = s.fresh := rfl
@[simp] theorem State.modSlot_pending (c t : Nat) (f : TaskSlot → TaskSlot) : (s.modSlot c t f).pending = s.pending := rfl

@[simp] theorem State.modSpd_roles (c : Nat) (f : Spad → Spad) : (s.modSpd c f).roles = s.roles := rfl
@[simp] theorem State.modSpd_fabric (c : Nat) (f : Spad → Spad) : (s.modSpd c f).fabric = s.fabric := rfl
@[simp] theorem State.modSpd_dies (c : Nat) (f : Spad → Spad) : (s.modSpd c f).dies = s.dies := rfl
@[simp] theorem State.modSpd_ldr (c : Nat) (f : Spad → Spad) : (s.modSpd c f).ldr = s.ldr := rfl
@[simp] theorem State.modSpd_est (c : Nat) (f : Spad → Spad) : (s.modSpd c f).est = s.est := rfl
@[simp] theorem State.modSpd_plm (c : Nat) (f : Spad → Spad) : (s.modSpd c f).plm = s.plm := rfl
@[simp] theorem State.modSpd_kl (c : Nat) (f : Spad → Spad) : (s.modSpd c f).kl = s.kl := rfl
@[simp] theorem State.modSpd_cxl (c : Nat) (f : Spad → Spad) : (s.modSpd c f).cxl = s.cxl := rfl
@[simp] theorem State.modSpd_bw (c : Nat) (f : Spad → Spad) : (s.modSpd c f).bw = s.bw := rfl
@[simp] theorem State.modSpd_tmk (c : Nat) (f : Spad → Spad) : (s.modSpd c f).tmk = s.tmk := rfl
@[simp] theorem State.modSpd_sec (c : Nat) (f : Spad → Spad) : (s.modSpd c f).sec = s.sec := rfl
@[simp] theorem State.modSpd_hub (c : Nat) (f : Spad → Spad) : (s.modSpd c f).hub = s.hub := rfl
@[simp] theorem State.modSpd_out (c : Nat) (f : Spad → Spad) : (s.modSpd c f).out = s.out := rfl
@[simp] theorem State.modSpd_us (c : Nat) (f : Spad → Spad) : (s.modSpd c f).us = s.us := rfl
@[simp] theorem State.modSpd_fresh (c : Nat) (f : Spad → Spad) : (s.modSpd c f).fresh = s.fresh := rfl
@[simp] theorem State.modSpd_pending (c : Nat) (f : Spad → Spad) : (s.modSpd c f).pending = s.pending := rfl

@[simp] theorem State.setRole_cores (c : Nat) (r : Role) : (s.setRole c r).cores = s.cores := rfl
@[simp] theorem State.setRole_fabric (c : Nat) (r : Role) : (s.setRole c r).fabric = s.fabric := rfl
@[simp] theorem State.setRole_dies (c : Nat) (r : Role) : (s.setRole c r).dies = s.dies := rfl
@[simp] theorem State.setRole_ldr (c : Nat) (r : Role) : (s.setRole c r).ldr = s.ldr := rfl
@[simp] theorem State.setRole_est (c : Nat) (r : Role) : (s.setRole c r).est = s.est := rfl
@[simp] theorem State.setRole_plm (c : Nat) (r : Role) : (s.setRole c r).plm = s.plm := rfl
@[simp] theorem State.setRole_kl (c : Nat) (r : Role) : (s.setRole c r).kl = s.kl := rfl
@[simp] theorem State.setRole_cxl (c : Nat) (r : Role) : (s.setRole c r).cxl = s.cxl := rfl
@[simp] theorem State.setRole_bw (c : Nat) (r : Role) : (s.setRole c r).bw = s.bw := rfl
@[simp] theorem State.setRole_tmk (c : Nat) (r : Role) : (s.setRole c r).tmk = s.tmk := rfl
@[simp] theorem State.setRole_sec (c : Nat) (r : Role) : (s.setRole c r).sec = s.sec := rfl
@[simp] theorem State.setRole_hub (c : Nat) (r : Role) : (s.setRole c r).hub = s.hub := rfl
@[simp] theorem State.setRole_out (c : Nat) (r : Role) : (s.setRole c r).out = s.out := rfl
@[simp] theorem State.setRole_us (c : Nat) (r : Role) : (s.setRole c r).us = s.us := rfl
@[simp] theorem State.setRole_fresh (c : Nat) (r : Role) : (s.setRole c r).fresh = s.fresh := rfl
@[simp] theorem State.setRole_pending (c : Nat) (r : Role) : (s.setRole c r).pending = s.pending := rfl

@[simp] theorem State.setDie_cores (d : Nat) (x : Die) : (s.setDie d x).cores = s.cores := rfl
@[simp] theorem State.setDie_roles (d : Nat) (x : Die) : (s.setDie d x).roles = s.roles := rfl
@[simp] theorem State.setDie_fabric (d : Nat) (x : Die) : (s.setDie d x).fabric = s.fabric := rfl
@[simp] theorem State.setDie_ldr (d : Nat) (x : Die) : (s.setDie d x).ldr = s.ldr := rfl
@[simp] theorem State.setDie_est (d : Nat) (x : Die) : (s.setDie d x).est = s.est := rfl
@[simp] theorem State.setDie_plm (d : Nat) (x : Die) : (s.setDie d x).plm = s.plm := rfl
@[simp] theorem State.setDie_kl (d : Nat) (x : Die) : (s.setDie d x).kl = s.kl := rfl
@[simp] theorem State.setDie_cxl (d : Nat) (x : Die) : (s.setDie d x).cxl = s.cxl := rfl
@[simp] theorem State.setDie_bw (d : Nat) (x : Die) : (s.setDie d x).bw = s.bw := rfl
@[simp] theorem State.setDie_tmk (d : Nat) (x : Die) : (s.setDie d x).tmk = s.tmk := rfl
@[simp] theorem State.setDie_sec (d : Nat) (x : Die) : (s.setDie d x).sec = s.sec := rfl
@[simp] theorem State.setDie_hub (d : Nat) (x : Die) : (s.setDie d x).hub = s.hub := rfl
@[simp] theorem State.setDie_out (d : Nat) (x : Die) : (s.setDie d x).out = s.out := rfl
@[simp] theorem State.setDie_us (d : Nat) (x : Die) : (s.setDie d x).us = s.us := rfl
@[simp] theorem State.setDie_fresh (d : Nat) (x : Die) : (s.setDie d x).fresh = s.fresh := rfl
@[simp] theorem State.setDie_pending (d : Nat) (x : Die) : (s.setDie d x).pending = s.pending := rfl

@[simp] theorem State.modDie_cores (d : Nat) (f : Die → Die) : (s.modDie d f).cores = s.cores := rfl
@[simp] theorem State.modDie_roles (d : Nat) (f : Die → Die) : (s.modDie d f).roles = s.roles := rfl
@[simp] theorem State.modDie_fabric (d : Nat) (f : Die → Die) : (s.modDie d f).fabric = s.fabric := rfl
@[simp] theorem State.modDie_ldr (d : Nat) (f : Die → Die) : (s.modDie d f).ldr = s.ldr := rfl
@[simp] theorem State.modDie_est (d : Nat) (f : Die → Die) : (s.modDie d f).est = s.est := rfl
@[simp] theorem State.modDie_plm (d : Nat) (f : Die → Die) : (s.modDie d f).plm = s.plm := rfl
@[simp] theorem State.modDie_kl (d : Nat) (f : Die → Die) : (s.modDie d f).kl = s.kl := rfl
@[simp] theorem State.modDie_cxl (d : Nat) (f : Die → Die) : (s.modDie d f).cxl = s.cxl := rfl
@[simp] theorem State.modDie_bw (d : Nat) (f : Die → Die) : (s.modDie d f).bw = s.bw := rfl
@[simp] theorem State.modDie_tmk (d : Nat) (f : Die → Die) : (s.modDie d f).tmk = s.tmk := rfl
@[simp] theorem State.modDie_sec (d : Nat) (f : Die → Die) : (s.modDie d f).sec = s.sec := rfl
@[simp] theorem State.modDie_hub (d : Nat) (f : Die → Die) : (s.modDie d f).hub = s.hub := rfl
@[simp] theorem State.modDie_out (d : Nat) (f : Die → Die) : (s.modDie d f).out = s.out := rfl
@[simp] theorem State.modDie_us (d : Nat) (f : Die → Die) : (s.modDie d f).us = s.us := rfl
@[simp] theorem State.modDie_fresh (d : Nat) (f : Die → Die) : (s.modDie d f).fresh = s.fresh := rfl
@[simp] theorem State.modDie_pending (d : Nat) (f : Die → Die) : (s.modDie d f).pending = s.pending := rfl

@[simp] theorem State.modCtr_cores (d n : Nat) (f : Counter → Counter) : (s.modCtr d n f).cores = s.cores := rfl
@[simp] theorem State.modCtr_roles (d n : Nat) (f : Counter → Counter) : (s.modCtr d n f).roles = s.roles := rfl
@[simp] theorem State.modCtr_fabric (d n : Nat) (f : Counter → Counter) : (s.modCtr d n f).fabric = s.fabric := rfl
@[simp] theorem State.modCtr_ldr (d n : Nat) (f : Counter → Counter) : (s.modCtr d n f).ldr = s.ldr := rfl
@[simp] theorem State.modCtr_est (d n : Nat) (f : Counter → Counter) : (s.modCtr d n f).est = s.est := rfl
@[simp] theorem State.modCtr_plm (d n : Nat) (f : Counter → Counter) : (s.modCtr d n f).plm = s.plm := rfl
@[simp] theorem State.modCtr_kl (d n : Nat) (f : Counter → Counter) : (s.modCtr d n f).kl = s.kl := rfl
@[simp] theorem State.modCtr_cxl (d n : Nat) (f : Counter → Counter) : (s.modCtr d n f).cxl = s.cxl := rfl
@[simp] theorem State.modCtr_bw (d n : Nat) (f : Counter → Counter) : (s.modCtr d n f).bw = s.bw := rfl
@[simp] theorem State.modCtr_tmk (d n : Nat) (f : Counter → Counter) : (s.modCtr d n f).tmk = s.tmk := rfl
@[simp] theorem State.modCtr_sec (d n : Nat) (f : Counter → Counter) : (s.modCtr d n f).sec = s.sec := rfl
@[simp] theorem State.modCtr_hub (d n : Nat) (f : Counter → Counter) : (s.modCtr d n f).hub = s.hub := rfl
@[simp] theorem State.modCtr_out (d n : Nat) (f : Counter → Counter) : (s.modCtr d n f).out = s.out := rfl
@[simp] theorem State.modCtr_us (d n : Nat) (f : Counter → Counter) : (s.modCtr d n f).us = s.us := rfl
@[simp] theorem State.modCtr_fresh (d n : Nat) (f : Counter → Counter) : (s.modCtr d n f).fresh = s.fresh := rfl
@[simp] theorem State.modCtr_pending (d n : Nat) (f : Counter → Counter) : (s.modCtr d n f).pending = s.pending := rfl

@[simp] theorem State.modChan_cores (d ch : Nat) (f : Chan → Chan) : (s.modChan d ch f).cores = s.cores := rfl
@[simp] theorem State.modChan_roles (d ch : Nat) (f : Chan → Chan) : (s.modChan d ch f).roles = s.roles := rfl
@[simp] theorem State.modChan_fabric (d ch : Nat) (f : Chan → Chan) : (s.modChan d ch f).fabric = s.fabric := rfl
@[simp] theorem State.modChan_dies (d ch : Nat) (f : Chan → Chan) : (s.modChan d ch f).dies = s.dies := rfl
@[simp] theorem State.modChan_ldr (d ch : Nat) (f : Chan → Chan) : (s.modChan d ch f).ldr = s.ldr := rfl
@[simp] theorem State.modChan_est (d ch : Nat) (f : Chan → Chan) : (s.modChan d ch f).est = s.est := rfl
@[simp] theorem State.modChan_kl (d ch : Nat) (f : Chan → Chan) : (s.modChan d ch f).kl = s.kl := rfl
@[simp] theorem State.modChan_cxl (d ch : Nat) (f : Chan → Chan) : (s.modChan d ch f).cxl = s.cxl := rfl
@[simp] theorem State.modChan_bw (d ch : Nat) (f : Chan → Chan) : (s.modChan d ch f).bw = s.bw := rfl
@[simp] theorem State.modChan_tmk (d ch : Nat) (f : Chan → Chan) : (s.modChan d ch f).tmk = s.tmk := rfl
@[simp] theorem State.modChan_sec (d ch : Nat) (f : Chan → Chan) : (s.modChan d ch f).sec = s.sec := rfl
@[simp] theorem State.modChan_hub (d ch : Nat) (f : Chan → Chan) : (s.modChan d ch f).hub = s.hub := rfl
@[simp] theorem State.modChan_out (d ch : Nat) (f : Chan → Chan) : (s.modChan d ch f).out = s.out := rfl
@[simp] theorem State.modChan_us (d ch : Nat) (f : Chan → Chan) : (s.modChan d ch f).us = s.us := rfl
@[simp] theorem State.modChan_fresh (d ch : Nat) (f : Chan → Chan) : (s.modChan d ch f).fresh = s.fresh := rfl
@[simp] theorem State.modChan_pending (d ch : Nat) (f : Chan → Chan) : (s.modChan d ch f).pending = s.pending := rfl

@[simp] theorem State.setChan_cores (i : Nat) (x : Chan) : (s.setChan i x).cores = s.cores := rfl
@[simp] theorem State.setChan_roles (i : Nat) (x : Chan) : (s.setChan i x).roles = s.roles := rfl
@[simp] theorem State.setChan_fabric (i : Nat) (x : Chan) : (s.setChan i x).fabric = s.fabric := rfl
@[simp] theorem State.setChan_dies (i : Nat) (x : Chan) : (s.setChan i x).dies = s.dies := rfl
@[simp] theorem State.setChan_ldr (i : Nat) (x : Chan) : (s.setChan i x).ldr = s.ldr := rfl
@[simp] theorem State.setChan_est (i : Nat) (x : Chan) : (s.setChan i x).est = s.est := rfl
@[simp] theorem State.setChan_kl (i : Nat) (x : Chan) : (s.setChan i x).kl = s.kl := rfl
@[simp] theorem State.setChan_cxl (i : Nat) (x : Chan) : (s.setChan i x).cxl = s.cxl := rfl
@[simp] theorem State.setChan_bw (i : Nat) (x : Chan) : (s.setChan i x).bw = s.bw := rfl
@[simp] theorem State.setChan_tmk (i : Nat) (x : Chan) : (s.setChan i x).tmk = s.tmk := rfl
@[simp] theorem State.setChan_sec (i : Nat) (x : Chan) : (s.setChan i x).sec = s.sec := rfl
@[simp] theorem State.setChan_hub (i : Nat) (x : Chan) : (s.setChan i x).hub = s.hub := rfl
@[simp] theorem State.setChan_out (i : Nat) (x : Chan) : (s.setChan i x).out = s.out := rfl
@[simp] theorem State.setChan_us (i : Nat) (x : Chan) : (s.setChan i x).us = s.us := rfl
@[simp] theorem State.setChan_fresh (i : Nat) (x : Chan) : (s.setChan i x).fresh = s.fresh := rfl
@[simp] theorem State.setChan_pending (i : Nat) (x : Chan) : (s.setChan i x).pending = s.pending := rfl

@[simp] theorem State.setPage_cores (p : Nat) (e : PageEnt) : (s.setPage p e).cores = s.cores := rfl
@[simp] theorem State.setPage_roles (p : Nat) (e : PageEnt) : (s.setPage p e).roles = s.roles := rfl
@[simp] theorem State.setPage_fabric (p : Nat) (e : PageEnt) : (s.setPage p e).fabric = s.fabric := rfl
@[simp] theorem State.setPage_dies (p : Nat) (e : PageEnt) : (s.setPage p e).dies = s.dies := rfl
@[simp] theorem State.setPage_ldr (p : Nat) (e : PageEnt) : (s.setPage p e).ldr = s.ldr := rfl
@[simp] theorem State.setPage_est (p : Nat) (e : PageEnt) : (s.setPage p e).est = s.est := rfl
@[simp] theorem State.setPage_kl (p : Nat) (e : PageEnt) : (s.setPage p e).kl = s.kl := rfl
@[simp] theorem State.setPage_cxl (p : Nat) (e : PageEnt) : (s.setPage p e).cxl = s.cxl := rfl
@[simp] theorem State.setPage_bw (p : Nat) (e : PageEnt) : (s.setPage p e).bw = s.bw := rfl
@[simp] theorem State.setPage_tmk (p : Nat) (e : PageEnt) : (s.setPage p e).tmk = s.tmk := rfl
@[simp] theorem State.setPage_sec (p : Nat) (e : PageEnt) : (s.setPage p e).sec = s.sec := rfl
@[simp] theorem State.setPage_hub (p : Nat) (e : PageEnt) : (s.setPage p e).hub = s.hub := rfl
@[simp] theorem State.setPage_out (p : Nat) (e : PageEnt) : (s.setPage p e).out = s.out := rfl
@[simp] theorem State.setPage_us (p : Nat) (e : PageEnt) : (s.setPage p e).us = s.us := rfl
@[simp] theorem State.setPage_fresh (p : Nat) (e : PageEnt) : (s.setPage p e).fresh = s.fresh := rfl
@[simp] theorem State.setPage_pending (p : Nat) (e : PageEnt) : (s.setPage p e).pending = s.pending := rfl

@[simp] theorem State.modPort_cores (p : Nat) (f : Port → Port) : (s.modPort p f).cores = s.cores := rfl
@[simp] theorem State.modPort_roles (p : Nat) (f : Port → Port) : (s.modPort p f).roles = s.roles := rfl
@[simp] theorem State.modPort_fabric (p : Nat) (f : Port → Port) : (s.modPort p f).fabric = s.fabric := rfl
@[simp] theorem State.modPort_dies (p : Nat) (f : Port → Port) : (s.modPort p f).dies = s.dies := rfl
@[simp] theorem State.modPort_ldr (p : Nat) (f : Port → Port) : (s.modPort p f).ldr = s.ldr := rfl
@[simp] theorem State.modPort_est (p : Nat) (f : Port → Port) : (s.modPort p f).est = s.est := rfl
@[simp] theorem State.modPort_plm (p : Nat) (f : Port → Port) : (s.modPort p f).plm = s.plm := rfl
@[simp] theorem State.modPort_cxl (p : Nat) (f : Port → Port) : (s.modPort p f).cxl = s.cxl := rfl
@[simp] theorem State.modPort_bw (p : Nat) (f : Port → Port) : (s.modPort p f).bw = s.bw := rfl
@[simp] theorem State.modPort_tmk (p : Nat) (f : Port → Port) : (s.modPort p f).tmk = s.tmk := rfl
@[simp] theorem State.modPort_sec (p : Nat) (f : Port → Port) : (s.modPort p f).sec = s.sec := rfl
@[simp] theorem State.modPort_hub (p : Nat) (f : Port → Port) : (s.modPort p f).hub = s.hub := rfl
@[simp] theorem State.modPort_out (p : Nat) (f : Port → Port) : (s.modPort p f).out = s.out := rfl
@[simp] theorem State.modPort_us (p : Nat) (f : Port → Port) : (s.modPort p f).us = s.us := rfl
@[simp] theorem State.modPort_fresh (p : Nat) (f : Port → Port) : (s.modPort p f).fresh = s.fresh := rfl
@[simp] theorem State.modPort_pending (p : Nat) (f : Port → Port) : (s.modPort p f).pending = s.pending := rfl

@[simp] theorem State.modHandle_cores (h : Nat) (f : Handle → Handle) : (s.modHandle h f).cores = s.cores := rfl
@[simp] theorem State.modHandle_roles (h : Nat) (f : Handle → Handle) : (s.modHandle h f).roles = s.roles := rfl
@[simp] theorem State.modHandle_fabric (h : Nat) (f : Handle → Handle) : (s.modHandle h f).fabric = s.fabric := rfl
@[simp] theorem State.modHandle_dies (h : Nat) (f : Handle → Handle) : (s.modHandle h f).dies = s.dies := rfl
@[simp] theorem State.modHandle_est (h : Nat) (f : Handle → Handle) : (s.modHandle h f).est = s.est := rfl
@[simp] theorem State.modHandle_plm (h : Nat) (f : Handle → Handle) : (s.modHandle h f).plm = s.plm := rfl
@[simp] theorem State.modHandle_kl (h : Nat) (f : Handle → Handle) : (s.modHandle h f).kl = s.kl := rfl
@[simp] theorem State.modHandle_cxl (h : Nat) (f : Handle → Handle) : (s.modHandle h f).cxl = s.cxl := rfl
@[simp] theorem State.modHandle_bw (h : Nat) (f : Handle → Handle) : (s.modHandle h f).bw = s.bw := rfl
@[simp] theorem State.modHandle_tmk (h : Nat) (f : Handle → Handle) : (s.modHandle h f).tmk = s.tmk := rfl
@[simp] theorem State.modHandle_sec (h : Nat) (f : Handle → Handle) : (s.modHandle h f).sec = s.sec := rfl
@[simp] theorem State.modHandle_hub (h : Nat) (f : Handle → Handle) : (s.modHandle h f).hub = s.hub := rfl
@[simp] theorem State.modHandle_out (h : Nat) (f : Handle → Handle) : (s.modHandle h f).out = s.out := rfl
@[simp] theorem State.modHandle_us (h : Nat) (f : Handle → Handle) : (s.modHandle h f).us = s.us := rfl
@[simp] theorem State.modHandle_fresh (h : Nat) (f : Handle → Handle) : (s.modHandle h f).fresh = s.fresh := rfl
@[simp] theorem State.modHandle_pending (h : Nat) (f : Handle → Handle) : (s.modHandle h f).pending = s.pending := rfl

@[simp] theorem State.record_cores (ty src : Nat) (pl : List Byte) (core unit : Nat) : (State.record ty src pl s core unit).cores = s.cores := rfl
@[simp] theorem State.record_roles (ty src : Nat) (pl : List Byte) (core unit : Nat) : (State.record ty src pl s core unit).roles = s.roles := rfl
@[simp] theorem State.record_fabric (ty src : Nat) (pl : List Byte) (core unit : Nat) : (State.record ty src pl s core unit).fabric = s.fabric := rfl
@[simp] theorem State.record_dies (ty src : Nat) (pl : List Byte) (core unit : Nat) : (State.record ty src pl s core unit).dies = s.dies := rfl
@[simp] theorem State.record_ldr (ty src : Nat) (pl : List Byte) (core unit : Nat) : (State.record ty src pl s core unit).ldr = s.ldr := rfl
@[simp] theorem State.record_est (ty src : Nat) (pl : List Byte) (core unit : Nat) : (State.record ty src pl s core unit).est = s.est := rfl
@[simp] theorem State.record_plm (ty src : Nat) (pl : List Byte) (core unit : Nat) : (State.record ty src pl s core unit).plm = s.plm := rfl
@[simp] theorem State.record_kl (ty src : Nat) (pl : List Byte) (core unit : Nat) : (State.record ty src pl s core unit).kl = s.kl := rfl
@[simp] theorem State.record_cxl (ty src : Nat) (pl : List Byte) (core unit : Nat) : (State.record ty src pl s core unit).cxl = s.cxl := rfl
@[simp] theorem State.record_bw (ty src : Nat) (pl : List Byte) (core unit : Nat) : (State.record ty src pl s core unit).bw = s.bw := rfl
@[simp] theorem State.record_sec (ty src : Nat) (pl : List Byte) (core unit : Nat) : (State.record ty src pl s core unit).sec = s.sec := rfl
@[simp] theorem State.record_hub (ty src : Nat) (pl : List Byte) (core unit : Nat) : (State.record ty src pl s core unit).hub = s.hub := rfl
@[simp] theorem State.record_out (ty src : Nat) (pl : List Byte) (core unit : Nat) : (State.record ty src pl s core unit).out = s.out := rfl
@[simp] theorem State.record_us (ty src : Nat) (pl : List Byte) (core unit : Nat) : (State.record ty src pl s core unit).us = s.us := rfl
@[simp] theorem State.record_fresh (ty src : Nat) (pl : List Byte) (core unit : Nat) : (State.record ty src pl s core unit).fresh = s.fresh := rfl
@[simp] theorem State.record_pending (ty src : Nat) (pl : List Byte) (core unit : Nat) : (State.record ty src pl s core unit).pending = s.pending := rfl

@[simp] theorem State.alert_cores (k : Nat) : (s.alert k).cores = s.cores := rfl
@[simp] theorem State.alert_roles (k : Nat) : (s.alert k).roles = s.roles := rfl
@[simp] theorem State.alert_fabric (k : Nat) : (s.alert k).fabric = s.fabric := rfl
@[simp] theorem State.alert_dies (k : Nat) : (s.alert k).dies = s.dies := rfl
@[simp] theorem State.alert_ldr (k : Nat) : (s.alert k).ldr = s.ldr := rfl
@[simp] theorem State.alert_est (k : Nat) : (s.alert k).est = s.est := rfl
@[simp] theorem State.alert_plm (k : Nat) : (s.alert k).plm = s.plm := rfl
@[simp] theorem State.alert_kl (k : Nat) : (s.alert k).kl = s.kl := rfl
@[simp] theorem State.alert_cxl (k : Nat) : (s.alert k).cxl = s.cxl := rfl
@[simp] theorem State.alert_bw (k : Nat) : (s.alert k).bw = s.bw := rfl
@[simp] theorem State.alert_tmk (k : Nat) : (s.alert k).tmk = s.tmk := rfl
@[simp] theorem State.alert_sec (k : Nat) : (s.alert k).sec = s.sec := rfl
@[simp] theorem State.alert_out (k : Nat) : (s.alert k).out = s.out := rfl
@[simp] theorem State.alert_us (k : Nat) : (s.alert k).us = s.us := rfl
@[simp] theorem State.alert_fresh (k : Nat) : (s.alert k).fresh = s.fresh := rfl
@[simp] theorem State.alert_pending (k : Nat) : (s.alert k).pending = s.pending := rfl

@[simp] theorem State.draw_cores : (s.draw).2.cores = s.cores := rfl
@[simp] theorem State.draw_roles : (s.draw).2.roles = s.roles := rfl
@[simp] theorem State.draw_fabric : (s.draw).2.fabric = s.fabric := rfl
@[simp] theorem State.draw_dies : (s.draw).2.dies = s.dies := rfl
@[simp] theorem State.draw_ldr : (s.draw).2.ldr = s.ldr := rfl
@[simp] theorem State.draw_est : (s.draw).2.est = s.est := rfl
@[simp] theorem State.draw_plm : (s.draw).2.plm = s.plm := rfl
@[simp] theorem State.draw_kl : (s.draw).2.kl = s.kl := rfl
@[simp] theorem State.draw_cxl : (s.draw).2.cxl = s.cxl := rfl
@[simp] theorem State.draw_bw : (s.draw).2.bw = s.bw := rfl
@[simp] theorem State.draw_tmk : (s.draw).2.tmk = s.tmk := rfl
@[simp] theorem State.draw_sec : (s.draw).2.sec = s.sec := rfl
@[simp] theorem State.draw_hub : (s.draw).2.hub = s.hub := rfl
@[simp] theorem State.draw_out : (s.draw).2.out = s.out := rfl
@[simp] theorem State.draw_us : (s.draw).2.us = s.us := rfl
@[simp] theorem State.draw_pending : (s.draw).2.pending = s.pending := rfl

@[simp] theorem State.modChan_plm_mem (d ch : Nat) (f : Chan → Chan) : (s.modChan d ch f).plm.mem = s.plm.mem := rfl
@[simp] theorem State.modChan_plm_poison (d ch : Nat) (f : Chan → Chan) : (s.modChan d ch f).plm.poison = s.plm.poison := rfl
@[simp] theorem State.modChan_plm_replicas (d ch : Nat) (f : Chan → Chan) : (s.modChan d ch f).plm.replicas = s.plm.replicas := rfl
@[simp] theorem State.modChan_plm_copying (d ch : Nat) (f : Chan → Chan) : (s.modChan d ch f).plm.copying = s.plm.copying := rfl
@[simp] theorem State.modChan_plm_retiring (d ch : Nat) (f : Chan → Chan) : (s.modChan d ch f).plm.retiring = s.plm.retiring := rfl
@[simp] theorem State.modChan_plm_moves (d ch : Nat) (f : Chan → Chan) : (s.modChan d ch f).plm.moves = s.plm.moves := rfl
@[simp] theorem State.modChan_plm_cache (d ch : Nat) (f : Chan → Chan) : (s.modChan d ch f).plm.cache = s.plm.cache := rfl
@[simp] theorem State.modChan_plm_hostWrites (d ch : Nat) (f : Chan → Chan) : (s.modChan d ch f).plm.hostWrites = s.plm.hostWrites := rfl
@[simp] theorem State.modChan_plm_window (d ch : Nat) (f : Chan → Chan) : (s.modChan d ch f).plm.window = s.plm.window := rfl
@[simp] theorem State.modChan_plm_migEn (d ch : Nat) (f : Chan → Chan) : (s.modChan d ch f).plm.migEn = s.plm.migEn := rfl
@[simp] theorem State.modChan_plm_repEn (d ch : Nat) (f : Chan → Chan) : (s.modChan d ch f).plm.repEn = s.plm.repEn := rfl
@[simp] theorem State.modChan_plm_ready (d ch : Nat) (f : Chan → Chan) : (s.modChan d ch f).plm.ready = s.plm.ready := rfl
@[simp] theorem State.modChan_plm_full (d ch : Nat) (f : Chan → Chan) : (s.modChan d ch f).plm.full = s.plm.full := rfl
@[simp] theorem State.modChan_plm_hdmGib (d ch : Nat) (f : Chan → Chan) : (s.modChan d ch f).plm.hdmGib = s.plm.hdmGib := rfl
@[simp] theorem State.modChan_plm_regions (d ch : Nat) (f : Chan → Chan) : (s.modChan d ch f).plm.regions = s.plm.regions := rfl
@[simp] theorem State.setChan_plm_mem (i : Nat) (x : Chan) : (s.setChan i x).plm.mem = s.plm.mem := rfl
@[simp] theorem State.setChan_plm_poison (i : Nat) (x : Chan) : (s.setChan i x).plm.poison = s.plm.poison := rfl
@[simp] theorem State.setChan_plm_replicas (i : Nat) (x : Chan) : (s.setChan i x).plm.replicas = s.plm.replicas := rfl
@[simp] theorem State.setChan_plm_copying (i : Nat) (x : Chan) : (s.setChan i x).plm.copying = s.plm.copying := rfl
@[simp] theorem State.setChan_plm_retiring (i : Nat) (x : Chan) : (s.setChan i x).plm.retiring = s.plm.retiring := rfl
@[simp] theorem State.setChan_plm_moves (i : Nat) (x : Chan) : (s.setChan i x).plm.moves = s.plm.moves := rfl
@[simp] theorem State.setChan_plm_cache (i : Nat) (x : Chan) : (s.setChan i x).plm.cache = s.plm.cache := rfl
@[simp] theorem State.setChan_plm_hostWrites (i : Nat) (x : Chan) : (s.setChan i x).plm.hostWrites = s.plm.hostWrites := rfl
@[simp] theorem State.setChan_plm_window (i : Nat) (x : Chan) : (s.setChan i x).plm.window = s.plm.window := rfl
@[simp] theorem State.setChan_plm_migEn (i : Nat) (x : Chan) : (s.setChan i x).plm.migEn = s.plm.migEn := rfl
@[simp] theorem State.setChan_plm_repEn (i : Nat) (x : Chan) : (s.setChan i x).plm.repEn = s.plm.repEn := rfl
@[simp] theorem State.setChan_plm_ready (i : Nat) (x : Chan) : (s.setChan i x).plm.ready = s.plm.ready := rfl
@[simp] theorem State.setChan_plm_full (i : Nat) (x : Chan) : (s.setChan i x).plm.full = s.plm.full := rfl
@[simp] theorem State.setChan_plm_hdmGib (i : Nat) (x : Chan) : (s.setChan i x).plm.hdmGib = s.plm.hdmGib := rfl
@[simp] theorem State.setChan_plm_regions (i : Nat) (x : Chan) : (s.setChan i x).plm.regions = s.plm.regions := rfl
@[simp] theorem State.setPage_plm_mem (p : Nat) (e : PageEnt) : (s.setPage p e).plm.mem = s.plm.mem := rfl
@[simp] theorem State.setPage_plm_poison (p : Nat) (e : PageEnt) : (s.setPage p e).plm.poison = s.plm.poison := rfl
@[simp] theorem State.setPage_plm_replicas (p : Nat) (e : PageEnt) : (s.setPage p e).plm.replicas = s.plm.replicas := rfl
@[simp] theorem State.setPage_plm_copying (p : Nat) (e : PageEnt) : (s.setPage p e).plm.copying = s.plm.copying := rfl
@[simp] theorem State.setPage_plm_retiring (p : Nat) (e : PageEnt) : (s.setPage p e).plm.retiring = s.plm.retiring := rfl
@[simp] theorem State.setPage_plm_moves (p : Nat) (e : PageEnt) : (s.setPage p e).plm.moves = s.plm.moves := rfl
@[simp] theorem State.setPage_plm_cache (p : Nat) (e : PageEnt) : (s.setPage p e).plm.cache = s.plm.cache := rfl
@[simp] theorem State.setPage_plm_hostWrites (p : Nat) (e : PageEnt) : (s.setPage p e).plm.hostWrites = s.plm.hostWrites := rfl
@[simp] theorem State.setPage_plm_window (p : Nat) (e : PageEnt) : (s.setPage p e).plm.window = s.plm.window := rfl
@[simp] theorem State.setPage_plm_migEn (p : Nat) (e : PageEnt) : (s.setPage p e).plm.migEn = s.plm.migEn := rfl
@[simp] theorem State.setPage_plm_repEn (p : Nat) (e : PageEnt) : (s.setPage p e).plm.repEn = s.plm.repEn := rfl
@[simp] theorem State.setPage_plm_ready (p : Nat) (e : PageEnt) : (s.setPage p e).plm.ready = s.plm.ready := rfl
@[simp] theorem State.setPage_plm_full (p : Nat) (e : PageEnt) : (s.setPage p e).plm.full = s.plm.full := rfl
@[simp] theorem State.setPage_plm_hdmGib (p : Nat) (e : PageEnt) : (s.setPage p e).plm.hdmGib = s.plm.hdmGib := rfl
@[simp] theorem State.setPage_plm_regions (p : Nat) (e : PageEnt) : (s.setPage p e).plm.regions = s.plm.regions := rfl

/-! ### A unit's record after an update -/

@[simp] theorem State.core_setCore (c : Nat) (k : Core) : (s.setCore c k).core c = k := by simp [State.core, State.setCore]
theorem State.core_setCore_ne {c e : Nat} (k : Core) (h : e ≠ c) : (s.setCore c k).core e = s.core e := by
  simp [State.core, State.setCore, Tab.get_insert_ne _ _ _ h]
@[simp] theorem State.core_modCore (c : Nat) (f : Core → Core) : (s.modCore c f).core c = f (s.core c) := by simp [State.modCore]
theorem State.core_modCore_ne {c e : Nat} (f : Core → Core) (h : e ≠ c) : (s.modCore c f).core e = s.core e := by
  simp [State.modCore, State.core_setCore_ne s _ h]
@[simp] theorem State.setCore_setCore (c : Nat) (k l : Core) : (s.setCore c k).setCore c l = s.setCore c l := by simp [State.setCore]
@[simp] theorem State.modCore_modCore (c : Nat) (f g : Core → Core) : (s.modCore c f).modCore c g = s.modCore c (g ∘ f) := by
  simp [State.modCore]
@[simp] theorem State.die_setDie (d : Nat) (x : Die) : (s.setDie d x).die d = x := by simp [State.die, State.setDie]
theorem State.die_setDie_ne {d e : Nat} (x : Die) (h : e ≠ d) : (s.setDie d x).die e = s.die e := by
  simp [State.die, State.setDie, Tab.get_insert_ne _ _ _ h]
@[simp] theorem State.die_modDie (d : Nat) (f : Die → Die) : (s.modDie d f).die d = f (s.die d) := by simp [State.modDie]
theorem State.die_modDie_ne {d e : Nat} (f : Die → Die) (h : e ≠ d) : (s.modDie d f).die e = s.die e := by
  simp [State.modDie, State.die_setDie_ne s _ h]
@[simp] theorem State.setDie_setDie (d : Nat) (x y : Die) : (s.setDie d x).setDie d y = s.setDie d y := by simp [State.setDie]
@[simp] theorem State.modDie_modDie (d : Nat) (f g : Die → Die) : (s.modDie d f).modDie d g = s.modDie d (g ∘ f) := by simp [State.modDie]
@[simp] theorem State.core_setDie (d c : Nat) (x : Die) : (s.setDie d x).core c = s.core c := rfl
@[simp] theorem State.core_modDie (d c : Nat) (f : Die → Die) : (s.modDie d f).core c = s.core c := rfl
@[simp] theorem State.die_setCore (c d : Nat) (k : Core) : (s.setCore c k).die d = s.die d := rfl
@[simp] theorem State.die_modCore (c d : Nat) (f : Core → Core) : (s.modCore c f).die d = s.die d := rfl
@[simp] theorem State.core_record (c ty src : Nat) (pl : List Byte) (core unit : Nat) :
    (State.record ty src pl s core unit).core c = s.core c := rfl
@[simp] theorem State.die_record (d ty src : Nat) (pl : List Byte) (core unit : Nat) :
    (State.record ty src pl s core unit).die d = s.die d := rfl
@[simp] theorem State.role_setRole (c : Nat) (r : Role) : (s.setRole c r).role c = r := by simp [State.role, State.setRole]
theorem State.role_setRole_ne {c e : Nat} (r : Role) (h : e ≠ c) : (s.setRole c r).role e = s.role e := by
  simp [State.role, State.setRole, Tab.get_insert_ne _ _ _ h]
@[simp] theorem State.role_setCore (c e : Nat) (k : Core) : (s.setCore c k).role e = s.role e := rfl
@[simp] theorem State.role_modCore (c e : Nat) (f : Core → Core) : (s.modCore c f).role e = s.role e := rfl
@[simp] theorem State.role_modDie (d e : Nat) (f : Die → Die) : (s.modDie d f).role e = s.role e := rfl
@[simp] theorem Core.slot_setSlot (k : Core) (t : Nat) (ts : TaskSlot) : (k.setSlot t ts).slot t = ts := by simp [Core.slot, Core.setSlot]
theorem Core.slot_setSlot_ne (k : Core) {t u : Nat} (ts : TaskSlot) (h : u ≠ t) : (k.setSlot t ts).slot u = k.slot u := by
  simp [Core.slot, Core.setSlot, Tab.get_insert_ne _ _ _ h]
@[simp] theorem Core.setSlot_setSlot (k : Core) (t : Nat) (a b : TaskSlot) : (k.setSlot t a).setSlot t b = k.setSlot t b := by
  simp [Core.setSlot]
@[simp] theorem State.port_modPort (p : Nat) (f : Port → Port) : (s.modPort p f).port p = f (s.port p) := by simp [State.port, State.modPort]
theorem State.port_modPort_ne {p q : Nat} (f : Port → Port) (h : q ≠ p) : (s.modPort p f).port q = s.port q := by
  simp [State.port, State.modPort, Tab.get_insert_ne _ _ _ h]
@[simp] theorem State.handle_modHandle (h : Nat) (f : Handle → Handle) : (s.modHandle h f).handle h = f (s.handle h) := by
  simp [State.handle, State.modHandle]
@[simp] theorem State.chanAt_setChan (i : Nat) (x : Chan) : (s.setChan i x).chanAt i = x := by simp [State.chanAt, State.setChan]
theorem State.chanAt_setChan_ne {i j : Nat} (x : Chan) (h : j ≠ i) : (s.setChan i x).chanAt j = s.chanAt j := by
  simp [State.chanAt, State.setChan, Tab.get_insert_ne _ _ _ h]
@[simp] theorem Die.ctr_setCtr (x : Die) (n : Nat) (q : Counter) : (x.setCtr n q).ctr n = q := by simp [Die.ctr, Die.setCtr]
@[simp] theorem Die.lease_setLease (x : Die) (e : Nat) (l : Lease) : (x.setLease e l).lease e = l := by simp [Die.lease, Die.setLease]

end Sys2Proof.Machine
end

