-- ==== Sys2Proof/Laws/Memory.lean ====
section
/-! SUPPORT. Device memory: every operation keeps the canonical form, a write is read back and leaves every other byte, and a read changes
no byte. -/

namespace Sys2Proof.Machine

/-! ### Bytes -/

/-- What a byte reads after bytes are written from `a` on. -/
theorem get_putMem (m : List Host.Cell) (a : Nat) (bs : List Byte) (x : Nat) :
    Tab.get 0 (putMem m a bs) x = if a ≤ x ∧ x < a + bs.length then bs.getD (x - a) 0 else Tab.get 0 m x := by
  induction bs generalizing m a with
  | nil => simp [putMem]
  | cons b bs ih =>
    simp only [putMem, ih, Tab.get_set, List.length_cons]
    by_cases h : a + 1 ≤ x ∧ x < a + 1 + bs.length
    · have h1 : a ≤ x ∧ x < a + (bs.length + 1) := by omega
      have h2 : x - a = (x - (a + 1)) + 1 := by omega
      simp only [h, h1, and_self, if_true, h2, List.getD_cons_succ]
    · by_cases hx : x = a
      · subst hx; simp
      · have h1 : ¬ (a ≤ x ∧ x < a + (bs.length + 1)) := by omega
        simp only [h, h1, hx, if_false]

/-- Writing bytes keeps the canonical form. -/
theorem putMem_wf (m : List Host.Cell) (a : Nat) (bs : List Byte) (h : Memory.wf m = true) : Memory.wf (putMem m a bs) = true := by
  induction bs generalizing m a with
  | nil => exact h
  | cons b bs ih => exact ih _ _ (Tab.wf_set 0 m a b h)

/-- What a byte reads after a write of one line's bytes. -/
theorem Plm.put_byte (m : Plm) (a : Nat) (bs : List Byte) (p : Bool) (x : Nat) :
    (m.put a bs p).byte x = if a ≤ x ∧ x < a + bs.length then bs.getD (x - a) 0 else m.byte x := get_putMem m.mem a bs x

theorem Plm.put_wf (m : Plm) (a : Nat) (bs : List Byte) (p : Bool) (h : Memory.wf m.mem = true) : Memory.wf (m.put a bs p).mem = true :=
  putMem_wf m.mem a bs h

/-- The bytes written are read back. -/
theorem Plm.bytes_of (m : Plm) (a : Nat) (bs : List Byte) (h : ∀ i < bs.length, m.byte (a + i) = bs.getD i 0) : m.bytes a bs.length = bs := by
  apply List.ext_getElem
  · simp [Plm.bytes]
  · intro i h1 h2
    simp [Plm.bytes, h i h2, h2]

theorem Plm.put_bytes (m : Plm) (a : Nat) (bs : List Byte) (p : Bool) : (m.put a bs p).bytes a bs.length = bs := by
  refine Plm.bytes_of _ a bs fun i hi => ?_
  rw [Plm.put_byte, if_pos (by omega)]
  simp

@[simp] theorem Plm.erasePage_wf (m : Plm) (p : Nat) (h : Memory.wf m.mem = true) : Memory.wf (m.erasePage p).mem = true :=
  Tab.wf_filter 0 m.mem _ h

@[simp] theorem Plm.poisonPage_mem (m : Plm) (p : Nat) : (m.poisonPage p).mem = m.mem := by
  simp only [Plm.poisonPage]

/-! ### What leaves memory alone -/

@[simp] theorem State.draw_mem (s : State) : s.draw.2.plm.mem = s.plm.mem := rfl
@[simp] theorem State.setPage_mem (s : State) (p : Nat) (e : PageEnt) : (s.setPage p e).plm.mem = s.plm.mem := rfl
@[simp] theorem State.setChan_mem (s : State) (i : Nat) (x : Chan) : (s.setChan i x).plm.mem = s.plm.mem := rfl
@[simp] theorem State.countLines_mem (s : State) (i : Nat) (w : Bool) (n : Nat) : (s.countLines i w n).plm.mem = s.plm.mem := rfl
@[simp] theorem State.countLine_mem (s : State) (i : Nat) (w : Bool) : (s.countLine i w).plm.mem = s.plm.mem := rfl
@[simp] theorem State.mendLine_mem (s : State) (i p l : Nat) : (s.mendLine i p l).plm.mem = s.plm.mem := rfl
@[simp] theorem State.ddrUe_mem (s : State) (i p l : Nat) : (s.ddrUe i p l).plm.mem = s.plm.mem := rfl
@[simp] theorem State.meetLine_mem (s : State) (i p l : Nat) : (s.meetLine i p l).2.plm.mem = s.plm.mem := by
  unfold State.meetLine; split <;> rfl
@[simp] theorem State.tableLine_mem (s : State) (dla : Nat) (w h : Bool) : (s.tableLine dla w h).2.plm.mem = s.plm.mem := by
  unfold State.tableLine
  dsimp only
  split
  · rfl
  · cases w <;> cases h <;> simp
@[simp] theorem State.putPage_mem (s : State) (p : Nat) (e : PageEnt) : (s.putPage p e).plm.mem = s.plm.mem := by
  unfold State.putPage State.writePageEntry
  split
  · rfl
  · rw [State.tableLine_mem, State.setPage_mem]
@[simp] theorem State.noteWrite_mem (s : State) (p : Nat) : (s.noteWrite p).plm.mem = s.plm.mem := State.putPage_mem s p _
@[simp] theorem State.freePage_mem (s : State) (i p : Nat) : (s.freePage i p).plm.mem = s.plm.mem := rfl
@[simp] theorem State.dropReplicaBit_mem (s : State) (p d : Nat) : (s.dropReplicaBit p d).plm.mem = s.plm.mem := State.putPage_mem s p _
@[simp] theorem State.dropPtb_plm (s : State) (p : Nat) : (s.dropPtb p).plm = s.plm := rfl
@[simp] theorem State.retire_mem (s : State) (r : CopyRec) : (s.retire r).plm.mem = s.plm.mem := State.dropReplicaBit_mem s r.page r.die
@[simp] theorem State.endRetire_mem (s : State) (r : CopyRec) : (s.endRetire r).plm.mem = s.plm.mem := rfl
@[simp] theorem State.startRetire_mem (s : State) (r : CopyRec) : (s.startRetire r).plm.mem = s.plm.mem := State.dropReplicaBit_mem s r.page r.die
@[simp] theorem State.loseEntry_mem (s : State) (p : Nat) : (s.loseEntry p).plm.mem = s.plm.mem := State.putPage_mem s p _
@[simp] theorem State.cacheUe_plm (s : State) (u : CacheUpset) (c src set : Nat) : (State.cacheUe u c src set s).plm = s.plm := rfl
@[simp] theorem State.snoop_mem (s : State) (l : Nat) (i : Bool) : (s.snoop l i).plm.mem = s.plm.mem := by
  unfold State.snoop; split <;> rfl
@[simp] theorem State.clearSet_plm (k : Nat) (s : State) : (s.clearSet k).plm = s.plm := rfl
@[simp] theorem State.snoopInv_mem (ls : List Nat) (s : State) : (s.snoopInv ls).plm.mem = s.plm.mem := by
  unfold State.snoopInv
  induction ls generalizing s with
  | nil => rfl
  | cons l ls ih => rw [List.foldl_cons, ih, State.snoop_mem]
@[simp] theorem State.filterLookup_mem (s : State) (l : Nat) : (s.filterLookup l).plm.mem = s.plm.mem := by
  unfold State.filterLookup
  split
  · rw [State.cacheUe_plm, State.clearSet_plm, State.snoopInv_mem]
  · rfl
theorem State.meetReserve_mem (n : Nat) (s : State) : (State.meetReserve n s).plm.mem = s.plm.mem := by
  induction n generalizing s with
  | zero => rfl
  | succ n ih =>
    unfold State.meetReserve
    split
    · rfl
    · split
      · rw [ih, State.startRetire_mem]
      · rfl

@[simp] theorem State.fresh_plm (s : State) (u : CacheUpset) : (State.fresh_ u s).plm = s.plm := rfl
@[simp] theorem State.readEntry_mem (s : State) (p : Nat) : (s.readEntry p).plm.mem = s.plm.mem := by
  unfold State.readEntry
  dsimp only
  split
  · split <;> simp
  · split <;> simp
  · rfl
@[simp] theorem State.mapDiscard_mem (s : State) (p : Nat) : (s.mapDiscard p).plm.mem = s.plm.mem := by
  unfold State.mapDiscard
  split <;> rfl
@[simp] theorem State.mapFetch_mem (s : State) (p : Nat) : (s.mapFetch p).plm.mem = s.plm.mem := by
  unfold State.mapFetch
  split <;> simp
@[simp] theorem State.hubLookup_mem (s : State) (p : Nat) : (s.hubLookup p).plm.mem = s.plm.mem :=
  (State.mapFetch_mem _ p).trans (State.mapDiscard_mem s p)
@[simp] theorem State.ptbDiscard_plm (s : State) (d p : Nat) : (s.ptbDiscard d p).plm = s.plm := by
  unfold State.ptbDiscard
  split
  · split <;> rfl
  · rfl
@[simp] theorem State.ptbFresh_plm (s : State) (d p : Nat) : (s.ptbFresh d p).plm = s.plm := rfl
@[simp] theorem State.ptbLookup_mem (s : State) (d p : Nat) : (s.ptbLookup d p).plm.mem = s.plm.mem := by
  unfold State.ptbLookup
  dsimp only
  split <;> simp
@[simp] theorem State.translate_mem (s : State) (a : Agent) (p : Nat) (w : Bool) : (s.translate a p w).plm.mem = s.plm.mem := by
  unfold State.translate
  cases a <;> cases w <;> simp

theorem State.takePage_mem {s s' : State} {i p : Nat} (h : s.takePage i = some (p, s')) : s'.plm.mem = s.plm.mem := by
  unfold State.takePage at h
  split at h
  · cases h
  · dsimp only at h
    split at h
    · cases h; rfl
    · cases h

theorem State.takeFirst_mem {is : List Nat} {s s' : State} {i p : Nat} (h : State.takeFirst is s = some (i, p, s')) : s'.plm.mem = s.plm.mem := by
  induction is with
  | nil => cases h
  | cons j js ih =>
    simp only [State.takeFirst] at h
    split at h
    · rename_i q t ht
      cases h
      exact State.takePage_mem ht
    · exact ih h

theorem State.allocateN_mem {n : Nat} {s s' : State} {a : Agent} {p i q : Nat} (h : s.allocateN a p n = some (i, q, s')) : s'.plm.mem = s.plm.mem := by
  induction n generalizing s with
  | zero => exact State.takeFirst_mem h
  | succ n ih =>
    unfold State.allocateN at h
    split at h
    · rename_i x hx
      cases h
      exact State.takeFirst_mem hx
    · split at h
      · rw [ih h, State.endRetire_mem]
      · split at h
        · rw [ih h, State.retire_mem]
        · cases h

theorem State.allocate_mem {s s' : State} {a : Agent} {p i q : Nat} (h : s.allocate a p = some (i, q, s')) : s'.plm.mem = s.plm.mem :=
  State.allocateN_mem h

/-! ### Writes keep the canonical form -/

/-- `f` keeps the canonical form of memory. -/
def KeepsMem (f : State → State) : Prop := ∀ s, Memory.wf s.plm.mem = true → Memory.wf (f s).plm.mem = true

theorem KeepsMem.comp {f g : State → State} (hf : KeepsMem f) (hg : KeepsMem g) : KeepsMem (f ∘ g) := fun s h => hf _ (hg s h)

/-- A function that leaves memory alone keeps its form. -/
theorem KeepsMem.of_eq {f : State → State} (h : ∀ s, (f s).plm.mem = s.plm.mem) : KeepsMem f := fun s hs => by rw [h]; exact hs

/-- So does a fold of steps that each keep it. -/
theorem KeepsMem.foldl {α : Type} {f : State → α → State} (xs : List α) (h : ∀ x, KeepsMem fun s => f s x) : KeepsMem fun s => xs.foldl f s := by
  induction xs with
  | nil => exact fun s hs => hs
  | cons x xs ih => exact fun s hs => ih (f s x) (h x s hs)

@[simp] theorem State.landCopy_mem (s : State) (i p l : Nat) (w h : Bool) : (s.landCopy i p l w h).2.plm.mem = s.plm.mem := by
  have h1 : ∀ t : State, t.plm.mem = s.plm.mem → ∀ b : Bool, (if b then t.countLine i true else (t.countLine i true).mendLine i p l).plm.mem = s.plm.mem := by
    intro t ht b
    cases b <;> simpa using ht
  unfold State.landCopy
  cases w <;> exact h1 _ (by simp) _

theorem landCopies_mem (l : Nat) (w : Bool) (rs : List CopyRec) (s : State) :
    (rs.foldl (fun (s : State) r => (s.landCopy (4 * r.die + r.chan) r.ppn l w false).2) s).plm.mem = s.plm.mem := by
  induction rs generalizing s with
  | nil => rfl
  | cons r rs ih => rw [List.foldl_cons, ih, State.landCopy_mem]

/-- What memory holds after bytes of one line land. -/
theorem State.landLine_mem (s : State) (dla : Nat) (bs : List Byte) (p : Bool) : (s.landLine dla bs p).plm.mem = putMem s.plm.mem dla bs := by
  unfold State.landLine
  simp only [State.noteWrite_mem, Plm.put, landCopies_mem, State.landCopy_mem]

theorem State.landLine_wf (dla : Nat) (bs : List Byte) (p : Bool) : KeepsMem (State.landLine dla bs p) := fun s h => by
  rw [State.landLine_mem]; exact putMem_wf _ _ _ h

theorem State.writeLine_wf (a : Agent) (dla : Nat) (bs : List Byte) (p : Bool) : KeepsMem (State.writeLine a dla bs p) := fun s h => by
  have ht : Memory.wf (s.translate a (pageOf dla) true).plm.mem = true := by rw [State.translate_mem]; exact h
  unfold State.writeLine
  dsimp only
  split
  · exact State.landLine_wf dla bs p _ ht
  · exact State.landLine_wf dla bs p _ ht
  · split
    · rename_i i q s' hs
      rw [State.meetReserve_mem]
      refine State.landLine_wf dla bs p _ ?_
      rw [State.putPage_mem]
      refine Plm.erasePage_wf _ _ ?_
      rw [State.allocate_mem hs]
      exact ht
    · change Memory.wf (State.putPage _ _ _).plm.mem = true
      rw [State.putPage_mem]
      exact ht
  · split
    · rename_i i q s' hs
      rw [State.meetReserve_mem]
      refine State.landLine_wf dla bs p _ ?_
      rw [State.putPage_mem]
      change Memory.wf ((s'.plm.erasePage (pageOf dla)).poisonPage (pageOf dla)).mem = true
      rw [Plm.poisonPage_mem]
      refine Plm.erasePage_wf _ _ ?_
      rw [State.allocate_mem hs]
      exact ht
    · exact ht

theorem State.devWrite_wf (a : Agent) (dla : Nat) (bs : List Byte) : KeepsMem (State.devWrite a dla bs) :=
  KeepsMem.foldl (f := fun s (c : Nat × List Byte) => s.writeLine a c.1 c.2 false) _ fun c => State.writeLine_wf a c.1 c.2 false

theorem State.ownWriteLine_wf (src dla : Nat) (bs : List Byte) (p : Bool) : KeepsMem (State.ownWriteLine src dla bs p) := fun s h => by
  have hf : Memory.wf (s.filterLookup (lineOf dla)).plm.mem = true := by rw [State.filterLookup_mem]; exact h
  unfold State.ownWriteLine
  dsimp only
  split
  · exact h
  · split
    · rw [State.snoop_mem]
      exact hf
    · exact State.writeLine_wf _ dla bs p _ hf

theorem State.ownWrite_wf (src dla : Nat) (bs : List Byte) : KeepsMem (State.ownWrite src dla bs) :=
  KeepsMem.foldl (f := fun s (c : Nat × List Byte) => s.ownWriteLine src c.1 c.2 false) _ fun c => State.ownWriteLine_wf src c.1 c.2 false

/-! ### Reads -/

/-- A read of part of a line changes no byte. -/
@[simp] theorem State.readLine_mem (s : State) (a : Agent) (dla n : Nat) (again : Bool) : (s.readLine a dla n again).2.2.plm.mem = s.plm.mem := by
  unfold State.readLine
  cases again <;> dsimp only <;> split <;> simp

/-- A read of any length changes no byte. -/
theorem State.devRead_mem (s : State) (a : Agent) (dla n : Nat) : (s.devRead a dla n).2.2.plm.mem = s.plm.mem := by
  unfold State.devRead
  generalize cutRead (n / 64 + 2) dla n = cs
  suffices ∀ (r : List Byte × Bool × State), (cs.foldl (fun r c =>
      let (bs, p, s) := r.2.2.readLine a c.1 c.2
      (r.1 ++ bs, r.2.1 || p, s)) r).2.2.plm.mem = r.2.2.plm.mem from this ([], false, s)
  induction cs with
  | nil => intro r; rfl
  | cons c cs ih =>
    intro r
    rw [List.foldl_cons, ih]
    exact State.readLine_mem r.2.2 a c.1 c.2 false

/-- `t` has the map, the poison marks, the bytes and the line errors of `s`. -/
structure State.SameData (s t : State) : Prop where
  map : t.plm.map = s.plm.map
  poison : t.plm.poison = s.plm.poison
  mem : t.plm.mem = s.plm.mem
  damage : ∀ i, (t.chanAt i).damage = (s.chanAt i).damage

theorem State.SameData.refl (s : State) : s.SameData s := ⟨rfl, rfl, rfl, fun _ => rfl⟩
theorem State.SameData.trans {s t u : State} (h : s.SameData t) (k : t.SameData u) : s.SameData u :=
  ⟨k.map.trans h.map, k.poison.trans h.poison, k.mem.trans h.mem, fun i => (k.damage i).trans (h.damage i)⟩
theorem State.SameData.calm {s t : State} (h : s.SameData t) (c : s.Calm) : t.Calm :=
  ⟨fun i => (h.damage i).trans (c.sound i), fun x hx => c.kept x (h.map ▸ hx)⟩
/-- A state with the same device memory has the same data. -/
theorem State.SameData.of_plm {s t : State} (hm : t.plm.map = s.plm.map) (hp : t.plm.poison = s.plm.poison) (hd : t.plm.mem = s.plm.mem)
    (hc : t.plm.chans = s.plm.chans) : s.SameData t := ⟨hm, hp, hd, fun i => by unfold State.chanAt; rw [hc]⟩

theorem State.Calm.page_ne_lost {s : State} (c : s.Calm) (p : Nat) : (s.page p).st ≠ .lost := by
  unfold State.page
  split
  · rename_i e he
    exact c.kept (p, e) (by
      have := List.lookup_eq_some_iff.mp he
      obtain ⟨l₁, l₂, h, _⟩ := this
      rw [h]; simp)
  · split <;> simp [State.pinEntry]

theorem State.countLine_same (s : State) (i : Nat) (w : Bool) : s.SameData (s.countLine i w) := by
  refine ⟨rfl, rfl, rfl, fun k => ?_⟩
  unfold State.countLine State.countLines State.setChan State.chanAt
  dsimp only
  by_cases h : k = i
  · subst h
    rw [Tab.get_insert_self]
    split <;> rfl
  · rw [Tab.get_insert_ne _ _ _ h]

/-- A calm state's read of a stored line finds it clean. -/
theorem State.meetLine_calm {s : State} (c : s.Calm) (i p l : Nat) : s.meetLine i p l = (false, s) := by
  unfold State.meetLine Chan.errAt
  rw [c.sound i]
  rfl

/-- A calm state's read of a hub table finds its line clean. -/
theorem State.tableLine_calm {s : State} (c : s.Calm) (dla : Nat) :
    (s.tableLine dla false false).1 = false ∧ s.SameData (s.tableLine dla false false).2 := by
  unfold State.tableLine
  dsimp only
  split
  · exact ⟨rfl, State.SameData.refl s⟩
  · rw [if_neg (by simp), State.meetLine_calm ((State.countLine_same s _ _).calm c)]
    exact ⟨rfl, State.countLine_same s _ _⟩

theorem State.readEntry_same {s : State} (c : s.Calm) (p : Nat) : s.SameData (s.readEntry p) := by
  unfold State.readEntry
  dsimp only
  split
  · rw [(State.tableLine_calm c (s.entryDla p)).1]
    exact (State.tableLine_calm c (s.entryDla p)).2
  · rename_i h
    exact absurd h (c.page_ne_lost _)
  · exact State.SameData.refl s

theorem State.mapDiscard_same (s : State) (p : Nat) : s.SameData (s.mapDiscard p) := by
  unfold State.mapDiscard
  split
  · exact State.SameData.of_plm rfl rfl rfl rfl
  · exact State.SameData.refl s

theorem State.mapFetch_same {s : State} (c : s.Calm) (p : Nat) : s.SameData (s.mapFetch p) := by
  unfold State.mapFetch
  split
  · exact State.SameData.refl s
  · have hm : s.SameData { s with plm := { s.plm with cacheMiss := satInc s.plm.cacheMiss } } := State.SameData.of_plm rfl rfl rfl rfl
    exact (hm.trans (State.readEntry_same (hm.calm c) p)).trans (State.SameData.of_plm rfl rfl rfl rfl)

theorem State.hubLookup_same {s : State} (c : s.Calm) (p : Nat) : s.SameData (s.hubLookup p) := by
  have h := State.mapDiscard_same s p
  exact (h.trans (State.mapFetch_same (h.calm c) p)).trans (State.SameData.of_plm rfl rfl rfl rfl)

theorem State.ptbLookup_same {s : State} (c : s.Calm) (d p : Nat) : s.SameData (s.ptbLookup d p) := by
  have same : ∀ t : State, t.plm = s.plm → s.SameData t := fun t h => State.SameData.of_plm (by rw [h]) (by rw [h]) (by rw [h]) (by rw [h])
  have hd := same _ (State.ptbDiscard_plm s d p)
  unfold State.ptbLookup
  dsimp only
  split
  · exact hd
  · have hm : (s.ptbDiscard d p).SameData
        { s.ptbDiscard d p with plm := { (s.ptbDiscard d p).plm with ptbMiss := satInc (s.ptbDiscard d p).plm.ptbMiss } } :=
      State.SameData.of_plm rfl rfl rfl rfl
    have hs := hd.trans hm
    exact (hs.trans (State.hubLookup_same (hs.calm c) p)).trans (State.SameData.of_plm rfl rfl rfl rfl)

/-- A calm state's read of a page's translation leaves the data alone. -/
theorem State.translate_same {s : State} (c : s.Calm) (a : Agent) (p : Nat) (w : Bool) : s.SameData (s.translate a p w) := by
  unfold State.translate
  cases a with
  | die d => exact (State.ptbLookup_same c d p).trans (State.SameData.of_plm rfl rfl rfl rfl)
  | host => cases w <;> exact (State.hubLookup_same c p).trans (State.SameData.of_plm rfl rfl rfl rfl)
  | hub => cases w <;> exact (State.hubLookup_same c p).trans (State.SameData.of_plm rfl rfl rfl rfl)

/-- A calm state's read of part of a mapped line gives its bytes and mark, and leaves the data alone. -/
theorem State.readLine_calm {s : State} (c : s.Calm) (a : Agent) (dla n : Nat) (e : PageEnt) (he : s.plm.map.lookup (pageOf dla) = some e)
    (hst : e.st = .mapped) :
    (s.readLine a dla n).1 = s.plm.bytes dla n ∧ (s.readLine a dla n).2.1 = Tab.get false s.plm.poison (lineOf dla) ∧
      s.SameData (s.readLine a dla n).2.2 := by
  have ht := State.translate_same c a (pageOf dla) false
  generalize ht' : s.translate a (pageOf dla) false = t at ht
  have hp : t.page (pageOf dla) = e := by unfold State.page; rw [ht.map, he]
  have hq := State.countLine_same t (((t.page (pageOf dla)).copy a t.plm.replicas (pageOf dla)).1) false
  unfold State.readLine
  rw [hp] at hq
  have hm := fun i p l => State.meetLine_calm (hq.calm (ht.calm c)) i p l
  simp only [ht', Bool.false_eq_true, if_false, hp, hst, hm, Bool.or_false, ht.poison, true_and]
  refine ⟨?_, ht.trans hq⟩
  unfold Plm.bytes Plm.byte
  rw [ht.mem]

/-- Bytes of a range are those of its first part and those of the rest. -/
theorem Plm.bytes_append (m : Plm) (a n k : Nat) : m.bytes a (n + k) = m.bytes a n ++ m.bytes (a + n) k := by
  simp [Plm.bytes, List.range_add, Function.comp_def, Nat.add_assoc]

/-- The lines of a range, in order, hold its bytes. -/
theorem cutRead_bytes (m : Plm) (fuel a n : Nat) (h : n = 0 ∨ n + a % 64 ≤ 64 * fuel) :
    (cutRead fuel a n).flatMap (fun c => m.bytes c.1 c.2) = m.bytes a n := by
  induction fuel generalizing a n with
  | zero =>
    obtain rfl : n = 0 := by omega
    rfl
  | succ f ih =>
    simp only [cutRead]
    split
    · rename_i hn
      subst hn
      rfl
    · rw [List.flatMap_cons, ih, ← Plm.bytes_append]
      · congr 1
        omega
      · by_cases hk : n ≤ 64 - a % 64
        · left; omega
        · right
          have : min n (64 - a % 64) = 64 - a % 64 := by omega
          rw [this]
          omega

/-- A calm state's read of mapped, unpoisoned lines gives their bytes, unmarked. -/
theorem State.devRead_mapped (s : State) (a : Agent) (dla n : Nat) (calm : s.Calm)
    (h : ∀ c ∈ cutRead (n / 64 + 2) dla n, (∃ e, s.plm.map.lookup (pageOf c.1) = some e ∧ e.st = .mapped) ∧
      Tab.get false s.plm.poison (lineOf c.1) = false) :
    s.devRead a dla n = (s.plm.bytes dla n, false, (s.devRead a dla n).2.2) := by
  rw [← cutRead_bytes s.plm (n / 64 + 2) dla n (by right; omega)]
  unfold State.devRead
  generalize cutRead (n / 64 + 2) dla n = cs at h
  suffices ∀ (bs : List Byte) (t : State), s.SameData t →
      (cs.foldl (fun (r : List Byte × Bool × State) c =>
        let (bs, p, s) := r.2.2.readLine a c.1 c.2
        (r.1 ++ bs, r.2.1 || p, s)) (bs, false, t)).1 = bs ++ cs.flatMap (fun c => s.plm.bytes c.1 c.2) ∧
      (cs.foldl (fun (r : List Byte × Bool × State) c =>
        let (bs, p, s) := r.2.2.readLine a c.1 c.2
        (r.1 ++ bs, r.2.1 || p, s)) (bs, false, t)).2.1 = false by
    obtain ⟨h1, h2⟩ := this [] s (State.SameData.refl s)
    exact Prod.ext (by simpa using h1) (Prod.ext h2 rfl)
  induction cs with
  | nil => intro bs t _; simp
  | cons c cs ih =>
    intro bs t ht
    obtain ⟨⟨e, he, hst⟩, hq⟩ := h c (List.mem_cons_self)
    obtain ⟨h1, h2, h3⟩ := State.readLine_calm (ht.calm calm) a c.1 c.2 e (by rw [ht.map]; exact he) hst
    rw [ht.poison, hq] at h2
    have hb : t.plm.bytes c.1 c.2 = s.plm.bytes c.1 c.2 := by unfold Plm.bytes Plm.byte; rw [ht.mem]
    rw [hb] at h1
    have := ih (fun d hdm => h d (List.mem_cons_of_mem c hdm)) (bs ++ s.plm.bytes c.1 c.2) (t.readLine a c.1 c.2).2.2 (ht.trans h3)
    simp only [List.foldl_cons, h1, h2, Bool.or_self, List.flatMap_cons, ← List.append_assoc]
    exact this

end Sys2Proof.Machine
end

