-- ==== Sys2Proof/Laws/Seq.lean ====
section
/-! SUPPORT. The sequencer: what `issue` does with a word that issues, and what a CTRL-unit instruction, a fault and the occupation of a
unit leave. -/

namespace Sys2Proof.Machine

/-- A word that issues runs its effect. -/
theorem issue_eq {s : State} {c t : Nat} {kd : Kind} {w : Nat} (h : s.issues c t kd w = true) (go : Nat → State → State) :
    s.issue c t kd go = go w s := by
  unfold State.issues at h
  simp only [Bool.and_eq_true, and_assoc, decide_eq_true_eq] at h
  have ⟨h1, h2, h3, h4, rest⟩ := h
  have ⟨h5, h6, energy, h8, ht⟩ := rest
  have h9 : ¬ (((s.core c).slot t).pc < ((s.core c).slot t).pbase ∨ ((s.core c).slot t).pbound ≤ ((s.core c).slot t).pc) := by omega
  have h10 : (kd.heavy && ((s.core c).gstall || decide ((s.core c).account ≤ 0))) = false := by
    cases hh : kd.heavy <;> simp [hh] at energy ⊢
    exact energy
  unfold State.issue
  simp only [h1, h2, ht, h5, h6, Bool.not_true, ne_eq, not_true_eq_false, decide_false, Bool.or_self, h9, ite_false, Bool.false_eq_true,
    h10]
  cases hu : kd.unit with
  | none => simp
  | some u =>
    simp [hu] at h8
    simp [h8]

/-- A program counter outside the program range faults in place of issuing (R87). -/
theorem issue_bound {s : State} {c t : Nat} (kd : Kind) (go : Nat → State → State) (h : s.canIssue c = true)
    (hr : ((s.core c).slot t).st = .ready) (ht : s.turn c t = true)
    (hb : ((s.core c).slot t).pc < ((s.core c).slot t).pbase ∨ ((s.core c).slot t).pbound ≤ ((s.core c).slot t).pc) :
    s.issue c t kd go = s.fault c t 0x32 := by
  unfold State.issue
  simp [h, hr, ht, hb]

/-- A word that is no instruction faults in place of issuing (R90). -/
theorem issue_illegal {s : State} {c t : Nat} (kd : Kind) (go : Nat → State → State) (h : s.canIssue c = true)
    (hr : ((s.core c).slot t).st = .ready) (ht : s.turn c t = true) (h1 : ((s.core c).slot t).pbase ≤ ((s.core c).slot t).pc)
    (h2 : ((s.core c).slot t).pc < ((s.core c).slot t).pbound) (hk : kindOf ((s.core c).wordAt t) = none) :
    s.issue c t kd go = s.fault c t 0x31 := by
  have : ¬ (((s.core c).slot t).pc < ((s.core c).slot t).pbase ∨ ((s.core c).slot t).pbound ≤ ((s.core c).slot t).pc) := by omega
  unfold State.issue
  simp [h, hr, ht, this, hk]

/-- A CTRL-unit instruction changes its slot and its core's cycle alone. -/
theorem ctrl_eq (s : State) (c t : Nat) (f : TaskSlot → TaskSlot) :
    s.ctrl c t f = s.ctrlDone c t 1 { f ((s.core c).slot t) with pc := ((s.core c).slot t).pc + 1 } := by
  simp [State.ctrl, State.ctrlDone, State.modCore, Core.ctrlEnd, Core.modSlot]
  rfl

theorem ctrlEnd_eq (k : Core) (t n pc : Nat) :
    k.ctrlEnd t n pc = { k.setSlot t { k.slot t with pc := pc } with cycle := k.cycle + n, progress := true, lastIssue := t } := rfl

@[simp] theorem TaskSlot.setX_pc (ts : TaskSlot) (n : Nat) (v : W32) (p : Nat) :
    { ts.setX n v with pc := p } = ({ ts with pc := p } : TaskSlot).setX n v := by
  unfold TaskSlot.setX
  split <;> rfl

/-- Reading an index register after a write: X0 stays zero (R86). -/
theorem TaskSlot.getX_setX (ts : TaskSlot) (n m : Nat) (v : W32) :
    (ts.setX n v).getX m = if m = 0 then 0 else if m = n then v else ts.getX m := by
  unfold TaskSlot.setX TaskSlot.getX
  by_cases hm : m = 0
  · simp [hm]
  · by_cases hn : n = 0
    · subst hn
      simp [hm]
    · simp [hm, hn, Tab.get_set]

/-- With no fault among the checks the effect runs. -/
theorem checked_none {s : State} {c t : Nat} {fs : List (Bool × Nat)} (go : State → State) (h : lowest fs = none) :
    s.checked c t fs go = go s := by
  unfold State.checked
  simp [h]

/-- The lowest of the faults that hold is raised (R106). -/
theorem checked_some {s : State} {c t code : Nat} {fs : List (Bool × Nat)} (go : State → State) (h : lowest fs = some code) :
    s.checked c t fs go = s.fault c t code := by
  unfold State.checked
  simp [h]

end Sys2Proof.Machine
end

