-- ==== Sys2Proof/Machine/Flags.lean ====
section
/-! DEFINITION. Status words as their register maps lay them out: the flags that the state holds, in the bits where a reader finds them
(R363, R375, R401, R426, R453, R476). -/
-- Log entries (notes/assumptions): DEDUCED 89, 115, 122.

namespace Sys2Proof.Machine

/-- BW_STATUS (R401); PAIR_ERR reflects the GRANT and HEALTH bits of TMK_PAIR_STATUS (R403). -/
def State.bwStatus (s : State) : Nat :=
  let b := s.bw
  pkgCode b.state + 4 * b2n b.warn + 8 * b2n b.parked + 16 * b2n b.holdupLow + 32 * b2n b.fanStall + 64 * b2n (s.tmk.pair &&& 6 ≠ 0) +
    128 * b2n b.ceilErr + 256 * b2n b.slewMiss + 512 * b.limit
/-- BW_ENVELOPE: total core and uncore grants. -/
def Bw.envelope (b : Bw) : Nat := min b.coreGrant 0xFFFF + 65536 * min b.uncoreGrant 0xFFFF
/-- BW_TIERt_GRANT. -/
def Tier.grantReg (t : Tier) : Nat := t.grant + 65536 * t.req
/-- BW_TIERt_ANS. -/
def Tier.answerReg (t : Tier) : Nat := t.reduced + 256 * t.deferred + 65536 * t.refused + 2 ^ 24 * t.reason
/-- BW_STAT_BALLAST, in µJ. -/
def Bw.ballastReg (b : Bw) : Nat := min (b.ballast / 32) max32
/-- BW_FANn_STATUS: the duty in whole percent. -/
def Fan.reg (f : Fan) : Nat := f.duty / 100 + 128 * b2n f.stall + 256 * f.rpm
/-- A grant word (R375). -/
def Grant.word (g : Grant) : Nat := g.grant + 2 ^ 10 * g.floor + 2 ^ 20 * g.answer + 2 ^ 22 * g.reason + 2 ^ 26 * g.state + 2 ^ 28 * g.epoch
/-- TMK_STATUS. -/
def Tmk.status (t : Tmk) : Nat := min t.queue.length 64 + 256 * b2n t.writing
/-- TMK_RD_STATUS. -/
def Snap.status (x : Snap) : Nat := x.result + 4 * b2n x.busy
/-- TMK_SET_STATUS. -/
def Tmk.setStatus (t : Tmk) : Nat :=
  b2n t.bankA.valid + 2 * b2n t.bankB.valid + 4 * b2n t.selB + 8 * b2n t.defaulted + 16 * b2n (t.jobs.any (·.started)) + 32 * b2n t.writeFail +
    65536 * (match t.selected with | some b => b.format | none => 0)
/-- TMK_SET_SEQ. -/
def Tmk.setSeq (t : Tmk) : Nat := match t.selected with | some b => b.seq.toNat | none => 0
/-- SEC_KEYS: a failed tag shows every entry REVOKED. -/
def Sec.keysReg (x : Sec) : Nat :=
  let revoked := (x.keys.filter fun k => k.revoked || x.tagBad).length
  (x.keys.length - revoked) + 256 * revoked + 8192 * b2n x.tagBad
/-- SEC_SIGFUSE. -/
def Sec.fuseReg (x : Sec) : Nat := Config.signingPresent.toNat + 16 * x.sigRevoked.toNat
/-- CXL_LINK (R363). -/
def Cxl.linkReg (x : Cxl) : Nat :=
  x.rate + 16 * x.width + 256 * x.flit + 1024 * x.mode + 4096 * b2n x.cacheEn + 8192 * b2n x.memEn + 16384 * b2n x.pbr
/-- CXL_HDM. -/
def Cxl.hdmReg (x : Cxl) : Nat := b2n x.committed + 2 * b2n x.sizeErr
/-- HUB_ALERT: ASSERTED while any cause bit is set (R463). -/
def Hub.alertReg (h : Hub) : Nat := h.alert.toNat + 2 ^ 31 * b2n (h.alert ≠ 0)

end Sys2Proof.Machine
end

