-- ==== Sys2Proof/Machine/Domains.lean ====
section
/-! DEFINITION. The power domains outside the cores (R371): which there are and which are on now. A core's own 17 are `Core.logicOff` and `Bank.st`. -/
-- Log entries (notes/assumptions): DEDUCED 181.

namespace Sys2Proof.Machine

/-- The 154 uncore domains: 24 of each compute die and 58 of the hub die. -/
inductive UncoreDomain
  | ddrController (d n : Fin 4) | ddrPhy (d n : Fin 4) | dieUcie (d m : Fin 4) | dieNetwork (d q : Fin 4) | groupClock (d g : Fin 4)
  | dieHeadland (d : Fin 4) | dispatcher (d : Fin 4) | ptbUnit (d : Fin 4) | dieManagement (d : Fin 4)
  | hubUcie (d : Fin 4) (m : Fin 2) | hubNetwork (q : Fin 4) | hubHeadland | sorzeindEngine | updateEngine
  | intake | completionWriter | streamCache (w : Fin 4) | strandmapEngine | mapCache (w : Fin 8)
  | cxlController | cxlPhy | snoopFilter (w : Fin 16) | portSerdes (p : Fin 4) | linkAdder (p : Fin 4) | ringPacker | hubManagement
  deriving DecidableEq, Repr

/-- The elements of a finite type of numbers. -/
def fins (n : Nat) : List (Fin n) := List.finRange n
/-- The domains of a compute die. -/
def dieDomains (d : Fin 4) : List UncoreDomain :=
  [UncoreDomain.ddrController d, .ddrPhy d, .dieUcie d, .dieNetwork d, .groupClock d].flatMap (fun f => (fins 4).map f) ++
    [.dieHeadland d, .dispatcher d, .ptbUnit d, .dieManagement d]
/-- The domains of the hub die. -/
def hubDomains : List UncoreDomain :=
  (fins 4).flatMap (fun d => [.hubUcie d 0, .hubUcie d 1]) ++ (fins 4).map .hubNetwork ++ [.hubHeadland, .sorzeindEngine, .updateEngine, .intake,
    .completionWriter] ++ (fins 4).map .streamCache ++ [.strandmapEngine] ++ (fins 8).map .mapCache ++ [.cxlController, .cxlPhy] ++
    (fins 16).map .snoopFilter ++ (fins 4).map .portSerdes ++ (fins 4).map .linkAdder ++ [.ringPacker, .hubManagement]
/-- All uncore domains. -/
def uncoreDomains : List UncoreDomain := (fins 4).flatMap dieDomains ++ hubDomains

/-- Whether a ring tensor is loaded: a layer with Train in SVC of a stream that is loaded (R329). -/
def State.ringTensorLoaded (s : State) : Bool :=
  (List.range 4).any fun h => match (s.handle h).stream with | some st => st.layers.any fun l => bit l.svc 2 | none => false
/-- Whether a channel's domains are on. -/
def State.channelOn (s : State) (d n : Nat) : Bool :=
  match (s.chanAt (4 * d + n)).st with | .absent | .failed | .retired => false | _ => true
/-- Whether the package has parked: then only the management planes' domains are on (R386). -/
def UncoreDomain.management : UncoreDomain → Bool | .dieManagement _ => true | .hubManagement => true | _ => false
/-- Whether module `m` of a die works: 0 and 1 lead to the hub, 2 and 3 to the dies beside it (notes/assumptions/181.md). -/
def State.dieModule (s : State) (d m : Nat) : Bool :=
  if m < 2 then (s.die d).hubMods.getLsbD m else s.hub.uciePeer.getLsbD (dieEdge d m)
/-- Whether a domain is on (R371). -/
def State.domainOn (s : State) (x : UncoreDomain) : Bool :=
  if s.bw.parked then x.management
  else match x with
    | .ddrController d n | .ddrPhy d n => s.channelOn d n
    | .dieUcie d m => s.dieModule d m
    | .dieNetwork d _ | .dieHeadland d | .dispatcher d | .ptbUnit d => !(s.die d).isolated
    | .groupClock d g => (List.range 9).any fun p => s.role (36 * (d : Nat) + 9 * (g : Nat) + p) ≠ .disabled
    | .hubUcie d m => (s.die d).hubMods.getLsbD m
    | .updateEngine => s.ringTensorLoaded
    | .streamCache _ => s.est.en
    | .portSerdes p | .linkAdder p => (s.port p).en
    | _ => true

end Sys2Proof.Machine
end

