-- ==== Sys2Proof/Machine/View.lean ====
section
/-! DEFINITION. What a read of BAR0 returns: every register map of the manual laid over the state (R38, R70, R71, R73, R109, R151, R178, R221, R252,
R278, R309, R310, R341, R360, R361, R363, R401, R426, R453, R476). No command reads a register but BAR0_BAD_ACCESS; the view is what the host
sees of the state. -/
-- Log entries (notes/assumptions): DEDUCED 181.

namespace Sys2Proof.Machine

/-- Bits 31:0 of a value. -/
def loWord (v : Nat) : Nat := v % 2 ^ 32
/-- Bits 63:32 of a value. -/
def hiWord (v : Nat) : Nat := v / 2 ^ 32 % 2 ^ 32
/-- Entry `off / 4` of a list of 32-bit registers. -/
def regAt (vs : List Nat) (off : Nat) : Nat := vs.getD (off / 4) 0
/-- A two's complement byte. -/
def signedByte (t : Int) : Nat := (BitVec.ofInt 8 t).toNat

/-! ### HUB_ (R38, R221, R476) -/

/-- The registers of a handle. -/
def Handle.view (h : Handle) (off : Nat) : Nat :=
  regAt [handleCode h.st + 16 * h.op + 256 * h.code + 65536 * h.section_ + 2 ^ 31 * b2n h.busy, h.frame, loWord h.ident, hiWord h.ident, h.groups, h.frames,
    b2n h.signed, loWord h.key] off
/-- The HUB_ block. -/
def State.hubView (s : State) (off : Nat) : Nat :=
  if 0x100 ≤ off ∧ off < 0x180 then (s.handle ((off - 0x100) / 0x20)).view ((off - 0x100) % 0x20)
  else match off with
    | 0x00 => Config.stepping + 65536 * Config.partNumber
    | 0x04 => b2n s.hub.lockedWrite
    | 0x08 => b2n s.hub.lock
    | 0x0C => max32 - b2n s.hub.lock
    | 0x40 => s.hub.bootsrc + 4 * s.hub.sbaddr + 32 * b2n s.hub.testEn
    | 0x44 => s.hub.alertReg
    | 0x180 => min s.ldr.accepted 0xFFFF + 65536 * min s.ldr.refused 0xFFFF
    | _ => 0

/-! ### BW_ (R401) -/

/-- BW_RST_DIEd. -/
def Die.rstReg (x : Die) : Nat := x.inc + 16 * x.rstCause + 256 * min x.rstCount 0xFFFF
/-- The BW_ block. -/
def State.bwView (s : State) (off : Nat) : Nat :=
  let b := s.bw
  let tier := fun n : Nat => (Tab.get {} b.tiers n : Tier)
  if 0x20 ≤ off ∧ off < 0x38 then (tier ((off - 0x20) / 4)).grantReg
  else if 0x40 ≤ off ∧ off < 0x58 then (tier ((off - 0x40) / 4)).answerReg
  else if 0x64 ≤ off ∧ off < 0x78 then
    match Tab.get none b.temps ((off - 0x64) / 4) with | some t => signedByte t + 256 | none => 0
  else if 0xC8 ≤ off ∧ off < 0xD8 then (s.die ((off - 0xC8) / 4)).rstReg
  else match off with
    | 0x00 => b2n b.slackReg + 2 * b2n b.neapReg
    | 0x04 => s.bwStatus
    | 0x08 => b.ceil
    | 0x0C => max32 - b.ceil
    | 0x10 => b.slew
    | 0x14 => b.envelope
    | 0x18 => b.base + 65536 * b.draw
    | 0x60 => b.target + 256 * signedByte b.tmax
    | 0x80 => b.fanMin + 256 * b.fanMax + 65536 * b.tlo
    | 0x84 => (Tab.get {} b.fans 0).reg
    | 0x88 => (Tab.get {} b.fans 1).reg
    | 0x90 => b.holdCap + 65536 * b.holdVmin
    | 0x94 => b.holdMv + 65536 * b.holdMj
    | 0xA0 => b.statNeap
    | 0xA4 => b.statDip
    | 0xA8 => b.ballastReg
    | 0xAC => b.statStale
    | 0xC0 => b.lock.toNat + 32 * b.dsrc
    | 0xC4 => b.rstCause
    | 0xD8 => b.rstWarm
    | _ => 0

/-! ### EST_ (R278) -/

/-- The registers of a service class. -/
def State.estClassView (s : State) (n off : Nat) : Nat :=
  let k := s.estClass n
  let count := fun p : StreamEnt → Bool => (s.est.table.filter fun e => e.2.cls = n && p e.2).length
  regAt [k.activeMax, k.openMax, k.batch + 65536 * k.mtok, k.wait + 65536 * k.deferTmo, k.deferMax + 65536 * k.inflight,
    s.active n + 65536 * count (fun e => e.st = .deferred), count (fun e => e.st ≠ .closed)] off
/-- The EST_ block. -/
def State.estView (s : State) (off : Nat) : Nat :=
  let x := s.est
  let t := x.stat
  if 0x100 ≤ off ∧ off < 0x180 then s.estClassView ((off - 0x100) / 0x20) ((off - 0x100) % 0x20)
  else if 0x200 ≤ off then
    regAt [t.live, t.torn, t.stale, t.seqBad, t.early, t.admits, t.defer, t.refCap, t.refPol, t.steps, t.failed, t.cacheMiss, 0, 0, 0, 0,
      x.lastBadSlot + 2 ^ 31 * b2n x.lastBadCtrl, x.lastBadSeq.toNat] (off - 0x200)
  else
    regAt [b2n x.en + 256 * x.biDelay + 65536 * x.tornWait, b2n x.ready + 2 * b2n x.cfgErr + 4 * b2n x.cqFull + 8 * b2n x.winWrite, loWord x.base, hiWord x.base,
      x.size, x.streams, loWord x.cqBase, hiWord x.cqBase, x.log2n, x.tail.toNat, x.head.toNat, b2n x.notifyEn + loWord x.notifyAddr, hiWord x.notifyAddr,
      x.notifyGap] off

/-! ### PLM_ (R309) -/

/-- The registers of a reserved region. -/
def Region.view (r : Region) (off : Nat) : Nat :=
  regAt [loWord r.base, hiWord r.base, r.size, r.kind + 16 * b2n r.hostWr + 2 ^ 31 * b2n r.valid] off
/-- The PLM_ block. -/
def State.plmView (s : State) (off : Nat) : Nat :=
  let m := s.plm
  if 0x100 ≤ off ∧ off < 0x200 then (Tab.get {} m.regions ((off - 0x100) / 0x10) : Region).view ((off - 0x100) % 0x10)
  else
    regAt [b2n m.migEn + 2 * b2n m.repEn, s.plmStatus, m.windowUs + 65536 * m.repQuiet + 2 ^ 24 * m.repIdle, m.migMin + 65536 * m.repMin,
      m.migRatio + 16 * m.migBw + 256 * m.migHold, m.repReserve, m.hdmGib, s.pagesFree, s.pagesMapped, m.replicas.length, 0, 0, m.statMove, m.statRepl,
      m.statRetire, m.statLost, m.statRsvWr, m.cacheMiss, m.ptbMiss, 0, loWord m.relBase, hiWord m.relBase, m.relPages,
      2 * b2n m.relBusy + 4 * b2n m.relErr, m.queryPage, s.plmQuery.1, s.plmQuery.2] off

/-! ### KL_ (R341) -/

/-- The value of a port state. -/
def PortSt.code : PortSt → Nat
  | .disabled => 0 | .down => 1 | .training => 2 | .up => 3 | .retrain => 4
/-- The value of a ring state. -/
def RingSt.code : RingSt → Nat
  | .idle => 0 | .forming => 1 | .formed => 2 | .wrapped => 3 | .broken => 4
/-- The value of a phase. -/
def OpPhase.code : OpPhase → Nat
  | .none => 0 | .reduce => 1 | .update => 2 | .send => 3 | .aborted => 4
/-- The registers of a port. -/
def Port.view (x : Port) (off : Nat) : Nat :=
  regAt [b2n x.en + 2 * b2n x.maxgen, x.st.code + 8 * b2n x.gen + 16 * x.width + 64 * b2n x.reversed + 128 * x.polinv + 2048 * b2n x.farOk + 4096 * x.farRank,
    x.fec, x.crcErr, x.replay, x.retrain] off
/-- KL_OP_STATUS: the phase and tensor of the oldest operation in progress, and the last abort's cause. -/
def Kl.opStatus (k : Kl) : Nat :=
  (match k.ops with | o :: _ => o.phase.code + 16 * o.tid | [] => if k.opCause = 0 then 0 else 4) + 2 ^ 18 * k.opCause
/-- The KL_ block. -/
def State.klView (s : State) (off : Nat) : Nat :=
  let k := s.kl
  if 0x100 ≤ off ∧ off < 0x200 then (s.port ((off - 0x100) / 0x40)).view ((off - 0x100) % 0x40)
  else
    regAt [4 * b2n k.bypass, k.n + 256 * k.rank, loWord k.ident, hiWord k.ident,
      k.st.code + 8 * b2n k.bypass + 16 * k.wrapRank + 256 * k.members + 65536 * k.failcode, b2n k.srmiss, loWord k.tdescBase, hiWord k.tdescBase, k.opSeq,
      k.opStatus, 0, 0, 0, 0, 0, 0, k.statOps, k.statEsc, k.statExpsat, k.statPoison, k.statReserr, k.statAbort, 0, 0, k.updElems, k.updSat, k.updNonfinite,
      k.updSkip, k.updSkipEl] off

/-! ### SEC_, TMK_ and CXL_ (R363, R426, R453) -/

/-- The SEC_ block. -/
def State.secView (s : State) (off : Nat) : Nat :=
  let x := s.sec
  regAt [x.updStatus, x.bytes, s.slotReg, x.version, x.svn, x.rollback, loWord (leNat deviceId), hiWord (leNat deviceId), b2n x.signedOnly, x.keysReg, x.fuseReg,
    Config.romApi.toNat, x.cmdLast + 65536 * x.cmdStatus + 2 ^ 24 * x.cmdSource, x.cmdCount] off
/-- The TMK_ block. -/
def State.tmkView (s : State) (off : Nat) : Nat :=
  let t := s.tmk
  if 0x100 ≤ off ∧ off < 0x200 then leNat ((t.host.data.drop (off - 0x100)).take 4)
  else
    regAt [loWord t.head, hiWord t.head, loWord t.oldest, hiWord t.oldest, t.status, t.dropped, t.bootCount, t.cacheUe, t.rdLo.toNat, t.rdHi.toNat, t.host.status,
      0, 0, 0, 0, 0, t.setStatus, t.setSeq, t.writes, 0, t.pair.toNat, t.pairCount] off
/-- The CXL_ block, and the MSI-X table and its pending bits. -/
def State.cxlView (s : State) (off : Nat) : Nat :=
  let x := s.cxl
  if 0x30000 ≤ off ∧ off < 0x30040 then
    let e : MsixEnt := Tab.get {} x.msixTable ((off - 0x30000) / 16)
    regAt [loWord e.addr, hiWord e.addr, e.data.toNat, b2n e.masked] (off % 16)
  else if off = 0x31000 then x.msixPend.toNat
  else
    regAt [x.linkReg, x.hdmReg, loWord x.base, hiWord x.base, x.filter.length, 0, 0, 0, x.bisnp, x.biConflict, x.poisonTx, x.poisonRx, x.d2hWr, x.linkDown,
      x.recovery, x.badAcc] off

/-! ### A die: DIE_ and DDR_ (R252, R310) -/

/-- The value of a counter's state. -/
def CtrSt.code : CtrSt → Nat
  | .idle => 0 | .open => 1 | .closed => 2 | .drained => 3 | .failed => 4
/-- The lowest new tile that is not taken. -/
def Counter.next (q : Counter) : Nat := ((List.range q.total).find? fun t => !(t ∈ q.taken)).getD q.total
/-- The registers of a counter. -/
def State.ctrView (s : State) (d n off : Nat) : Nat :=
  let x := s.die d
  let q := x.ctr n
  regAt [q.st.code + 8 * b2n q.held + 16 * q.cls + 256 * q.bucket + 4096 * q.layer + 2 ^ 24 * q.queue.length, q.i + 65536 * q.jcnt, q.j0, q.next, q.total,
    q.committed.length, (x.retry.filter fun r => r.ctr = n).length, q.vm + 256 * q.vb, q.pseq] off
/-- The registers of a lease. -/
def Lease.view (l : Lease) (off : Nat) : Nat :=
  regAt [l.tile.toNat, l.tileN.toNat, l.gen.toNat, l.genN.toNat, l.ctl.toNat, l.ctlN.toNat] off
/-- The DIE_ block. -/
def State.dieView (s : State) (d off : Nat) : Nat :=
  let x := s.die d
  if 0x1000 ≤ off ∧ off < 0x2000 then s.ctrView d ((off - 0x1000) / 0x40) ((off - 0x1000) % 0x40)
  else if 0x4000 ≤ off ∧ off < 0x4000 + 144 * 0x20 then (x.lease ((off - 0x4000) / 0x20)).view ((off - 0x4000) % 0x20)
  else if 0x110 ≤ off ∧ off < 0x124 then
    ((List.range 8).map fun m => Tab.get 0 x.fenceCause (8 * ((off - 0x110) / 4) + m) * 16 ^ m).sum
  else match off with
    | 0x0 => d
    | 0x4 => b2n (x.ctrs.any fun q => q.2.held) + 2 * b2n x.fencing + 4 * b2n x.retryLow
    | 0x8 => x.retryMax + 256 * x.affwait + 65536 * x.leaseTmo
    | 0x100 => loWord x.fenceMask
    | 0x104 => hiWord x.fenceMask
    | 0x108 => x.fenceSeq
    | 0x130 => ((List.range 4).map fun g => (Tab.get 0 x.stbyLocal g + 128 * b2n (!Tab.get false x.stbyGone g)) * 256 ^ g).sum
    | 0x140 => x.statStale
    | 0x144 => x.statRevoked
    | 0x148 => x.statRetries
    | 0x14C => x.statFailed
    | 0x150 => x.holdLast
    | 0x154 => x.holdMax
    | _ => 0
/-- The value of a channel's state. -/
def ChanSt.code : ChanSt → Nat
  | .absent => 0 | .training => 1 | .ready => 2 | .failed => 3 | .retired => 4 | .evacuating => 5
/-- The DDR_ block of a channel. -/
def Chan.view (x : Chan) (off : Nat) : Nat :=
  regAt [x.st.code + 8 * b2n x.ref2x + 16 * x.trainStep, x.type + 4 * x.width + 8 * x.density + 16 * x.pranks + 64 * x.stack + 256 * x.gib, x.rate,
    signedByte x.temp + 256 * b2n x.tempValid, x.ce, x.ue, x.ceLane + 2 ^ 31 * b2n x.ceValid, x.uePpn + 2 ^ 22 * x.ueLine + 2 ^ 31 * b2n x.ueValid,
    x.scrubPeriod, x.scrubPass, x.ueLimit, 0, loWord x.rdLines, hiWord x.rdLines, loWord x.wrLines, hiWord x.wrLines] off

/-! ### A core: CORE_, SPD_, ENG_ and RQ_ (R70, R71, R73, R109, R151, R178) -/

/-- The value of a role. -/
def Role.code : Role → Nat
  | .standby => 0 | .inService => 1 | .beached => 2 | .disabled => 3
/-- The value of a task slot's state. -/
def SlotSt.code : SlotSt → Nat
  | .idle => 0 | .ready => 1 | .blocked => 2 | .stopped => 3 | .halted => 4
/-- The registers of a task slot. START is written, and reads 0. -/
def TaskSlot.view (t : TaskSlot) (off : Nat) : Nat :=
  let h := t.held.getD {}
  regAt [2 * b2n t.stopReq + 4 * b2n t.stopOnFault, t.st.code + 16 * t.pc + 65536 * t.async + 2 ^ 21 * b2n t.held.isSome, t.pbase + 65536 * t.pbound, t.dbase,
    t.dbound, t.abase + 16 * t.abound + 65536 * t.apbm, h.tile.toNat, h.gen.toNat] off
/-- CORE_ID. -/
def State.coreId (s : State) (c : Nat) : Nat :=
  c + 256 * coreLocal c + 2 ^ 14 * coreGroup c + 65536 * corePos c + 2 ^ 20 * coreDie c + 2 ^ 22 * (s.role c).code
/-- The CORE_ block, CORE_ID apart. -/
def Core.coreView (k : Core) (off : Nat) : Nat :=
  let f := k.fault
  if 0x100 ≤ off ∧ off < 0x200 then
    let b : Sb := Tab.get {} k.sb ((off - 0x100) / 0x10)
    regAt [b.base, b.len, b.count.toNat] (off % 0x10)
  else if 0x400 ≤ off ∧ off < 0x500 then (k.slot ((off - 0x400) / 0x40)).view ((off - 0x400) % 0x40)
  else
    let run := fun n => b2n ((k.slot n).st = .ready || (k.slot n).st = .blocked) * 2 ^ n
    regAt [0, ((List.range 4).map run).sum + 16 * b2n k.frozen + 32 * b2n k.gstall + 64 * b2n k.ballast + 128 * b2n f.valid, loWord k.cycle, hiWord k.cycle, k.frzEvents,
      k.frzCycles, 0, 0, f.code + 256 * f.task + 1024 * f.op + 65536 * f.pc + 2 ^ 31 * b2n f.valid, f.tile.toNat, f.gen.toNat, f.count, k.rowfSat] off
/-- The value of a bank's state. -/
def BankSt.code : BankSt → Nat
  | .off => 0 | .waking => 1 | .on => 2 | .draining => 3
/-- The registers of a partition. -/
def Part.view (p : Part) (off : Nat) : Nat :=
  regAt [p.base + 65536 * p.bound + 2 ^ 31 * b2n p.valid, b2n p.wgt + 2 * b2n p.resident + 4 * b2n p.rwr + 8 * b2n p.rrd, loWord p.tag, hiWord p.tag] off
/-- The registers of a window. -/
def Win.view (w : Win) (off : Nat) : Nat :=
  regAt [w.kind + 4 * b2n w.rd + 8 * b2n w.wr + 16 * w.tcore, loWord w.base, hiWord w.base, w.size, loWord w.mask, hiWord w.mask] off
/-- The SPD_ block. -/
def Spad.view (m : Spad) (off : Nat) : Nat :=
  if 0x40 ≤ off ∧ off < 0x80 then (m.bank ((off - 0x40) / 4)).queue.length
  else if 0x100 ≤ off ∧ off < 0x200 then (Tab.get {} m.parts ((off - 0x100) / 0x10) : Part).view (off % 0x10)
  else if 0x200 ≤ off ∧ off < 0x300 then (Tab.get {} m.wins ((off - 0x200) / 0x20) : Win).view (off % 0x20)
  else
    regAt [m.ilv + 4 * b2n m.scrubEn, m.bankReq.toNat, ((List.range 16).map fun b => (m.bank b).st.code * 4 ^ b).sum,
      b2n m.unpwr + 2 * b2n m.forced + 4 * b2n m.ueSeen + 8 * b2n m.rej, m.ce1, m.ce2, m.ue, m.ueWord + 2 ^ 31 * b2n m.ueValid, m.unpwrDisc, m.unpwrRet, m.starve,
      m.remoteRej, m.scrubPass] off
/-- The ENG_ block. -/
def Core.engView (k : Core) (off : Nat) : Nat :=
  let x := k.cnt
  if off < 0x80 then (if off % 8 = 0 then (Tab.get 0 k.engIn (off / 8) : W32) else Tab.get 0 k.engOut (off / 8)).toNat
  else if 0x400 ≤ off ∧ off < 0x800 then leNat ((List.range 4).map fun i => Tab.get 0 k.cb (off - 0x400 + i))
  else if 0x800 ≤ off then
    regAt [x.packDrop, x.predLast, x.predCand, x.predAct, x.scatUpd, x.scatStall, x.swZero, x.swBelow, x.swAppl, x.swVskip, x.gathItems] (off - 0x800)
  else 0
/-- The RQ_ block. -/
def Core.rqView (k : Core) (off : Nat) : Nat :=
  if off < 0x1000 then
    let e : RqEntry := Tab.get {} k.rq (off / 0x10)
    regAt [e.mult.toNat, e.shift, e.bias.toNat] (off % 0x10)
  else regAt [k.rqTag.toNat, k.satTile, k.satTotal, k.censExp] (off - 0x1000)
/-- The block of a core; a core in reset reads as its registers reset, but for CORE_ID (R361). -/
def State.coreBlockView (s : State) (c off : Nat) : Nat :=
  let k := if (s.core c).inReset then {} else s.core c
  if off = 0 then s.coreId c
  else if off < 0x4000 then k.coreView off
  else if off < 0x8000 then k.spd.view (off - 0x4000)
  else if off < 0xC000 then k.engView (off - 0x8000)
  else k.rqView (off - 0xC000)

/-! ### BAR0 (R360, R361) -/

/-- Whether a die's registers answer: it is neither isolated nor in reset. -/
def State.dieAnswers (s : State) (d : Nat) : Bool := !(s.die d).isolated && !(s.die d).inReset
/-- A die's block: a die that does not answer reads as ones. -/
def State.dieBlockView (s : State) (d off : Nat) : Nat :=
  if !s.dieAnswers d then max32
  else if off < 0x80000 then s.dieView d off
  else if off < 0xC0000 then (s.chanAt (4 * d + (off - 0x80000) / 0x10000)).view (off % 0x10000)
  else if 0x100000 ≤ off ∧ off < 0x100000 + 36 * 0x10000 then s.coreBlockView (36 * d + (off - 0x100000) / 0x10000) (off % 0x10000)
  else 0
/-- An aligned 32-bit read at a BAR0 offset; offsets that no map lists read as zero. The component and device blocks at 0x71_0000 and 0x72_0000 are
laid out by the CXL standard: what they show is State.cfgSpace and State.devSpace (notes/assumptions/181.md). -/
def State.bar0Read (s : State) (off : Nat) : Nat :=
  let lo := off % 0x100000
  if 0x1000000 ≤ off ∧ off < 0x5000000 then s.dieBlockView (off / 0x1000000 - 1) (off % 0x1000000)
  else match off / 0x100000 with
    | 0 => s.hubView lo
    | 1 => s.bwView lo
    | 2 => s.estView lo
    | 3 => s.plmView lo
    | 4 => s.klView lo
    | 5 => s.secView lo
    | 6 => s.tmkView lo
    | 7 => s.cxlView lo
    | _ => 0
/-- An aligned 64-bit read: the low word's register, then the high word's (R8, R361). -/
def State.bar0Read64 (s : State) (off : Nat) : Nat := s.bar0Read off + 2 ^ 32 * s.bar0Read (off + 4)

end Sys2Proof.Machine
end

