-- ==== Sys2Proof/Tests/Slice0.lean ====
section
/-! SUPPORT. Tests: what WellFormed refuses, the manual's worked examples, and for every obligation with hypotheses a state that meets them,
each clause at a boundary of its range. -/

namespace Sys2Proof.Tests

set_option Elab.async false
set_option maxRecDepth 20000
set_option linter.unusedVariables false

open Sys2Proof Sys2Proof.Machine

/-! ### Helpers -/

/-- Whether a command goes on to a state that `p` accepts. -/
def nx (c : Instr) (s : State) (p : State → Bool) : Bool := match exec c s with | .next u => p u | _ => false
/-- A word from field values, each with its lowest bit. -/
def wd (xs : List (Nat × Nat)) : Nat := (xs.map fun x => x.1 * 2 ^ x.2).sum
/-- All banks ON and one partition over the whole scratchpad that every core may read and write. -/
def pad : Spad := { banks := (List.range 16).map fun b => (b, { st := .on }), parts := [(0, { valid := true, bound := 16384, rwr := true, rrd := true })] }
/-- A slot that runs words 0 to 15 over the data words from 0 on. -/
def slot0 : TaskSlot := { st := .ready, pbound := 16, dbound := 16384, abound := 16, apbm := 3 }
/-- A core whose slot 0 issues `w` next. -/
def coreOf (w : Nat) : Core := { slots := [(0, slot0)], prog := [(0, BitVec.ofNat 64 w)], spd := pad, account := 100 }
/-- Every uncore unit holds a grant in force. -/
def fed : Bw := { grants := (List.range uncoreUnits).map fun u => (144 + u, { inForce := 1 }) }
/-- A state whose core 0 issues `w` next. -/
def at0 (w : Nat) : State := { cores := [(0, coreOf w)], bw := fed }
/-- `at0` with core 0 changed. -/
def with0 (w : Nat) (f : Core → Core) : State := { cores := [(0, f (coreOf w))], bw := fed }
/-- A state whose management plane runs. -/
def up : State := { hub := { mgmtUp := true, hubUp := true } }
/-- `at0` with slot 0 changed. -/
def slotW (w : Nat) (f : TaskSlot → TaskSlot) : State := with0 w fun k => k.modSlot 0 f

/-! ### Well-formed commands: each check refuses -/

theorem test_wf_ldw : (Instr.ldw 0 0 0 [⟨16384, 1⟩] false []).wf = false := by decide
theorem test_wf_strm : (Instr.strm 0 0 0 [⟨0, 277⟩] false []).wf = false := by decide
theorem test_wf_remote_read : (Instr.spdRemoteRead 0 0 0 [⟨16384, 1⟩] false).wf = false := by decide
theorem test_wf_window_reg : (Instr.estWindowRegWrite 4 0).wf = false := by decide
theorem test_wf_intake : (Instr.intakeStaleWrite (.ctrl 15)).wf = false := by decide
theorem test_wf_torn : (Instr.tornTimeout (.stream 1048576)).wf = false := by decide
theorem test_wf_open : (Instr.streamOpen 1048576).wf = false := by decide
theorem test_wf_submit : (Instr.streamSubmit 1048576).wf = false := by decide
theorem test_wf_close : (Instr.streamClose 1048576).wf = false := by decide
theorem test_wf_mem_read : (Instr.cxlMemRead 1 .none {}).wf = false := by decide
theorem test_wf_mem_write : (Instr.cxlMemWrite 0 [] false .none {}).wf = false := by decide
theorem test_wf_ddr_train : (Instr.ddrTrainDone (List.replicate 17 0)).wf = false := by decide
theorem test_wf_ddr_channel : (Instr.ddrTrainDone [16]).wf = false := by decide
theorem test_wf_port : (Instr.portTrainDone 0 ⟨0xF, true, false, false, 16⟩).wf = false := by decide
theorem test_wf_birsp : (Instr.birspReceived 0 (some [])).wf = false := by decide
theorem test_wf_rdone : (Instr.rdone 0 65536 0 false false).wf = false := by decide
theorem test_wf_pdone : (Instr.pdone 0 0 16 0).wf = false := by decide
theorem test_wf_hello : (Instr.hello 0 ⟨0, 17, 0, 0⟩).wf = false := by decide
theorem test_wf_open_msg : (Instr.ringOpen 0 ⟨16, 0, 0, 0, 0, false, false⟩).wf = false := by decide
theorem test_wf_red : (Instr.redBlockReceive 0 0 0 ⟨32, 0, false, 0, 0, List.replicate 32 0⟩ {}).wf = false := by decide
theorem test_wf_par : (Instr.parBlockReceive 0 0 0 ⟨0, 0, false, 127, 0, List.replicate 32 0⟩).wf = false := by decide
theorem test_wf_ucie : (Instr.ucieRetryFail 0 4).wf = false := by decide
theorem test_wf_flit : (Instr.flitReceive 0 []).wf = false := by decide
theorem test_wf_register : (Instr.registerWrite .host 2 0 none).wf = false := by decide
theorem test_wf_policy : (Instr.setEventInterruptPolicy []).wf = false := by decide
theorem test_wf_transfer : (Instr.transferFw 1 0 (List.replicate 4097 0) false).wf = false := by decide +kernel
theorem test_wf_timestamp : (Instr.setTimestamp (2 ^ 64)).wf = false := by decide
theorem test_wf_report : (Instr.attestReport .hub (List.replicate 32 0)).wf = false := by decide
theorem test_wf_cert : (Instr.attestCert .host []).wf = false := by decide
theorem test_wf_unit : (Instr.unitReset .host 256 0).wf = false := by decide
theorem test_wf_setting : (Instr.settingSet .host 65536 []).wf = false := by decide
theorem test_wf_key : (Instr.keyRevoke .host (2 ^ 64)).wf = false := by decide
theorem test_wf_tmk_read : (Instr.tmkRead .bmc (2 ^ 64)).wf = false := by decide
theorem test_wf_firmware : (Instr.firmwareDataReceived 0 (List.replicate 4097 0) false).wf = false := by decide +kernel
theorem test_wf_epoch : (Instr.budgetEpoch [{ unit := 0, req := 1024 }] {}).wf = false := by decide
theorem test_wf_epoch_twice : (Instr.budgetEpoch [{ unit := 3 }, { unit := 3 }] {}).wf = false := by decide
theorem test_wf_upset : (Instr.budgetEpoch [] { ddr := [⟨16, 0, 0, {}⟩] }).wf = false := by decide

/-! ### Witnesses: the hypotheses of each obligation, clause by clause -/

def xsetW : Nat := wd [(1, 58), (0, 49), (7, 46), (0xFFFFFFFF, 0)]
def xaddW : Nat := wd [(1, 58), (1, 49), (7, 46), (7, 43), (0xFFFFFFFF, 0)]
def xmadW : Nat := wd [(1, 58), (2, 49), (0, 46), (7, 43), (1, 40), (0xFFFF, 0)]
def setlW : Nat := wd [(1, 58), (3, 49), (3, 47), (0xFFFF, 0)]
def setstrW : Nat := wd [(1, 58), (4, 49), (0x3FFF, 34), (1, 20), (63, 14)]
/-- X7 all ones. -/
def x7 (w : Nat) : State := slotW w fun t => { t with x := [(1, 5), (7, 0xFFFFFFFF)] }
def sbarmW : Nat := wd [(1, 58), (5, 49), (15, 45), (7, 42), (1, 28), (16384, 13)]
def setparamW : Nat := wd [(1, 58), (7, 49), (0, 46), (16383, 32)]
def loopW (off : Nat) : Nat := wd [(0x12, 58), (3, 51), (off, 39), (7, 36), (0xFFFF, 20), (0, 17), (0x8000, 1)]
def brW (cond off : Nat) : Nat := wd [(0x13, 58), (cond, 50), (7, 47), (1, 44), (off, 32)]
def haltW : Nat := wd [(0x14, 58)]
def waitW : Nat := wd [(0x0E, 58), (15, 49), (7, 46), (2, 22), (1, 20)]
def sigW (dest : Nat) : Nat := wd [(0x0F, 58), (15, 49), (dest, 41), (0xFFFF, 25)]
/-- Core 0 waits on scoreboard entry 15 since time 0 with limit code 1. -/
def waiting (us : Nat) : State := { slotW 0 (fun t => { t with st := .blocked, blk := .wait 15 1 1 0 }) with us := us }
def counted (n : W32) : State := { bw := fed, cores := [(0, { (coreOf 0).setSlot 0 { slot0 with st := .blocked, blk := .wait 15 1 1 0 } with sb := [(15, ⟨0, 0, n⟩)] })] }
/-- A signal of core 0 to core 143. -/
def flying : State := { fabric := [.sig 0 0 143 15 0xFFFF], bw := fed }
/-- A word of core 0's SEND that a bank of core 143 has accepted. -/
def queuedSend : State := { flying with cores := [(143, { spd := { pad with banks := [(15, { st := .on, queue := [⟨0, 16383, .write 5 false, 0⟩] })] } })] }

theorem witness_configInstructionsSetRegisters :
    (let s : State := (at0 xsetW)
     s.issues 0 0 Kind.xset xsetW = true) ∧
    (let s : State := (x7 xaddW)
     s.issues 0 0 Kind.xadd xaddW = true) ∧
    (let s : State := (x7 xmadW)
     s.issues 0 0 Kind.xmad xmadW = true) ∧
    (let s : State := (at0 setlW)
     s.issues 0 0 Kind.setl setlW = true) ∧
    (let s : State := (at0 setstrW)
     s.issues 0 0 Kind.setstr setstrW = true) := by
  and_intros <;> decide +kernel
theorem witness_controlFlowAndBarrier :
    (let s : State := (slotW sbarmW fun t => { t with dbase := 1, dbound := 16386 }); let k := s.core 0; let ts := k.slot 0
     s.issues 0 0 Kind.sbarm sbarmW = true ∧ ts.spOperand (bits sbarmW 44 42) (bits sbarmW 41 28) (bits sbarmW 27 13) = some 2) ∧
    (let s : State := (at0 setparamW); let k := s.core 0; let ts := k.slot 0
     s.issues 0 0 Kind.setparam setparamW = true ∧ ts.spOperand (bits setparamW 48 46) (bits setparamW 45 32) 0 = some 16383) ∧
    (let s : State := (slotW (loopW 15) fun t => { t with l := [(3, 1)], x := [(7, 1)] }); let w : Nat := (loopW 15); let k := s.core 0
     let ts := k.slot 0
     s.issues 0 0 Kind.loop w = true ∧ ts.target (bits w 50 39) = some 15) ∧
    (let s : State := (slotW (loopW 15) fun t => { t with l := [(3, 2)], x := [(7, 1)] }); let w : Nat := (loopW 15); let k := s.core 0
     let ts := k.slot 0
     s.issues 0 0 Kind.loop w = true ∧ ts.target (bits w 50 39) = some 15) ∧
    (let s : State := (at0 (loopW 0)); let w : Nat := (loopW 0); let k := s.core 0; let ts := k.slot 0
     s.issues 0 0 Kind.loop w = true ∧ ts.target (bits w 50 39) = some 0) ∧
    (let s : State := (x7 (brW 3 15)); let w : Nat := (brW 3 15); let k := s.core 0; let ts := k.slot 0
     s.issues 0 0 Kind.br w = true ∧ ts.target (bits w 43 32) = some 15) ∧
    (let s : State := (x7 (brW 5 0)); let w : Nat := (brW 5 0); let k := s.core 0; let ts := k.slot 0
     s.issues 0 0 Kind.br w = true ∧ ts.target (bits w 43 32) = some 0) ∧
    (let s : State := (at0 haltW); let k := s.core 0; let ts := k.slot 0
     s.issues 0 0 Kind.halt haltW = true ∧ ts.held = none ∧ ts.variant = none) := by
  and_intros <;> decide +kernel
theorem witness_waitAndSignal :
    (let s : State := (x7 waitW)
     s.issues 0 0 Kind.wait waitW = true) ∧
    (let s : State := (with0 waitW fun k => { k with sb := [(15, ⟨0, 0, 2⟩)] })
     s.issues 0 0 Kind.wait waitW = true) ∧
    (let s : State := (counted 1); let k := s.core 0; let ts := k.slot 0
     ts.blk = Blk.wait 15 (1 : W32) 1 0 ∧ s.canIssue 0 = true ∧ k.reached 15 (1 : W32) = true) ∧
    (let s : State := (waiting 10); let k := s.core 0; let ts := k.slot 0
     ts.blk = Blk.wait 15 (1 : W32) 1 0 ∧ k.reached 15 (1 : W32) = false ∧ waitLimit 1 = some 10 ∧ 0 + 10 ≤ s.us) ∧
    (let s : State := (at0 (sigW 0)); let w : Nat := (sigW 0)
     s.issues 0 0 Kind.sig w = true ∧ (bits w 48 41 = 255 ∨ bits w 48 41 = 0)) ∧
    (let s : State := (at0 (sigW 0xFF)); let w : Nat := (sigW 0xFF)
     s.issues 0 0 Kind.sig w = true ∧ (bits w 48 41 = 255 ∨ bits w 48 41 = 0)) ∧
    (let s : State := (at0 (sigW 143)); let w : Nat := (sigW 143); let k := s.core 0
     s.issues 0 0 Kind.sig w = true ∧ bits w 48 41 ≠ 255 ∧ bits w 48 41 ≠ 0 ∧ k.ue = false) ∧
    (let s : State := flying; let fs : List Flight := []
     takeSig 0 0 143 s.fabric = some ((15, 0xFFFF), fs) ∧ (s.core 143).spd.sendQueued 0 = false ∧ s.carries 0 3 = true ∧ s.fenced 143 = false ∧
       (s.core 143).inReset = false) ∧
    (let s : State := {}; takeSig 0 0 143 s.fabric = none) ∧
    (let s : State := queuedSend; (s.core 143).spd.sendQueued 0 = true) ∧
    (let s : State := (waiting 10); let k := s.core 0; let ts := k.slot 0
     ts.st = SlotSt.blocked ∧ ts.blk = Blk.wait 15 (1 : W32) 1 0 ∧ (∀ u < 4, u ≠ 0 → (k.slot u).st ≠ SlotSt.ready ∧ (k.slot u).st ≠ SlotSt.blocked) ∧
       s.fenced 0 = false ∧ k.inReset = false ∧ k.logicOff = false) ∧
    (let s : State := (flying.modCore 143 fun k => { k with inReset := true }); let fs : List Flight := []
     takeSig 0 0 143 s.fabric = some ((15, 0xFFFF), fs) ∧ (s.core 143).spd.sendQueued 0 = false ∧ s.carries 0 3 = true ∧
       (s.fenced 143 = true ∨ (s.core 143).inReset = true)) := by
  and_intros <;> decide +kernel

/-- A core with an instruction in a unit. -/
def inUnitS (u : UnitName) (b : Busy) (f : TaskSlot → TaskSlot) : State := with0 0 fun k => (k.setUnit u (some b)).modSlot 0 f
def ldrqW : Nat := wd [(1, 58), (1, 57), (15, 53), (6, 49), (0, 46), (16256, 32)]
/-- Slot 0 configuration: valid INT 2 by INT 2, scaled weights and activations in groups of 128, output INT 8. -/
def cfgK (i o : W32) (k : Core) : Core := { k with engIn := [(1, i)], engOut := [(1, o)] }
def ldwW : Nat := wd [(2, 58), (1, 57), (3, 53), (1, 49), (0, 47), (0, 44), (0, 30), (0, 16), (1024, 2)]
/-- Scales of 256 rows of two groups, BSEQ 0 and 1. -/
def scales : Tab W256 := (List.range 32).map fun i => (1024 + i, packFields 16 ((List.range 16).map fun j => 7 + 256 * (j % 2)))
def ldwS : State := with0 ldwW fun k => cfgK 0x80682202 0 { k with spd := { pad with words := [(0, 5), (1023, 6)] ++ scales } }
def strmW (apb : Nat) : Nat := wd [(3, 58), (1, 57), (3, 53), (1, 49), (0, 47), (0, 44), (8, 30), (15, 26), (apb, 25), (2, 19), (0, 16), (0x20, 2), (1, 1)]
def strmS (i : W32) : State := with0 (strmW 0) fun k => cfgK i 0 { k with spd := { pad with words := [(8, 0xFFFF), (0x20, 0x0105), (9, 0xF0F0)] }, flat := { planes := [(0, 0xFF), (1, 0x0F), (8, 1)] } }
def rqntW (dst : Nat) : Nat := wd [(6, 58), (1, 57), (3, 53), (dst, 51), (0, 48), (1, 34), (15, 30), (1, 24)]

def rqntS (dst : Nat) (ofmt : W32) : State := with0 (rqntW dst) fun k => { cfgK 0x80002200 ofmt k with tags := [(15, 0x22001)], acc := [(2048 * 15, 1000), (2048 * 15 + 1, -7), (2048 * 15 + 255, -100000)], rq := [(0, ⟨0x40000000, 31, 1⟩), (255, ⟨3, 0, 0⟩)], slots := [(0, { slot0 with rowl := 2 })] }

/-- Core 0 with slots 0 and 1 READY at an XSET of X7; slot `last` issued last. -/
def twoReady (last : Nat) : State := with0 xsetW fun k => { k with slots := [(0, slot0), (1, slot0)], lastIssue := last }
theorem witness_completionFreezeAndSlots :
    (let s : State := (inUnitS .array { slot := 0, async := true, sb := 15, due := 7, op := 3, wb := [(4, 9)] } fun t => { t with async := 1 }); let k := s.core 0
     let u : UnitName := .array; let b : Busy := ({ slot := 0, async := true, sb := 15, due := 7, op := 3, wb := [(4, 9)] })
     k.inUnit u = some b ∧ b.async = true ∧ b.op ≠ 0 ∧ s.mayComplete 0 u b = true) ∧
    (let s : State := (inUnitS .load { slot := 0, async := false, sb := 0, due := 7, op := 2 } fun t => { t with st := .blocked, blk := .unit .load })
     let k := s.core 0; let u : UnitName := .load; let b : Busy := ({ slot := 0, async := false, sb := 0, due := 7, op := 2 })
     k.inUnit u = some b ∧ b.async = false ∧ s.mayComplete 0 u b = true ∧ (k.slot b.slot).st = SlotSt.blocked ∧ (k.slot b.slot).blk = Blk.unit u) ∧
    (let s : State := (slotW 0 fun t => { t with st := .halted }); let k := s.core 0
     k.running = false) ∧
    (let s : State := (with0 0 fun k => { k with progress := true, hbeat := 255 }); let k := s.core 0
     s.fenced 0 = false ∧ k.inReset = false ∧ k.logicOff = false) ∧
    (let s : State := (at0 0); let k := s.core 0; let ts := k.slot 1
     s.fenced 0 = false ∧ k.inReset = false ∧ k.logicOff = false ∧ ts.st ≠ SlotSt.ready ∧ ts.st ≠ SlotSt.blocked) ∧
    (let s : State := (slotW 0 fun t => { t with st := .halted }); let k := s.core 0; let ts := k.slot 0
     ts.st ≠ SlotSt.ready ∧ ts.st ≠ SlotSt.blocked) ∧
    (let s : State := (slotW 0 fun t => { t with st := .blocked, blk := .wait 1 1 0 0 }); let k := s.core 0; let ts := k.slot 0
     (ts.st = SlotSt.ready ∨ ts.st = SlotSt.blocked ∧ ∀ u, ts.blk ≠ Blk.unit u) ∧ ts.held = none) ∧
    (let s : State := (slotW 0 fun t => { t with st := .blocked, blk := .unit .load }); let k := s.core 0; let ts := k.slot 0
     ts.st = SlotSt.blocked ∧ ts.held = none ∧ ts.blk = Blk.unit .load) ∧
    (let s : State := (slotW 0 fun t => { t with st := .stopped, blk := .drain true }); let k := s.core 0; let ts := k.slot 0
     ts.st = SlotSt.stopped ∧ ts.blk = Blk.drain true ∧ ts.async = 0 ∧ s.fenced 0 = false ∧ k.inReset = false) ∧
    (let s : State := (with0 (sigW 143) fun k => { k with ue := true }); let w : Nat := (sigW 143); let k := s.core 0
     s.issues 0 0 Kind.sig w = true ∧ bits w 48 41 ≠ 255 ∧ bits w 48 41 ≠ 0 ∧ k.ue = true) ∧
    (let s : State := twoReady 0
     s.turn 0 0 = false) := by
  and_intros
  all_goals first | decide +kernel | exact .inr ⟨by decide +kernel, fun u => by cases u <;> decide +kernel⟩
theorem witness_weightLoads :
    (let s : State := (with0 ldrqW fun k => { k with spd := { pad with words := [(16256, 77), (16383, 0x12345678123456781234567812345678)] } })
     let k := s.core 0; let ts := k.slot 0; let r := State.spdReads 0 (List.map (fun x => 16256 + x) (List.range 128)) s
     s.issues 0 0 Kind.ldrq ldrqW = true ∧ spRange ts k.spd (bits ldrqW 48 46) (bits ldrqW 45 32) 128 = some 16256 ∧ poisoned r.1 = false) ∧
    (let s : State := ldwS; let k := s.core 0; let ts := k.slot 0; let ups : List Upset := []; let ue : Bool := false
     let q := k.cfg (bits ldwW 52 49); let reef := onReef q (bits ldwW 48 47) ts.held; let n := segments q reef
     let words := 256 * rowWords q reef
     let r := State.spdReads 0 (List.map (fun x => 0 + x) (List.range words) ++ if q.wscale = true then List.map (fun x => 1024 + x) (List.range (16 * n))
          else []) (State.modCore 0 (fun k => { k with ue := k.ue || ue }) (State.upset 0 ups s))
     let sc := datas (List.drop words r.1)
     s.issues 0 0 Kind.ldw ldwW = true ∧ q.valid = true ∧ (∀ (x : Busy), k.inUnit UnitName.array = some x → x.reef ≠ reef) ∧ spRange ts k.spd (bits ldwW 46
        44) (bits ldwW 43 30) words = some 0 ∧ (if q.wscale = true then spRange ts k.spd (bits ldwW 18 16) (bits ldwW 15 2) (16 * n) else some 0) =
        some 1024 ∧ poisoned r.1 = false ∧ (q.wscale = true → ∀ row < 256, ∀ g < n, (scaleEntry sc (row * n + g)).2 = (0 * n + g) % 16)) := by
  and_intros <;> decide +kernel
theorem no_fault {α β γ} (x : Option α × β × γ) (h : x.1 = none) : x = (none, x.2.1, x.2.2) := by
  obtain ⟨a, b, c⟩ := x; cases h; rfl

theorem witness_streamPassAndRequantise :
    (let s : State := (strmS 0x80002200); let w : Nat := (strmW 0); let k := s.core 0; let ts := k.slot 0; let ups : List Upset := []
     let ue : Bool := false; let q := k.cfg (bits w 52 49); let reef := onReef q (bits w 48 47) ts.held; let nv := nvecOf (bits w 24 19)
     let planes := (if reef = true then 2 else 1) * q.planesA
     let m : Strm :=
          { q := q, reef := reef, apb := bit w 25, plane := 8, scale := 0, stride := ts.vstr, blk := bits w 29 26, first := bit w 1, tag := q.tag k.censExp, vm := ts.vm, bound := (match ts.held with | some h => h.depth - 0 * if reef = true then 512 else 256 | none => 512), slice := 0 }
     let st := (s.upset 0 ups).modCore 0 fun k => { k with ue := k.ue || ue }
     s.issues 0 0 Kind.strm w = true ∧ q.valid = true ∧ (fun xr imm n => if bit w 25 = true then apbVectors ts xr imm n nv ts.vstr else spVectors ts k.spd
        xr imm n nv ts.vstr) (bits w 46 44) (bits w 43 30) planes = some 8 ∧ (if q.ascale = true then (fun xr imm n => if bit w 25 = true then
        apbVectors ts xr imm n nv ts.vstr else spVectors ts k.spd xr imm n nv ts.vstr) (bits w 18 16) (bits w 15 2) 1 else some 0) = some 0 ∧ ts.accOk
        (bits w 29 26) (ceilDiv nv 8) = true ∧ m.run 0 (List.range nv) [] st = (none, (m.run 0 (List.range nv) [] st).2.1, (m.run 0 (List.range nv) [] st).2.2)) ∧
    (let s : State := (rqntS 0 0x80); let w : Nat := (rqntW 0); let k := s.core 0; let ts := k.slot 0; let nv := nvecOf (bits w 29 24)
     let blk := bits w 33 30; let tag := Tab.get 0 k.tags blk; let q := k.cfg (bits (BitVec.toNat tag) 3 0); let dst := bits w 52 51
     let block := BitVec.toNat (ts.getX (bits w 50 48)) + bits w 47 34
     s.issues 0 0 Kind.rqnt w = true ∧ ts.accOk blk (ceilDiv nv 8) = true ∧ (∀ i < ceilDiv nv 8, Tab.get 0 k.tags (blk + i) = tag) ∧ q.valid = true ∧ bits
        (BitVec.toNat tag) 15 12 ≠ 0 ∧ (dst = 0 → spVectors ts k.spd (bits w 50 48) (bits w 47 34) q.outWords nv ts.ostr = some 1) ∧ (dst = 1 →
        apbVectors ts (bits w 50 48) (bits w 47 34) q.outWords nv ts.ostr = some 1 ∧ ts.fusedBarred = false) ∧ (dst = 2 → q.ofmt = 6 ∧ block <
        ts.blocks ∧ ts.blocks * 256 * nv ≤ 16384) ∧ dst = 0) ∧
    (let s : State := (rqntS 1 0x80); let w : Nat := (rqntW 1); let k := s.core 0; let ts := k.slot 0; let nv := nvecOf (bits w 29 24)
     let blk := bits w 33 30; let tag := Tab.get 0 k.tags blk; let q := k.cfg (bits (BitVec.toNat tag) 3 0); let dst := bits w 52 51
     let block := BitVec.toNat (ts.getX (bits w 50 48)) + bits w 47 34
     s.issues 0 0 Kind.rqnt w = true ∧ ts.accOk blk (ceilDiv nv 8) = true ∧ (∀ i < ceilDiv nv 8, Tab.get 0 k.tags (blk + i) = tag) ∧ q.valid = true ∧ bits
        (BitVec.toNat tag) 15 12 ≠ 0 ∧ (dst = 0 → spVectors ts k.spd (bits w 50 48) (bits w 47 34) q.outWords nv ts.ostr = some 1) ∧ (dst = 1 →
        apbVectors ts (bits w 50 48) (bits w 47 34) q.outWords nv ts.ostr = some 1 ∧ ts.fusedBarred = false) ∧ (dst = 2 → q.ofmt = 6 ∧ block <
        ts.blocks ∧ ts.blocks * 256 * nv ≤ 16384) ∧ dst = 1) ∧
    (let s : State := (rqntS 2 0x86); let w : Nat := (rqntW 2); let k := s.core 0; let ts := k.slot 0; let nv := nvecOf (bits w 29 24)
     let blk := bits w 33 30; let tag := Tab.get 0 k.tags blk; let q := k.cfg (bits (BitVec.toNat tag) 3 0); let dst := bits w 52 51
     let block := BitVec.toNat (ts.getX (bits w 50 48)) + bits w 47 34
     s.issues 0 0 Kind.rqnt w = true ∧ ts.accOk blk (ceilDiv nv 8) = true ∧ (∀ i < ceilDiv nv 8, Tab.get 0 k.tags (blk + i) = tag) ∧ q.valid = true ∧ bits
        (BitVec.toNat tag) 15 12 ≠ 0 ∧ (dst = 0 → spVectors ts k.spd (bits w 50 48) (bits w 47 34) q.outWords nv ts.ostr = some 0) ∧ (dst = 1 →
        apbVectors ts (bits w 50 48) (bits w 47 34) q.outWords nv ts.ostr = some 0 ∧ ts.fusedBarred = false) ∧ (dst = 2 → q.ofmt = 6 ∧ block <
        ts.blocks ∧ ts.blocks * 256 * nv ≤ 16384) ∧ dst = 2) := by
  and_intros
  all_goals first | exact no_fault _ (by decide +kernel) | decide +kernel

/-- An index list in one word. -/
def listW (xs : List Nat) : W256 := packFields 32 (xs.length :: xs)
def scatW (mode : Nat) : Nat := wd [(5, 58), (1, 57), (3, 53), (mode, 49), (8, 32), (0, 15), (3, 3)]
def scatS (mode : Nat) : State := with0 (scatW mode) fun k => { k with spd := { pad with words := [(0, listW [32767, 16, 16]), (8, packFields 64 [5, 2 ^ 64 - 1, 2 ^ 63])] }, tags := [(0, 5)], acc := [(16, 0xFFFFFFFFFFFFFFFF)] }
def vaddW : Nat := wd [(5, 58), (1, 57), (3, 53), (2, 49), (2, 32), (0, 15), (2, 3)]
def vaddS : State := with0 vaddW fun k => { k with spd := { pad with words := [(0, listW [127, 0])] }, tags := [(0, 5), (2, 5), (15, 5)], acc := [(2048 * 2, 9), (2048 * 2 + 256, 8), (2048 * 2 + 511, 7)] }
def imageW (mode : Nat) : Nat := wd [(5, 58), (1, 57), (3, 53), (mode, 49), (1, 32), (15, 15), (1, 3)]
def gathW (mode win : Nat) : Nat := wd [(4, 58), (1, 57), (3, 53), (mode, 49), (0, 32), (256, 15), (2, 3), (win, 0)]
/-- Window 7 onto core 143 and a list of two items. -/
def gathS (mode : Nat) (o : Nat) : State := with0 (gathW mode 7) fun k => { k with slots := [(0, { slot0 with rowl := 1, ostr := o, vstr := 20 })], spd := { pad with words := [(0, listW [5, 0])], wins := [(7, { kind := 1, rd := true, tcore := 143, base := 3, size := 256 })] } }
def packS (mode o : Nat) : State := with0 (gathW mode 0) fun k => { k with slots := [(0, { slot0 with rowl := 1, ostr := o, vstr := 20 })], spd := { pad with words := [(0, 0x800000000000000000000000000000007), (1, 5), (3, 0xF0000001), (20, 0x7FFFFFFF)] } }
def fillW : Nat := wd [(0xB, 58), (1, 57), (3, 53), (0, 45), (16380, 31), (0xBEEF, 12), (4, 0)]
def copyW (dir win : Nat) : Nat := wd [(0xC, 58), (1, 57), (3, 53), (dir, 51), (win, 48), (0, 45), (16380, 31), (1, 12), (4, 0)]
def sendW : Nat := wd [(0xD, 58), (1, 57), (3, 53), (7, 48), (0, 45), (16380, 31), (1, 12), (4, 0)]
def winS (w : Nat) (x : Win) : State := { (with0 w fun k => { k with spd := { pad with words := [(1, 1), (2, 2), (16383, 3)], wins := [(7, x)] } }) with plm := { hdmGib := 16, ready := true } }

theorem witness_scatterResults :
    (∀ x ∈ [(Kind.scatAdd32, 32, Instr.scatAdd32 (0 : CoreId) (0 : SlotId)), (Kind.scatAdd64, 64, Instr.scatAdd64 (0 : CoreId) (0 : SlotId))],
      let mode := x.2.1 / 64
      let s : State := scatS mode; let w : Nat := scatW mode; let k := s.core 0; let ts := k.slot 0; let cap := bits w 14 3
      let es := [32767, 16, 16]; let s1 := (s.indexList 0 0 cap).2
      let r := s1.spdReads 0 ((List.range (ceilDiv (es.length * x.2.1) 256)).map (8 + ·))
      let us := es.zip ((List.range es.length).map fun i => sext (fieldAt ((datas r.1).getD (i * x.2.1 / 256) 0) x.2.1 (i % (256 / x.2.1))) x.2.1)
      s.issues 0 0 x.1 w = true ∧ spRange ts k.spd (bits w 48 46) (bits w 45 32) (ceilDiv (cap * x.2.1) 256) = some 8 ∧
        spRange ts k.spd (bits w 31 29) (bits w 28 15) (listWords cap) = some 0 ∧ s.indexList 0 0 cap = (.ok es, s1) ∧ poisoned r.1 = false ∧
        ∀ u ∈ us, u.1 < 32768 ∧ ts.accOk (u.1 / 2048) 1 = true) ∧
    (let s : State := vaddS; let k := s.core 0; let ts := k.slot 0; let cap := bits vaddW 14 3; let us := [127, 0]; let s1 := (s.indexList 0 0 cap).2
     s.issues 0 0 .scatVadd vaddW = true ∧ spRange ts k.spd (bits vaddW 31 29) (bits vaddW 28 15) (listWords cap) = some 0 ∧
       s.indexList 0 0 cap = (.ok us, s1) ∧ (scatVadds ts (bits vaddW 35 32) (us.mapIdx fun i u => (i, u)) [] (s1.core 0)).1 = none) ∧
    (let s : State := vaddS; let h := s.spdReads 0 [0]; let n := listEntry (datas h.1) 0; let s1 := h.2.modCore 0 (Core.freezeFor (ce2At h.1) [])
     poisoned h.1 = false ∧ n ≤ 3 ∧ poisoned (s1.spdReads 0 ((List.range (listWords n - 1)).map (0 + 1 + ·))).1 = false) ∧
    (let s : State := (with0 (imageW 3) fun k => { k with spd := { pad with words := [(1, 0xFFFFFFFF), (513, 3 <<< 192)] } })
     let w : Nat := (imageW 3); let k := s.core 0; let ts := k.slot 0; let cap := bits w 14 3
     s.issues 0 0 Kind.scatLoad w = true ∧ spRange ts k.spd (bits w 48 46) (bits w 45 32) (513 * cap) = some 1 ∧ ts.accOk (bits w 18 15) cap = true ∧
        poisoned (State.spdReads 0 ((List.range (513 * cap)).map (1 + ·)) s).1 = false) ∧
    (let s : State := (with0 (imageW 4) fun k => { k with tags := [(15, 5)], acc := [(2048 * 15 + 2047, 3)] }); let w : Nat := (imageW 4)
     let k := s.core 0; let ts := k.slot 0; let cap := bits w 14 3
     s.issues 0 0 Kind.scatStore w = true ∧ spRange ts k.spd (bits w 48 46) (bits w 45 32) (513 * cap) = some 1 ∧ ts.accOk (bits w 18 15) cap = true) := by
  and_intros <;> decide +kernel
theorem witness_gatherResults :
    (let s : State := (gathS 0 1); let w : Nat := (gathW 0 7); let k := s.core 0; let ts := k.slot 0; let o := ts.ostr; let n := ts.blocks
     let cap := bits w 14 3; let items : List Nat := ([5, 0]); let s1 : State := (s.indexList 0 0 cap).2
     let fs : List Fetch := (items.mapIdx fun i x => (i, x)).flatMap fun (x : Nat × Nat) => (List.range n).flatMap fun l =>
      (List.range o).map fun j => (x.2 * ts.vstr + l * o + j, Landing.word (256 + (x.1 / 256 * n + l) * 256 * o + x.1 % 256 * o + j))
     s.issues 0 0 Kind.gathRow w = true ∧ 1 ≤ o ∧ o ≤ 18 ∧ spRange ts k.spd (bits w 48 46) (bits w 45 32) (listWords cap) = some 0 ∧
       spRange ts k.spd (bits w 31 29) (bits w 28 15) (ceilDiv cap 256 * n * 256 * o) = some 256 ∧ s.indexList 0 0 cap = (.ok items, s1) ∧
       s1.fetchable 0 (bits w 2 0) fs = (fs, false) ∧ s1.fetchWorks 0 (bits w 2 0) fs = true ∧ s1.fetchLines 0 (bits w 2 0) fs = []) ∧
    (let s : State := (gathS 1 1); let w : Nat := (gathW 1 7); let k := s.core 0; let ts := k.slot 0; let o := ts.ostr; let n := ts.blocks
     let cap := bits w 14 3; let items : List Nat := ([5, 0]); let s1 : State := (s.indexList 0 0 cap).2
     let fs : List Fetch := (items.mapIdx fun i x => (i, x)).flatMap fun (x : Nat × Nat) => (List.range n).flatMap fun b =>
      (List.range o).map fun p => (x.2 * ts.vstr + b * o + p, Landing.lane (256 + (b * ceilDiv items.length 256 + x.1 / 256) * 256 * o) o p (x.1 % 256))
     s.issues 0 0 Kind.gathLane w = true ∧ 1 ≤ o ∧ o ≤ 8 ∧ spRange ts k.spd (bits w 48 46) (bits w 45 32) (listWords cap) = some 0 ∧
       spRange ts k.spd (bits w 31 29) (bits w 28 15) (ceilDiv cap 256 * n * 256 * o) = some 256 ∧ s.indexList 0 0 cap = (.ok items, s1) ∧
       s1.fetchable 0 (bits w 2 0) fs = (fs, false) ∧ s1.fetchWorks 0 (bits w 2 0) fs = true ∧ s1.fetchLines 0 (bits w 2 0) fs = []) ∧
    (let s : State := (packS 2 2); let w : Nat := (gathW 2 0); let k := s.core 0; let ts := k.slot 0; let o := ts.ostr; let n := ts.blocks
     let cap := bits w 14 3; let signed : Bool := true; let per := 2 * o + 2
     s.issues 0 0 (if signed = true then Kind.gathPack else Kind.gathPacku) w = true ∧ (if signed = true then 2 else 1) ≤ o ∧ o ≤ 8 ∧ spVectors ts k.spd
        (bits w 48 46) (bits w 45 32) (n * per) cap ts.vstr = some 0 ∧ spRange ts k.spd (bits w 31 29) (bits w 28 15) (n * 256 * (o + 2)) = some 256) ∧
    (let s : State := (packS 3 1); let w : Nat := (gathW 3 0); let k := s.core 0; let ts := k.slot 0; let o := ts.ostr; let n := ts.blocks
     let cap := bits w 14 3; let signed : Bool := false; let per := 2 * o + 2
     s.issues 0 0 (if signed = true then Kind.gathPack else Kind.gathPacku) w = true ∧ (if signed = true then 2 else 1) ≤ o ∧ o ≤ 8 ∧ spVectors ts k.spd
        (bits w 48 46) (bits w 45 32) (n * per) cap ts.vstr = some 0 ∧ spRange ts k.spd (bits w 31 29) (bits w 28 15) (n * 256 * (o + 2)) = some 256) := by
  and_intros <;> decide +kernel
theorem witness_moveUnit :
    (let s : State := (at0 fillW); let k := s.core 0; let ts := k.slot 0; let n := wordCount fillW
     s.issues 0 0 Kind.fill fillW = true ∧ spRange ts k.spd (bits fillW 47 45) (bits fillW 44 31) n = some 16380) ∧
    (let s : State := (winS (copyW 0 0) {}); let w : Nat := (copyW 0 0); let k := s.core 0; let ts := k.slot 0; let n := wordCount w
     s.issues 0 0 Kind.copyLocal w = true ∧ spRange ts k.spd (bits w 47 45) (bits w 44 31) n = some 16380 ∧ spRange ts k.spd (bits w 30 28) (bits w 27 12)
        n = some 1) ∧
    (let s : State := (winS (copyW 1 7) { kind := 1, rd := true, tcore := 3, size := 5 }); let w : Nat := (copyW 1 7); let k := s.core 0
     let ts := k.slot 0; let n := wordCount w; let off := BitVec.toNat (ts.getX (bits w 30 28)) + bits w 27 12
     let fs := List.map (fun i => (off + i, Landing.word (16380 + i))) (List.range n)
     s.issues 0 0 Kind.copyWindow w = true ∧ spRange ts k.spd (bits w 47 45) (bits w 44 31) n = some 16380 ∧ State.fetchable 0 (bits w 50 48) fs s = (fs,
        false) ∧ s.fetchWorks 0 (bits w 50 48) fs = true ∧ State.fetchLines 0 (bits w 50 48) fs s = []) ∧
    (let s : State := (winS (copyW 1 7) { kind := 3, rd := true, base := 0, size := 5 }); let w : Nat := (copyW 1 7); let k := s.core 0
     let ts := k.slot 0; let n := wordCount w; let off := BitVec.toNat (ts.getX (bits w 30 28)) + bits w 27 12
     let fs := List.map (fun i => (off + i, Landing.word (16380 + i))) (List.range n)
     s.issues 0 0 Kind.copyWindow w = true ∧ spRange ts k.spd (bits w 47 45) (bits w 44 31) n = some 16380 ∧ State.fetchable 0 (bits w 50 48) fs s = (fs,
        false) ∧ s.fetchWorks 0 (bits w 50 48) fs = true ∧ State.fetchLines 0 (bits w 50 48) fs s = []) ∧
    (let s : State := (winS sendW { kind := 2, wr := true, mask := 9, size := 5 }); let k := s.core 0; let ts := k.slot 0
     let n := wordCount sendW; let off := BitVec.toNat (ts.getX (bits sendW 30 28)) + bits sendW 27 12
     let u : State := (State.sendAll 0 0 7 1 (State.spdReads 0 [16380, 16381, 16382, 16383] (winS sendW { kind := 2, wr := true, mask := 9, size := 5 })).1
          (winS sendW { kind := 2, wr := true, mask := 9, size := 5 })).2
     let r := State.spdReads 0 (List.map (fun x => 16380 + x) (List.range n)) s
     s.issues 0 0 Kind.send sendW = true ∧ spRange ts k.spd (bits sendW 47 45) (bits sendW 44 31) n = some 16380 ∧ s.sendWorks 0 (bits sendW 50 48) off n = true ∧ State.sendAll 0 0 (bits sendW 50 48) off
        r.1 (State.modCore 0 (Core.freezeFor (ce2At r.1) []) r.2) = (false, u)) ∧
    (let s : State := (winS sendW { kind := 3, wr := true, size := 5 }); let k := s.core 0; let ts := k.slot 0; let n := wordCount sendW
     let off := BitVec.toNat (ts.getX (bits sendW 30 28)) + bits sendW 27 12
     let u : State := (State.sendAll 0 0 7 1 (State.spdReads 0 [16380, 16381, 16382, 16383] (winS sendW { kind := 3, wr := true, size := 5 })).1 (winS
          sendW { kind := 3, wr := true, size := 5 })).2
     let r := State.spdReads 0 (List.map (fun x => 16380 + x) (List.range n)) s
     s.issues 0 0 Kind.send sendW = true ∧ spRange ts k.spd (bits sendW 47 45) (bits sendW 44 31) n = some 16380 ∧ s.sendWorks 0 (bits sendW 50 48) off n = true ∧ State.sendAll 0 0 (bits sendW 50 48) off
        r.1 (State.modCore 0 (Core.freezeFor (ce2At r.1) []) r.2) = (false, u)) := by
  and_intros <;> decide +kernel

/-- A ROWF word: function, vectors, destination. -/
def rowfW (func nv dst : Nat) : Nat := wd [(7, 58), (1, 57), (3, 53), (func, 49), (nv, 43), (dst, 41), (0, 38), (1, 24), (1, 20), (2, 14)]
def rowS (w : Nat) (i : W32) : State := with0 w fun k => { k with engIn := [(1, i)], slots := [(0, { slot0 with rowl := 1, param := 600 })], row := [(0, 0x3F800000), (255, 0xC0400000)], spd := { pad with words := [(600, 0x3F800000)] } }
def censW : Nat := wd [(8, 58), (1, 57), (3, 53), (1, 49), (1, 43), (0, 41), (0, 38), (1, 24), (0, 20), (100, 6), (2, 1)]
def predW : Nat := wd [(9, 58), (1, 57), (3, 53), (0, 52), (1, 51), (3, 49), (0, 46), (16382, 32), (0, 29), (0, 15), (1, 3)]
def predS : State := with0 predW fun k => { k with slots := [(0, { slot0 with rowl := 1, param := 600 })], flat := { planes := [(8, 0xFF)] }, spd := { pad with words := [(600, BitVec.ofNat 256 (256 * 2 ^ 160 + 2 ^ 169 + 0xFFFFFFFF * 2 ^ 128 + 2 ^ 96)), (16382, 0xF0F), (16383, 0x11)] } }
def deltaW (key : Nat) : Nat := wd [(10, 58), (1, 57), (3, 53), (key, 49), (0, 46), (16382, 32), (0, 29), (16, 15), (1, 3)]
/-- One vector of one block at BA 2, an area with a valid header at word 16, and a frame at word 16,382. -/
def deltaS (key : Nat) (hdr : W256) : State := with0 (deltaW key) fun k => { k with slots := [(0, { slot0 with rowl := 1 })], spd := { pad with words := [(16, hdr), (26, 5), (16382, 3), (16383, 2)] } }
def takeW : Nat := wd [(0x10, 58), (3, 47), (2, 35)]
/-- Slot 0 of core 0 waits at counter 3, which holds `q`. -/
def takeS (q : Counter) : State := { slotW 0 fun t => { t with st := .blocked, blk := .take 3 2 } with dies := [(0, { ctrs := [(3, q)] })] }
def doneW : Nat := wd [(0x11, 58)]
/-- A held tile: tile 7 of posting 1 on counter 3. -/
def held7 : Held := { tile := 7, gen := 0x100, ctr := 3 }
/-- A commit of tile 7 on its way, to a lease of tile `tile`. -/
def commitS (tile : W32) : State := { slotW 0 fun t => { t with st := .blocked, blk := .done, held := some held7, commit := .sent 7 0x100 3 5 } with dies := [(0, { ctrs := [(3, { st := .closed, total := 9, i := 1, jcnt := 9, pseq := 1 })], leases := [(0, Lease.make tile 0x100 (leaseCtl 1 3 0))] })] }

theorem witness_rowFunctionAndCensus :
    (let s : State := (rowS (rowfW 0 1 0) 0x80002200); let w : Nat := (rowfW 0 1 0); let k := s.core 0; let ts := k.slot 0
     let n := ts.blocks * 256; let nv := nvecOf (bits w 48 43); let func := bits w 52 49; let dst := bits w 42 41
     let apb := decide (dst % 2 = 1); let cens := decide (2 ≤ dst); let q := k.cfg (bits w 23 20); let out := vectorWords q cens n
     let pw := if func = 2 then ceilDiv nv 4 else paramWords func n
     let r := State.spdReads 0 (if func = 2 then [] else List.map (fun x => ts.param + x) (List.range pw)) s
     s.issues 0 0 Kind.rowf w = true ∧ q.valid = true ∧ n * nv ≤ 16384 ∧ (cens = true → q.afmt < 2 ∧ q.gsize ≠ 0) ∧ (if apb = true then apbVectors ts (bits
        w 40 38) (bits w 37 24) out nv ts.ostr else spVectors ts k.spd (bits w 40 38) (bits w 37 24) out nv ts.ostr) = some 1 ∧ (pw = 0 ∨ ts.dbase ≤
        ts.param ∧ ts.param + pw ≤ ts.dbound ∧ k.spd.mapped ts.param pw = true) ∧ (apb = true → ts.fusedBarred = false) ∧ poisoned r.1 = false) ∧
    (let s : State := (rowS (rowfW 2 4 1) 0x80002200); let w : Nat := (rowfW 2 4 1); let k := s.core 0; let ts := k.slot 0
     let n := ts.blocks * 256; let nv := nvecOf (bits w 48 43); let func := bits w 52 49; let dst := bits w 42 41
     let apb := decide (dst % 2 = 1); let cens := decide (2 ≤ dst); let q := k.cfg (bits w 23 20); let out := vectorWords q cens n
     let pw := if func = 2 then ceilDiv nv 4 else paramWords func n
     let r := State.spdReads 0 (if func = 2 then [] else List.map (fun x => ts.param + x) (List.range pw)) s
     s.issues 0 0 Kind.rowf w = true ∧ q.valid = true ∧ n * nv ≤ 16384 ∧ (cens = true → q.afmt < 2 ∧ q.gsize ≠ 0) ∧ (if apb = true then apbVectors ts (bits
        w 40 38) (bits w 37 24) out nv ts.ostr else spVectors ts k.spd (bits w 40 38) (bits w 37 24) out nv ts.ostr) = some 1 ∧ (pw = 0 ∨ ts.dbase ≤
        ts.param ∧ ts.param + pw ≤ ts.dbound ∧ k.spd.mapped ts.param pw = true) ∧ (apb = true → ts.fusedBarred = false) ∧ poisoned r.1 = false) ∧
    (let s : State := (rowS (rowfW 0 1 2) 0x80748800); let w : Nat := (rowfW 0 1 2); let k := s.core 0; let ts := k.slot 0
     let n := ts.blocks * 256; let nv := nvecOf (bits w 48 43); let func := bits w 52 49; let dst := bits w 42 41
     let apb := decide (dst % 2 = 1); let cens := decide (2 ≤ dst); let q := k.cfg (bits w 23 20); let out := vectorWords q cens n
     let pw := if func = 2 then ceilDiv nv 4 else paramWords func n
     let r := State.spdReads 0 (if func = 2 then [] else List.map (fun x => ts.param + x) (List.range pw)) s
     s.issues 0 0 Kind.rowf w = true ∧ q.valid = true ∧ n * nv ≤ 16384 ∧ (cens = true → q.afmt < 2 ∧ q.gsize ≠ 0) ∧ (if apb = true then apbVectors ts (bits
        w 40 38) (bits w 37 24) out nv ts.ostr else spVectors ts k.spd (bits w 40 38) (bits w 37 24) out nv ts.ostr) = some 1 ∧ (pw = 0 ∨ ts.dbase ≤
        ts.param ∧ ts.param + pw ≤ ts.dbound ∧ k.spd.mapped ts.param pw = true) ∧ (apb = true → ts.fusedBarred = false) ∧ poisoned r.1 = false) ∧
    (let s : State := (rowS censW 0x80708800); let k := s.core 0; let ts := k.slot 0; let n := ts.blocks * 256
     let nv := nvecOf (bits censW 48 43); let vm := min nv ts.vm; let q := k.cfg (bits censW 52 49); let apb := decide (bits censW 42 41 = 1)
     let per := if bits censW 5 1 = 0 then 32 else bits censW 5 1; let out := vectorWords q true n
     let r := State.spdReads 0 (List.flatMap (fun v => List.map (fun i => 100 + v * ts.vstr + i) (List.range (ts.blocks * per))) (List.range vm)) s
     s.issues 0 0 Kind.cens censW = true ∧ q.valid = true ∧ q.afmt < 2 ∧ q.gsize ≠ 0 ∧ spVectors ts k.spd (bits censW 22 20) (bits censW 19 6) (ts.blocks *
        per) nv ts.vstr = some 100 ∧ (if apb = true then apbVectors ts (bits censW 40 38) (bits censW 37 24) out nv ts.ostr else spVectors ts k.spd
        (bits censW 40 38) (bits censW 37 24) out nv ts.ostr) = some 1 ∧ (apb = true → ts.fusedBarred = false) ∧ poisoned r.1 = false) := by
  and_intros <;> decide +kernel
theorem witness_predictionAndDeltas :
    (let s : State := predS; let k := s.core 0; let ts := k.slot 0; let nv := ts.blocks; let cnt := bits predW 14 3
     let ap := if bit predW 51 = true then 2 else 1
     let r := State.spdReads 0 (ts.param :: List.flatMap (fun v => List.map (fun p => 16382 + v * ts.vstr + p) (List.range ap)) (List.range nv)) s
     let rec_ := BitVec.toNat ((datas r.1).getD 0 0); let rank := bits rec_ 168 160; let quorum := bits rec_ 175 169
     s.issues 0 0 Kind.pred predW = true ∧ spVectors ts k.spd (bits predW 48 46) (bits predW 45 32) ap nv ts.vstr = some 16382 ∧ spRange ts k.spd (bits
        predW 31 29) (bits predW 28 15) (listWords (256 * cnt)) = some 0 ∧ ts.dbase ≤ ts.param ∧ ts.param + 1 ≤ ts.dbound ∧ k.spd.mapped ts.param 1 =
        true ∧ poisoned r.1 = false ∧ 1 ≤ rank ∧ rank ≤ 256 ∧ quorum ≠ 0) ∧
    (let s : State := (deltaS 0 0x7FFFFFFFF00120001); let w : Nat := (deltaW 0); let k := s.core 0; let ts := k.slot 0; let nv := ts.blocks
     let cnt := bits w 14 3; let key : Bool := false; let hd := State.spdReads 0 [16] s; let h := BitVec.toNat ((datas hd.1).getD 0 0)
     let ba := bits h 19 16; let stride := cnt * ba
     let r := State.spdReads 0 (List.flatMap (fun v => List.map (fun i => 16382 + v * ts.vstr + i) (List.range stride)) (List.range nv) ++ if key = true
          then [] else List.map (fun x => 16 + 10 + x) (List.range (nv * stride))) hd.2
     s.issues 0 0 (if key = true then Kind.deltaKey else Kind.delta) w = true ∧ spRange ts k.spd (bits w 31 29) (bits w 28 15) 1 = some 16 ∧ poisoned hd.1
        = false ∧ 2 ≤ ba ∧ ba ≤ 11 ∧ (key = true ∨ bit h 20 = true) ∧ spVectors ts k.spd (bits w 48 46) (bits w 45 32) stride nv ts.vstr = some 16382
        ∧ spRange ts k.spd (bits w 31 29) (bits w 28 15) (10 + nv * stride + nv * cnt * 12) = some 16 ∧ poisoned r.1 = false) ∧
    (let s : State := (deltaS 1 0x20001); let w : Nat := (deltaW 1); let k := s.core 0; let ts := k.slot 0; let nv := ts.blocks
     let cnt := bits w 14 3; let key : Bool := true; let hd := State.spdReads 0 [16] s; let h := BitVec.toNat ((datas hd.1).getD 0 0)
     let ba := bits h 19 16; let stride := cnt * ba
     let r := State.spdReads 0 (List.flatMap (fun v => List.map (fun i => 16382 + v * ts.vstr + i) (List.range stride)) (List.range nv) ++ if key = true
          then [] else List.map (fun x => 16 + 10 + x) (List.range (nv * stride))) hd.2
     s.issues 0 0 (if key = true then Kind.deltaKey else Kind.delta) w = true ∧ spRange ts k.spd (bits w 31 29) (bits w 28 15) 1 = some 16 ∧ poisoned hd.1
        = false ∧ 2 ≤ ba ∧ ba ≤ 11 ∧ (key = true ∨ bit h 20 = true) ∧ spVectors ts k.spd (bits w 48 46) (bits w 45 32) stride nv ts.vstr = some 16382
        ∧ spRange ts k.spd (bits w 31 29) (bits w 28 15) (10 + nv * stride + nv * cnt * 12) = some 16 ∧ poisoned r.1 = false) := by
  and_intros <;> decide +kernel
theorem witness_takeAndDone :
    (let s : State := (at0 takeW); let k := s.core 0; let ts := k.slot 0
     s.issues 0 0 Kind.take takeW = true ∧ ts.held = none ∧ ts.target (bits takeW 46 35) = some 2) ∧
    (let s : State := ({ takeS { st := .drained } with dies := [(0, { ctrs := [(3, { st := .drained })], joining := [0] })] })
     0 ∈ (s.die (coreDie 0)).joining) ∧
    (let s : State := (takeS { st := .drained }); let ts := (s.core 0).slot 0; let q := (s.die (coreDie 0)).ctr 3
     ts.blk = Blk.take 3 (2 : Int) ∧ s.canIssue 0 = true ∧ 0 ∉ (s.die (coreDie 0)).joining ∧ q.st ≠ CtrSt.open ∧ q.st ≠ CtrSt.closed) ∧
    (let s : State := (takeS { st := .closed, total := 2, i := 1, jcnt := 2, pseq := 1, taken := [0] }); let ts := (s.core 0).slot 0
     let q := (s.die (coreDie 0)).ctr 3; let entry : Option Retry := none
     ts.blk = Blk.take 3 (2 : Int) ∧ s.canIssue 0 = true ∧ 0 ∉ (s.die (coreDie 0)).joining ∧ (q.st = CtrSt.open ∨ q.st = CtrSt.closed) ∧
       q.held = false ∧ s.nextTile 0 0 3 q = some (1, 0, entry)) ∧
    (let s : State :=
          ({ takeS { st := .open, total := 2, i := 1, jcnt := 2, pseq := 1, taken := [0] } with dies := [(0, { ctrs := [(3, { st := .open, total := 2, i := 1, jcnt := 2, pseq := 1, taken := [0] })], retry := [⟨3, 0, 0x101, 0xFF, 0, true⟩] })] })
     let ts := (s.core 0).slot 0; let q := (s.die (coreDie 0)).ctr 3
     let entry : Option Retry := (some ⟨3, 0, 0x101, 0xFF, 0, true⟩)
     ts.blk = Blk.take 3 (2 : Int) ∧ s.canIssue 0 = true ∧ 0 ∉ (s.die (coreDie 0)).joining ∧ (q.st = CtrSt.open ∨ q.st = CtrSt.closed) ∧
       q.held = false ∧ s.nextTile 0 0 3 q = some (0, 1, entry)) ∧
    (let s : State := (slotW doneW fun t => { t with held := some held7 }); let ts := (s.core 0).slot 0; let h : Held := held7
     s.issues 0 0 Kind.done doneW = true ∧ ts.held = some h) ∧
    (let s : State := (slotW doneW fun t => { t with st := .blocked, blk := .done, held := some held7, commit := .answered false })
     let ts := (s.core 0).slot 0; let ok : Bool := false
     ts.commit = CommitSt.answered ok ∧ ts.blk = Blk.done ∧ s.canIssue 0 = true) := by
  and_intros <;> decide +kernel
theorem witness_commitIsOnceOnly :
    (let s : State := (commitS 7); let d := coreDie 0; let l := (s.die d).lease (leaseIx 0 0)
     ((s.core 0).slot 0).commit = CommitSt.sent (7 : W32) (0x100 : W32) 3 5 ∧ l.pairOk = true ∧ l.st = 1 ∧ l.tile = (7 : W32) ∧ l.gen = (0x100 : W32) ∧
       l.ctr = 3 ∧ (0x100 : W32).toNat / 256 = ((s.die d).ctr 3).pseq) ∧
    (let s : State := (commitS 8); let d := coreDie 0; let l := (s.die d).lease (leaseIx 0 0)
     ((s.core 0).slot 0).commit = CommitSt.sent (7 : W32) (0x100 : W32) 3 5 ∧
       ¬(l.pairOk = true ∧ l.st = 1 ∧ l.tile = (7 : W32) ∧ l.gen = (0x100 : W32) ∧ l.ctr = 3)) ∧
    (let s : State := ({ commitS 7 with dies := [(0, { leases := [(0, { Lease.make 7 0x100 (leaseCtl 1 3 0) with tile := 6 })] })] })
     let l := (s.die (coreDie 0)).lease (leaseIx 0 0)
     ((s.core 0).slot 0).commit = CommitSt.sent (7 : W32) (0x100 : W32) 3 5 ∧ l.pairOk = false) := by
  and_intros <;> decide +kernel


/-- The class, layer and bucket of the stream below. -/
def class0 : ClassRec := ⟨1, true, 1, 1, 0⟩
def layer0 : LayerRec := ⟨2, 1, 0, 15, 0, 0, 0, 0xFF, 0xFF, 0xFF, 0, 3, 0, 1, false, 256, 512, 0, 0, 0, 0, 0⟩
def bucket0 : BucketRec := ⟨2, 0, 128, 0, 256, 0, 0, 0, 0, 0, 0, 0⟩
/-- A stream of one class, which claims group 0, with one layer and one bucket. -/
def strm0 : Stream := { ident := 5, classes := [class0], layers := [layer0], buckets := [bucket0] }
/-- Step 1 of that stream, handed over, with both its columns on die 0. -/
def step1 : EStep := { num := 1, handle := 0, cls := 0, streams := [5], m := 65, handed := true, cols := [(2, 0, 2)] }
/-- The stream is loaded and its step runs. -/
def stepS (q : Counter) : State := { bw := fed, ldr := { handles := [(0, { st := .loaded, stream := some strm0 })] }, est := { en := true, steps := [step1], nextStep := 1, table := [(5, { st := .inStep, step := 1, pos := 2, inLen := 65 })] }, dies := [(0, { ctrs := [(3, q)] })], us := 9 }
/-- A fence event for the lowest and highest core of a die, which stands as given with both Headlands. -/
def fence0 (onWay received : Bool) : FenceEvt := ⟨9, 2 ^ 35 + 1, [(0, 2)], [], ⟨onWay, received, false⟩, ⟨onWay, received, false⟩, 8⟩
def fenceS (v : FenceEvt) : State := { bw := fed, hub := { mgmtUp := true, hubUp := true }, dies := [(1, { evts := [v], fencing := v.die.received })], us := 9 }
/-- Core 0 joins its class. -/
def joinS : State := { bw := fed, ldr := { handles := [(0, { st := .loaded, stream := some strm0 })] }, dies := [(0, { joining := [0] })] }
/-- A core whose self test runs. -/
def selfS : State := { hub := { selftest := [143] }, roles := [(143, some .beached)], dies := [(3, { fenceMask := 2 ^ 35 })] }
/-- A write, a read and banks at core 143. -/
def remoteS (st : BankSt) : State := { bw := fed, fabric := [.write 0 0 143 16383 5 true 2, .read 0 0 143 16383 (.word 3) 3], cores := [(0, { spd := pad }), (143, { spd := { pad with banks := (List.range 16).map fun b => (b, { st := st }), words := [(16383, 6)] } })] }
/-- A core with one bank as given. -/
def bankS (x : Bank) (req : BitVec 16) : State := { cores := [(0, { spd := { banks := [(15, x)], bankReq := req, words := [(16383, 6)] } })], bw := { fed with wakeGranted := [(0, 1)], wakes := [(0, 15)] }, us := 20 }

theorem witness_postingsAndRetries :
    (let s : State := (stepS { st := .open, step := 1, layer := 2 }); let e : EStep := step1; let st : Machine.Stream := strm0; let l : LayerRec := layer0
     let r : ClassRec := class0; let b : BucketRec := bucket0; let q := (s.die 0).ctr l.ctr
     s.step? 1 = some e ∧ (s.handle e.handle).stream = some st ∧ List.find? (fun l => decide (l.index = 2)) (s.stepLayers e) = some l ∧ st.cls l.cls = some
        r ∧ st.bucketFor 2 e.m = some b ∧ q.st = CtrSt.open ∧ q.step = 1 ∧ q.layer = 2) ∧
    (let s : State := (stepS {}); let e : EStep := step1; let st : Machine.Stream := strm0; let l : LayerRec := layer0
     let r : ClassRec := class0; let b : BucketRec := bucket0; let q := (s.die 0).ctr l.ctr
     s.step? 1 = some e ∧ (s.handle e.handle).stream = some st ∧ List.find? (fun l => decide (l.index = 2)) (s.stepLayers e) = some l ∧ st.cls l.cls = some
        r ∧ st.bucketFor 2 e.m = some b ∧ ¬(q.st = CtrSt.open ∧ q.step = 1 ∧ q.layer = 2) ∧ e.handed = true ∧ e.fail = 0 ∧ (e.colsOn 2 0).2 ≠ 0 ∧
        (2, 0) ∉ e.posted ∧ q.queue = [] ∧ s.mayOpen 0 e l = true ∧ q.st ≠ CtrSt.open ∧ q.st ≠ CtrSt.closed) ∧
    (let s : State := (stepS { queue := [⟨1, 0, 2⟩] }); let e : EStep := step1; let l : LayerRec := layer0; let q := (s.die 0).ctr l.ctr
     let p : PostReq := ⟨1, 0, 2⟩
     s.step? 1 = some e ∧ q.queue = [p] ∧ p.step = 1 ∧ p.layer = 2 ∧ s.mayOpen 0 e l = true ∧ q.st ≠ CtrSt.open ∧ q.st ≠ CtrSt.closed) ∧
    (let s : State := (stepS { st := .closed, queue := List.replicate 14 ⟨2, 0, 2⟩ }); let e : EStep := step1
     let st : Machine.Stream := strm0; let l : LayerRec := layer0; let r : ClassRec := class0; let b : BucketRec := bucket0
     let q := (s.die 0).ctr l.ctr
     s.step? 1 = some e ∧ (s.handle e.handle).stream = some st ∧ List.find? (fun l => decide (l.index = 2)) (s.stepLayers e) = some l ∧ st.cls l.cls = some
        r ∧ st.bucketFor 2 e.m = some b ∧ ¬(q.st = CtrSt.open ∧ q.step = 1 ∧ q.layer = 2) ∧ e.handed = true ∧ e.fail = 0 ∧ (e.colsOn 2 0).2 ≠ 0 ∧
        (2, 0) ∉ e.posted ∧ (∀ p ∈ q.queue, p.step ≠ 1 ∨ p.layer ≠ 2) ∧ q.queue.length < 15 ∧
        (s.mayOpen 0 e l = false ∨ q.st = CtrSt.open ∨ q.st = CtrSt.closed ∨ q.queue ≠ [])) ∧
    (let s : State := (stepS { st := .closed, opened := 7 }); let q := (s.die 0).ctr 3
     (q.st = CtrSt.open ∨ q.st = CtrSt.closed) ∧ q.opened + (s.die 0).affwait ≤ s.us) ∧
    (let s : State := ({ dies := [(3, { retry := [⟨3, 0, 0x101, 0xFF, 0, true⟩, ⟨3, 1, 0x101, 0xFF, 5, false⟩] })], us := 7 })
     let before : List Retry := ([⟨3, 0, 0x101, 0xFF, 0, true⟩]); let r : Retry := (⟨3, 1, 0x101, 0xFF, 5, false⟩)
     let after : List Retry := []
     (s.die 3).retry = before ++ r :: after ∧ (∀ x ∈ before, x.avail = true ∨ s.us < x.since + 2) ∧ r.avail = false ∧ r.since + 2 ≤ s.us) ∧
    (let s : State := ({ dies := [(3, { leases := [(143, Lease.make 7 0x100 (leaseCtl 1 3 0x4000))] })] }); let l := (s.die 3).lease 143
     l.pairOk = true ∧ l.st = 1 ∧ (s.die 3).leaseTmo ≠ 0 ∧ 16 * (s.die 3).leaseTmo ≤ l.age) ∧
    (let s : State := ({ dies := [(3, { leases := [(143, { Lease.make 7 0x100 (leaseCtl 1 3 0) with tile := 6 })] })] }); let l := (s.die 3).lease 143
     l.pairOk = false) := by
  and_intros <;> decide +kernel
theorem witness_fencingAndJoins :
    (let s : State := ({ us := 10 })
     s.fenced 143 = false ∧ (s.core 143).inReset = false ∧ s.role 143 ≠ .disabled ∧ (Tab.get (0, 0) s.bw.hbeatSeen 143).2 + 10 ≤ s.us) ∧
    (let s : State := ({ bw := { epoch := 2 ^ 20, ce2Prev := [(143, 65), (1, 64)], ce2Cur := [(143, 65), (1, 65)] } })
     s.bw.epoch % 2 ^ 20 = 0 ∧ s.bw.epoch ≠ 0 ∧ s.sec.ce2Limit < Tab.get 0 s.bw.ce2Prev 143 ∧ s.sec.ce2Limit < Tab.get 0 s.bw.ce2Cur 143) ∧
    (∀ toHub received, let s : State := (fenceS (fence0 true received)); let v : FenceEvt := (fence0 true received)
     List.find? (fun v => (v.link toHub).onWay) (s.die 1).evts = some v ∧
       (if toHub = true then s.hub.hubUp = true else (s.die 1).inReset = false ∨ (s.die 1).isolated = true) ∧ (v.link toHub).received = received) ∧
    (let s : State := ((fenceS (fence0 true false)).modDie 1 fun x => { x with inReset := true, isolated := true }); let v : FenceEvt := (fence0 true false)
     List.find? (fun v => (v.link false).onWay) (s.die 1).evts = some v ∧ ((s.die 1).inReset = false ∨ (s.die 1).isolated = true) ∧
       v.die.received = false) ∧
    (let s : State := (fenceS (fence0 false false)); let before : List FenceEvt := []; let v : FenceEvt := (fence0 false false)
     let after : List FenceEvt := []
     (s.die 1).evts = before ++ v :: after ∧ (∀ x ∈ before, s.us < x.sent + 1) ∧ v.sent + 1 ≤ s.us) ∧
    (∀ fromHub, let s : State := (fenceS (fence0 false true)); let v : FenceEvt := (fence0 false true)
     List.find? (fun v => (v.link fromHub).received && !(v.link fromHub).acked) (s.die 1).evts = some v) ∧
    (let s : State := joinS; let st : Machine.Stream := strm0; let r : ClassRec := class0
     let pre := List.filter (fun p => decide (0 < p.pwords)) (st.recsOf r 0).parts
     0 ∈ (s.die (coreDie 0)).joining ∧ s.banksReady 0 = true ∧ s.fenced 0 = false ∧ s.claimOf 0 = some (0, st, r) ∧ State.preloadLines pre s = [] ∧
       s.rangesWork (preloadRanges pre) = true) ∧
    (let s : State := ({ dies := [(0, { fencing := true, holdMax := 3, heldCls := [(0, 0)], ctrs := [(3, { held := true })] })] })
     (s.die 0).fencing = true ∧ (∀ v ∈ (s.die 0).evts, v.open_ = false) ∧ (s.die 0).heldCls ≠ []) ∧
    (let s : State := ({ up with hub := { up.hub with resetAfterFence := [143, 7] }, roles := [(143, some .beached)], dies := [(3, { fencing := true })] })
     (s.die 3).fencing = true ∧ (∀ v ∈ (s.die 3).evts, v.open_ = false) ∧
       (s.hub.resetAfterFence.filter fun x => decide (coreDie x = 3 ∧ s.role x = .beached)) = [143]) ∧
    (∀ hubUp, let s : State := { selfS with hub := { selfS.hub with hubUp := hubUp } }
     143 ∈ s.hub.selftest ∧ (s.core 143).logicOff = false ∧ s.hub.hubUp = hubUp) := by
  and_intros <;> decide +kernel

/-- The same, with `n` requests in every bank's queue, and a partition that other cores may or may not reach. -/
def remoteN (st : BankSt) (open_ : Bool) (n : Nat) : State := { remoteS st with cores := [(0, { spd := pad }), (143, { spd := { pad with parts := [(0, { valid := true, bound := 16384, rwr := open_, rrd := open_ })], banks := (List.range 16).map fun b => (b, { st := st, queue := List.replicate n ⟨0, 16383, .write 4 false, 0⟩ }), words := [(16383, 6)] } })] }
/-- Whether the next access of a task to a target is `body` at `word`, by its instruction `num`. -/
def takes (c t target : Nat) (s : State) (word : Nat) (body : QBody) (num : Nat) : Bool :=
  match (match body with | .write .. => takeWrite c t target 0 s.fabric | _ => takeRead c t target s.fabric) with
  | some (a, _) => decide (a.word = word) && decide (a.body = body) && decide (a.num = num)
  | none => false
/-- A write of a word past the scratchpad. -/
def pastS : State := { remoteS .on with fabric := [.write 0 0 143 16384 5 true 2] }

theorem witness_scratchpadBanks :
    (let s : State := State.reset.modCore 143 fun k => { k with inReset := true }
     (s.core 143).inReset = true) ∧
    (let s : State := pastS
     s.carries (coreDie 0) (coreDie 143) = true ∧ (s.core 143).inReset = false ∧ takes 0 0 143 s 16384 (.write 5 true) 2 = true) ∧
    (∀ x ∈ [(BankSt.on, true, 0), (.off, true, 0), (.on, false, 0), (.on, true, 7), (.on, true, 8)],
     let s : State := remoteN x.1 x.2.1 x.2.2; let g := (s.core 143).spd
     s.carries (coreDie 0) (coreDie 143) = true ∧ (s.core 143).inReset = false ∧ takes 0 0 143 s 16383 (.write 5 true) 2 = true ∧ g.isOn 16383 = decide (x.1 = .on) ∧
       g.grants 16383 true = x.2.1 ∧ (g.bank (g.bankOf 16383)).queue.length = x.2.2) ∧
    (∀ x ∈ [(BankSt.on, true, 0), (.off, true, 0), (.on, false, 0), (.on, true, 7)],
     let s : State := remoteN x.1 x.2.1 x.2.2; let g := (s.core 143).spd
     s.carries (coreDie 0) (coreDie 143) = true ∧ (s.core 143).inReset = false ∧ takes 0 0 143 s 16383 (.read (.word 3)) 3 = true ∧ g.isOn 16383 = decide (x.1 = .on) ∧
       g.grants 16383 false = x.2.1 ∧ (g.bank (g.bankOf 16383)).queue.length = x.2.2) ∧
    (let s : State := (bankS { st := .on, scrubRow := 1023 } 0); let m := (s.core 0).spd
     m.scrubEn = true ∧ (m.bank 15).st = BankSt.on) ∧
    (let s : State := (bankS { st := .off } 0x8000); let m := (s.core 0).spd; let left := Tab.get 0 s.bw.wakeGranted 0
     let die := Tab.get 0 s.bw.wakes (coreDie 0)
     (m.bank 15).st = BankSt.off ∧ m.bankReq.getLsbD 15 = true ∧ s.role 0 ≠ Role.disabled ∧ 0 < left ∧ die < 16) ∧
    (let s : State := (bankS { st := .waking } 0x8000); let m := (s.core 0).spd
     (m.bank 15).st = BankSt.waking) ∧
    (let s : State := (bankS { st := .draining } 0); let m := (s.core 0).spd
     (m.bank 15).st = BankSt.draining ∧ (m.bank 15).queue = []) ∧
    (let s : State := (bankS { st := .draining, queue := List.replicate 6 ⟨0, 16383, .write 5 false, 0⟩ } 0); let m := (s.core 0).spd
     (m.bank 15).st = BankSt.draining ∧ 0 < (m.bank 15).queue.length + [3].length + [4].length ∧
       (∀ r ∈ [(UnitName.move, 16380)], m.bankOf r.2 = 15) ∧ (∀ w ∈ [16365], m.bankOf w = 15) ∧
       (m.bank 15).queue.length + [3].length + [4].length ≤ 8 ∧ (m.bank 15).since + 20 ≤ s.us) := by
  and_intros <;> decide +kernel

/-- A record: its first eight bytes, bytes 8 to 31, USER and SEQ. -/
def record64 (w : Nat) (mid : List Byte) (user seq : Nat) : List Byte :=
  leBytes 8 w ++ (mid ++ List.replicate (24 - mid.length) 0) ++ leBytes 8 user ++ leBytes 16 0 ++ leBytes 4 seq ++ leBytes 4 0
/-- OP, class, handle, IN_LEN and ECHO of a record of stream 5. -/
def op5 (op inLen echo : Nat) : Nat := wd [(5, 0), (op, 20), (inLen, 32), (echo, 48)]
/-- A record of stream 5 whose sequence is the next. -/
def exam5 (op inLen : Nat) : Exam := ⟨.stream 5, record64 (op5 op inLen 8) (leBytes 8 0x10000 ++ leBytes 8 0x20000 ++ leBytes 4 64) 77 8, false, true, 59990⟩
/-- Estuary takes records, stream 5 stands as given, and its handle holds `strm0`. -/
def estS (x : StreamEnt) (es : List Exam) : State := { bw := fed, plm := { hdmGib := 16, ready := true }, ldr := { handles := [(0, { st := .loaded, stream := some strm0 })] }, est := { en := true, ready := true, winBase := 0x100000, winSize := 0x10000, cache := [5], table := [(5, { x with seq := 7 })], examine := es }, us := 60000 }
/-- The same with class 0 full. -/
def fullS : State := { estS { st := .idle } [exam5 2 256] with est := { (estS { st := .idle } [exam5 2 256]).est with classes := [(0, { activeMax := 0 })] } }
/-- A record of stream 5 with sequence `seq`. -/
def examSeq (seq : Nat) : Exam := ⟨.stream 5, record64 (op5 1 0 8) [] 77 seq, false, true, 59990⟩
/-- One whose ECHO is not that of its sequence. -/
def examTorn : Exam := ⟨.stream 5, record64 (op5 1 0 7) [] 77 8, false, true, 59990⟩
/-- Slot 5 is torn since 59,990 us. -/
def tornS : State := { estS {} [] with est := { (estS {} []).est with pend := [⟨.stream 5, 59990, 8⟩] } }
/-- A window of one stream at the top of HDM. -/
def winE (en : Bool) (size mode : Nat) : State := { bw := fed, est := { en := en, base := 16 * 2 ^ 30 - 1088, size := size }, plm := { hdmGib := 16 }, cxl := { mode := mode } }
/-- Sixty-four requests of the class wait, which make a batch. -/
def batchS : State := { bw := fed, ldr := { handles := [(0, { st := .loaded, stream := some strm0 })] }, est := { en := true, table := (List.range 64).map fun i => (i, { st := .admitted, inLen := 4, tadm := 100 - i }) }, cxl := { cacheEn := true, mode := 1 } }
/-- Step 1 waits for its hand-over. -/
def handS : State := { stepS {} with est := { (stepS {}).est with steps := [{ step1 with handed := false, cols := [] }] }, hub := { hubUp := true } }
/-- Step 1 with its layer closed, or failed. -/
def endS (closed : List (Nat × Nat)) (fail : Nat) : State := { stepS {} with hub := { hubUp := true }, est := { (stepS {}).est with steps := [{ step1 with closed := closed, fail := fail }] } }
/-- The same after a disable that closed its stream. -/
def orphanS (closed : List (Nat × Nat)) (fail : Nat) : State := { endS closed fail with est := { (endS closed fail).est with steps := [{ step1 with closed := closed, fail := fail, orphans := [⟨5, 0x100540, { st := .inStep, step := 1, reqSeq := 7 }⟩] }] } }

theorem witness_estuaryStreamRequests :
    (∀ x ∈ [(1, (estS {} [exam5 1 0])), (2, estS { st := .idle } [exam5 2 256]), (2, fullS), (3, estS { st := .idle } [exam5 3 0]),
        (3, estS { st := .deferred } [exam5 3 0]), (3, estS { st := .inStep, step := 1 } [exam5 3 0]), (3, estS { st := .admitted } [exam5 3 0])],
     let e : Exam := exam5 x.1 (if x.1 = 2 then 256 else 0); let es : List Exam := []; let s : State := x.2
     let s1 := State.touch (SlotRef.stream 5) (State.goLive e { s with est := { s.est with examine := es } })
     s.intake = true ∧ s.est.nextExam (SlotRef.stream 5) = some (e, es) ∧ s.cached (.stream 5) = true ∧ s.seqCase e = SeqCase.live ∧
       recOp e.rec_ = x.1 ∧ s1.policy 5 e = none) ∧
    (let s : State := (estS {} [exam5 1 0]); let e := exam5 1 0; let s1 := State.touch (SlotRef.stream 5) (State.goLive e { s with est := { s.est with examine := [] } })
     let w := recField e.rec_ 0 8
     s1.opened (bits w 25 24) < (s1.estClass (bits w 25 24)).openMax) ∧
    (let s : State := (estS { st := .idle } [exam5 2 256]); let s1 := State.touch (SlotRef.stream 5) (State.goLive (exam5 2 256) { s with est := { s.est with examine := [] } })
     let x := s1.ent 5
     (s1.handle x.handle).st ≠ HandleSt.unloading ∧ s1.deferReason x.handle x.cls = none) ∧
    (let s : State := fullS; let s1 := State.touch (SlotRef.stream 5) (State.goLive (exam5 2 256) { s with est := { s.est with examine := [] } })
     let x := s1.ent 5
     (s1.handle x.handle).st ≠ HandleSt.unloading ∧ s1.deferReason x.handle x.cls = some 1 ∧ s1.deferred x.cls < (s1.estClass x.cls).deferMax) ∧
    (∀ x ∈ [StreamSt.idle, .deferred, .inStep, .admitted],
     let s : State := estS { st := x } [exam5 3 0]; let s1 := State.touch (SlotRef.stream 5) (State.goLive (exam5 3 0) { s with est := { s.est with examine := [] } })
     (s1.ent 5).st = x) ∧
    (∀ op ∈ [2, 3, 4], let e : Exam := exam5 op 0; let es : List Exam := []; let s : State := (estS {} [exam5 op 0])
     let s1 := State.touch (SlotRef.stream 5) (State.goLive e { s with est := { s.est with examine := es } })
     s.intake = true ∧ s.est.nextExam (SlotRef.stream 5) = some (e, es) ∧ s.cached (.stream 5) = true ∧ s.seqCase e = SeqCase.live ∧
       (s1.policy 5 e).isSome = true) := by
  and_intros <;> decide +kernel
theorem witness_estuaryIntakeAndDeferral :
    (∀ x ∈ [(examSeq 7, SeqCase.stale), (examSeq 9, .bad), (examTorn, .torn)],
     let slot : SlotRef := (.stream 5); let s : State := (estS {} [x.1]); let e : Exam := x.1; let es : List Exam := []
     s.intake = true ∧ s.est.nextExam slot = some (e, es) ∧ s.cached slot = true ∧ s.seqCase e = x.2 ∧ s.est.pend = []) ∧
    (let slot : SlotRef := (.stream 5); let s : State := tornS; let p : Pending := (⟨.stream 5, 59990, 8⟩)
     List.find? (fun p => decide (p.slot = slot)) s.est.pend = some p ∧ s.intake = true ∧ p.since + s.est.tornWait ≤ s.us ∧
       s.hubWorks (s.slotDla slot) 64 = true ∧ s.dirtyLines (s.slotDla slot) 64 = []) ∧
    (let slot : SlotRef := (.stream 5); let s : State := { tornS with cxl := { filter := [(lineOf (0x100400 + 320), true)] } }
     s.hubWorks (s.slotDla slot) 64 = true ∧ s.dirtyLines (s.slotDla slot) 64 ≠ []) ∧
    (let s : State := ({ est := { misses := [4095], cache := List.range 4095 } })
     4095 ∈ s.est.misses ∧ 4095 ∉ s.est.cache ∧ s.est.cache.length < 4096) ∧
    (let s : State := ({ est := { misses := [4096], cache := List.range 4096, table := [(4095, { st := .inStep })] } })
     4096 ∈ s.est.misses ∧ 4096 ∉ s.est.cache ∧ 4096 ≤ s.est.cache.length ∧ s.est.cache.reverse.find? (fun m => !(s.ent m).st.pins) = some 4094) ∧
    (let s : State := (estS { st := .deferred, tadm := 10000 } [])
     (s.ent 5).st = StreamSt.deferred ∧ (s.ent 5).tadm + 1000 * (s.estClass (s.ent 5).cls).deferTmo ≤ s.us ∧ s.est.en = true) := by
  and_intros <;> decide +kernel
theorem witness_estuaryEnable :
    (let s : State := (winE false 1088 1)
     BitVec.getLsbD (0xFF01 : W32) 0 = true ∧ s.est.en = false ∧ s.windowOk = true ∧ s.cxl.mode ≠ 2) ∧
    (let s : State := (winE false 1152 1)
     s.est.en = false ∧ s.windowOk = false) ∧
    (let s : State := (winE false 1088 2)
     s.est.en = false ∧ s.cxl.mode = 2) ∧
    (∀ r ∈ [false, true], let s : State := ({ bw := fed, est := { en := true, ready := r, streams := 1 } })
     s.est.en = true ∧ s.est.ready = r) ∧
    (let s : State := (estS { st := .inStep, step := 1 } [])
     BitVec.getLsbD (0xFF00 : W32) 0 = false ∧ s.est.en = true) ∧
    (∀ x ∈ [(true, false), (false, true), (true, true)], let s : State := ({ winE x.1 1088 1 with hub := { lock := x.2 } })
     s.est.en = true ∨ s.hub.lock = true) ∧
    (let s : State := (winE false 1088 1)
     s.est.en = false ∧ s.hub.lock = false) := by
  and_intros <;> decide +kernel
theorem witness_estuarySteps :
    (let s : State := batchS; let k := s.estClass 0
     let pool := List.insertionSort (fun x1 x2 => byTadm x1 x2 = true) (List.filter (fun e => e.2.waits && decide (e.2.handle = 0) && decide (e.2.cls = 0))
          s.est.table)
     let mine := takeStep k.batch k.mtok pool
     s.est.en = true ∧ (s.handle 0).st = HandleSt.loaded ∧ mine ≠ [] ∧ k.batch ≤ pool.length ∧ (List.filter (fun e => decide (e.handle = 0) && decide
        (e.cls = 0)) s.est.steps).length < k.inflight ∧ s.readsHeld 0 0 = false ∧ s.sharesTensor 0 0 = false ∧ s.est.ringFull = false ∧ s.cxl.cacheOn = true) ∧
    (let s : State := handS; let cols : List (Nat × Nat × Nat) := ([(2, 0, 2)])
     let e : EStep := ({ step1 with handed := false, cols := [] })
     s.step? 1 = some e ∧ e.handed = false ∧ s.hub.hubUp = true ∧ s.colsOk e cols = true) ∧
    (let s : State := (endS [(2, 0)] 0); let e : EStep := ({ step1 with closed := [(2, 0)] })
     s.step? 1 = some e ∧ e.handed = true ∧ e.fail = 0 ∧ (∀ l ∈ s.stepLayers e, e.layerClosed l.index = true) ∧ s.hub.hubUp = true ∧ s.outWaits e = false ∧ s.kl.waitsOn 1 = false ∧
       e.orphan 5 = none ∧ (s.ent 5).step = 1 ∧ (s.ent 5).st = .inStep) ∧
    (let s : State := (endS [] 2); let e : EStep := ({ step1 with fail := 2 })
     s.step? 1 = some e ∧ e.fail ≠ 0 ∧ s.hub.hubUp = true ∧ e.orphan 5 = none ∧ (s.ent 5).step = 1 ∧ (s.ent 5).st = .inStep) ∧
    (let s : State := { endS [] 2 with hub := {} }
     s.step? 1 = some { step1 with fail := 2 } ∧ s.hub.hubUp = false) ∧
    (∀ x ∈ [([(2, 0)], 0), ([], 2)], let s : State := orphanS x.1 x.2; let o : Orphan := ⟨5, 0x100540, { st := .inStep, step := 1, reqSeq := 7 }⟩
     let e : EStep := { step1 with closed := x.1, fail := x.2, orphans := [o] }
     s.step? 1 = some e ∧ e.streams = [5] ∧ e.handed = true ∧ (e.fail = 0 → ∀ l ∈ s.stepLayers e, e.layerClosed l.index = true) ∧ s.hub.hubUp = true ∧
       s.outWaits e = false ∧ s.kl.waitsOn 1 = false ∧ e.orphan 5 = some o) := by
  and_intros <;> decide +kernel
theorem witness_estuaryHostRegisters :
    (let s : State := ({ estS {} [] with plm := { hdmGib := 16, ready := true, map := [(32, { st := .mapped, ppn := 5 })], mem := [(0x1003C0, 9)] } })
     let r := State.devRead Agent.hub (s.est.winBase + 960) 4 s
     s.est.en = true ∧ s.hubWorks (s.est.winBase + 0x3C0) 4 = true ∧ s.dirtyLines (s.est.winBase + 0x3C0) 4 = [] ∧ r.2.1 = false) ∧
    (let s : State := ({ estS {} [] with cxl := { filter := [(lineOf 0x1003C0, true)] } })
     s.est.en = true ∧ s.hubWorks (s.est.winBase + 0x3C0) 4 = true ∧ s.dirtyLines (s.est.winBase + 0x3C0) 4 ≠ []) ∧
    (let s : State :=
          ({ bw := fed, est := { notifyEn := true, notifyDue := true, notifyAddr := 64, tail := 0x12345678, notifyLast := 5, notifyGap := 4 }, us := 8, cxl := { cacheEn := true, mode := 1 } })
     s.est.notifyEn = true ∧ s.est.notifyDue = true ∧ s.cxl.cacheOn = true ∧ s.works cxlUnit = true ∧ (s.est.notifyLast = 0 ∨ s.est.notifyLast + s.est.notifyGap ≤ s.us + 1)) ∧
    (let s : State := ({ us := 9, est := { biWait := [(7, 8)], biDelay := 15 }, cxl := { filter := [(7, true)] } })
     s.est.biWait.find? (fun w => decide (w.1 = 7)) = some (7, 8) ∧ 8 + s.est.biDelay / 10 ≤ s.us ∧ ({ s with us := 8 } : State).us < 8 + s.est.biDelay / 10) := by
  and_intros <;> decide +kernel

/-- A control record: its operation, its source and its frames; the handle is 0. -/
def ctrl7 (op dla n : Nat) : List Byte := record64 (wd [(op, 0), (8, 48)]) (leBytes 8 dla ++ leBytes 4 n) 77 8
/-- A record of operation `op` for handle 0 heads the loader's queue; the image is one line of `v` bytes at page 32. -/
def ctrlS (op : Nat) (v : Byte) (x : Handle) : State := { bw := fed, hub := { hubUp := true }, plm := { hdmGib := 16, ready := true, map := [(32, { st := .mapped }), (493568, { st := .mapped, ppn := 1 })], mem := [(0x100004, 0xFF), (0x100005, 0xFF), (0x100006, 0xFF), (0x100007, v)] }, ldr := { handles := [(0, x)] }, est := { ctrlQueue := [(3, ctrl7 op 0x100000 1)] } }
/-- The bytes of that line. -/
def line7 : List Byte := [0, 0, 0, 0, 0xFF, 0xFF, 0xFF, 0xFF] ++ List.replicate 56 0
/-- A live record of slot 14 with a reserved bit set. -/
def badCtrl : Exam := ⟨.ctrl 14, record64 (wd [(8, 0), (1, 6), (8, 48)]) [] 77 8, false, true, 59990⟩

theorem witness_loaderCommands :
    (∀ x ∈ [(8, Instr.loaderLoad 3, HandleSt.empty, HandleSt.loading), (9, Instr.loaderReplace 3, HandleSt.loaded, HandleSt.replacing)],
     let s : State := (ctrlS x.1 0xFF { st := x.2.2.1, stream := some strm0 }); let r : List Byte := (ctrl7 x.1 0x100000 1)
     let rest : List (Nat × List Byte) := []; let s1 := State.ctrlPass 3 x.1 s
     bits (recField r 0 8) 5 4 = 0 ∧ x ∈ [(8, Instr.loaderLoad 3, HandleSt.empty, HandleSt.loading), (9, Instr.loaderReplace 3, HandleSt.loaded,
       HandleSt.replacing)] ∧ s1.est.ctrlQueue = (3, r) :: rest ∧ ctrlOp r = x.1 ∧ s1.ldrBusy = false ∧ s1.hub.hubUp = true ∧
       (s1.handle 0).copying = false ∧ (s1.handle 0).st = x.2.2.1) ∧
    (∀ x ∈ [(8, HandleSt.empty, HandleSt.loading), (9, HandleSt.loaded, HandleSt.replacing)],
     let s : State := (ctrlS x.1 0xFF { st := x.2.1, stream := some strm0 }); let r : List Byte := (ctrl7 x.1 0x100000 1)
     let rest : List (Nat × List Byte) := []; let s1 := State.ctrlPass 3 x.1 s; let dla := recField r 8 8; let n := recField r 16 4
     let s2 := s1.modHandle 0 fun y => { y with st := x.2.2, busy := true, op := x.1 - 8, code := 0, section_ := 0, frame := 0xFFFFFFFF, copying := true,
                                                ctrlSlot := 3, ctrlRec := r }
     let d := State.devRead Agent.hub dla (64 * n) { s2 with est := { s2.est with ctrlQueue := rest } }; let s4 := State.ownWrite hubSrc (d.2.2.stagingDla 0) line7 d.2.2
     State.dirtyLines dla (64 * min n 1048576) s2 = [] ∧ s2.hubWorks dla (64 * min n 1048576) = true ∧ dla % 64 = 0 ∧ 1 ≤ n ∧ n ≤ 1048576 ∧ s2.openDla dla (64 * n) = true ∧
       d = (line7, false, d.2.2) ∧ s4.checkStream 0 n line7 = Except.error ⟨5, 0, 0⟩) ∧
    (∀ x ∈ [(8, HandleSt.loaded), (9, .empty)],
     let s1 := State.ctrlPass 3 x.1 (ctrlS x.1 0xFF { st := x.2 }); let r : List Byte := (ctrl7 x.1 0x100000 1)
     s1.est.ctrlQueue = (3, r) :: [] ∧ ctrlOp r = x.1 ∧ s1.ldrBusy = false ∧ s1.hub.hubUp = true ∧ (s1.handle 0).copying = false ∧
       (s1.handle 0).st ≠ if x.1 = 8 then .empty else .loaded) ∧
    (let s : State := { ctrlS 8 0xFF {} with cxl := { filter := [(16384, true)] } }; let s1 := State.ctrlPass 3 8 s; let r : List Byte := (ctrl7 8 0x100000 1)
     s1.est.ctrlQueue = (3, r) :: [] ∧ s1.ldrBusy = false ∧ s1.hub.hubUp = true ∧ s1.dirtyLines (recField r 8 8) (64 * min (recField r 16 4) 1048576) = 16384 :: []) ∧
    (let s : State := { ctrlS 8 0xFF {} with bw := {} }; let s1 := State.ctrlPass 3 8 s; let r : List Byte := (ctrl7 8 0x100000 1)
     s1.est.ctrlQueue = (3, r) :: [] ∧ s1.ldrBusy = false ∧ s1.hub.hubUp = true ∧ s1.dirtyLines (recField r 8 8) (64 * min (recField r 16 4) 1048576) = [] ∧
       s1.hubWorks (recField r 8 8) (64 * min (recField r 16 4) 1048576) = false) ∧
    (let r : List Byte := (ctrl7 0xA 0 0); let rest : List (Nat × List Byte) := []
     let s : State := ({ ctrlS 0xA 0 { st := .loaded, stream := some strm0 } with est := { ctrlQueue := [(14, ctrl7 0xA 0 0)] } })
     let s1 := State.ctrlPass 14 10 s
     bits (recField r 0 8) 5 4 = 0 ∧ s1.est.ctrlQueue = (14, r) :: rest ∧ ctrlOp r = 10 ∧ s1.ldrBusy = false ∧ s1.hub.hubUp = true ∧
       (s1.handle 0).copying = false ∧ (s1.handle 0).st = HandleSt.loaded) ∧
    (let r : List Byte := []
     let s : State := ({ est := { en := true, ready := true, examine := [badCtrl], ctrlSeq := [(14, 7)] }, plm := { ready := true, hdmGib := 16 }, us := 60000 })
     let e : Exam := badCtrl; let es : List Exam := []
     bits (recField r 0 8) 5 4 = 0 ∧ s.intake = true ∧ s.est.nextExam (SlotRef.ctrl 14) = some (e, es) ∧ ctrlOk e = false ∧ s.seqCase e = SeqCase.live) := by
  and_intros <;> decide +kernel


/-! A stream that passes its checks. -/

/-- A frame (R184): header, its complement, the payload and zeros. -/
def frame (ty sec more : Nat) (p : List Byte) : List Byte :=
  let h := ty + 256 * p.length + 65536 * sec + 2 ^ 24 * more
  leBytes 4 h ++ leBytes 4 (0xFFFFFFFF - h) ++ p ++ List.replicate (56 - p.length) 0
/-- A SECTION_HEAD. -/
def headF (sec recs frames : Nat) : List Byte := frame 0 sec 0 (leBytes 4 recs ++ leBytes 4 frames)
/-- The frames before DIGEST of a stream of one class on group 0, whose one program is HALT. -/
def body7 : List Byte :=
  headF 1 1 1 ++ frame 0x11 1 0 ([0x53, 0x5A, 0x4E, 0x44] ++ leBytes 4 1 ++ leBytes 28 7 ++ leBytes 12 0x10001) ++
  headF 2 1 1 ++ frame 0x21 2 0 (leBytes 16 0x100010000) ++ headF 3 1 1 ++ frame 0x31 3 0 (leBytes 4 0 ++ leBytes 4 0x80008400 ++ leBytes 4 6) ++
  headF 4 0 0 ++ headF 5 2 2 ++ frame 0x51 5 0 (leBytes 8 0xFFFF0000) ++ frame 0x52 5 0 (leBytes 40 (16 * 2 ^ 48)) ++ headF 6 0 0 ++ headF 7 0 0 ++
  headF 8 1 1 ++ frame 0x81 8 0 (leBytes 6 0x100000000 ++ leBytes 10 0x10000100 ++ leBytes 8 0x5000000000000000) ++ headF 9 2 3 ++
  frame 0x91 9 1 (leBytes 56 (wd [(1, 32), (0xFF, 72), (0xFF, 80), (1, 112), (256, 128), (256, 160)])) ++ frame 0x91 9 0 (leBytes 8 0) ++
  frame 0x92 9 0 (leBytes 36 (wd [(64, 32), (256, 80)])) ++ headF 10 1 2
/-- The whole stream; the digest is SHAKE256 of the bytes above, from another implementation of it. -/
def img7 : List Byte := body7 ++
  (let d := leBytes 64 0x6636b21fb27d2a27bfcea3a59a32d26696f0171de2702519a85bd2ad102e12dceb537899f34acd81af6e20da13578010a29766adfea81e0798b5a235e56d24d2
   frame 0xA1 10 1 (d.take 56) ++ frame 0xA1 10 0 (d.drop 56))
/-- A LOAD of that stream into handle 0 heads the loader's queue; the stream lies at page 32. -/
def loadS : State := { bw := fed, hub := { hubUp := true }, plm := { hdmGib := 16, ready := true, map := [(32, { st := .mapped }), (493568, { st := .mapped, ppn := 1 })], mem := putMem [] 0x100000 img7 }, est := { ctrlQueue := [(3, ctrl7 8 0x100000 21)] } }
/-- The same, with the request taken and its copy begun. -/
def takenS : State := { (loadS.ctrlPass 3 8).modHandle 0 fun x => { x with st := .loading, busy := true, op := 0, code := 0, section_ := 0, frame := 0xFFFFFFFF, copying := true, ctrlSlot := 3, ctrlRec := ctrl7 8 0x100000 21 } with est := { (loadS.ctrlPass 3 8).est with ctrlQueue := [] } }

theorem loadS_stream : takenS.devRead .hub 0x100000 (64 * 21) = (img7, false, (takenS.devRead .hub 0x100000 (64 * 21)).2.2) := by
  have hb : takenS.plm.bytes 0x100000 (64 * 21) = img7 := by
    have hl : img7.length = 64 * 21 := by decide +kernel
    rw [← hl]
    exact Plm.bytes_of _ _ _ fun i hi => by
      change Tab.get 0 (putMem [] 0x100000 img7) (0x100000 + i) = img7.getD i 0
      rw [get_putMem, if_pos (by omega), Nat.add_sub_cancel_left]
  rw [← hb]
  exact State.devRead_mapped takenS .hub 0x100000 (64 * 21) ⟨fun i => rfl, by decide +kernel⟩ fun c hc => by
    have hp : ∀ c ∈ cutRead (64 * 21 / 64 + 2) 0x100000 (64 * 21), pageOf c.1 = 32 := by decide +kernel
    exact ⟨⟨{ st := .mapped }, by rw [hp c hc]; rfl, rfl⟩, rfl⟩
theorem except_ok {x : Except LdrFail Stream} (h : x.toBool = true) : ∃ st, x = .ok st := by
  cases x with
  | error e => cases h
  | ok st => exact ⟨st, rfl⟩
/-- The hypotheses of `LoaderCommands` for a stream that passes its checks. -/
theorem witness_loaderAccepts : ∃ img s3 st,
    (let s1 := loadS.ctrlPass 3 8; let r := ctrl7 8 0x100000 21; let dla := recField r 8 8; let n := recField r 16 4
     let s2 := s1.modHandle 0 fun x => { x with st := .loading, busy := true, op := 8 - 8, code := 0, section_ := 0, frame := 0xFFFFFFFF, copying := true,
                                                ctrlSlot := 3, ctrlRec := r }
     s1.est.ctrlQueue = (3, r) :: [] ∧ ctrlOp r = 8 ∧ s1.ldrBusy = false ∧ s1.hub.hubUp = true ∧ (s1.handle 0).copying = false ∧ (s1.handle 0).st = .empty ∧
     s2.dirtyLines dla (64 * min n 1048576) = [] ∧ s2.hubWorks dla (64 * min n 1048576) = true ∧ dla % 64 = 0 ∧ 1 ≤ n ∧ n ≤ 1048576 ∧ s2.openDla dla (64 * n) = true ∧
     ({ s2 with est := { s2.est with ctrlQueue := [] } }).devRead .hub dla (64 * n) = (img, false, s3) ∧
     (s3.ownWrite hubSrc (s3.stagingDla 0) img).checkStream 0 n img = .ok st) := by
  obtain ⟨st, hst⟩ := except_ok (x := (((takenS.devRead .hub 0x100000 (64 * 21)).2.2).ownWrite hubSrc
    (((takenS.devRead .hub 0x100000 (64 * 21)).2.2).stagingDla 0) img7).checkStream 0 21 img7) (by decide +kernel)
  refine ⟨img7, (takenS.devRead .hub 0x100000 (64 * 21)).2.2, st, ?_⟩
  and_intros
  rotate_left 12
  · exact loadS_stream
  · exact hst
  all_goals decide +kernel

/-- Handle 3 holds `strm0`, or waits to commit it; core 8 waits to be written again. -/
def handleS (st : HandleSt) : State := { bw := fed, hub := { hubUp := true }, ldr := { handles := [(3, { st := st, stream := some strm0, next := some strm0, busy := true })], rewrite := [8] }, est := { table := [(9, { st := .closing, handle := 3 })] } }
/-- A decoder over 16 GiB at 4 GiB, the last page below the pinned ones mapped as given. -/
def memS (x : PageEnt) : State := { bw := fed, cxl := { committed := true, base := 2 ^ 32, mode := 1 }, plm := { hdmGib := 16, ready := true, map := [(491519, x)], mem := [(16106127359, 7)] } }
/-- A snoop of line 7, which the host may hold modified. -/
def snpS (inv : Bool) : State := { bw := fed, cxl := { snoops := [(7, inv)], filter := [(7, true)] }, plm := { map := [(0, { st := .mapped })] } }
/-- Channel 15 zeroes a page; page 3 has a home and a copy that comes or goes. -/
def pageS : State := { bw := fed, plm := { ready := true, hdmGib := 16, map := [(3, { st := .mapped, lastw := 1 })], copying := [⟨3, 2, 1, 8⟩], retiring := [⟨3, 3, 0, 9⟩], chans := [(15, { st := .ready, gib := 16, zeroing := [5, 6] })], hostWrites := [(3, 4)], mem := [(98304, 1)] }, dies := [(2, { counts := [(3, (9, 9))] })] }

theorem witness_loaderStages :
    (let s : State := (handleS .replacing); let st : Machine.Stream := strm0
     let old := match (s.handle 3).stream with | some o => o.cores | none => []; let mine := List.filter s.reachable st.cores
     let s1 := List.foldl (fun s c =>
          match st.classOf c with | some r => State.requestBanks st r c s | none => s) (State.stopCores (mine ++ List.filter (fun c => !decide (c ∈ mine)) old) s) mine
     let pre := mine.flatMap fun c => s1.preloadsOf st c
     (s.handle 3).next = some st ∧ s.stepsOf 3 = false ∧ s.hub.hubUp = true ∧ State.preloadLines pre s1 ++ State.prepLines st s1 = [] ∧
       mine.all s1.banksReady = true ∧ State.rangesWork (preloadRanges pre) s1 = true ∧ s1.prepWorks st = true) ∧
    (let s : State := (handleS .unloading); let st : Machine.Stream := strm0
     (s.handle 3).stream = some st ∧ (s.handle 3).st = HandleSt.unloading ∧ s.stepsOf 3 = false ∧ s.hub.hubUp = true) ∧
    (let s : State := (handleS .loaded); let st : Machine.Stream := strm0; let r : ClassRec := class0; let s1 := State.requestBanks st r 8 s
     (s.handle 3).stream = some st ∧ 8 ∈ st.cores ∧ s.reachable 8 = true ∧ 8 ∈ s.ldr.rewrite ∧ 7 ∉ s.ldr.rewrite ∧ st.classOf 8 = some r ∧ 
       State.preloadLines (s1.preloadsOf st 8) s1 = [] ∧ State.rangesWork (preloadRanges (s1.preloadsOf st 8)) s1 = true ∧ s1.banksReady 8 = true) := by
  and_intros <;> decide +kernel
theorem memS_calm (st : PageSt) (h : st ≠ .lost) : (memS { st := st }).Calm :=
  ⟨fun i => rfl, fun x hx => by cases List.mem_singleton.mp hx; exact h⟩
theorem witness_hostMemoryAccess :
    (∀ hd ∈ [(20401094592, 16106127296), (20401094593, 16106127297)], ∀ st ∈ [PageSt.mapped, .moving, .unmapped, .lost], ∀ copy ∈ [HostCopy.none, .own],
     let s : State := (memS { st := st })
     s.hostDla hd.1 = some hd.2 ∧ s.works cxlUnit = true ∧ s.hubWorks hd.2 1 = true ∧ (∀ h ∈ s.cxl.held, h.line ≠ lineOf hd.2) ∧ CacheUpset.snoop (filterSet (lineOf hd.2)) ∉ s.tmk.cacheBad ∧
       (∀ q ∈ s.cxl.snoops, q.1 ≠ lineOf hd.2) ∧ (copy = HostCopy.none ∨ s.cxl.victim (lineOf hd.2) = none) ∧ s.pinned (pageOf hd.2) = false ∧
       (s.page (pageOf hd.2)).st = st) ∧
    (let s : State := ({ memS { st := .mapped } with plm := { (memS { st := .mapped }).plm with cache := [491519] } })
     s.works cxlUnit = true ∧ pageOf 16106127296 ∈ s.plm.cache ∧ CacheUpset.map (pageOf 16106127296) ∉ s.tmk.cacheBad ∧ s.pinned 491519 = false) ∧
    (let s : State := ({ memS {} with bw := {} })
     s.hostDla 4294967296 = some 0 ∧ s.works cxlUnit = false) ∧
    (let s : State := ({ memS {} with bw := { grants := [(cxlUnit, { inForce := 1 })] } })
     s.hostDla 4294967296 = some 0 ∧ s.works cxlUnit = true ∧ s.hubWorks 0 1 = false) ∧
    (let s : State := ({ memS {} with cxl := { (memS {}).cxl with held := [{ line := 0, addr := 0, isRead := true }] } })
     s.hostDla 4294967296 = some 0 ∧ (∃ h ∈ s.cxl.held, h.line = 0)) ∧
    (∀ hd ∈ [(20401094656, 16106127360), (21474836479, 17179869183)], let s : State := memS {}
     s.hostDla hd.1 = some hd.2 ∧ s.works cxlUnit = true ∧ s.pinned (pageOf hd.2) = true) := by
  and_intros <;> decide +kernel
theorem snpS_calm (inv : Bool) : (snpS inv).Calm := ⟨fun i => rfl, by cases inv <;> decide +kernel⟩
theorem witness_snoopResponses :
    (∀ inv, let s : State := (snpS inv)
     List.find? (fun q => decide (q.1 = 7)) s.cxl.snoops = some (7, inv) ∧ (∀ w ∈ s.cxl.waiting, w.line ≠ 7) ∧ s.pinned (pageOf (64 * 7)) = false ∧
       (s.page (pageOf (64 * 7))).st = PageSt.mapped ∧ (List.replicate 64 (0xFF : Byte)).length = 64) ∧
    (let s : State := ({ memS {} with cxl := { snoops := [(268435455, true)] } })
     List.find? (fun q => decide (q.1 = 268435455)) s.cxl.snoops = some (268435455, true) ∧ s.pinned (pageOf (64 * 268435455)) = true) ∧
    (∀ q ∈ (snpS true).cxl.snoops, q.1 ≠ 8) := by
  and_intros <;> decide +kernel
theorem witness_cxlPortAndDecoder :
    (let s : State := (memS {}); let base : Nat := (2 ^ 28)
     (s.cxl.committed = false ∨ s.cxl.locked = false) ∧ base % 2 ^ 28 = 0 ∧ s.cxl.mode = 1) ∧
    (let s : State := (memS {}); let base : Nat := (2 ^ 28); let size : Nat := (2 ^ 30)
     (s.cxl.committed = false ∨ s.cxl.locked = false) ∧ (size ≠ s.hdmBytes ∨ 1 ≠ 1 ∨ base % 2 ^ 28 ≠ 0 ∨ s.cxl.mode ≠ 1)) ∧
    (let s : State := (memS {}); let base : Nat := (2 ^ 27); let size : Nat := (2 ^ 34)
     (s.cxl.committed = false ∨ s.cxl.locked = false) ∧ (size ≠ s.hdmBytes ∨ 1 ≠ 1 ∨ base % 2 ^ 28 ≠ 0 ∨ s.cxl.mode ≠ 1)) ∧
    (1 ≤ 6 ∧ 6 ≤ 6 ∧ (4 = 1 ∨ 4 = 2 ∨ 4 = 4 ∨ 4 = 8) ∧ 4 ≤ 6 ∧ (4 = 8 ∨ 4 = 4)) ∧
    (1 ≤ 3 ∧ 3 ≤ 6 ∧ (8 = 1 ∨ 8 = 2 ∨ 8 = 4 ∨ 8 = 8) ∧ (3 < 4 ∨ 8 < 4)) ∧
    (1 ≤ 4 ∧ 4 ≤ 6 ∧ (2 = 1 ∨ 2 = 2 ∨ 2 = 4 ∨ 2 = 8) ∧ (4 < 4 ∨ 2 < 4)) ∧
    (let s : State := (memS {})
     1 ≤ 4 ∧ 4 ≤ 6 ∧ (8 = 1 ∨ 8 = 2 ∨ 8 = 4 ∨ 8 = 8) ∧ s.cxl.mode ≠ 0) := by
  and_intros <;> decide +kernel
theorem witness_pagePlacement :
    (let s : State := pageS; let rest : List Nat := [6]
     s.works (ddrUnit (4 * 3 + 3)) = true ∧ (s.chanAt (4 * 3 + 3)).zeroing = 5 :: rest) ∧
    (let s : State := { pageS with us := 1000, plm := { pageS.plm with windowLen := 1000 } }
     s.plm.ready = true ∧ s.plm.windowSince + s.plm.windowLen ≤ s.us) ∧
    (let s : State := { pageS with us := 999, plm := { pageS.plm with windowLen := 1000 } }
     s.us < s.plm.windowSince + s.plm.windowLen) ∧
    (let s : State := pageS; let r : CopyRec := (⟨3, 2, 1, 8⟩)
     s.works strandmapUnit = true ∧ List.find? (fun r => decide (r.page = 3) && decide (r.die = 2)) s.plm.copying = some r ∧ (s.page 3).st = PageSt.mapped) ∧
    (let s : State := pageS; let r : CopyRec := (⟨3, 3, 0, 9⟩)
     List.find? (fun r => decide (r.page = 3) && decide (r.die = 3)) s.plm.retiring = some r) ∧
    (let s : State := ({ pageS with plm := { pageS.plm with map := [(3, { st := .moving })], moves := [⟨3, 1, 2, 7⟩], poison := [(512 * 3 + 511, true)], chans := [(0, { st := .ready, gib := 16, damage := [(511, ⟨.beyond, .none, .none, .none⟩)] })] } })
     let r : CopyRec := (⟨3, 1, 2, 7⟩)
     s.works strandmapUnit = true ∧ List.find? (fun r => decide (r.page = 3)) s.plm.moves = some r ∧ Tab.get false s.plm.poison (512 * 3 + 511) = true ∧
       meets ((s.chanAt 0).errAt 0 511) = .uncorrectable) ∧
    (let s : State := { pageS with bw := {} }
     s.works strandmapUnit = false) := by
  and_intros <;> decide +kernel


/-- A range of one page to release, which has a home; die 3 isolated. -/
def relS : State := { bw := fed, plm := { ready := true, hdmGib := 16, relBase := 32768, relPages := 1, relBusy := true, relRun := (32768, 1), walks := [(2, 5), (3, 7)], map := [(1, { st := .mapped, ppn := 3 })], mem := [(65535, 9)] }, dies := [(3, { isolated := true, hubMods := 2 })] }
/-- Channel 15 in a state, with one page at home on it, and channel 0 ready. -/
def chanS (st : ChanSt) (gib : Nat) : State := { bw := fed, plm := { ready := true, hdmGib := 16, map := [(1, { st := .mapped, die := 3, chan := 3, ppn := 5 })], chans := [(0, { st := .ready, gib := gib }), (15, { st := st, gib := 16, used := [(5, true)] })], mem := [(32768, 9)] } }
/-- Port 3 in a state. -/
def portS (x : Port) : State := { bw := fed, kl := { ports := [(3, x)], n := 4, rank := 0, st := .formed }, us := 2000000 }
/-- A flit of type `t` with sequence `n`, and the 320 bytes in which it arrives. -/
def flit0 (t n : Nat) : Flit := ⟨t, n, 0, false, 0, 31, 0, 0, 1, List.replicate 272 (0xA5 : Byte)⟩
def rxFlit (f : Flit) : List Byte := withParity (flitChecked f)
/-- The same with the last bit of the CRC wrong and the parity of that. -/
def badFlit : List Byte := withParity ((flitChecked (flit0 1 1023)).set 287 (((flitChecked (flit0 1 1023)).getD 287 0) ^^^ 0x80))
/-- A receive buffer that a CTRL flit of a ring fills. -/
def ctrlBuf (ring : Nat) : RxBuf := ⟨2, ring, 0, []⟩
/-- A ring of `n` that forms since 1.9 s, this device of rank `r`; port 0 of hop 0 and port 3 of hop 1 are up, with a CTRL flit of ring A each. -/
def formS (n r : Nat) (st : RingSt) : State := { bw := fed, kl := { n := n, rank := r, st := st, ident := 9, formSince := 1900000, ports := [(0, { st := .up, rx := [ctrlBuf 0] }), (3, { st := .up, rx := [ctrlBuf 0] })] }, us := 2000000 }
/-- The stream of before with a layer of 256 elements, in handle 0, whose tensor is number 2. -/
def layer1 : LayerRec := { layer0 with depth := 1, nout := 256 }
def strm1 : Stream := { strm0 with layers := [layer1] }
/-- A ring of two, this device of rank 0, in which operation `o` runs, and what port 2 has received; the tensor's gradient is complete. -/
def ringR (o : RingOp) (rx : List RxBuf) : State := { bw := fed, hub := { hubUp := true }, est := { steps := [{ num := 7, handle := 0, cls := 2, handed := true, streams := [5], m := 1, cols := [(2, 0, 1)], closed := [(2, 0)] }] }, kl := { n := 2, rank := 0, st := .formed, ops := [o], writeHeld := [2], ports := [(0, { st := .up, rx := rx }), (2, { st := .up, rx := rx })] }, ldr := { handles := [(0, { st := .loaded, stream := some strm1 })] }, plm := { ready := true, hdmGib := 16 } }
def ringS (o : RingOp) : State := ringR o []
/-- An operation of that tensor. -/
def op0 : RingOp := { opid := 1, tid := 2, handed := true, desc := leBytes 64 1 ++ leBytes 8 0x10000 ++ leBytes 8 0x20000 ++ leBytes 48 0, member := (2, 0) }

theorem witness_releaseAndDieLoss :
    (let s : State := ({ relS with plm := { relS.plm with relBusy := false } })
     s.plm.relBusy = false) ∧
    (let s : State := relS
     s.plm.relBusy = true ∧ 1 ∈ s.plm.map.map (·.1) ∧ s.plm.relRun.1 ≤ 32768 * 1 ∧ 32768 * 1 < s.plm.relRun.1 + 32768 * s.plm.relRun.2 ∧
       s.pinned 1 = false) ∧
    (let s : State := relS
     s.plm.walks.find? (fun w => decide (w.1 = 3)) = some (3, 7)) ∧
    (let s : State := { dies := [(2, { hubMods := 3 })] }
     1 < 2 ∧ (s.die 2).hubMods.getLsbD 1 = true ∧ (s.die 2).hubMods = 3) ∧
    (let s : State := relS
     1 < 2 ∧ (s.die 3).hubMods.getLsbD 1 = true ∧ (s.die 3).hubMods ≠ 3) ∧
    (2 ≤ 3 ∧ 3 < 4) := by
  and_intros <;> decide +kernel
/-- The errors of the last line of the last page of channel 15, ready or as given. -/
def damagedS (e : DdrErr) : State := { bw := fed, plm := { chans := [(15, { st := .ready, gib := 16, damage := [(512 * 524287 + 511, e)] })] } }
theorem witness_ddrChannels :
    (let s : State := ({ bw := fed, plm := { ready := true, chans := [(15, { st := .evacuating, gib := 16 })] } }); let i := 4 * 3 + 3
     let x := s.chanAt i
     let pages := List.map (fun x => x.1) (List.filter (fun y => decide (y.2.st = PageSt.mapped) && !y.2.pin && decide (4 * y.2.die + y.2.chan = i))
          s.plm.map)
     let reps := List.filter (fun r => decide (4 * r.die + r.chan = i)) s.plm.replicas
     let a := List.foldl (fun a p => ((State.evacuatePage i p a.1).1, a.2 + (State.evacuatePage i p a.1).2)) (s, 0) pages
     let b := List.foldl (fun a q => ((State.evacuateReplica i q a.1).1, a.2 + (State.evacuateReplica i q a.1).2)) a reps
     x.st = ChanSt.evacuating ∧ s.underWay i = false ∧ s.works strandmapUnit = true ∧ b.2 = 0) ∧
    (let s : State := (chanS .evacuating 0); let i := 4 * 3 + 3; let x := s.chanAt i
     let pages := List.map (fun x => x.1) (List.filter (fun y => decide (y.2.st = PageSt.mapped) && !y.2.pin && decide (4 * y.2.die + y.2.chan = i))
          s.plm.map)
     let reps := List.filter (fun r => decide (4 * r.die + r.chan = i)) s.plm.replicas
     let a := List.foldl (fun a p => ((State.evacuatePage i p a.1).1, a.2 + (State.evacuatePage i p a.1).2)) (s, 0) pages
     let b := List.foldl (fun a q => ((State.evacuateReplica i q a.1).1, a.2 + (State.evacuateReplica i q a.1).2)) a reps
     x.st = ChanSt.evacuating ∧ s.underWay i = false ∧ s.works strandmapUnit = true ∧ b.2 ≠ 0) ∧
    (let s : State := (chanS .ready 16); let i := 4 * 3 + 3; let x := s.chanAt i
     x.st = ChanSt.ready ∧ x.scrubPeriod ≠ 0 ∧ s.works (ddrUnit i) = true ∧ x.damage = []) ∧
    (∀ e ∈ [((⟨.lane 17, .none, .none, .lane 17⟩ : DdrErr), DdrMeet.corrected 17), (⟨.lane 0, .none, .none, .lane 17⟩, .uncorrectable)],
     let s : State := damagedS e.1; let x := s.chanAt 15
     x.st = ChanSt.ready ∧ x.scrubPeriod ≠ 0 ∧ s.works (ddrUnit 15) = true ∧ x.damage = [(512 * 524287 + 511, e.1)] ∧ meets e.1 = e.2) ∧
    (∀ st ∈ [ChanSt.ready, .evacuating, .retired], let s : State := (chanS st 16); (s.chanAt 15).st = st ∧ (s.chanAt 15).selfRefresh = false) ∧
    (let s : State := { plm := { chans := [(15, { selfRefresh := true })] } }; (s.chanAt 15).selfRefresh = true) ∧
    (∀ failed ∈ [[], List.replicate 16 2], let s : State := ({ plm := { chans := [(15, { st := .training, gib := 16 })] } })
     let s1 := ((List.range 16).map fun i => (i, failed.getD i 0)).foldl State.trainChan { s with sec := s.sec.runs 7 }
     let up := (List.range 16).filter fun i => decide ((s1.chanAt i).st = .ready)
     let gib := min 2048 (up.map fun i => (s1.chanAt i).gib).sum
     s.plm.ready = false ∧ (s.chanAt 15).st = .training ∧ gib = if failed = [] then 16 else 0) := by
  and_intros <;> decide +kernel
theorem witness_korporPorts :
    (let s : State := (portS { st := .up, replayBuf := [⟨5, [], 0⟩] }); let x := s.port 3
     BitVec.getLsbD (2 : W32) 0 = false ∧ x.st ≠ PortSt.disabled) ∧
    (let s : State := (portS { st := .disabled, en := false }); let x := s.port 3
     BitVec.getLsbD (7 : W32) 0 = true ∧ BitVec.getLsbD (1 : W32) 0 = true ∧ x.st = PortSt.disabled) ∧
    (let s : State := (portS { since := 1000000 }); let x := s.port 3
     x.st = PortSt.down ∧ x.since + 1000000 ≤ s.us) ∧
    (let s : State := (portS { st := .training, since := 1950000 }); let x := s.port 3; let r : PortResult := ⟨0xC, true, false, true, 0xF⟩
     x.st = PortSt.training ∧ widthOf r.locked ≠ 0 ∧ s.us ≤ x.since + 50000 ∧ x.since + 50000 ≤ s.us) ∧
    (∀ x ∈ [((0x6 : BitVec 4), 1950000), (0xF, 1949999)], let s : State := (portS { st := .training, since := x.2 }); let y := s.port 3
     y.st = PortSt.training ∧ (widthOf x.1 = 0 ∨ y.since + 50000 < s.us)) ∧
    (let s : State := (portS { st := .retrain, since := 1950000 }); let y := s.port 3
     y.st = PortSt.retrain ∧ y.since + 50000 ≤ s.us) := by
  and_intros <;> decide +kernel
theorem parityOf_length (cw : List Byte) : (parityOf cw).length = 16 := by simp [parityOf, padTo]; omega
/-- What the FEC leaves of 288 bytes that arrive with their own parity. -/
theorem flitFixed_rx (bs : List Byte) (h : bs.length = 288) (hb : (List.range 288).map (fun i => bs.getD i 0) = bs) : (flitFixed (withParity bs)).1 = bs := by
  have hc : ∀ odd < 2, codeword odd (withParity bs) = codeword odd bs := fun odd ho => List.map_congr_left fun i hi => by
    have := List.mem_range.mp hi
    simp only [withParity, List.append_assoc, List.getD_eq_getElem?_getD]
    rw [List.getElem?_append_left (by omega)]
  have h0 : ((withParity bs).drop 288).take 16 = parityOf (codeword 0 bs) := by
    simp [withParity, ← h, ← parityOf_length (codeword 0 bs)]
  have h1 : ((withParity bs).drop 304).take 16 = parityOf (codeword 1 bs) := by
    have : (bs ++ parityOf (codeword 0 bs)).length = 304 := by simp [h, parityOf_length]
    rw [withParity, ← this, List.drop_left, ← parityOf_length (codeword 1 bs), List.take_length]
  unfold flitFixed
  rw [h0, h1, hc 0 (by omega), hc 1 (by omega)]
  simp only [fecFix, if_true]
  conv_rhs => rw [← hb]
  refine List.map_congr_left fun i hi => ?_
  have := List.mem_range.mp hi
  rcases Nat.mod_two_eq_zero_or_one i with hm | hm <;> simp only [hm, if_true, if_false, one_ne_zero, codeword] <;>
    rw [List.getD_eq_getElem?_getD, List.getElem?_map, List.getElem?_range (by omega)] <;>
    simp only [Option.map_some, Option.getD_some] <;> congr 1 <;> omega
theorem witness_korporFlits :
    (let s : State := (portS { st := .up, width := 3, rxSeq := 1023 }); (s.port 3).st = PortSt.up ∧ flitOf (flitFixed badFlit).1 = none) ∧
    (∀ x ∈ [(1, 1022), (1, 1023), (3, 1023), (0, 1022)], let s : State := (portS { st := .up, rxSeq := 1023 }); let f : Flit := flit0 x.1 x.2
     (s.port 3).st = PortSt.up ∧ flitOf (flitFixed (rxFlit f)).1 = some f ∧ f.ring ≤ 1 ∧ f.ftype = x.1 ∧ f.txseq = x.2 ∧ s.bypassed = false ∧ f.nak = false ∧
       (s.port 3).txq = [] ∧ f.cvc < 2 ∧ f.wf = true) ∧
    (let s : State := (portS { st := .retrain, width := 3, retrains := [1, 2], since := 1950000, replayBuf := [⟨5, [], 6⟩] }); let x := s.port 3
     let r : PortResult := ⟨0xF, true, false, false, 0⟩
     x.st = PortSt.retrain ∧ widthOf r.locked ≠ 0 ∧ lanesOf (widthOf r.locked) ≤ lanesOf x.width ∧ x.retrains.length < 3 ∧ s.us ≤ x.since + 50000 ∧
       ∀ e ∈ x.replayBuf, e.replays < 7) ∧
    (∀ x ∈ [(3, [1, 2, 3], 1999999, some (⟨0xF, true, false, false, 0⟩ : PortResult)), (3, [], 1999999, none), (1, [], 1999999, some ⟨0xF, true, false, false, 0⟩),
        (3, [], 1949999, some ⟨0xF, true, false, false, 0⟩)],
     let s : State := (portS { st := .retrain, width := x.1, retrains := x.2.1, since := x.2.2.1 }); let y := s.port 3
     y.st = PortSt.retrain ∧ ∀ z ∈ x.2.2.2.toList, widthOf z.locked = 0 ∨ lanesOf y.width < lanesOf (widthOf z.locked) ∨ 3 ≤ y.retrains.length ∨
       y.since + 50000 < s.us) ∧
    (let s : State := (portS { st := .up, rxSeq := 0, ackDue := 1, sinceIdle := 1022 }); let x := s.port 3
     x.st = .up ∧ x.linked = true ∧ 0 < x.ackDue ∧ ¬ x.sinceIdle < 1022) ∧
    ((⟨-32, 7, true, 126, 255, List.replicate 32 0xFFFF⟩ : Block).wf = true) := by
  have hbad : (flitFixed badFlit).1 = (flitChecked (flit0 1 1023)).set 287 (((flitChecked (flit0 1 1023)).getD 287 0) ^^^ 0x80) :=
    flitFixed_rx _ (by decide +kernel) (by decide +kernel)
  have hrx : ∀ x ∈ [(1, 1022), (1, 1023), (3, 1023), (0, 1022)], (flitFixed (rxFlit (flit0 x.1 x.2))).1 = flitChecked (flit0 x.1 x.2) :=
    fun x hx => flitFixed_rx _ ((by decide +kernel : ∀ x ∈ [(1, 1022), (1, 1023), (3, 1023), (0, 1022)], (flitChecked (flit0 x.1 x.2)).length = 288) x hx)
      ((by decide +kernel : ∀ x ∈ [(1, 1022), (1, 1023), (3, 1023), (0, 1022)],
        (List.range 288).map (fun i => (flitChecked (flit0 x.1 x.2)).getD i 0) = flitChecked (flit0 x.1 x.2)) x hx)
  have hwf : ∀ x ∈ [(1, 1022), (1, 1023), (3, 1023), (0, 1022)], let s : State := (portS { st := .up, rxSeq := 1023 }); let f : Flit := flit0 x.1 x.2
     (s.port 3).st = PortSt.up ∧ flitOf (flitChecked f) = some f ∧ f.ring ≤ 1 ∧ f.ftype = x.1 ∧ f.txseq = x.2 ∧ s.bypassed = false ∧ f.nak = false ∧
       (s.port 3).txq = [] ∧ f.cvc < 2 ∧ f.wf = true := by decide +kernel
  refine ⟨⟨rfl, by rw [hbad]; decide +kernel⟩, fun x hx => ?_, by decide +kernel, by decide +kernel, by decide +kernel, by decide +kernel⟩
  have := hwf x hx
  simp only [hrx x hx]
  exact this
theorem witness_ringFormation :
    ((formS 16 15 .idle).kl.n ≠ 1 ∧ (formS 1 0 .idle).kl.n = 1) ∧
    (∀ p ∈ [(0 : PortId), 3], ∀ r ∈ [0, 3], let s : State := (formS 4 r .forming); let k := s.kl
     (s.port p).front 2 = some (ctrlBuf 0) ∧ s.bypassed = false ∧ ((s.port p).front 2).isSome = true ∧ k.st = RingSt.forming ∧ k.formFail = 0 ∧
       k.rank = r ∧ k.addsAt 0 p = decide (p = 3)) ∧
    (∀ st ∈ [RingSt.formed, .wrapped], let s : State := (formS 4 3 st); let k := s.kl; let m : HelloMsg := (⟨9, 4, 1, 2⟩)
     s.bypassed = false ∧ ((s.port 0).front 2).isSome = true ∧ (k.st = RingSt.formed ∨ k.st = RingSt.wrapped) ∧ m.rank ≠ (k.partner 0).1) ∧
    (let s : State := { formS 4 3 .forming with kl := { (formS 4 3 .forming).kl with formFail := 5 } }; let k := s.kl
     (s.port 3).front 2 = some (ctrlBuf 0) ∧ k.st = RingSt.forming ∧ k.addsAt 0 3 = true ∧ k.formFail ≠ 0) ∧
    (let s : State := { formS 4 3 .forming with us := 1950000 }; let k := s.kl
     k.st = RingSt.forming ∧ k.formSince + 50000 ≤ s.us) ∧
    (let s : State := (formS 4 0 .forming); let k := s.kl
     k.st = RingSt.forming ∧ k.formSince + 100000 ≤ s.us) := by
  and_intros <;> decide +kernel
theorem witness_ringLossAndRerun :
    (let s : State := (ringS op0)
     (s.port 1).linked = false ∧ s.ringReady = true ∧ (∃ o ∈ s.kl.ops, o.ended = false ∧ o.phase ≠ OpPhase.aborted)) ∧
    (let s : State := (ringS op0)
     s.bypassed = false ∧ 1 < s.kl.n ∧ s.kl.st = RingSt.formed) ∧
    (let s : State := (ringR op0 [ctrlBuf 0])
     (s.port 2).front 2 = some (ctrlBuf 0) ∧ s.bypassed = false ∧ s.kl.addsAt 0 2 = true ∧ (∀ c ∈ [1, 2, 3, 8], c ≠ 4 ∧ c ≠ 5 ∧ c ≠ 6 ∧ c ≠ 7) ∧
       (∃ o ∈ s.kl.ops, o.ended = false ∧ o.phase ≠ OpPhase.aborted ∧ o.opid = 1)) ∧
    (let s : State := ({ ringS op0 with kl := { (ringS op0).kl with ops := [] } })
     let x : Machine.Stream × LayerRec := (strm1, layer1)
     s.tensor 2 = some x ∧ s.hub.hubUp = true ∧ (s.trainStep 2 x.2.index).map (·.num) = some 7 ∧ (∀ q ∈ s.kl.queued, q.1 ≠ 2) ∧
       (∀ o ∈ s.kl.ops, o.tid = 2 → o.handed = true → o.ended = true)) ∧
    (let s : State := ({ ringS op0 with hub := {} })
     s.tensor 2 ≠ none ∧ s.hub.hubUp = false) ∧
    (let s : State := (ringS op0)
     s.ringReady = true ∧ (∀ o ∈ s.kl.ops, o.ended = true ∨ o.phase ≠ OpPhase.aborted ∨ o.member ≠ (s.kl.n, s.kl.rank))) ∧
    (let s : State := (ringS { op0 with phase := .aborted }); let o : RingOp := ({ op0 with phase := .aborted })
     let x : Machine.Stream × LayerRec := (strm1, layer1)
     s.ringReady = true ∧ List.filter (fun o => !o.ended && decide (o.phase = OpPhase.aborted) && decide (o.member = (s.kl.n, s.kl.rank))) s.kl.ops = [o] ∧
        s.tensor o.tid = some x ∧ o.handed = true) := by
  and_intros <;> decide +kernel


/-- A block of zeros. -/
def blk (b : Nat) : Block := ⟨0, 0, false, 0, b, List.replicate 32 0⟩
/-- A latch of a register holds `v` since time 0, at `us`. -/
def latchS (k : Nat) (v : W32) (us : Nat) : State := { tmk := { rwc := [(k, some (v, 0))] }, us := us }
/-- Two records in the Warning log and the management plane up. -/
def logS : State := { hub := { mgmtUp := true }, cxl := { logs := [(1, { recs := [⟨1, 7, 0x58, 0⟩, ⟨2, 9, 0x58, 5⟩], overflow := 3 })], evtPolicy := [1, 0, 0, 0] }, us := 2000 }

/-- The MSI-X entries unmasked. -/
def unmasked : State := { cxl := { busMaster := true, msixTable := (List.range 4).map fun n => (n, { masked := false }) } }
theorem witness_inLinkReduction :
    (∀ m ∈ [(⟨1, 1, 2, 256, 0, false, false⟩ : OpenMsg), ⟨1, 1, 2, 256, 0, false, true⟩],
     let s : State := (ringR op0 [ctrlBuf 0]); let o : RingOp := op0; let x : Machine.Stream × LayerRec := (strm1, layer1)
     (s.port 2).front 2 = some (ctrlBuf 0) ∧ s.ringReady = true ∧ s.kl.addsAt 0 2 = true ∧ m.rank < s.kl.n ∧ m.rank ≠ s.kl.rank ∧ m.opid ∉ s.kl.given ∧
       s.op? m.opid = some o ∧ (∀ y ∈ o.opens, y.rank ≠ m.rank) ∧ s.tensor o.tid = some x) ∧
    (∀ p ∈ [0, 2], ∀ handed, let o : RingOp := { op0 with handed := handed }; let s : State := (ringR o [⟨0, 0, 1, [blk 0, blk 1]⟩])
     let st : Machine.Stream := strm1; let l : LayerRec := layer1
     s.nextBlock p 0 1 (blk 0) = some 0 ∧ s.op? 1 = some o ∧ s.tensor o.tid = some (st, l) ∧ s.ringReady = true ∧ o.phase ≠ OpPhase.aborted ∧ 0 < l.nb ∧
       s.kl.addsAt 0 p = decide (p = 2) ∧ s.blockWait o 0 = [] ∧ s.works adderUnit = true ∧ s.hubWorks (o.gradDla 0) 128 = true ∧ o.rerun = false) ∧
    (let o : RingOp := { op0 with rerun := true, handed := true }; let s : State := (ringR o [⟨0, 0, 1, [blk 0, blk 1]⟩])
     s.nextBlock 2 0 1 (blk 0) = some 0 ∧ s.op? 1 = some o ∧ s.tensor o.tid = some (strm1, layer1) ∧ s.ringReady = true ∧ o.phase ≠ OpPhase.aborted ∧
       0 < layer1.nb ∧ o.rerun = true ∧ (∀ r ∈ o.early, r.1 ≠ 1)) ∧
    (∀ p ∈ [0, 2], ∀ past, let s0 : State := ringR op0 [⟨0, 0, 1, [blk 0]⟩]
     let s : State := { s0 with kl := { s0.kl with ops := [], given := if past = true then [1] else [] } }
     s.nextBlock p 0 1 (blk 0) = some 0 ∧ s.op? 1 = none ∧ s.ringReady = true ∧ s.opOver 1 = past ∧ s.kl.addsAt 0 p = decide (p = 2)) ∧
    (let o : RingOp := { op0 with heldUp := [(2, 0, blk 0)] }; let s : State := (ringR o [⟨0, 0, 1, [blk 0]⟩])
     let h : Nat × Nat × Block := (2, 0, blk 0); let st : Machine.Stream := strm1; let l : LayerRec := layer1
     List.find? (fun o => !o.ended && o.handed && o.heldUp.any fun h => decide (h.1 = 2) && decide (h.2.1 = 0)) s.kl.ops = some o ∧ List.find? (fun h =>
        decide (h.1 = 2) && decide (h.2.1 = 0)) o.heldUp = some h ∧ s.tensor o.tid = some (st, l) ∧ s.blockWait o 0 = [] ∧
        (s.nextBlock 2 0 o.opid h.2.2).isSome = true ∧ s.works adderUnit = true ∧ s.hubWorks (o.gradDla 0) 128 = true) ∧
    (let s : State := (ringR op0 [ctrlBuf 0]); let o : RingOp := op0
     (s.port 2).front 2 = some (ctrlBuf 0) ∧ s.bypassed = false ∧ s.kl.addsAt 0 2 = true ∧ s.op? 1 = some o ∧ o.phase ≠ OpPhase.aborted ∧ 1 < s.kl.n ∧
       1 ≠ s.kl.rank ∧ (∀ r ∈ o.rdones, r.1 ≠ 1)) ∧
    (blockSound { blk 0 with res := 126 } = false ∧ (blk 0).bseq ≠ (blk 255).bseq) := by
  and_intros <;> decide +kernel
theorem witness_updateAndParameters :
    (∀ applied, let o : RingOp := { op0 with phase := .update, applied := applied }; let s : State := (ringS o)
     let st : Machine.Stream := strm1; let l : LayerRec := layer1
     List.find? (fun o => !o.ended && o.handed && (decide (o.phase = OpPhase.update) || s.rdoneWaits o)) s.kl.ops = some o ∧ s.tensor o.tid = some (st, l) ∧ s.rangesUnread (o.updateRanges st l (shardBlocks s.kl.n l.nb s.kl.rank) s) = [] ∧
        s.works updateUnit = true ∧ s.rangesWork (o.updateRanges st l (shardBlocks s.kl.n l.nb s.kl.rank) s) = true) ∧
    (∀ p ∈ [0, 2], let u : Block := blk 7; let s : State := (ringR op0 [⟨1, 0, 1, [u]⟩]); let o : RingOp := op0
     let st : Machine.Stream := strm1; let l : LayerRec := layer1
     s.nextBlock p 1 1 u = some 0 ∧ s.paramOp? 1 = some o ∧ s.tensor o.tid = some (st, l) ∧ s.ringReady = true ∧ 7 < l.nb ∧
       s.kl.addsAt 0 p = decide (p = 2) ∧ blockSound u = true ∧ u.bseq = 7 % 256) ∧
    (let u : Block := blk 8; let s : State := (ringR op0 [⟨1, 0, 1, [u]⟩])
     s.nextBlock 2 1 1 u = some 0 ∧ s.kl.addsAt 0 2 = true ∧ (blockSound u = false ∨ u.bseq ≠ 7 % 256)) ∧
    (let s : State := (ringR op0 [ctrlBuf 0]); let o : RingOp := op0
     (s.port 2).front 2 = some (ctrlBuf 0) ∧ s.bypassed = false ∧ s.kl.addsAt 0 2 = true ∧ s.op? 1 = some o ∧ o.phase ≠ OpPhase.aborted ∧ 1 < s.kl.n ∧
       1 ≠ s.kl.rank ∧ (∀ r ∈ o.pdones, r.1 ≠ 1)) ∧
    (let o : RingOp := { op0 with ended := true, params := List.range 8 }; let s : State := (ringS o); let st : Machine.Stream := strm1; let l : LayerRec := layer1
     List.find? (fun o => decide (o.tid = 2) && o.ended && !o.written) s.kl.ops = some o ∧ 2 ∈ s.kl.writeHeld ∧ s.tensor 2 = some (st, l) ∧
        (∀ b < l.nb, b ∈ o.params) ∧ State.stepReads l s = false ∧ s.works updateUnit = true ∧ s.rangesUnread (o.writeRanges l) = [] ∧
        s.rangesWork (o.writeRanges l) = true) ∧
    (∃ r ∈ ({ op0 with rdones := [(1, false, true)] } : RingOp).rdones, r.2.2 = true) ∧
    (let o : RingOp := { op0 with finished := (List.range 8).map fun b => (b, blk b) }; let s : State := (ringS o)
     s.rdoneWaits o = true ∧ o.phase ≠ OpPhase.update) := by
  and_intros <;> decide +kernel
theorem witness_warmReset :
    (let s : State := { cxl := { waiting := [{ line := 7, addr := 448, src := 1 }] } }
     s.bw.parked = false ∧ (∀ w ∈ s.cxl.waiting ++ s.cxl.held, w.src ≠ 0)) ∧
    (let s : State := ({ hub := { warm := true } })
     s.hub.warm = true) := by
  and_intros <;> decide +kernel
theorem witness_registerWrites :
    (pathEffect .host 0 (5 : W32).toNat = none) ∧
    (let s : State := { cores := [(143, { spd := { unpwr := true, forced := true, ueSeen := true, rej := true } })] }
     35 < 36 ∧ (s.core (36 * (3 : DieId) + 35)).inReset = false) ∧
    (let s : State := { cxl := { busMaster := true, msixPend := 8, msixTable := [(3, { masked := true })] } }
     (0 : W32).getLsbD 0 = false ∧ s.cxl.busMaster = true ∧ s.cxl.msixPend.getLsbD (3 : Fin 4) = true ∧ (Tab.get {} s.cxl.msixTable (3 : Fin 4)).masked = true) ∧
    (let s : State := unmasked; s.cxl.busMaster = true ∧ (Tab.get {} s.cxl.msixTable (3 : Fin 4)).masked = false) ∧
    (∃ u, exec (.registerWrite .host 4 1 none) {} = .next u) ∧
    (let p : Sys2Proof.Path := .host; let s : State := {}; let r : RwcReg := .bwCeil
     s.pendingRwc (rwcLatch p r) = none) ∧
    (∀ x ∈ [(0, (1 : W32), Sys2Proof.Path.host, RwcReg.hubLock, 5), (4, 1, .mgmt, .hubLock, 5), (1, 300, .host, .bwCeil, 0), (5, 120, .mgmt, .bwCeil, 5),
       (5, 421, .mgmt, .bwCeil, 5), (3, 300, .hub, .bwCeil, 1000)],
     let s : State := (latchS x.1 x.2.1 x.2.2.2.2)
     s.pendingRwc (rwcLatch x.2.2.1 x.2.2.2.1) = some (x.2.1, 0) ∧ x.2.1 ≠ ~~~x.2.1 ∧ (x.1 = 3 → 0 + 1000 ≤ s.us)) := by
  and_intros
  all_goals first | exact ⟨_, rfl⟩ | rfl | decide +kernel
theorem witness_mailboxGeneric :
    (let s : State := logS; let v : List Byte := ([1, 1, 1, 1])
     s.takesFrom Source.host = true ∧ s.sec.recovery = false ∧ v.length = 4 ∧ 2 ^ 64 - 1 < 2 ^ 64) ∧
    (let s : State := logS
     s.takesFrom Source.host = true ∧ 0xBFFF ∉ opsOf .host ∧ 0xBFFF < 0xC000) ∧
    (∀ src ∈ [Source.host, .bmc], ∀ serving, let s : State := { logS with tmk := { bmc := { busy := serving } } }
     src ≠ Source.hub ∧ 0xC0FF ∉ opsOf src ∧ 0xC000 ≤ 0xC0FF ∧ s.serving = serving) ∧
    (let s : State := { logS with hub := { mgmtUp := true, hubUp := true } }; let l : MboxLink := ⟨5, true, true⟩
     0xC050 ∉ opsOf .hub ∧ s.serving = false ∧ s.hub.hubUp = true ∧ l.cmdOk = true ∧ l.replyOk = true ∧ s.hub.mbxReissue ≠ some l.seq) := by
  and_intros <;> decide +kernel
theorem witness_doeAttestationAndFwInfo :
    (let s : State := up
     s.takesFrom Source.host = true ∧ s.sec.recovery = false ∧ 3 ≤ 3) ∧
    (let s : State := up
     s.takesFrom Source.host = true ∧ s.sec.recovery = false ∧ 2 < 3) ∧
    (let s : State := up
     s.takesFrom Source.host = true ∧ s.sec.recovery = false ∧ 2 ≤ 2 ∧ 2 < 6) ∧
    (let s : State := up
     s.takesFrom Source.host = true ∧ s.sec.recovery = false ∧ 2 ≤ 5 ∧ 5 < 6) ∧
    (let s : State := up; let nonce : List Byte := (List.replicate 32 7)
     s.takesFrom Source.host = true ∧ nonce.length = 32) ∧
    (let s : State := up; let nonce : List Byte := (List.replicate 32 7)
     s.hub.mgmtUp = true ∧ nonce.length = 32) ∧
    (let s : State := up
     s.takesFrom Source.host = true) := by
  and_intros <;> decide +kernel

/-- Firmware updates: the management plane is up and the security unit is as given. -/
def secS (x : Sec) : State := { hub := { mgmtUp := true }, sec := x, us := 70000000 }
/-- A host session on slot 2 whose header has arrived. -/
def hostDl : Sec := { holder := 1, stage := .download, target := 1, header := List.replicate 1024 0, bytes := 1024, total := 4096 }
/-- Core 143 fenced, or in a role. -/
def roleS (m : Nat) (r : Role) : State := { hub := { mgmtUp := true }, dies := [(3, { fenceMask := m })], roles := [(143, some r)], cores := [(143, coreOf 0)] }
/-- Core 0 runs under the stream of handle 0. -/
def claimS : State := { hub := { mgmtUp := true }, ldr := { handles := [(0, { st := .loaded, stream := some { ident := 5, classes := [⟨1, true, 1, 1, 0⟩] } })] } }
/-- One bank write of CEIL is in progress. -/
def jobS (rep : Bool) : State := { hub := { mgmtUp := true }, tmk := { jobs := [{ job := .setting .bmc 1 (leBytes 2 300), payload := itemBytes [(1, leBytes 2 300)], format := 1, repeated := rep, started := true }] } }
/-- Keys of one byte repeated. -/
def keyS (ks : List KeyEnt) (lock : Bool) : State := { hub := { mgmtUp := true, lock := lock }, sec := { keys := ks } }
def key57 (b : Byte) : List Byte := List.replicate 57 b

theorem witness_hostFirmwareCommands :
    (let s : State := (secS {}); let x := s.sec
     s.takesFrom Source.host = true ∧ (1 = x.active + 1 ∨ 1 = 0 ∨ 2 < 1)) ∧
    (let s : State := (secS {}); let x := s.sec
     s.takesFrom Source.host = true ∧ (3 = x.active + 1 ∨ 3 = 0 ∨ 2 < 3)) ∧
    (let s : State := (secS { holder := 2 }); let x := s.sec
     s.takesFrom Source.host = true ∧ 0 < 2 ∧ 2 ≤ 2 ∧ 2 ≠ x.active + 1 ∧ 2 ≠ x.trial + 1 ∧ x.holder = 2) ∧
    (let s : State := (secS {}); let x := s.sec; let data : List Byte := ([1, 2])
     s.takesFrom Source.host = true ∧ 0 < 2 ∧ 2 ≤ 2 ∧ 2 ≠ x.active + 1 ∧ 2 ≠ x.trial + 1 ∧ x.holder = 0 ∧ x.noSession = false ∧ data.length < hdrLen) ∧
    (let s : State := (secS hostDl); let x := s.sec
     s.takesFrom Source.host = true ∧ 0 < 2 ∧ 2 ≤ 2 ∧ 2 ≠ x.active + 1 ∧ 2 ≠ x.trial + 1 ∧ x.holder = 1 ∧ x.stage = Stage.download ∧ x.target + 1 = 2 ∧
        x.header.length = hdrLen ∧ x.bytes = 1024 ∧ x.erasing = false) ∧
    (let s : State := (secS { hostDl with erasing := true }); let x := s.sec
     s.takesFrom Source.host = true ∧ x.holder = 1 ∧ x.stage = Stage.download ∧ x.target + 1 = 2 ∧ x.header.length = hdrLen ∧ x.bytes = 1024 ∧ x.erasing = true) ∧
    (∀ src ∈ [Source.host, .bmc], let s : State := { secS {} with tmk := { bmc := { busy := true } } }
     src ≠ Source.hub ∧ s.takesFrom src = true ∧ s.serving = true) ∧
    (let s : State := (secS hostDl); let x := s.sec
     s.takesFrom Source.host = true ∧ 0 < 2 ∧ 2 ≤ 2 ∧ 2 ≠ x.active + 1 ∧ 2 ≠ x.trial + 1 ∧ x.holder = 1 ∧ x.stage = Stage.download ∧ x.target + 1 = 2 ∧
        x.bytes ≠ 1025) ∧
    (let s : State := (secS {})
     s.takesFrom Source.host = true) ∧
    (let s : State := (secS { holder := 1, stage := .ready, target := 1 }); let x := s.sec
     s.takesFrom Source.host = true ∧ x.holder = 1 ∧ x.stage = Stage.ready ∧ x.target + 1 = 2) ∧
    (let s : State := (secS {}); let src : Source := .bmc
     src ≠ Source.hub ∧ s.takesFrom src = true ∧ s.serving = false) ∧
    (let s : State := (secS { holder := 2, stage := .download }); let x := s.sec; let src : Source := .bmc
     src ≠ Source.hub ∧ s.takesFrom src = true ∧ s.serving = false ∧ x.recovery = false ∧ x.sessionOpen = true ∧ x.holder = holderNum src) ∧
    (let s : State := (secS { holder := 1, stage := .download }); let x := s.sec; let src : Source := .bmc
     src ≠ Source.hub ∧ s.takesFrom src = true ∧ s.serving = false ∧ x.recovery = false ∧ x.sessionOpen = true ∧ x.holder ≠ holderNum src) ∧
    (let s : State := (secS {}); let x := s.sec; let src : Source := .host
     src ≠ Source.hub ∧ s.takesFrom src = true ∧ s.serving = false ∧ x.recovery = false ∧ x.sessionOpen = false) ∧
    (let s : State := (secS {}); let x := s.sec; let src : Source := .host
     src ≠ Source.hub ∧ s.takesFrom src = true ∧ s.serving = false ∧ x.trialRun = false ∧ (x.recovery = false ∨ x.trial = 0xFF)) ∧
    (let s : State := (secS { recovery := true, trial := 1 }); let x := s.sec; let src : Source := .bmc
     src ≠ Source.hub ∧ s.takesFrom src = true ∧ s.serving = false ∧ (x.trialRun = true ∨ x.recovery = true ∧ x.trial ≠ 0xFF) ∧ s.tmk.jobs = [] ∧ s.bw.pfail = false) ∧
    (let s : State := (secS { trialRun := true, trial := 1 }); let x := s.sec; let src : Source := .host
     src ≠ Source.hub ∧ s.takesFrom src = true ∧ s.serving = false ∧ x.trialRun = true ∧ s.tmk.jobs = [] ∧ s.bw.pfail = false) := by
  and_intros <;> decide +kernel
theorem witness_pldmFirmwareUpdate :
    (let s : State := (secS {}); let x := s.sec
     s.hub.mgmtUp = true ∧ x.holder = 0 ∧ x.noSession = false ∧ s.bw.pfail = false) ∧
    (let s : State := (secS { holder := 1 }); let x := s.sec
     s.hub.mgmtUp = true ∧ x.holder ≠ 0) ∧
    (let s : State := (secS { holder := 2, pldm := .learn }); let x := s.sec
     s.hub.mgmtUp = true ∧ x.holder = 2 ∧ x.pldm = PldmSt.learn) ∧
    (∃ d, cut d 1 2 = leBytes 2 Config.pldmClass.toNat) ∧ (∃ d, cut d 1 2 ≠ leBytes 2 Config.pldmClass.toNat) ∧
    (let s : State := { secS { holder := 2, pldm := .apply } with bw := { pfail := true } }; let x := s.sec
     s.hub.mgmtUp = true ∧ x.holder = 2 ∧ x.pldm = PldmSt.apply ∧ s.bw.pfail = true) ∧
    (let s : State := (secS { holder := 2, pldm := .readyXfer }); let x := s.sec
     s.hub.mgmtUp = true ∧ x.holder = 2 ∧ x.pldm = PldmSt.readyXfer) ∧
    (let s : State := (secS { hostDl with holder := 2, pldm := .download }); let x := s.sec; let data : List Byte := [7]
     s.hub.mgmtUp = true ∧ x.holder = 2 ∧ x.pldm = PldmSt.download ∧ x.stage = Stage.download ∧ data.length ≤ 4096 ∧ s.bw.pfail = false ∧ x.header.length =
        hdrLen ∧ x.bytes = 1024 ∧ x.erasing = false) ∧
    (let s : State := (secS { hostDl with holder := 2, pldm := .download }); let x := s.sec; let data : List Byte := [7]
     s.hub.mgmtUp = true ∧ x.holder = 2 ∧ x.pldm = PldmSt.download ∧ x.stage = Stage.download ∧ data.length ≤ 4096 ∧ s.bw.pfail = false ∧ x.header.length =
        hdrLen ∧ x.bytes = 1024 ∧ x.erasing = false) ∧
    (let s : State := (secS { holder := 2, pldm := .apply, stage := .ready, target := 1 }); let x := s.sec
     s.hub.mgmtUp = true ∧ x.holder = 2 ∧ x.pldm = PldmSt.apply ∧ x.stage = Stage.ready ∧ s.bw.pfail = false) ∧
    (let s : State := (secS { holder := 2, pldm := .apply, stage := .ready, target := 1 }); let x := s.sec
     s.hub.mgmtUp = true ∧ x.holder = 2 ∧ x.pldm = PldmSt.apply) ∧
    (let s : State := (secS { hostDl with holder := 2, pldm := .download }); let x := s.sec
     s.hub.mgmtUp = true ∧ x.holder = 2 ∧ x.sessionOpen = true) ∧
    (let s : State := (secS { hostDl with lastTraffic := 10000000 }); let x := s.sec
     x.sessionOpen = true ∧ x.lastTraffic + 60000000 ≤ s.us) ∧
    (let s : State := (secS { holder := 2, stage := .verify, target := 1 }); let x := s.sec
     x.stage = Stage.verify ∧ s.hub.mgmtUp = true ∧ s.bw.pfail = false) := by
  and_intros
  all_goals first
    | decide +kernel
    | exact ⟨0 :: leBytes 2 Config.pldmClass.toNat, rfl⟩
    | exact ⟨[], fun h => absurd (congrArg List.length h) (by decide)⟩
theorem roleS_quiet : (roleS 0 .standby).NoTraffic 143 := by
  refine ⟨fun f hf => (List.not_mem_nil hf).elim, fun x b hb q hq => ?_, fun b hb => ?_⟩
  · by_cases hx : x = 143
    · subst hx
      exact absurd ((by decide +kernel : ∀ b ∈ ((roleS 0 .standby).core 143).spd.banks, b.2.queue = []) b hb) (List.ne_nil_of_mem hq)
    · have : (roleS 0 .standby).core x = {} := by simp [State.core, roleS, Tab.get, Ne.symm hx]
      rw [this] at hb
      exact (List.not_mem_nil hb).elim
  · exact (by decide +kernel : ∀ b ∈ ((roleS 0 .standby).core 143).spd.banks, b.2.queue = []) b hb
theorem witness_coreCommands :
    (∀ cmdOk, let src : Source := .hub; let s : State := { roleS 0 .inService with hub := { mgmtUp := true, hubUp := true, mbxReissue := some 4 } }
     let l : MboxLink := ⟨5, cmdOk, true⟩
     s.takesFrom src = true ∧ s.sec.recovery = false ∧ s.serving = false ∧ s.hub.hubUp = true ∧ l.replyOk = true ∧ s.hub.mbxReissue ≠ some l.seq) ∧
    (let src : Source := .bmc; let s : State := up
     s.takesFrom src = true ∧ s.sec.recovery = false ∧ s.serving = false ∧ (144 ≤ 144 ∨ s.role 144 = Role.disabled)) ∧
    (let src : Source := .hub; let s : State := (roleS (2 ^ 35) .beached)
     s.takesFrom src = true ∧ s.sec.recovery = false ∧ s.serving = false ∧ 143 < 144 ∧ s.role 143 ≠ Role.disabled ∧ s.fenced 143 = true) ∧
    (let src : Source := .bmc; let s : State := (roleS 0 .inService)
     s.takesFrom src = true ∧ s.sec.recovery = false ∧ s.serving = false ∧ 143 < 144 ∧ s.role 143 ≠ Role.disabled ∧ s.fenced 143 = false ∧ src ≠ Source.hub) ∧
    (let src : Source := .bmc; let s : State := (roleS (2 ^ 35) .beached)
     s.takesFrom src = true ∧ s.sec.recovery = false ∧ s.serving = false ∧ 143 < 144 ∧ s.role 143 ≠ Role.disabled ∧ src ≠ Source.hub ∧ s.role 143 = Role.beached ∧ 143 ∉
        s.hub.selftest ∧ (s.die (coreDie 143)).isolated = false ∧ Tab.get 0 (s.die (coreDie 143)).fenceCause (coreLocal 143) ≠ 6) ∧
    (let src : Source := .bmc; let s : State := (roleS 0 .standby)
     s.takesFrom src = true ∧ s.sec.recovery = false ∧ s.serving = false ∧ 143 < 144 ∧ s.role 143 ≠ Role.disabled ∧ src ≠ Source.hub ∧ s.role 143 ≠ Role.beached) ∧
    (let src : Source := .bmc; let s : State := (roleS 0 .standby)
     s.takesFrom src = true ∧ s.sec.recovery = false ∧ s.serving = false ∧ 143 < 144 ∧ s.role 143 ≠ Role.disabled ∧ src ≠ Source.hub ∧ (s.role 143 ≠ Role.inService ∨ s.claimOf
        143 = none)) ∧
    (let src : Source := .bmc; let s : State := claimS
     s.takesFrom src = true ∧ s.sec.recovery = false ∧ s.serving = false ∧ 0 < 144 ∧ s.role 0 ≠ Role.disabled ∧ src ≠ Source.hub ∧ s.role 0 = Role.inService ∧ (s.claimOf
        0).isSome = true) ∧
    (roleS 0 .standby).NoTraffic 143 ∧
    (let s : State := { cores := [(0, { spd := pad })], fabric := [.read 0 0 143 16383 (.word 3) 3] }
     s.fabric = [.read 0 0 143 16383 (.word 3) 3] ∧ 0 < 144 ∧ 0 ≠ 143 ∧ (s.core 0).spd.isOn 3 = true ∧ (∀ y ∈ (s.core 0).spd.banks, y.2.queue = []) ∧
       ∀ y ∈ ({} : Core).spd.banks, y.2.queue = []) := by
  and_intros
  all_goals first | decide +kernel | exact roleS_quiet.1 | exact roleS_quiet.2.1
theorem witness_dieAndUnitResets :
    (let s : State := ({ up with dies := [(3, { isolated := true })] }); let src : Source := .host
     src ≠ Source.hub ∧ s.takesFrom src = true ∧ s.serving = false ∧ s.sec.recovery = false ∧ 3 < 4 ∧ (s.die 3).isolated = true) ∧
    (let s : State := ({ up with dies := [(3, { inc := 15 })], cores := [(143, coreOf 0)] }); let src : Source := .host
     src ≠ Source.hub ∧ s.takesFrom src = true ∧ s.serving = false ∧ s.sec.recovery = false ∧ 3 < 4 ∧ (s.die 3).isolated = false ∧ s.dieGrants 3 = 0) ∧
    (let s : State := ({ up with bw := { grants := [(143, { grant := 1 })] } }); let src : Source := .host
     src ≠ Source.hub ∧ s.takesFrom src = true ∧ s.sec.recovery = false ∧ s.serving = false ∧ 3 < 4 ∧ (s.die 3).isolated = false ∧ s.dieGrants 3 ≠ 0) ∧
    (let s : State := ({ up with dies := [(3, { inReset := true })], cores := [(143, { coreOf 0 with inReset := true })] })
     (s.die 3).inReset = true ∧ (s.die 3).isolated = false ∧ s.bw.parked = false ∧ s.hub.warm = false) ∧
    (let s : State := up; let src : Source := .bmc; let unit : ResetUnit := .dieHeadland
     src ≠ Source.hub ∧ s.takesFrom src = true ∧ s.serving = false ∧ s.sec.recovery = false ∧ unitOfCode 0x10 = some unit ∧ (unit = ResetUnit.dieHeadland → 3 < 4)) ∧
    (let s : State := up; let src : Source := .bmc
     src ≠ Source.hub ∧ s.takesFrom src = true ∧ s.serving = false ∧ s.sec.recovery = false ∧ unitOfCode 0x14 = none) ∧
    (let s : State := { up with hub := { up.hub with mbxReissue := some 4 } }
     s.bw.parked = false ∧ s.hub.mbxReissue ≠ none) ∧
    (let s : State := { up with sec := { cmds := [.fenceCore .hub 3 ⟨1, true, true⟩] } }
     s.bw.parked = false ∧ ∃ i ∈ s.sec.cmds, cmdSource i = .hub) := by
  and_intros <;> decide +kernel
theorem witness_settingsAndBanks :
    (let s : State := up; let src : Source := .host; let v : List Byte := (leBytes 2 421)
     src ≠ Source.hub ∧ s.takesFrom src = true ∧ s.serving = false ∧ s.sec.recovery = false ∧ (∀ (it : Item), settingItem 1 = some it → v.length ≠ it.len ∨ it.inRange v =
        false)) ∧
    (let s : State := up; let src : Source := .host
     src ≠ Source.hub ∧ s.takesFrom src = true ∧ s.serving = false ∧ s.sec.recovery = false) ∧
    (let s : State := up; let src : Source := .bmc
     src ≠ Source.hub ∧ s.takesFrom src = true ∧ s.serving = false ∧ s.sec.recovery = false ∧ s.settingsHeld = false ∧ (src = Source.host → s.hub.lock = false)) ∧
    (let s : State := ({ up with hub := { up.hub with lock := true } }); let src : Source := .host
     src ≠ Source.hub ∧ s.takesFrom src = true ∧ s.serving = false ∧ s.sec.recovery = false ∧ src = Source.host ∧ s.hub.lock = true) ∧
    (∀ rep, let s : State := (jobS rep); let src : Source := .bmc; let v : List Byte := (leBytes 2 300)
     let w : BankWrite := { job := .setting src 1 v, payload := itemBytes [(1, v)], format := 1, repeated := rep, started := true }
     src ≠ Source.hub ∧ s.hub.mgmtUp = true ∧ s.bw.pfail = false ∧ s.tmk.jobs = [w] ∧ w.job = .setting src 1 v ∧ w.quiet = false ∧ s.sec.cmds = [] ∧
       (s.tmk.bank s.tmk.target).stuck = false ∧ w.repeated = rep) ∧
    (∀ src ∈ [Source.host, .bmc], src ≠ Source.hub ∧ (jobS false).takesFrom src = true ∧ (jobS false).serving = true) ∧
    (let items : List (Nat × List Byte) := [(1, [1, 2]), (0xFF00, List.replicate 5 7)]
     itemsRise items = true ∧ ∀ i ∈ items, i.1 < 65536 ∧ i.2.length < 65536) := by
  and_intros <;> decide +kernel
theorem witness_streamKeys :
    (let src : Source := .host; let s : State := (keyS [] false); let key : List Byte := (key57 1)
     src ≠ Source.hub ∧ s.takesFrom src = true ∧ s.sec.recovery = false ∧ s.serving = false ∧ (src = Source.host → s.hub.lock = false) ∧ key.length = 57 ∧ s.sec.keys.length <
        16) ∧
    (let src : Source := .bmc; let s : State := (keyS (List.replicate 16 ⟨key57 1, false⟩) true); let key : List Byte := (key57 2)
     src ≠ Source.hub ∧ s.takesFrom src = true ∧ s.sec.recovery = false ∧ s.serving = false ∧ s.sec.keys.length = 16 ∧ key.length = 57 ∧ (src = Source.host → s.hub.lock =
        false)) ∧
    (let src : Source := .bmc; let s : State := (keyS [] true); let key : List Byte := [1]
     src ≠ Source.hub ∧ s.takesFrom src = true ∧ s.sec.recovery = false ∧ s.serving = false ∧ key.length ≠ 57 ∧ (src = Source.host → s.hub.lock = false)) ∧
    (let src : Source := .host; let s : State := (keyS [] true)
     src ≠ Source.hub ∧ s.takesFrom src = true ∧ s.sec.recovery = false ∧ s.serving = false ∧ src = Source.host ∧ s.hub.lock = true) ∧
    (let src : Source := .bmc; let s : State := (keyS [⟨key57 1, false⟩, ⟨key57 2, false⟩] true); let n : Nat := (keyIdOf (key57 1))
     src ≠ Source.hub ∧ s.takesFrom src = true ∧ s.sec.recovery = false ∧ s.serving = false ∧ (∃ k ∈ s.sec.keys, keyIdOf k.key = n)) ∧
    (let src : Source := .bmc; let s : State := (keyS [⟨key57 1, false⟩] true)
     src ≠ Source.hub ∧ s.takesFrom src = true ∧ s.sec.recovery = false ∧ s.serving = false ∧ (∀ k ∈ s.sec.keys, keyIdOf k.key ≠ 0)) ∧
    (let src : Source := .bmc; let s : State := (keyS [⟨key57 1, false⟩] true)
     src ≠ Source.hub ∧ s.takesFrom src = true ∧ s.sec.recovery = false ∧ s.serving = false) := by
  and_intros <;> decide +kernel

/-- The management plane runs at 5 ms. -/
def hbS : State := { hub := { mgmtUp := true, hubUp := true, hbLast := 2000 }, us := 5000 }
/-- An entry, and the slot that holds it as sequence 16385. -/
def ent0 : TmkEntry := { type := 1, sev := 0, hv := false, src := 4, payload := [1] }
def tmkS : State := { hub := { mgmtUp := true }, tmk := { head := 16386, queue := [ent0], slots := [(1, { entry := some ent0, seq := 16385, complete := true })], host := { seq := 16385, busy := true }, bmc := { seq := 1, busy := true }, episodes := 1 }, us := 1000000 }
/-- The sideband with an alert up and die 4 read. -/
def sideS : State := { hub := { mgmtUp := true, sbaddr := 7, alert := 8, ibi := [3] }, bw := { temps := [(4, some (-5))] } }
/-- An epoch without requests. -/
def epochS : State := { up with roles := [(8, some .standby)], cores := [(143, { coreOf 0 with logicOff := true })], bw := { wakeGranted := [(143, 1)], wakes := [(3, 15)] } }
/-- Fans at their maximum. -/
def fanS (t : Int) (d : Nat) : State := { up with bw := { tmax := t, fans := [(0, { duty := d })], holdCap := 1000, holdVmin := 9000 } }
/-- Pins of a cold reset. -/
def pins (test recovery : Bool) : BootPins := ⟨true, if recovery then 2 else 0, 5, test, false, false, [], true, true, false⟩
/-- Tidemark holds sequence 16385 and the floor is 16384. -/
def oldS : State := { tmkS with tmk := { slots := [(1, { entry := some ent0, seq := 16385, complete := true })], floor := 16384, bootCount := 6 } }
/-- RECOVERY. -/
def recS : State := { hub := { mgmtUp := true }, sec := { recovery := true } }

theorem witness_heartbeatsAndTidemarkReads :
    (∀ cmdOk replyOk, let s : State := { hbS with hub := { hbS.hub with hubUp := true } }; let l : MboxLink := ⟨1, cmdOk, replyOk⟩
     s.hub.mgmtUp = true ∧ s.hub.hubUp = true ∧ s.sec.recovery = false ∧ s.serving = false ∧ s.hub.mbxReissue ≠ some l.seq) ∧
    (let s : State := { hbS with hub := { hbS.hub with hubUp := true, mbxReissue := some 1, mbxLast := some (1, 9) } }; let l : MboxLink := ⟨1, true, true⟩
     s.hub.mgmtUp = true ∧ s.hub.hubUp = true ∧ s.serving = false ∧ s.hub.mbxReissue = some l.seq ∧ s.hub.mbxLast = some (l.seq, 9) ∧ l.cmdOk = true ∧ l.replyOk = true) ∧
    (let s : State := hbS
     s.hub.mgmtUp = true ∧ s.hub.silent = false ∧ s.bw.parked = false ∧ s.hub.hbLast + 3000 ≤ s.us) ∧
    (∀ x ∈ [(Source.bmc, up), (.host, recS)], let s : State := x.2; let seq : Nat := (2 ^ 64 - 1)
     seq < 2 ^ 64 ∧ s.takesFrom x.1 = true ∧ s.serving = false ∧ (x.1 = .bmc ∨ x.1 = .host ∧ s.sec.recovery = true)) ∧
    (let s : State := up
     s.takesFrom .host = true ∧ s.serving = false ∧ s.sec.recovery = false) ∧
    (let s : State := tmkS
     s.hub.mgmtUp = true ∧ s.tmk.host.busy = true ∧ s.sec.cmds = [] ∧ s.tmk.result s.tmk.host.seq = 0) ∧
    (let s : State := tmkS
     s.hub.mgmtUp = true ∧ s.tmk.bmc.busy = true ∧ s.sec.cmds = [] ∧ s.tmk.readSrc = .bmc ∧ s.tmk.readQuiet = false) ∧
    (let s : State := { tmkS with tmk := { tmkS.tmk with bmc := { seq := 16385, busy := true } } }
     s.hub.mgmtUp = true ∧ s.tmk.bmc.busy = true ∧ s.sec.cmds = [] ∧ s.tmk.readSrc = .bmc ∧ s.tmk.readQuiet = false ∧ s.tmk.result s.tmk.bmc.seq = 0) ∧
    (let s : State := tmkS
     s.hub.mgmtUp = true ∧ s.tmk.queue = [ent0]) ∧
    (let s : State := tmkS
     s.tmk.episodes.getLsbD 0 = true ∧ Tab.get 0 s.tmk.pairLast 0 + 1000000 ≤ s.us) := by
  and_intros <;> decide +kernel
theorem witness_sideband :
    (let s : State := sideS; let t : Int := -5
     s.hub.mgmtUp = true ∧ Tab.get none s.bw.temps 4 = some t) ∧
    (let s : State := sideS
     s.hub.mgmtUp = true ∧ 255 < 256) ∧
    (let s : State := sideS
     s.hub.mgmtUp = true ∧ s.hub.alert ≠ 0) ∧
    (let s : State := sideS
     s.hub.mgmtUp = true ∧ 3 ∈ s.hub.ibi) ∧
    (let s : State := sideS
     s.hub.mgmtUp = true ∧ s.hub.i3cAddr = none) ∧
    (let s : State := sideS
     s.hub.mgmtUp = true ∧ s.hub.i3cAddr = none) ∧
    (let s : State := ({ sideS with hub := { sideS.hub with i3cAddr := some 8 } })
     s.hub.mgmtUp = true ∧ s.hub.i3cAddr = some 8) ∧
    (let s : State := sideS; let c : Ccc := .getmxds
     s.hub.mgmtUp = true ∧ (c, 4) ∈ [(Ccc.getpid, 0), (Ccc.getbcr, 1), (Ccc.getdcr, 2), (Ccc.getstatus, 3), (Ccc.getmxds, 4)]) ∧
    (let s : State := { sideS with hub := { sideS.hub with perst := true } }; let op : JtagInstr := .extest
     jtagDrives op = true ∧ s.hub.perst = true) ∧
    (let s : State := sideS; let op : JtagInstr := .extest
     jtagDrives op = true ∧ s.hub.perst = false) := by
  and_intros <;> decide +kernel
theorem witness_budgetEpoch :
    (let s : State := epochS; let r := reqOf [{ unit := 143, req := 1024 }] 143
     s.hub.mgmtUp = true ∧ s.bw.parked = false ∧ s.fenced 143 = false ∧ (s.core 143).inReset = false ∧ s.role 143 ≠ .disabled ∧ r.pairOk = true ∧
       r.grantOk = true ∧ r.ue = false ∧ (s.core 143).ue = false ∧ (s.coreTier 143).getD 0 ≤ 5 ∧ r.grantEpoch = none ∧ (s.die (coreDie 143)).resetDue = 0) ∧
    (let s : State := epochS; let r := reqOf [{ unit := 143, grantEpoch := some 1 }] 143
     r.pairOk = true ∧ r.grantOk = true ∧ r.grantEpoch = some ((s.bw.epoch + 1) % 16)) ∧
    (let errs : SoftErrors := {}; errs.ddr = [] ∧ errs.mram = []) ∧
    (let s : State := ({ epochS with bw := { parked := true } })
     s.hub.mgmtUp = true ∧ s.bw.parked = true ∧ s.us + 1 ≠ s.bw.pfailUs + 100) ∧
    (let s : State := {}
     s.hub.mgmtUp = false) ∧
    (let s : State := ({ epochS with hub := { selftest := [143] } })
     (s.core 143).logicOff = true ∧ 143 ∈ s.hub.selftest ∧ 0 < Tab.get 0 s.bw.wakeGranted 143 ∧ Tab.get 0 s.bw.wakes (coreDie 143) < 16) ∧
    (let s : State := epochS; let r : RailReading := (⟨65536, 7, true⟩)
     r.ok = true ∧ s.hub.mgmtUp = true) := by
  and_intros <;> decide +kernel
theorem witness_allocationWithinBudget :
    (let b : Bw := ({ slack105 := true }); let asks : List Ask := ([⟨0, 1, 76, 0, 76⟩, ⟨143, 5, 10, 1, 76⟩])
     (List.map (fun x => x.unit) asks).Nodup ∧ b.fallAside = true) := by
  and_intros <;> decide +kernel
theorem witness_thermalAcousticFansHoldup :
    (let s : State := (fanS 85 10000); let temps : List TempReading := ([⟨4, 105, 3⟩]); let m : TempReading := (⟨4, 105, 3⟩)
     s.hub.mgmtUp = true ∧ hottest temps = some m) ∧
    (let s : State := (fanS 85 10000); let temps : List TempReading := ([⟨0, 96, 3⟩]); let m : TempReading := (⟨0, 96, 3⟩)
     s.hub.mgmtUp = true ∧ hottest temps = some m) ∧
    (let s : State := (fanS 85 10000); let temps : List TempReading := ([⟨0, 104, 3⟩]); let m : TempReading := (⟨0, 104, 3⟩)
     s.hub.mgmtUp = true ∧ hottest temps = some m) ∧
    (let s : State := (fanS 85 10000); let temps : List TempReading := ([⟨0, 90, 3⟩]); let m : TempReading := (⟨0, 90, 3⟩)
     s.hub.mgmtUp = true ∧ hottest temps = some m) ∧
    (let s : State := (fanS 85 10000)
     s.hub.mgmtUp = true) ∧
    (let s : State := (fanS 84 10000)
     s.hub.mgmtUp = true) ∧
    (let s : State := (fanS 82 9999)
     s.hub.mgmtUp = true) ∧
    (let s : State := (fanS 100 9999)
     s.hub.mgmtUp = true) ∧
    (let s : State := (fanS 99 9999)
     s.hub.mgmtUp = true) ∧
    (let s : State := (fanS 40 9999)
     s.hub.mgmtUp = true) ∧
    (let s : State := (fanS 40 9999)
     s.hub.mgmtUp = true) ∧
    (let s : State := (fanS 40 9999)
     s.hub.mgmtUp = true ∧ 64000 ≤ 64000) ∧
    (let s : State := (fanS 40 9999)
     s.hub.mgmtUp = true ∧ 9001 ≤ 64000) ∧
    (let s : State := { fanS 40 9999 with bw := { (fanS 40 9999).bw with fans := [(1, { rpm := 300, slowSince := some 7 })] }, us := 2000007 }; let fan := Tab.get {} s.bw.fans 1
     s.hub.mgmtUp = true ∧ fan.stall = false ∧ fan.slowSince = some 7 ∧ 7 + 2000000 ≤ s.us) ∧
    (let s : State := (fanS 40 9999)
     s.hub.mgmtUp = true ∧ 115 ≤ (115 : Int) ∧ s.bw.thermtrip = false ∧ s.hub.perst = false) := by
  and_intros <;> decide +kernel
theorem witness_supplyAndClockEvents :
    (let s : State := up
     s.hub.mgmtUp = true ∧ s.bw.parked = false ∧ s.sec.cmds = []) ∧
    (let s : State := ({ up with tmk := { jobs := [{ job := .boot, format := 1, started := true }] } })
     s.hub.mgmtUp = true ∧ s.bw.parked = false ∧ s.sec.cmds = []) ∧
    (let s : State := up
     s.hub.mgmtUp = true ∧ s.bw.parked = false ∧ s.sec.cmds = []) ∧
    (let s : State := ({ up with dies := [(3, { inc := 15, pllLosses := [1] })], us := 3 })
     s.hub.mgmtUp = true ∧ s.bw.parked = false ∧ (s.die 3).isolated = false ∧ (State.pllRecent 3 s).length < 3) ∧
    (let s : State := ({ up with dies := [(3, { pllLosses := [1, 2] })], us := 3 })
     s.hub.mgmtUp = true ∧ s.bw.parked = false ∧ (s.die 3).isolated = false ∧ 3 ≤ (State.pllRecent 3 s).length) ∧
    (let s : State := up
     s.hub.mgmtUp = true ∧ s.bw.parked = false ∧ s.sec.cmds = []) ∧
    (let s : State := ({ up with bw := { warnNeap := true, warnHighSince := 100, neapSince := 50 }, us := 200 })
     s.bw.warnNeap = true ∧ s.bw.warn = false ∧ s.bw.parked = false ∧ s.bw.warnHighSince + 100 ≤ s.us) ∧
    (let s : State := ({ up with bw := { parked := true, pfail := true } })
     s.bw.parked = true ∧ s.bw.failHigh = false) := by
  and_intros <;> decide +kernel
theorem witness_coldReset :
    (let p : BootPins := (pins true false)
     p.testEn = true) ∧
    (let p : BootPins := (pins false true)
     p.testEn = false ∧ p.failLow = false) ∧
    (let p : BootPins := (pins false false)
     p.testEn = false ∧ p.failLow = false) := by
  and_intros <;> decide +kernel
theorem witness_tidemarkWritesAndSequence :
    (∀ head ∈ [16386, 8192], let s : State := ({ tmkS with tmk := { tmkS.tmk with head := head } })
     s.hub.mgmtUp = true ∧ s.tmk.queue = [ent0]) ∧
    ((pins false true).testEn = false ∧ (pins false true).failLow = false) ∧
    (let s : State := oldS; s.tmk.highest = some 16385 ∧ s.tmk.floor ≤ 16385) ∧
    (let s : State := { tmkS with tmk := { oldS.tmk with floor := 20480 } }; s.tmk.highest = some 16385 ∧ 16385 < s.tmk.floor ∧ s.tmk.floor ≠ 0) ∧
    (let s : State := {}; s.tmk.highest = none ∧ s.tmk.floor = 0) := by
  and_intros <;> decide +kernel
theorem witness_recoveryRefuses :
    (let s : State := recS; let src : Source := .bmc
     s.sec.recovery = true ∧ src ≠ Source.hub ∧ s.takesFrom src = true ∧ s.serving = false) ∧
    (let s : State := recS
     s.sec.recovery = true ∧ s.takesFrom Source.host = true ∧ s.serving = false) ∧
    (let s : State := recS
     s.sec.recovery = true ∧ 5 < 2 ^ 64 ∧ s.takesFrom .host = true ∧ s.serving = false) := by
  and_intros <;> decide +kernel

/-! ### Hypotheses on functions of the state and on next states -/

theorem witness_registerWrites_effects : regEffect 4 1 = some (false, fun s => { s with hub := { s.hub with lockedWrite := false } }) ∧
    regEffect 0x100060 85 = some (true, fun s => { s with bw := { s.bw with target := 85 } }) := ⟨rfl, rfl⟩
theorem witness_settingSet : ∃ it, settingItem 1 = some it ∧ (leBytes 2 420).length = it.len ∧ it.inRange (leBytes 2 420) = true ∧ up.settingsHeld = false :=
  ⟨_, rfl, by decide +kernel, by decide +kernel, rfl⟩
/-- A host write waits in the queue, and device memory holds a byte. -/
def writeS : State := { bw := fed, pending := [.cxlMemWrite 4294967296 [9] false .none {}], cxl := { committed := true, base := 2 ^ 32, mode := 1 }, plm := { hdmGib := 16, ready := true, map := [(0, { st := .mapped })], mem := [(1, 7)] } }
theorem witness_stepKeepsMemoryCanonical : ∃ t, Tab.wf 0 writeS.plm.mem = true ∧ step writeS = .next t ∧ t.plm.mem = [(0, 9), (1, 7)] := ⟨_, rfl, rfl, by decide +kernel⟩
/-- The host's latch of HUB_LOCK holds 1. -/
def lockS : State := { tmk := { rwc := [(0, some (1, 0))] } }
theorem witness_protectedStateHolds : ∃ t, exec (.rwcComplementWrite .host .hubLock (~~~1)) lockS = .next t ∧ lockS.hub.lock = false ∧ t.hub.lock = true := ⟨_, rfl, rfl, by decide +kernel⟩

/-! ### The manual's worked examples -/

/-- INT8 output with M = 3, S = 4, B = 0: acc, E, B, SYMM, and the output with its count (02, "ties and saturation"). -/
def rqSlot (symm : Bool) : SlotCfg := { slotCfg 0 0 0 with ofmt := 0, bo := 8, symm := symm }
def rq1 (symm : Bool) (b : Int) (exp : Nat) (acc : Int) : Nat × Bool := requant (rqSlot symm) [] { mult := 3, shift := 4, bias := BitVec.ofInt 32 b } exp (BitVec.ofInt 64 acc)
theorem test_requant_ties : [40, 56, -40].map (rq1 false 0 0) = [(8, false), (10, false), (2 ^ 32 - 8, false)] := by decide +kernel
theorem test_requant_saturation : [676, 681, -683, -690].map (rq1 false 0 0) =
    [(127, false), (127, true), (2 ^ 32 - 128, false), (2 ^ 32 - 128, true)] := by decide +kernel
theorem test_requant_symm : rq1 true 0 0 (-683) = (2 ^ 32 - 127, true) := by decide +kernel
theorem test_requant_bias_and_tag : rq1 false (-5) 0 40 = (3, false) ∧ rq1 false 0 2 40 = (30, false) := by decide +kernel
/-- The levels of the bell-shaped grid. -/
def bell : List Int := [-12, -9, -6, -4, -3, -2, -1, 0, 1, 2, 3, 4, 6, 9, 12, 15]
theorem test_narrow_grid : [(50, 12), (25, 10), (135, 14), (170, 15), (-130, 0)].all (fun x => (narrowGrid (bell.map (10 * ·)) x.1 0).1 = x.2) = true := by decide +kernel
theorem test_narrow_counts : [(50, false), (170, true), (-130, true)].all (fun x => (narrowGrid (bell.map (10 * ·)) x.1 0).2 = x.2) = true := by decide +kernel
/-- One row of INT4 weights against INT4 activations in four lanes: the pass sums to 27 (02, "one row, four weights"). -/
def int4 (ps : List Nat) : List W256 := ps.map (BitVec.ofNat 256)
theorem test_one_row : partialSum { planes := [(0, 0b0101), (1, 0b0111), (2, 0b0110), (3, 0b1010)] } { slotCfg 0 0 0 with bw := 4, ba := 4 } false
    [int4 [0b1011, 0b0100, 0b0011, 0b0010]] 256 1 0 0 = 27 := by decide +kernel
theorem test_cens_exponent : censExpOf [[5000, 1200, -37000]] = 8 := by decide
theorem test_cens_tie : (censVec { slotCfg 0 0 0 with ba := 8, gsize := 1 } 8 ([-4321, 5000] ++ List.replicate 30 0 ++ [640, 1200] ++ List.replicate 30 0 ++ [36992, 37000] ++ List.replicate 30 0)).mant = [20, 5, 145] := by decide +kernel
theorem test_cens_values : let v := censVec { slotCfg 0 0 0 with ba := 8, gsize := 1 } 8 ([-4321, 5000] ++ List.replicate 30 0 ++ [640, 1200] ++ List.replicate 30 0 ++ [36992, 37000] ++ List.replicate 30 0)
    (v.elems.getD 0 0, v.elems.getD 1 0, v.elems.getD 32 0, v.elems.getD 64 0, v.sats) = (-107, 124, 64, 127, 0) := by decide +kernel
/-- The first four groups of a row of INT4 weights as planes and masks (04, "packing four groups"). -/
def packRows : List W256 := toPlanes 4 ([3, -5, 5, 2, 0, 4, 0, -4, 6, 0, 0, 0, 7, -7, 7, 1] ++ List.replicate 240 0) ++ toPlanes 4 (List.replicate 256 0) ++ [0b1111000111110111, 0]
theorem test_pack_four_groups : ((packRow 4 true packRows).1.take 4).map (fun w => w.toNat % 256) = [0xC3, 0x51, 0x5E, 0x89] ∧ (packRow 4 true packRows).2 = 2 := by decide +kernel
theorem test_pack_indices : ((packRow 4 true packRows).1.getD 4 0).toNat % 65536 = 0x44D9 := by decide +kernel
theorem test_bank_hash : (List.range 16).map (fun i => ({} : Spad).bankOf (1024 * i)) = [0, 4, 8, 12, 1, 5, 9, 13, 2, 6, 10, 14, 3, 7, 11, 15] := by decide +kernel
theorem test_bank_hash_low : (List.range 4).map (fun i => ({} : Spad).bankOf (4096 * i)) = [0, 1, 2, 3] ∧ (List.range 4).map (fun i => ({} : Spad).bankOf (16 * i)) = [0, 1, 2, 3] := by decide +kernel
theorem test_core_numbers : coreDie 104 = 2 ∧ coreLocal 104 = 32 := by decide
theorem test_standby_of_group : State.reset.standbyOf 2 3 = some 107 := by decide +kernel
theorem test_page_of : pageOf 0x4A018040 = 37891 ∧ pageHash 0x9403 = 14 ∧ (allocOrder .host 0x9403).head? = some (4 * 3 + 2) := by decide
/-- A quarter of the manual's example: 979 of 1,024 updates in bank 5, 3 in each other (04, "Worked example: one hot row"). -/
theorem test_split_hot_row : (splitTiles 64 1
    [{ tile := 0, entries := List.replicate 979 5 ++ (List.range 45).map fun i => if i % 15 < 5 then i % 15 else i % 15 + 1 }]).1.map (fun x => (x.kind, x.k)) = [(1, 4), (1, 4), (1, 4), (1, 4), (2, 4)] := by decide +kernel
/-- Bank A holds the sequence before the wrap, B the one before that, or the one after (13, "a settings write across the sequence wrap"). -/
def setSeq (b : W32) : SetBank := ({} : SetBank).written 1 b []
theorem test_settings_wrap : ({ bankA := setSeq 0xFFFFFFFF, bankB := setSeq 0xFFFFFFFE } : Tmk).select.selB = false ∧
    ({ bankA := setSeq 0xFFFFFFFF, bankB := setSeq 0 } : Tmk).select.selB = true := by decide +kernel
theorem test_frame_header : (frame 0x81 8 1 (List.replicate 56 0)).take 8 = leBytes 4 0x01083881 ++ leBytes 4 0xFEF7C77E := by decide +kernel
/-- SHAKE256 of the empty message begins so (FIPS 202's test value). -/
theorem test_shake : shake256 4 [] = [0x46, 0xB9, 0xDD, 0x2B] := by decide +kernel
/-- Two blocks absorbed; from another implementation of SHAKE256. -/
theorem test_shake_blocks : shake256 4 (List.replicate 300 0x61) = [0x54, 0x2E, 0x43, 0x38] := by decide +kernel
/-- CRC-32C of the nine digits is the check value of the code. -/
theorem test_crc : crc32c ((List.range 9).map fun i => BitVec.ofNat 8 (0x31 + i)) = 0xE3069283 := by decide +kernel
/-- CRC-64/WE of "123456789", the catalogue's name for this polynomial with all ones before and after. -/
theorem test_crc64 : crc64 ((List.range 9).map fun i => BitVec.ofNat 8 (0x31 + i)) = 0x62EC59E3F1A4F00A := by decide +kernel

/-! ### The queue and the start -/

theorem test_empty_queue_idles : step State.reset = .next State.reset := rfl
theorem test_first_in_first_out : step { pending := [.klPortTrain 0, .warmResetComplete], us := 4 } = exec (.klPortTrain 0) { pending := [.warmResetComplete], us := 4 } := rfl
theorem test_no_table_word : decodeTableWord 16 0 = none ∧ State.reset.withFetchWord 16 0 = State.reset := ⟨rfl, rfl⟩
/-- A cold reset of the package as shipped begins RECOVERY: no bank, no image. -/
theorem test_cold_reset_as_shipped : nx (.coldReset ⟨true, 0, 0, false, false, false, [], true, true, true⟩) State.reset (fun u => u.sec.recovery && u.hub.mgmtUp && !u.hub.hubUp && decide (u.tmk.head = 1)) = true := by decide +kernel
/-- The register file's X0 stays zero when it is the destination (R86). -/
theorem test_x0 : nx (.cfgXset 0 0) (at0 (wd [(1, 58), (7, 0)])) (fun u => (((u.core 0).slot 0).getX 0 = 0)) = true := by decide +kernel
/-- A host access outside the committed decoder. -/
theorem test_no_such_address : exec (.cxlMemRead 0 .none {}) State.reset = .fault .noSuchAddress := rfl

/-- R88: with slots 0 and 1 ready, the slot after the one that issued last issues, and then the other. -/
theorem test_round_robin :
    nx (.cfgXset 0 0) (twoReady 0) (fun u => u = twoReady 0) = true ∧
    nx (.cfgXset 0 1) (twoReady 0) (fun u => (u.core 0).lastIssue = 1 && u.turn 0 0 && !u.turn 0 1) = true ∧
    nx (.cfgXset 0 0) (twoReady 3) (fun u => ((u.core 0).slot 0).pc = 1 && (u.core 0).lastIssue = 0) = true := by
  and_intros <;> decide +kernel

end Sys2Proof.Tests
end

section
/-! WAIT and SIG (R103, R104). The bound in the heartbeat clause of `Obligations.WaitAndSignal`, `∀ u < 4` with `u ≠ t`, is read in `SlotId`
= `Fin 4`, where 4 is 0: it names no slot, so the clause promises an advance of HBEAT whatever the other slots do, and the statement fails. The lemmas
below hold of the model: each other clause, and the heartbeat clause with its bound over the numbers of the four slots. -/

namespace Sys2Proof.Machine

/-! ### WAIT and its end (R103) -/

/-- A WAIT that issues goes on where its count has been reached, and otherwise blocks its own slot. -/
theorem exec_wait_of_issues {c : CoreId} {t : SlotId} {s : State} {w : Nat} (h : s.issues c t .wait w = true) :
    let k := s.core c
    let ts := k.slot t
    let target := ts.getX (bits w 48 46) + BitVec.ofNat 32 (bits w 45 22)
    exec (.wait c t) s = .next
      (if k.reached (bits w 52 49) target = true then s.ctrlDone c t 1 { ts with pc := ts.pc + 1 }
       else s.setCore c { k.setSlot t { ts with st := .blocked, blk := .wait (bits w 52 49) target (bits w 21 20) s.us } with
         progress := true, lastIssue := t, cycle := k.cycle + 1 }) := by
  intro k ts target
  change execWait c t s = _
  rw [execWait, issue_eq h]
  simp only [ctrl_eq, id]
  rfl

theorem exec_waitRelease_of_reached {c : CoreId} {t : SlotId} {s : State} {n tmo since : Nat} {goal : W32}
    (hb : ((s.core c).slot t).blk = .wait n goal tmo since) (hi : s.canIssue c = true) (hr : (s.core c).reached n goal = true) :
    exec (.waitRelease c t) s =
      .next (s.setCore c ((s.core c).setSlot t { (s.core c).slot t with st := .ready, blk := .none, pc := ((s.core c).slot t).pc + 1 })) := by
  change execWaitRelease c t s = _
  simp only [execWaitRelease, hb, hi, hr, Bool.and_self, ite_true]
  rfl

theorem exec_waitTimeout_of_expired {c : CoreId} {t : SlotId} {s : State} {n tmo since lim : Nat} {goal : W32}
    (hb : ((s.core c).slot t).blk = .wait n goal tmo since) (hr : (s.core c).reached n goal = false) (hl : waitLimit tmo = some lim)
    (hus : since + lim ≤ s.us) :
    exec (.waitTimeout c t) s = .next (s.faultAt c t 0x33 (opOf ((s.core c).wordAt t)) ((s.core c).slot t).pc) := by
  change execWaitTimeout c t s = _
  simp [execWaitTimeout, hb, hr, hl, hus]

/-! ### SIG and its delivery (R104) -/

theorem exec_sig_local {c : CoreId} {t : SlotId} {s : State} {w : Nat} (h : s.issues c t .sig w = true)
    (hd : bits w 48 41 = 0xFF ∨ bits w 48 41 = c) :
    exec (.sig c t) s = .next ((s.setCore c ((s.core c).sbAdd (bits w 52 49) (BitVec.ofNat 32 (bits w 40 25)))).ctrlDone c t 1
      { (s.core c).slot t with pc := ((s.core c).slot t).pc + 1 }) := by
  change execSig c t s = _
  rw [execSig, issue_eq h]
  simp only [if_pos hd, ctrl_eq, State.modCore, State.core_setCore, id]
  rfl

theorem exec_sig_remote {c : CoreId} {t : SlotId} {s : State} {w : Nat} (h : s.issues c t .sig w = true)
    (hff : bits w 48 41 ≠ 0xFF) (hc : bits w 48 41 ≠ c) (hue : (s.core c).ue = false) :
    exec (.sig c t) s =
      .next ({ s with fabric := s.fabric ++ [Flight.sig c t (bits w 48 41) (bits w 52 49) (bits w 40 25)] }.ctrlDone c t 1
        { (s.core c).slot t with pc := ((s.core c).slot t).pc + 1 }) := by
  change execSig c t s = _
  rw [execSig, issue_eq h]
  simp only [hff, hc, or_self, if_false, hue, Bool.false_eq_true, ctrl_eq, id]
  rfl

/-- A SIG whose earlier words to its destination have all landed is delivered: its word leaves the fabric, and its count is added unless the
destination is beached or in reset, where it is lost. -/
theorem exec_sigRemoteDelivery_of_taken {c : CoreId} {t : SlotId} {dest : CoreId} {s : State} {n v : Nat} {fs : List Flight}
    (ht : takeSig c t dest s.fabric = some ((n, v), fs)) (hq : (s.core dest).spd.sendQueued (4 * c + t) = false)
    (hc : s.carries (coreDie c) (coreDie dest) = true) :
    let u := ({ s with fabric := fs } : State).modSpd dest (Spad.sigDelivered (4 * c + t))
    exec (.sigRemoteDelivery c t dest) s =
      .next (if s.fenced dest = true ∨ (s.core dest).inReset = true then u else u.modCore dest (Core.sbAdd n (BitVec.ofNat 32 v))) := by
  intro u
  have hfenced : u.fenced dest = s.fenced dest := rfl
  have hreset : (u.core dest).inReset = (s.core dest).inReset := by
    simp only [u, State.modSpd, State.core_modCore]
    rfl
  change execSigRemoteDelivery c t dest s = _
  simp only [execSigRemoteDelivery, ht, hq, hc, Bool.not_true, Bool.or_self, Bool.false_eq_true, if_false, Bool.or_eq_true]
  change Host.Outcome.next (if u.fenced dest = true ∨ (u.core dest).inReset = true then u else _) = _
  rw [hfenced, hreset]

/-- A SIG stays on its way while an earlier word of its task to the same core is on the fabric or in a bank's queue there. -/
theorem exec_sigRemoteDelivery_of_behind {c : CoreId} {t : SlotId} {dest : CoreId} {s : State}
    (h : takeSig c t dest s.fabric = none ∨ (s.core dest).spd.sendQueued (4 * c + t) = true) :
    exec (.sigRemoteDelivery c t dest) s = .next s := by
  change execSigRemoteDelivery c t dest s = _
  unfold execSigRemoteDelivery
  cases htake : takeSig c t dest s.fabric with
  | none => rfl
  | some r => simp [h.resolve_left (by simp [htake])]

/-! ### The heartbeat beside a WAIT (R103, R242) -/

theorem wantsIssue_of_blocked {s : State} {c t : Nat} (h : ((s.core c).slot t).st = .blocked) : s.wantsIssue c t = false := by
  simp [State.wantsIssue, h]

/-- A core is blocked well where one slot is in a WAIT and no other of the four is READY or BLOCKED. -/
theorem blockedWell_of_wait {k : Core} {t n tmo since : Nat} {goal : W32} (hst : (k.slot t).st = .blocked)
    (hb : (k.slot t).blk = .wait n goal tmo since) (idle : ∀ u < 4, u ≠ t → (k.slot u).st ≠ .ready ∧ (k.slot u).st ≠ .blocked) :
    k.blockedWell = true := by
  simp only [Core.blockedWell, Bool.or_eq_true, List.all_eq_true, List.mem_range]
  refine .inr fun u hu => ?_
  by_cases htu : u = t
  · simp [htu, hst, hb]
  · obtain ⟨hready, hblocked⟩ := idle u hu htu
    cases hs : (k.slot u).st <;> simp_all

/-- HBEAT_ADVANCE at a core that is neither fenced, in reset nor off: HBEAT advances where the checks pass and the core has issued or is blocked
well, and only there. -/
theorem exec_hbeatAdvance {c : CoreId} {s : State} (pass ue : Bool) (hf : s.fenced c = false) (hr : (s.core c).inReset = false)
    (hl : (s.core c).logicOff = false) :
    exec (.hbeatAdvance c pass ue) s = .next (s.modCore c fun k =>
      { k with hbeat := if pass && (k.progress || k.blockedWell) then k.hbeat + 1 else k.hbeat, progress := false, ue := k.ue || ue }) := by
  change execHbeatAdvance c pass ue s = _
  simp [execHbeatAdvance, hf, hr, hl]

/-- A WAIT does not stop its core's heartbeat: the heartbeat clause, its bound over the numbers of the slots. -/
theorem hbeat_advances_of_wait {c : CoreId} {t : SlotId} {s : State} {n tmo since : Nat} {goal : W32}
    (hst : ((s.core c).slot t).st = .blocked) (hb : ((s.core c).slot t).blk = .wait n goal tmo since)
    (idle : ∀ u < 4, u ≠ (t : Nat) → ((s.core c).slot u).st ≠ .ready ∧ ((s.core c).slot u).st ≠ .blocked)
    (hf : s.fenced c = false) (hr : (s.core c).inReset = false) (hl : (s.core c).logicOff = false) :
    ∃ u, exec (.hbeatAdvance c true false) s = .next u ∧ (u.core c).hbeat = (s.core c).hbeat + 1 :=
  ⟨_, exec_hbeatAdvance true false hf hr hl, by simp [blockedWell_of_wait hst hb idle]⟩

/-! ### The counterexample -/

/-- Core 0 with slot 0 in a WAIT, and slot 1 READY at a HALT that nothing holds up, which the sequencer has not issued. -/
def waitBesideReady : State :=
  { cores := [(0, { prog := [(0, 0x5000000000000000)],
                    slots := [(0, { st := .blocked, blk := .wait 15 1 0 0 }), (1, { st := .ready, pbound := 1 })] })] }

/-- The sequencer has stalled, which R242 lets no heartbeat hide: the READY slot keeps the core from being blocked well. -/
theorem waitBesideReady_stalled : (waitBesideReady.core 0).progress = false ∧ (waitBesideReady.core 0).blockedWell = false := by
  decide

theorem waitBesideReady_hbeat_stands {u : State} (h : exec (.hbeatAdvance 0 true false) waitBesideReady = .next u) :
    (u.core 0).hbeat = (waitBesideReady.core 0).hbeat := by
  have hnext := exec_hbeatAdvance (c := 0) (s := waitBesideReady) true false (by decide) rfl rfl
  obtain ⟨hprogress, hblocked⟩ := waitBesideReady_stalled
  obtain rfl := Host.Outcome.next.inj (h.symm.trans hnext)
  simp [hprogress, hblocked]

/-- Refutes O3: its heartbeat clause bounds the other slots by `u < 4` in `Fin 4`, which no slot meets, so the clause covers
a core whose other slot is READY and stalled (`waitBesideReady`), and there HBEAT stands still. -/
theorem not_waitAndSignal : ¬ Obligations.WaitAndSignal := by
  unfold Obligations.WaitAndSignal
  intro h
  obtain ⟨-, -, -, -, -, -, -, hwait, -⟩ := h 0 0 waitBesideReady 0
  obtain ⟨-, hbeat⟩ := hwait 15 1 0 0 rfl rfl
  obtain ⟨u, hexec, hadvanced⟩ := hbeat (fun u hu => absurd hu (Fin.not_lt_zero u)) (by decide) rfl rfl
  have hstands := waitBesideReady_hbeat_stands hexec
  exact absurd (hadvanced.symm.trans hstands) (by decide)

end Sys2Proof.Machine
end

section
/-! The Tidemark writer and the head of the ring after cold reset (R415). The claim's hard clause is that the RESET entry stays first: each stage of
cold reset after it only appends to the queue, and all of them together append fewer entries than the queue has room for, so that none is dropped
(R416). `State.ResetFirst` is that invariant, with a bound on the entries behind RESET; the lemmas say by how much each stage raises the bound. -/

namespace Sys2Proof.Machine

/-! ### The queue and the floor under each operation -/

theorem Tmk.enqueue_of_room {t : Tmk} (e : TmkEntry) (h : t.queue.length < tmkDepth) : t.enqueue e = { t with queue := t.queue ++ [e] } := by
  simp [Tmk.enqueue, h]

/-- An entry queued, replaced or dropped (R416) touches the queue and the counts of drops. -/
theorem Tmk.enqueue_eq (e : TmkEntry) (t : Tmk) :
    ∃ q n ds, t.enqueue e = { t with queue := q, dropped := n, drops := ds } := by
  unfold Tmk.enqueue
  split
  · exact ⟨_, _, _, rfl⟩
  · split
    · exact ⟨_, _, _, rfl⟩
    · split <;> exact ⟨_, _, _, rfl⟩

@[simp] theorem Tmk.enqueue_floor (e : TmkEntry) (t : Tmk) : (t.enqueue e).floor = t.floor := by
  obtain ⟨q, n, ds, h⟩ := t.enqueue_eq e
  rw [h]

@[simp] theorem Tmk.enqueue_jobs (e : TmkEntry) (t : Tmk) : (t.enqueue e).jobs = t.jobs := by
  obtain ⟨q, n, ds, h⟩ := t.enqueue_eq e
  rw [h]

@[simp] theorem State.record_floor (s : State) (ty src : Nat) (pl : List Byte) (core unit : Nat) :
    (s.record ty src pl core unit).tmk.floor = s.tmk.floor := Tmk.enqueue_floor ..

@[simp] theorem State.record_jobs (s : State) (ty src : Nat) (pl : List Byte) (core unit : Nat) :
    (s.record ty src pl core unit).tmk.jobs = s.tmk.jobs := Tmk.enqueue_jobs ..

@[simp] theorem State.msi_tmk (s : State) (v : Nat) : (s.msi v).tmk = s.tmk := by
  unfold State.msi
  split <;> rfl

@[simp] theorem State.eventRecord_tmk (s : State) (e : TmkEntry) (seq : Nat) : (s.eventRecord e seq).tmk = s.tmk := by
  simp only [State.eventRecord]
  split
  · rfl
  · split
    · exact State.msi_tmk _ 1
    · rfl

@[simp] theorem State.overflowCheck_floor (s : State) : s.overflowCheck.tmk.floor = s.tmk.floor := by
  simp only [State.overflowCheck]
  split
  · exact State.record_floor ..
  · rfl

/-! ### The writer -/

@[simp] theorem Tmk.put_floor (e : TmkEntry) (whole : Bool) (t : Tmk) :
    (t.put e whole).floor = if t.head % 4096 = 0 then t.head else t.floor := rfl

theorem State.writeEntry_floor (s : State) (e : TmkEntry) (rest : List TmkEntry) :
    (s.writeEntry e rest).tmk.floor = if s.tmk.head % 4096 = 0 then s.tmk.head else s.tmk.floor := by
  simp [State.writeEntry]

theorem exec_tidemarkEntryWrite {s : State} {e : TmkEntry} {rest : List TmkEntry} (whole : Bool) (hup : s.hub.mgmtUp = true)
    (hq : s.tmk.queue = e :: rest) :
    exec (.tidemarkEntryWrite whole) s =
      .next (if whole then s.writeEntry (e.atWrite rest.length) rest
        else { s with tmk := { s.tmk.put (e.atWrite rest.length) false with writing := true } }) := by
  change execTidemarkEntryWrite whole s = _
  simp [execTidemarkEntryWrite, hup, hq]

/-! ### The next sequence that cold reset finds -/

theorem Tmk.nextHead_of_floor_le {t : Tmk} {h : Nat} (hh : t.highest = some h) (hf : t.floor ≤ h) : t.nextHead = h + 1 := by
  simp [Tmk.nextHead, hh, hf]

theorem Tmk.nextHead_of_below_floor {t : Tmk} (hbelow : ∀ h, t.highest = some h → h < t.floor) (hf : t.floor ≠ 0) :
    t.nextHead = t.floor + 4096 := by
  cases hh : t.highest with
  | none => simp [Tmk.nextHead, hh, hf]
  | some h => simp [Tmk.nextHead, hh, Nat.not_le.mpr (hbelow h hh)]

theorem Tmk.nextHead_of_empty {t : Tmk} (hh : t.highest = none) (hf : t.floor = 0) : t.nextHead = 1 := by
  simp [Tmk.nextHead, hh, hf]

/-- The next sequence rests on the slots and the floor, which the MRAM keeps across cold reset. -/
theorem Tmk.nextHead_congr {t u : Tmk} (hslots : t.slots = u.slots) (hfloor : t.floor = u.floor) : t.nextHead = u.nextHead := by
  simp only [Tmk.nextHead, Tmk.highest, hslots, hfloor]

/-! ### RESET stays first -/

/-- The head of the ring is `h`, and the queue holds the RESET entry with the cause in BW_RST_CAUSE, and at most `n` entries behind it. -/
structure State.ResetFirst (h n : Nat) (s : State) : Prop where
  head : s.tmk.head = h
  queue : ∃ e es, s.tmk.queue = e :: es ∧ e.type = 1 ∧ e.payload = b8 s.bw.rstCause ∧ es.length ≤ n

namespace State.ResetFirst

variable {h n m : Nat} {s u : State}

theorem mono (hs : s.ResetFirst h n) (hn : n ≤ m) : s.ResetFirst h m := by
  obtain ⟨hhead, e, es, hq, hty, hpl, hlen⟩ := hs
  exact ⟨hhead, e, es, hq, hty, hpl, hlen.trans hn⟩

/-- Only the head of the ring, the queue and BW_RST_CAUSE matter. -/
theorem congr (hs : s.ResetFirst h n) (hhead : u.tmk.head = s.tmk.head) (hq : u.tmk.queue = s.tmk.queue)
    (hc : u.bw.rstCause = s.bw.rstCause) : u.ResetFirst h n :=
  ⟨hhead.trans hs.head, by rw [hq, hc]; exact hs.queue⟩

theorem of_tmk_bw (hs : s.ResetFirst h n) (ht : u.tmk = s.tmk) (hb : u.bw = s.bw) : u.ResetFirst h n :=
  hs.congr (by rw [ht]) (by rw [ht]) (by rw [hb])

/-- A record raised while the queue has room goes behind RESET. -/
theorem record (hs : s.ResetFirst h n) (hn : n < 63) {ty src core unit : Nat} {pl : List Byte} :
    (s.record ty src pl core unit).ResetFirst h (n + 1) := by
  obtain ⟨hhead, e, es, hq, hty, hpl, hlen⟩ := hs
  have hroom : s.tmk.queue.length < tmkDepth := by
    rw [hq, List.length_cons, tmkDepth]
    omega
  have htmk := Tmk.enqueue_of_room (s.entry ty src pl core unit) hroom
  refine ⟨(congrArg Tmk.head htmk).trans hhead, e, es ++ [s.entry ty src pl core unit], ?_, hty, hpl, by simpa using hlen⟩
  exact (congrArg Tmk.queue htmk).trans (by rw [hq, List.cons_append])

theorem record_congr (hs : s.ResetFirst h n) (hn : n < 63) (hhead : u.tmk.head = s.tmk.head) (hq : u.tmk.queue = s.tmk.queue)
    (hc : u.bw.rstCause = s.bw.rstCause) {ty src core unit : Nat} {pl : List Byte} :
    (u.record ty src pl core unit).ResetFirst h (n + 1) :=
  (hs.congr hhead hq hc).record hn

/-- A fold whose steps keep the invariant keeps it. -/
theorem foldl {α : Type} {f : State → α → State} (hf : ∀ s x, s.ResetFirst h n → (f s x).ResetFirst h n) (xs : List α)
    (hs : s.ResetFirst h n) : (xs.foldl f s).ResetFirst h n := by
  induction xs generalizing s with
  | nil => exact hs
  | cons x xs ih => exact ih (hf s x hs)

/-- A fold whose steps each raise at most one record raises at most one for each step. -/
theorem foldl_records {α : Type} {f : State → α → State} (hf : ∀ s x n, n < 63 → s.ResetFirst h n → (f s x).ResetFirst h (n + 1))
    (xs : List α) (hn : n + xs.length ≤ 63) (hs : s.ResetFirst h n) : (xs.foldl f s).ResetFirst h (n + xs.length) := by
  induction xs generalizing s n with
  | nil => exact hs
  | cons x xs ih =>
    rw [List.length_cons] at hn ⊢
    rw [Nat.add_comm xs.length, ← Nat.add_assoc]
    exact ih (by omega) (hf s x n (by omega) hs)

end State.ResetFirst

/-! ### Bank writes of the ROM (R423, R424) -/

@[simp] theorem Tmk.setBank_queue (t : Tmk) (isB : Bool) (b : SetBank) : (t.setBank isB b).queue = t.queue := by cases isB <;> rfl
@[simp] theorem Tmk.setBank_head (t : Tmk) (isB : Bool) (b : SetBank) : (t.setBank isB b).head = t.head := by cases isB <;> rfl

/-- Starting a job writes its bank and the list of jobs. -/
theorem State.startJob_eq (s : State) :
    ∃ b js, s.startJob = { s with tmk := { s.tmk.setBank s.tmk.target b with jobs := js } } ∨ s.startJob = s := by
  unfold State.startJob
  split
  · split
    · exact ⟨{}, [], .inr rfl⟩
    · exact ⟨_, _, .inl rfl⟩
  · exact ⟨{}, [], .inr rfl⟩

theorem State.startJob_of_no_jobs {s : State} (hj : s.tmk.jobs = []) : s.startJob = s := by
  simp [State.startJob, hj]

/-- The only bank write queued starts at once. -/
theorem State.queueJob_jobs {s : State} (job : BankJob) (hj : s.tmk.jobs = []) :
    ∃ j : BankWrite, (s.queueJob job).tmk.jobs = [j] ∧ j.job = job := by
  simp [State.queueJob, State.startJob, hj]

theorem State.answerJob_of_no_source {s : State} {j : BankWrite} (st : Status) (hj : sourceOf j.job = none) : s.answerJob j st = s := by
  simp [State.answerJob, hj]

namespace State.ResetFirst

variable {h n : Nat} {s : State}

theorem startJob (hs : s.ResetFirst h n) : s.startJob.ResetFirst h n := by
  obtain ⟨b, js, he | he⟩ := s.startJob_eq
  · rw [he]
    exact hs.congr (Tmk.setBank_head ..) (Tmk.setBank_queue ..) rfl
  · rwa [he]

theorem queueJob (hs : s.ResetFirst h n) (job : BankJob) : (s.queueJob job).ResetFirst h n :=
  startJob (hs.congr rfl rfl rfl)

/-- A write of the ROM that reaches its commit point is over with one record, or is to be repeated with none. -/
theorem bankWrite_romBoot {j : BankWrite} (hs : s.ResetFirst h n) (hn : n < 63) (hj : s.tmk.jobs = [j]) (hrom : j.job = .romBoot) :
    ((s.bankWrite true).ResetFirst h (n + 1) ∧ (s.bankWrite true).tmk.jobs = []) ∨
      ((s.bankWrite true).ResetFirst h n ∧ (s.bankWrite true).tmk.jobs = [{ j with repeated := true }] ∧ j.repeated = false) := by
  have hsrc : sourceOf j.job = none := by rw [hrom]; rfl
  simp only [State.bankWrite, hj, State.answerJob_of_no_source _ hsrc]
  split
  · rw [hrom, State.jobDone, State.startJob_of_no_jobs (State.record_jobs ..)]
    exact .inl ⟨hs.record_congr hn (Tmk.setBank_head _ _ _) (Tmk.setBank_queue _ _ _) (by rfl), State.record_jobs ..⟩
  · split
    · next hrep => exact .inr ⟨hs.congr (Tmk.setBank_head ..) (Tmk.setBank_queue ..) rfl, rfl, by simpa using hrep⟩
    · rw [if_neg (by simp [hrom]), State.startJob_of_no_jobs (State.record_jobs ..)]
      exact .inl ⟨hs.record_congr hn (Tmk.setBank_head _ _ _) (Tmk.setBank_queue _ _ _) (by rfl), State.record_jobs ..⟩

/-- The ROM's write of the BOOT item makes one record, whether or not its bank has failed, and leaves no job. -/
theorem bootWrite (hs : s.ResetFirst h n) (hn : n < 63) (hj : s.tmk.jobs = []) :
    s.bootWrite.ResetFirst h (n + 1) ∧ s.bootWrite.tmk.jobs = [] := by
  obtain ⟨j, hjobs, hrom⟩ := s.queueJob_jobs .romBoot hj
  unfold State.bootWrite
  obtain ⟨hover, hnone⟩ | ⟨hagain, hone, -⟩ := (hs.queueJob .romBoot).bankWrite_romBoot hn hjobs hrom
  · rw [if_pos hnone]
    exact ⟨hover, hnone⟩
  · rw [if_neg (by simp [hone])]
    obtain hover | ⟨-, -, hfirst⟩ := hagain.bankWrite_romBoot hn hone hrom
    · exact hover
    · exact absurd hfirst (by simp)

/-! ### The boot choice (R437) -/

theorem bootActive (hs : s.ResetFirst h n) (hn : n + 2 ≤ 63) (hj : s.tmk.jobs = []) : s.bootActive.ResetFirst h (n + 2) := by
  simp only [State.bootActive]
  split
  · exact (hs.mono (by omega)).of_tmk_bw rfl rfl
  · split
    · have hwrite := (hs.of_tmk_bw (u := { s with sec := { s.sec with active := 1 - s.sec.active } }) rfl rfl).bootWrite (by omega) hj
      exact (hwrite.1.record (by omega)).of_tmk_bw rfl rfl
    · have hdraw := hs.of_tmk_bw (u := s.draw.2) rfl rfl
      exact ((hdraw.record (by omega) (ty := 0x007C)).mono (by omega)).of_tmk_bw rfl rfl

theorem revert (hs : s.ResetFirst h n) (hn : n + 4 ≤ 63) (hj : s.tmk.jobs = []) (cause : Nat) : (s.revert cause).ResetFirst h (n + 4) := by
  obtain ⟨hwrite, hjobs⟩ :=
    (hs.of_tmk_bw (u := { s with sec := { s.sec.setSlotSt s.sec.trial 1 with trial := 0xFF } }) rfl rfl).bootWrite (by omega) hj
  exact (hwrite.record (by omega)).bootActive (by omega) ((State.record_jobs ..).trans hjobs)

theorem bootChoice (hs : s.ResetFirst h n) (hn : n + 5 ≤ 63) (hj : s.tmk.jobs = []) : s.bootChoice.ResetFirst h (n + 5) := by
  simp only [State.bootChoice]
  split
  · exact (hs.bootActive (by omega) hj).mono (by omega)
  · split
    · exact (hs.revert (by omega) hj 0).mono (by omega)
    · obtain ⟨hwrite, hjobs⟩ :=
        (hs.of_tmk_bw (u := { s with sec := { s.sec with attempts := s.sec.attempts - 1 } }) rfl rfl).bootWrite (by omega) hj
      split
      · exact ((hwrite.record (by omega)).mono (by omega)).of_tmk_bw rfl rfl
      · exact hwrite.revert (by omega) hjobs 1

/-! ### Settings, and the planes that start -/

theorem applySetting (hs : s.ResetFirst h n) (id : Nat) (v : List Byte) : (s.applySetting id v).ResetFirst h n := by
  unfold State.applySetting
  split <;> exact hs.congr rfl rfl rfl

theorem applyAll (hs : s.ResetFirst h n) (items : Items) : (s.applyAll items).ResetFirst h n :=
  foldl (fun _ _ hu => hu.applySetting _ _) _ (hs.congr rfl rfl rfl)

theorem reformat (hs : s.ResetFirst h n) (hn : n < 63) : s.reformat.ResetFirst h (n + 1) := by
  unfold State.reformat
  split
  · exact (((hs.congr (u := { s with tmk := { s.tmk with defaulted := true } }) rfl rfl rfl).record hn).applyAll []).queueJob .format
  · exact hs.mono (by omega)

theorem raiseRollback (hs : s.ResetFirst h n) (hn : n < 63) : s.raiseRollback.ResetFirst h (n + 1) := by
  unfold State.raiseRollback
  split
  · exact (hs.of_tmk_bw (u := { s with sec := { s.sec with rollback := s.sec.svn } }) rfl rfl).record hn
  · exact hs.mono (by omega)

/-- What a confirmed image does after its settings are in force. -/
theorem confirmed (hs : s.ResetFirst h n) (hn : n < 63) :
    (if s.sec.recovery || s.sec.trialRun then s else s.raiseRollback).ResetFirst h (n + 1) := by
  split
  · exact hs.mono (by omega)
  · exact hs.raiseRollback hn

theorem loadSettings (hs : s.ResetFirst h n) (hn : n + 2 ≤ 63) : s.loadSettings.ResetFirst h (n + 2) := by
  unfold State.loadSettings
  refine confirmed ?_ (by omega)
  split
  · exact (hs.applyAll []).mono (by omega)
  · split
    · exact (hs.applyAll _).mono (by omega)
    · split
      · exact ((hs.congr (u := { s with tmk := { s.tmk with defaulted := true } }) rfl rfl rfl).applyAll []).mono (by omega)
      · exact hs.reformat (by omega)

theorem findModule (hs : s.ResetFirst h n) (hn : n < 63) (ms : List (Option DdrModule)) (x : Nat × Option DdrModule) :
    (s.findModule ms x).ResetFirst h (n + 1) := by
  have hset : ∀ i c, (s.setChan i c).ResetFirst h n := fun i c => hs.of_tmk_bw rfl rfl
  simp only [State.findModule]
  split
  · exact (hset ..).mono (by omega)
  · split
    · exact (hset ..).mono (by omega)
    · split
      · split
        · exact (hset ..).mono (by omega)
        · exact (hset ..).record hn
      · exact (hset ..).mono (by omega)

/-- One record at most for each of the sixteen channels. -/
theorem findModules (hs : s.ResetFirst h n) (hn : n + 16 ≤ 63) (dimms : List (Option DdrModule)) :
    (s.findModules dimms).ResetFirst h (n + 16) := by
  have := foldl_records (fun s x n hn hs => findModule hs hn ((List.range 16).map fun i => dimms.getD i none) x)
    (((List.range 16).map fun i => dimms.getD i none).mapIdx fun i m => (i, m)) (by simpa using hn) hs
  simpa [State.findModules] using this

theorem startPlanes (hs : s.ResetFirst h n) (hn : n + 16 ≤ 63) (dimms : List (Option DdrModule)) :
    (s.startPlanes dimms).ResetFirst h (n + 16) := by
  unfold State.startPlanes
  split
  · exact hs.mono (by omega)
  · exact findModules (hs.congr (by rfl) (by rfl) (by rfl)) hn dimms

theorem pkg (hs : s.ResetFirst h n) {f : Bw → Bw} (hf : ∀ b, (f b).rstCause = b.rstCause) : (s.pkg f).ResetFirst h n := by
  refine hs.congr rfl rfl (Eq.trans ?_ (hf s.bw))
  simp only [State.pkg]
  split <;> rfl

theorem freezeDebt (hs : s.ResetFirst h n) : s.freezeDebt.ResetFirst h n := hs.of_tmk_bw rfl rfl

theorem warnLow (hs : s.ResetFirst h n) : s.warnLow.ResetFirst h n := by
  unfold State.warnLow
  split
  · exact hs.congr rfl rfl rfl
  · exact freezeDebt (pkg hs fun _ => rfl)

end State.ResetFirst

/-! ### Cold reset -/

/-- BW_RST_CAUSE of a cold reset: power-on, or PERST_N. -/
def coldCause (p : BootPins) : Nat := if p.powerOn then 0 else 1

/-- Step 2 of R397 up to the first record: the management plane is up, with the head of the ring, the bank of settings, the BOOT item and the cause of
the reset. -/
def State.startMgmt (p : BootPins) (s : State) : State :=
  let s := s.coldHold
  let s := { s with hub := { s.hub with bootsrc := p.bootsrc % 4, sbaddr := p.sbaddr % 8, testEn := p.testEn } }
  let t := { s.tmk with bootCount := min (s.tmk.bootCount + 1) max32, head := s.tmk.nextHead }.select
  { s with tmk := t, hub := { s.hub with mgmtUp := true },
           bw := { s.bw.rails p with lock := 0x10, pll := 0x10, rstCause := coldCause p, failHigh := !p.failLow },
           sec := { s.sec.loadBoot t.boot with mode := if p.bootsrc % 4 = 1 ∨ !p.octal then 1 else 0 } }

/-- The first records: RESET, and the entry for a settings store without a valid bank (R415, R422). -/
def State.logReset (cause : Nat) (s : State) : State :=
  let u := s.record 0x0001 4 (b8 cause)
  if s.tmk.anySel then u else ({ u with tmk := { u.tmk with defaulted := true } }).record 0x0060 4 (b8 0)

/-- The device keys are derived (R427). -/
def State.deriveKeys (s : State) : State := { s with sec := s.sec.deriveKeys }

/-- The image that runs is chosen, or the straps ask for RECOVERY (R437). -/
def State.chooseImage (p : BootPins) (s : State) : State :=
  if p.bootsrc % 4 = 2 then { s with sec := s.sec.startRecovery } else s.bootChoice

/-- The image that runs brings the settings into force and starts the planes. -/
def State.startImage (p : BootPins) (s : State) : State :=
  ({ s with sec := s.sec.endorse.runs 2 } : State).loadSettings.startPlanes p.dimms

/-- The supply warning pin that is low acts at once (R461). -/
def State.actOnWarn (p : BootPins) (s : State) : State := if p.warnLow then s.warnLow else s

theorem exec_coldReset {p : BootPins} (htest : p.testEn = false) (hfail : p.failLow = false) (s : State) :
    exec (.coldReset p) s = .next (((((s.startMgmt p).logReset (coldCause p)).deriveKeys.chooseImage p).startImage p).actOnWarn p) := by
  cases p
  subst htest hfail
  rfl

theorem State.startMgmt_head (p : BootPins) (s : State) : (s.startMgmt p).tmk.head = s.tmk.nextHead :=
  Tmk.nextHead_congr (t := s.coldHold.tmk) rfl rfl
theorem State.startMgmt_rstCause (p : BootPins) (s : State) : (s.startMgmt p).bw.rstCause = coldCause p := rfl
theorem State.startMgmt_queue (p : BootPins) (s : State) : (s.startMgmt p).tmk.queue = [] := rfl
theorem State.startMgmt_jobs (p : BootPins) (s : State) : (s.startMgmt p).tmk.jobs = [] := rfl

/-- RESET is the first entry of an empty queue. -/
theorem State.logReset_resetFirst {s : State} (hq : s.tmk.queue = []) : (s.logReset s.bw.rstCause).ResetFirst s.tmk.head 1 := by
  have htmk := Tmk.enqueue_of_room (t := s.tmk) (s.entry 0x0001 4 (b8 s.bw.rstCause)) (by rw [hq]; decide)
  have hreset : (s.record 0x0001 4 (b8 s.bw.rstCause)).ResetFirst s.tmk.head 0 :=
    ⟨(congrArg Tmk.head htmk :), s.entry 0x0001 4 (b8 s.bw.rstCause), [],
      (congrArg Tmk.queue htmk :).trans (by rw [hq]; rfl), rfl, rfl, le_refl 0⟩
  simp only [State.logReset]
  split
  · exact hreset.mono (by omega)
  · exact hreset.record_congr (by omega) (by rfl) (by rfl) (by rfl)

theorem State.logReset_jobs (s : State) (cause : Nat) : (s.logReset cause).tmk.jobs = s.tmk.jobs := by
  simp only [State.logReset]
  split
  · exact State.record_jobs ..
  · exact (State.record_jobs ..).trans (State.record_jobs ..)

namespace State.ResetFirst

variable {h n : Nat} {s : State}

theorem chooseImage (hs : s.ResetFirst h n) (hn : n + 5 ≤ 63) (hj : s.tmk.jobs = []) (p : BootPins) :
    (s.chooseImage p).ResetFirst h (n + 5) := by
  unfold State.chooseImage
  split
  · exact (hs.mono (by omega)).of_tmk_bw rfl rfl
  · exact hs.bootChoice hn hj

theorem startImage (hs : s.ResetFirst h n) (hn : n + 18 ≤ 63) (p : BootPins) : (s.startImage p).ResetFirst h (n + 18) :=
  ((hs.of_tmk_bw (u := { s with sec := s.sec.endorse.runs 2 }) rfl rfl).loadSettings (by omega)).startPlanes (by omega) p.dimms

theorem actOnWarn (hs : s.ResetFirst h n) (p : BootPins) : (s.actOnWarn p).ResetFirst h n := by
  unfold State.actOnWarn
  split
  · exact hs.warnLow
  · exact hs

end State.ResetFirst

/-- RESET is first when cold reset ends, with at most 24 entries behind it. -/
theorem coldReset_resetFirst {p : BootPins} (htest : p.testEn = false) (hfail : p.failLow = false) (s : State) :
    ∃ u, exec (.coldReset p) s = .next u ∧ u.ResetFirst s.tmk.nextHead 24 := by
  have hlogged : ((s.startMgmt p).logReset (coldCause p)).ResetFirst s.tmk.nextHead 1 := by
    rw [← s.startMgmt_head p, ← s.startMgmt_rstCause p]
    exact State.logReset_resetFirst (s.startMgmt_queue p)
  have hkeys : ((s.startMgmt p).logReset (coldCause p)).deriveKeys.ResetFirst s.tmk.nextHead 1 := hlogged.of_tmk_bw rfl rfl
  have hjobs : ((s.startMgmt p).logReset (coldCause p)).deriveKeys.tmk.jobs = [] :=
    (State.logReset_jobs _ _).trans (s.startMgmt_jobs p)
  exact ⟨_, exec_coldReset htest hfail s, ((hkeys.chooseImage (by decide) hjobs p).startImage (by decide) p).actOnWarn p⟩

/-- Settles O54: the writer's clauses are one write each, and the clauses of cold reset hold because no later record can take the place of RESET. -/
theorem tidemarkWritesAndSequence : Obligations.TidemarkWritesAndSequence := by
  unfold Obligations.TidemarkWritesAndSequence
  intro s
  refine ⟨fun e rest hup hq => ?_, fun e rest hup hq => ?_, fun p htest hfail => ?_⟩
  · exact ⟨_, exec_tidemarkEntryWrite true hup hq, State.writeEntry_floor s _ rest⟩
  · exact ⟨_, exec_tidemarkEntryWrite false hup hq, rfl, Tmk.put_floor (e.atWrite rest.length) false s.tmk⟩
  · obtain ⟨u, hexec, hhead, e, es, hq, hty, hpl, -⟩ := coldReset_resetFirst htest hfail s
    refine ⟨u, e, hexec, by rw [hq]; rfl, hty, hpl, ?_⟩
    rw [hhead]
    exact ⟨fun _ => Tmk.nextHead_of_floor_le, Tmk.nextHead_of_below_floor, Tmk.nextHead_of_empty⟩

end Sys2Proof.Machine
end

section
/-! The register instructions, branches and loops of the CTRL unit (R96, R97), and the step itself. -/

namespace Sys2Proof.Machine

/-! ### The register instructions -/

/-- A CTRL-unit instruction that issues changes its slot by `f` and goes on to the next word. -/
theorem issue_ctrl_eq {s : State} {c t w : Nat} {kd : Kind} (h : s.issues c t kd w = true) (f : Nat → State → TaskSlot → TaskSlot) :
    s.issue c t kd (fun w s => s.ctrl c t (f w s)) =
      s.ctrlDone c t 1 { f w s ((s.core c).slot t) with pc := ((s.core c).slot t).pc + 1 } := by
  rw [issue_eq h, ctrl_eq]

@[simp] theorem TaskSlot.setL_pc (ts : TaskSlot) (n : Nat) (v : BitVec 16) (p : Nat) :
    { ts.setL n v with pc := p } = ({ ts with pc := p } : TaskSlot).setL n v := rfl

/-- Settles O1: each of the five is one change of the slot by the CTRL unit. -/
theorem configInstructionsSetRegisters : Obligations.ConfigInstructionsSetRegisters := by
  unfold Obligations.ConfigInstructionsSetRegisters
  intro c t s w
  refine ⟨fun h => ?_, fun h => ?_, fun h => ?_, fun h => ?_, fun h => ?_⟩
  · exact congrArg _ ((issue_ctrl_eq h fun w _ ts => ts.setX _ _).trans (by rw [TaskSlot.setX_pc]))
  · exact congrArg _ ((issue_ctrl_eq h fun w _ ts => ts.setX _ _).trans (by rw [TaskSlot.setX_pc]))
  · exact congrArg _ ((issue_ctrl_eq h fun w _ ts => ts.setX _ _).trans (by rw [TaskSlot.setX_pc]))
  · exact congrArg _ ((issue_ctrl_eq h fun w _ ts => ts.setL _ _).trans (by rw [TaskSlot.setL_pc]))
  · exact congrArg _ (issue_ctrl_eq h fun w _ ts => { ts with vstr := _, ostr := _, rowl := _ })

/-! ### Branches, loops and HALT -/

theorem State.ctrlEnd_eq_ctrlDone (s : State) (c t n p : Nat) (ts : TaskSlot) :
    s.modCore c (fun k => (k.setSlot t ts).ctrlEnd t n p) = s.ctrlDone c t n { ts with pc := p } := by
  simp [State.modCore, ctrlEnd_eq, State.ctrlDone]
  rfl

theorem State.ctrlEnd_eq (s : State) (c t n p : Nat) :
    s.modCore c (Core.ctrlEnd t n p) = s.ctrlDone c t n { (s.core c).slot t with pc := p } := rfl

@[simp] theorem State.slot_ctrlDone (s : State) (c t n : Nat) (ts : TaskSlot) : ((s.ctrlDone c t n ts).core c).slot t = ts := by
  rw [State.ctrlDone, State.core_setCore]
  exact Core.slot_setSlot ..

theorem State.variantRestart_of_none {s : State} {c t : Nat} (h : ((s.core c).slot t).variant = none) : s.variantRestart c t = s := by
  simp [State.variantRestart, h]

/-- Settles O2: each instruction issues, and its operand or target is given. -/
theorem controlFlowAndBarrier : Obligations.ControlFlowAndBarrier := by
  unfold Obligations.ControlFlowAndBarrier
  intro c t s w
  refine ⟨fun a h ha => ?_, fun a h ha => ?_, fun p h hp => ?_, fun p h hp => ?_, fun h held variant => ?_⟩
  · change execCfgSbarm c t s = _
    rw [execCfgSbarm, issue_eq h]
    simp only [ha, ctrl_eq, State.modCore, State.core_setCore, id]
    rfl
  · change execCfgSetparam c t s = _
    rw [execCfgSetparam, issue_eq h]
    simp only [ha, ctrl_eq]
  · change execLoop c t s = _
    rw [execLoop, issue_eq h]
    simp only [hp, State.ctrlEnd_eq_ctrlDone]
    generalize (if ((s.core c).slot t).getL (bits w 52 51) = 0 then (0 : BitVec 16) else ((s.core c).slot t).getL (bits w 52 51) - 1) = n
    by_cases hn : n = 0
    · simp only [hn, if_true]
    · simp only [hn, if_false]
  · change execBr c t s = _
    rw [execBr, issue_eq h]
    simp only [hp, State.ctrlEnd_eq]
    split <;> rfl
  · change execHalt c t s = _
    rw [execHalt, issue_eq h, checked_none _ (by simp [lowest, held]), ctrl_eq, 
      State.variantRestart_of_none (by rw [State.slot_ctrlDone]; exact variant)]

/-! ### The step -/

/-- Settles O55: `step` is `exec` of the command in front. -/
theorem stepRunsFront : Obligations.StepRunsFront := by
  unfold Obligations.StepRunsFront
  exact fun c rest s => ⟨rfl, fun h => by simp [step, h]⟩

theorem corePos_eq (c : Nat) : corePos c = c % 9 := by
  simp only [corePos, coreLocal]
  omega

/-- At reset no role has been written (R5). -/
theorem State.reset_role (c : Nat) : State.reset.role c = if c % 9 = 8 then .standby else .inService := by
  rw [← corePos_eq]
  rfl

/-- The standby map of a die at reset: position 8 of each group. -/
theorem Die.stbyLocal_default : ∀ g < 4, Tab.get 0 ({} : Die).stbyLocal g = 9 * g + 8 := by decide

/-- An entry of the lease table at reset: FREE, its pairs whole. -/
theorem Lease.default_free : ({} : Lease).st = 0 ∧ ({} : Lease).pairOk = true := by decide

/-- Settles O57: the state after reset is every field's default. -/
theorem resetState : Obligations.ResetState := by
  unfold Obligations.ResetState
  exact ⟨rfl, rfl, rfl, rfl, rfl, rfl, rfl, rfl, rfl, rfl, rfl, rfl, rfl, fun _ => rfl, fun c _ => State.reset_role c,
    fun _ _ n => ⟨ite_self 0, rfl⟩, fun _ _ => rfl, fun _ _ => rfl, fun _ => Die.stbyLocal_default, fun _ _ => Lease.default_free,
    fun _ => ⟨rfl, rfl⟩, rfl, rfl, rfl, rfl⟩

end Sys2Proof.Machine
end

section
/-! Completion, the freeze, and the starts and stops of slots (R88, R97 to R99, R109, R236, R242). -/

namespace Sys2Proof.Machine

/-! ### What leaves a slot's state alone -/

/-- The registers that a completing instruction writes leave the rest of its slot. -/
theorem TaskSlot.setX_fields (ts : TaskSlot) (n : Nat) (v : W32) :
    (ts.setX n v).st = ts.st ∧ (ts.setX n v).blk = ts.blk ∧ (ts.setX n v).stopReq = ts.stopReq := by
  unfold TaskSlot.setX
  split <;> exact ⟨rfl, rfl, rfl⟩

theorem TaskSlot.setX_foldl_fields (xs : List (Nat × W32)) (ts : TaskSlot) :
    (xs.foldl (fun ts x => ts.setX x.1 x.2) ts).st = ts.st ∧ (xs.foldl (fun ts x => ts.setX x.1 x.2) ts).blk = ts.blk ∧
      (xs.foldl (fun ts x => ts.setX x.1 x.2) ts).stopReq = ts.stopReq := by
  induction xs generalizing ts with
  | nil => exact ⟨rfl, rfl, rfl⟩
  | cons x xs ih =>
    obtain ⟨hst, hblk, hstop⟩ := ts.setX_fields x.1 x.2
    obtain ⟨ist, iblk, istop⟩ := ih (ts.setX x.1 x.2)
    exact ⟨ist.trans hst, iblk.trans hblk, istop.trans hstop⟩

/-- A completing instruction leaves its slot as it was but for the registers that it writes. -/
theorem Core.slot_leave (k : Core) (u : UnitName) (b : Busy) :
    ((k.leave u b).slot b.slot).st = (k.slot b.slot).st ∧ ((k.leave u b).slot b.slot).blk = (k.slot b.slot).blk ∧
      ((k.leave u b).slot b.slot).stopReq = (k.slot b.slot).stopReq := by
  simp only [Core.leave, Core.modSlot, Core.slot_setSlot]
  exact TaskSlot.setX_foldl_fields b.wb (k.slot b.slot)

theorem Core.modSlot_congr {k : Core} {t : Nat} {f g : TaskSlot → TaskSlot} (h : f (k.slot t) = g (k.slot t)) : k.modSlot t f = k.modSlot t g := by
  simp only [Core.modSlot, h]

@[simp] theorem Core.slot_abandon (k : Core) (t u : Nat) : (k.abandon t).slot u = k.slot u := by
  unfold Core.abandon
  split <;> rfl

/-! ### Stops (R109, R236) -/

/-- A slot that holds no tile stops with no lease to revoke. -/
theorem State.stopSlot_of_none {s : State} {c t : Nat} (restart : Bool) (h : ((s.core c).slot t).held = none) :
    s.stopSlot c t restart = s.modCore c fun k => (k.abandon t).modSlot t (TaskSlot.stop restart) := by
  simp [State.stopSlot, h]

theorem exec_tsStop_of_idle {c : CoreId} {t : SlotId} {s : State} (hr : ((s.core c).slot t).st ≠ .ready) (hb : ((s.core c).slot t).st ≠ .blocked) :
    exec (.tsStop c t) s = .next (s.modSlot c t fun ts => { ts with stopReq := true, blk := .none, variant := none }) := by
  change Host.Outcome.next (s.tsStop c t) = _
  simp [State.tsStop, hr, hb]

/-- A slot whose unit runs waits for its instruction boundary. -/
theorem exec_tsStop_of_unit {c : CoreId} {t : SlotId} {s : State} {u : UnitName} (hb : ((s.core c).slot t).st = .blocked)
    (held : ((s.core c).slot t).held = none) (hu : ((s.core c).slot t).blk = .unit u) :
    exec (.tsStop c t) s = .next (s.modSlot c t fun ts => { ts with stopReq := true, variant := none }) := by
  change Host.Outcome.next (s.tsStop c t) = _
  simp [State.tsStop, hb, held, hu]

/-- A slot that waits for no unit and holds no tile is stopped at once. -/
theorem exec_tsStop_at_once {c : CoreId} {t : SlotId} {s : State}
    (h : ((s.core c).slot t).st = .ready ∨ ((s.core c).slot t).st = .blocked ∧ ∀ u, ((s.core c).slot t).blk ≠ .unit u)
    (held : ((s.core c).slot t).held = none) :
    exec (.tsStop c t) s = .next (s.setCore c (((s.core c).abandon t).setSlot t
      { (s.core c).slot t with st := .stopped, blk := .drain false, held := none, stopReq := true, variant := none })) := by
  change Host.Outcome.next (s.tsStop c t) = _
  have hstop : s.tsStop c t = (s.stopSlot c t false).modSlot c t fun ts => { ts with stopReq := true, variant := none } := by
    rcases h with hr | ⟨hb, hu⟩
    · simp [State.tsStop, hr]
    · cases hblk : ((s.core c).slot t).blk with
      | unit u => exact absurd hblk (hu u)
      | _ => simp [State.tsStop, hb, hblk]
  rw [hstop, State.stopSlot_of_none false held]
  simp [State.modSlot, State.modCore, Core.modSlot, TaskSlot.stop]

/-! ### Issue out of turn (R88) -/

/-- A slot that another ready one precedes does not issue. -/
theorem issue_of_not_turn {s : State} {c t : Nat} (kd : Kind) (go : Nat → State → State) (h : s.turn c t = false) : s.issue c t kd go = s := by
  simp [State.issue, h]

/-- Settles O4: each event is one change of its core, and what it meets is given. -/
theorem completionFreezeAndSlots : Obligations.CompletionFreezeAndSlots := by
  unfold Obligations.CompletionFreezeAndSlots
  intro c t s
  refine ⟨fun u b hu ha hop hmay => ?_, fun u b hu ha hmay hst hblk => ?_, rfl, fun hrun => ?_, fun pass ue hf hr hl => ?_,
    fun r hf hr hl hready hblocked => ?_, fun hready hblocked => ?_, fun u hb held hu => ?_, fun h held => ?_,
    fun hst hblk hasync hf hr => ?_, fun w h hff hc hue => ?_, fun hturn ev i hi => ?_⟩
  · change execAsyncComplete c u s = _
    simp only [execAsyncComplete, hu, ha, hmay, Bool.and_self, if_true, hop, if_false]
    rfl
  · obtain ⟨lst, lblk, lstop⟩ := (s.core c).slot_leave u b
    change execBlockingInstructionComplete c u s = _
    simp only [execBlockingInstructionComplete, hu, ha, hmay, Bool.not_false, Bool.and_self, if_true]
    exact congrArg (fun k => Host.Outcome.next (s.setCore c k)) (Core.modSlot_congr (by simp only [lst, lblk, lstop, hst, hblk, and_self, if_true]))
  · change execClockGateIdle c s = _
    simp only [execClockGateIdle, hrun, Bool.false_eq_true, if_false]
    rfl
  · rw [exec_hbeatAdvance pass ue hf hr hl]
    simp [State.modCore]
  · change execTsStart c t r s = _
    simp [execTsStart, hf, hr, hl, hready, hblocked, State.modCore, Core.modSlot]
  · exact exec_tsStop_of_idle hready hblocked
  · exact exec_tsStop_of_unit hb held hu
  · exact exec_tsStop_at_once h held
  · change execSlotRestart c t s = _
    simp [execSlotRestart, hst, hblk, hasync, hf, hr, State.modCore, Core.modSlot]
  · change execSig c t s = _
    rw [execSig, issue_eq h]
    simp only [hff, hc, or_self, if_false, hue, if_true, ctrl_eq, id]
  · have hissue := fun kd go => issue_of_not_turn kd go hturn
    simp only [List.mem_cons, List.not_mem_nil, or_false] at hi
    rcases hi with rfl | rfl | rfl | rfl | rfl | rfl | rfl | rfl | rfl <;> exact congrArg Host.Outcome.next (hissue _ _)

end Sys2Proof.Machine
end

section
/-! What every command keeps: the canonical form of device memory (R281), the rollback counter, the fuses and revoked keys (R429, R432, R445), and,
but for the commands that R38 names, HUB_LOCK. `State.Keeps` says so of two states; each operation of the model has its lemma, so that a command's
proof follows the shape of its meaning. -/

namespace Sys2Proof.Machine

/-- `t` keeps what stands protected in `s`. -/
structure State.Keeps (s t : State) : Prop where
  mem : Memory.wf s.plm.mem = true → Memory.wf t.plm.mem = true
  rollback : s.sec.rollback ≤ t.sec.rollback
  fuses : ∀ k, s.sec.sigRevoked.getLsbD k = true → t.sec.sigRevoked.getLsbD k = true
  keys : ∀ k ∈ s.sec.keys, k.revoked = true → k ∈ t.sec.keys
  lock : t.hub.lock = s.hub.lock

namespace State.Keeps

variable {s t u : State}

@[simp] theorem refl (s : State) : s.Keeps s := ⟨id, le_rfl, fun _ => id, fun _ h _ => h, rfl⟩

theorem trans (h : s.Keeps t) (k : t.Keeps u) : s.Keeps u where
  mem hm := k.mem (h.mem hm)
  rollback := h.rollback.trans k.rollback
  fuses i hi := k.fuses i (h.fuses i hi)
  keys x hx hr := k.keys x (h.keys x hx hr) hr
  lock := k.lock.trans h.lock

/-- Memory may change in its canonical form, everything else that is protected stays. -/
theorem of_wf (h : s.Keeps t) (hm : Memory.wf t.plm.mem = true → Memory.wf u.plm.mem = true) (hr : u.sec.rollback = t.sec.rollback)
    (hf : u.sec.sigRevoked = t.sec.sigRevoked) (hk : u.sec.keys = t.sec.keys) (hl : u.hub.lock = t.hub.lock) : s.Keeps u :=
  h.trans ⟨hm, hr.ge, fun _ => hf ▸ id, fun _ hx _ => hk ▸ hx, hl⟩

/-- Nothing that is protected changes. -/
theorem of_eq (h : s.Keeps t) (hm : u.plm.mem = t.plm.mem) (hr : u.sec.rollback = t.sec.rollback) (hf : u.sec.sigRevoked = t.sec.sigRevoked)
    (hk : u.sec.keys = t.sec.keys) (hl : u.hub.lock = t.hub.lock) : s.Keeps u :=
  h.of_wf (fun hw => hm ▸ hw) hr hf hk hl

/-- Two states with the same protected parts keep the same. -/
theorem congr (hm : u.plm.mem = t.plm.mem) (hr : u.sec.rollback = t.sec.rollback) (hf : u.sec.sigRevoked = t.sec.sigRevoked)
    (hk : u.sec.keys = t.sec.keys) (hl : u.hub.lock = t.hub.lock) : s.Keeps u ↔ s.Keeps t :=
  ⟨fun h => h.of_eq hm.symm hr.symm hf.symm hk.symm hl.symm, fun h => h.of_eq hm hr hf hk hl⟩

/-! ### A state whose fields are written -/

section Write

variable {cores : Tab Core} {roles : Tab (Option Role)} {fabric : List Flight} {dies : Tab Die} {ldr : Loader} {est : Est} {plm : Plm} {kl : Kl}
  {cxl : Cxl} {bw : Bw} {tmk : Tmk} {sec : Sec} {hub : Hub} {out : Out} {us fresh : Nat} {pending : List Instr}

/-- Fields outside memory's, the security unit's and the hub's may change. -/
@[simp] theorem write :
    s.Keeps ⟨cores, roles, fabric, dies, ldr, est, t.plm, kl, cxl, bw, tmk, t.sec, t.hub, out, us, fresh, pending⟩ ↔ s.Keeps t :=
  congr rfl rfl rfl rfl rfl

@[simp] theorem write_plm (hm : plm.mem = t.plm.mem) :
    s.Keeps ⟨cores, roles, fabric, dies, ldr, est, plm, kl, cxl, bw, tmk, t.sec, t.hub, out, us, fresh, pending⟩ ↔ s.Keeps t :=
  congr hm rfl rfl rfl rfl

@[simp] theorem write_hub (hl : hub.lock = t.hub.lock) :
    s.Keeps ⟨cores, roles, fabric, dies, ldr, est, t.plm, kl, cxl, bw, tmk, t.sec, hub, out, us, fresh, pending⟩ ↔ s.Keeps t :=
  congr rfl rfl rfl rfl hl

@[simp] theorem write_sec (hr : sec.rollback = t.sec.rollback) (hf : sec.sigRevoked = t.sec.sigRevoked) (hk : sec.keys = t.sec.keys) :
    s.Keeps ⟨cores, roles, fabric, dies, ldr, est, t.plm, kl, cxl, bw, tmk, sec, t.hub, out, us, fresh, pending⟩ ↔ s.Keeps t :=
  congr rfl hr hf hk rfl

@[simp] theorem write_plm_hub (hm : plm.mem = t.plm.mem) (hl : hub.lock = t.hub.lock) :
    s.Keeps ⟨cores, roles, fabric, dies, ldr, est, plm, kl, cxl, bw, tmk, t.sec, hub, out, us, fresh, pending⟩ ↔ s.Keeps t :=
  congr hm rfl rfl rfl hl

@[simp] theorem write_sec_hub (hr : sec.rollback = t.sec.rollback) (hf : sec.sigRevoked = t.sec.sigRevoked) (hk : sec.keys = t.sec.keys)
    (hl : hub.lock = t.hub.lock) :
    s.Keeps ⟨cores, roles, fabric, dies, ldr, est, t.plm, kl, cxl, bw, tmk, sec, hub, out, us, fresh, pending⟩ ↔ s.Keeps t :=
  congr rfl hr hf hk hl

/-- A write of memory that keeps its canonical form. -/
theorem write_mem (h : s.Keeps t) (hm : Memory.wf t.plm.mem = true → Memory.wf plm.mem = true) :
    s.Keeps ⟨cores, roles, fabric, dies, ldr, est, plm, kl, cxl, bw, tmk, t.sec, t.hub, out, us, fresh, pending⟩ :=
  h.of_wf hm rfl rfl rfl rfl

end Write

/-! ### Cases and folds -/

/-- The state of an answer that has been taken apart. -/
theorem of_snd {α : Type} {r : α × State} {x : α} (he : r = (x, u)) (h : s.Keeps r.2) : s.Keeps u := by
  subst he
  exact h

@[simp] theorem ite_iff {c : Prop} [Decidable c] : s.Keeps (if c then t else u) ↔ if c then s.Keeps t else s.Keeps u := by
  split <;> rfl

/-- A fold of steps that each change nothing protected changes nothing protected. -/
@[simp] theorem foldl_iff {α : Type} {f : State → α → State} {xs : List α} (hf : ∀ (s u : State) x, s.Keeps (f u x) ↔ s.Keeps u) :
    s.Keeps (xs.foldl f t) ↔ s.Keeps t := by
  induction xs generalizing t with
  | nil => rfl
  | cons x xs ih => exact ih.trans (hf s t x)

/-- A fold of steps that each keep it keeps it. -/
@[simp] theorem foldl {α : Type} {f : State → α → State} {xs : List α} (hf : ∀ (u : State) x, u.Keeps (f u x)) (h : s.Keeps t) :
    s.Keeps (xs.foldl f t) := by
  induction xs generalizing t with
  | nil => exact h
  | cons x xs ih => exact ih (h.trans (hf t x))

/-- So does a fold that gathers results beside the state. -/
theorem foldl_of {α β : Type} {f : β → α → β} (p : β → State) {xs : List α} (hf : ∀ b x, (p b).Keeps (p (f b x))) {b : β} (h : s.Keeps (p b)) :
    s.Keeps (p (xs.foldl f b)) := by
  induction xs generalizing b with
  | nil => exact h
  | cons x xs ih => exact ih (h.trans (hf b x))

/-- The same where every step changes nothing protected. -/
theorem foldl_of_iff {α β : Type} {f : β → α → β} (p : β → State) {xs : List α} (hf : ∀ (s : State) b x, s.Keeps (p (f b x)) ↔ s.Keeps (p b)) {b : β} :
    s.Keeps (p (xs.foldl f b)) ↔ s.Keeps (p b) := by
  induction xs generalizing b with
  | nil => rfl
  | cons x xs ih => exact ih.trans (hf s b x)

end State.Keeps

/-- A command's answer keeps what stands protected in `s`. -/
def State.Holds (s : State) (r : Res) : Prop := ∀ t, r = .next t → s.Keeps t

@[simp] theorem State.holds_next {s t : State} : s.Holds (.next t) ↔ s.Keeps t :=
  ⟨fun h => h t rfl, fun h _ hu => Host.Outcome.next.inj hu ▸ h⟩
@[simp] theorem State.holds_fault (s : State) (f : Fault) : s.Holds (.fault f) := fun _ hu => nomatch hu

end Sys2Proof.Machine
end

section
/-! The cores, their scratchpads, the fabric and the queues of the banks keep what stands protected. -/

namespace Sys2Proof.Machine

variable {s s' u : State}

namespace State.Keeps

@[simp] theorem setCore (c : Nat) (k : Core) : s.Keeps (s'.setCore c k) ↔ s.Keeps s' := by
  simp [State.setCore]

@[simp] theorem modCore (c : Nat) (f : Core → Core) : s.Keeps (s'.modCore c f) ↔ s.Keeps s' := by
  simp [State.modCore]

@[simp] theorem setDie (d : Nat) (x : Die) : s.Keeps (s'.setDie d x) ↔ s.Keeps s' := by
  simp [State.setDie]

@[simp] theorem modDie (d : Nat) (f : Die → Die) : s.Keeps (s'.modDie d f) ↔ s.Keeps s' := by
  simp [State.modDie]

@[simp] theorem modSlot (c t : Nat) (f : TaskSlot → TaskSlot) : s.Keeps (s'.modSlot c t f) ↔ s.Keeps s' := by
  simp [State.modSlot]

@[simp] theorem modSpd (c : Nat) (f : Spad → Spad) : s.Keeps (s'.modSpd c f) ↔ s.Keeps s' := by
  simp [State.modSpd]

@[simp] theorem setRole (c : Nat) (r : Role) : s.Keeps (s'.setRole c r) ↔ s.Keeps s' := by
  simp [State.setRole]

@[simp] theorem modCtr (d n : Nat) (f : Counter → Counter) : s.Keeps (s'.modCtr d n f) ↔ s.Keeps s' := by
  simp [State.modCtr]

@[simp] theorem modChan (d ch : Nat) (f : Chan → Chan) : s.Keeps (s'.modChan d ch f) ↔ s.Keeps s' := by
  simp [State.modChan]

@[simp] theorem modPort (p : Nat) (f : Port → Port) : s.Keeps (s'.modPort p f) ↔ s.Keeps s' := by
  simp [State.modPort]

@[simp] theorem modHandle (h : Nat) (f : Handle → Handle) : s.Keeps (s'.modHandle h f) ↔ s.Keeps s' := by
  simp [State.modHandle]

@[simp] theorem draw : s.Keeps (s'.draw).2 ↔ s.Keeps s' := by
  simp [State.draw]

@[simp] theorem record (ty src : Nat) (payload : List Byte) (core : Nat) (unit : Nat) : s.Keeps (s'.record ty src payload core unit) ↔ s.Keeps s' := by
  simp [State.record]

@[simp] theorem alert (k : Nat) : s.Keeps (s'.alert k) ↔ s.Keeps s' := by
  simp [State.alert]

@[simp] theorem awaitRewrite (cs : List Nat) : s.Keeps (s'.awaitRewrite cs) ↔ s.Keeps s' := by
  simp [State.awaitRewrite]

@[simp] theorem watch (cs : List Nat) : s.Keeps (s'.watch cs) ↔ s.Keeps s' := by
  simp [State.watch]

@[simp] theorem pairError (k : Nat) : s.Keeps (s'.pairError k) ↔ s.Keeps s' := by
  simp [State.pairError]

@[simp] theorem dropPostings (n : Nat) : s.Keeps (s'.dropPostings n) ↔ s.Keeps s' := by
  simp [State.dropPostings]

@[simp] theorem failStep (n code : Nat) : s.Keeps (s'.failStep n code) ↔ s.Keeps s' := by
  simp [State.failStep]

@[simp] theorem failTile (d ctr tile code : Nat) : s.Keeps (s'.failTile d ctr tile code) ↔ s.Keeps s' := by
  simp [State.failTile]

@[simp] theorem revokeLease (d e : Nat) (l : Lease) (code : Option Nat) : s.Keeps (s'.revokeLease d e l code) ↔ s.Keeps s' := by
  simp [State.revokeLease]

@[simp] theorem leasePairFault (d e : Nat) (code : Option Nat) : s.Keeps (s'.leasePairFault d e code) ↔ s.Keeps s' := by
  unfold State.leasePairFault
  split <;> simp

@[simp] theorem revoke (d e : Nat) (code : Option Nat) : s.Keeps (s'.revoke d e code) ↔ s.Keeps s' := by
  simp [State.revoke]

@[simp] theorem upsetLeases (d : Nat) (us : List LeaseUpset) : s.Keeps (s'.upsetLeases d us) ↔ s.Keeps s' := by
  simp [State.upsetLeases]

@[simp] theorem beach (d : Nat) (locals : List Nat) (cause : Nat) : s.Keeps (s'.beach d locals cause) ↔ s.Keeps s' := by
  simp [State.beach]

@[simp] theorem spdCount (c w : Nat) (o : EccOut) : s.Keeps (s'.spdCount c w o) ↔ s.Keeps s' := by
  unfold State.spdCount
  split <;> simp

@[simp] theorem spdReadOn (c w : Nat) : s.Keeps (s'.spdReadOn c w).2 ↔ s.Keeps s' := by
  unfold State.spdReadOn
  dsimp only
  split <;> simp

@[simp] theorem spdDiscard (c requester w : Nat) : s.Keeps (s'.spdDiscard c requester w) ↔ s.Keeps s' := by
  simp [State.spdDiscard]

@[simp] theorem storeWord (c requester w : Nat) (d : W256) (poison : Bool) : s.Keeps (s'.storeWord c requester w d poison).1 ↔ s.Keeps s' := by
  unfold State.storeWord
  split <;> simp

@[simp] theorem storeMask (c requester w : Nat) (d mask : W256) (poison : Bool) : s.Keeps (s'.storeMask c requester w d mask poison).1 ↔ s.Keeps
    s' := by
  unfold State.storeMask
  split <;> simp

@[simp] theorem landWith {pre : Nat → Nat → State → State} (hpre : ∀ (s u : State) c w, s.Keeps (pre c w u) ↔ s.Keeps u) (c : Nat) (l : Landing) (d : W256)
    (poison : Bool) : s.Keeps (s'.landWith pre c l d poison) ↔ s.Keeps s' := by
  cases l with
  | word dst => simp [State.landWith, hpre]
  | lane base ostr plane lane => simp [State.landWith, hpre]

@[simp] theorem serveWith {pre : Nat → Nat → State → State} (hpre : ∀ (s u : State) c w, s.Keeps (pre c w u) ↔ s.Keeps u) (c : Nat) (q : QReq) :
    s.Keeps (s'.serveWith pre c q) ↔ s.Keeps s' := by
  unfold State.serveWith
  split <;> simp [hpre]

@[simp] theorem emptyBank (fuel c b : Nat) : s.Keeps (s'.emptyBank fuel c b) ↔ s.Keeps s' := by
  induction fuel generalizing s s' c b with
  | zero => rfl
  | succ fuel ih => simp [State.emptyBank, ih]

@[simp] theorem bankRetire (c b : Nat) : s.Keeps (s'.bankRetire c b) ↔ s.Keeps s' := by
  simp [State.bankRetire]

@[simp] theorem retireAt (c w : Nat) : s.Keeps (s'.retireAt c w) ↔ s.Keeps s' := by
  simp [State.retireAt]

@[simp] theorem land (c : Nat) (l : Landing) (d : W256) (poison : Bool) : s.Keeps (s'.land c l d poison) ↔ s.Keeps s' := by
  simp [State.land]

@[simp] theorem bankServe (c : Nat) (q : QReq) : s.Keeps (s'.bankServe c q) ↔ s.Keeps s' := by
  simp [State.bankServe]

@[simp] theorem spdRead (c w : Nat) : s.Keeps (s'.spdRead c w).2 ↔ s.Keeps s' := by
  unfold State.spdRead
  split <;> simp

@[simp] theorem spdReads (c : Nat) (ws : List Nat) : s.Keeps (s'.spdReads c ws).2 ↔ s.Keeps s' := by
  unfold State.spdReads
  refine foldl_of_iff Prod.snd fun s r w => ?_
  simp

@[simp] theorem spdWrite (c requester w : Nat) (d : W256) (poison : Bool) : s.Keeps (s'.spdWrite c requester w d poison).1 ↔ s.Keeps s' := by
  simp [State.spdWrite]

@[simp] theorem spdWriteMask (c requester w : Nat) (d mask : W256) (poison : Bool) : s.Keeps (s'.spdWriteMask c requester w d mask poison).1 ↔
    s.Keeps s' := by
  simp [State.spdWriteMask]

@[simp] theorem clearWords (c : Nat) (ws : List Nat) : s.Keeps (s'.clearWords c ws) ↔ s.Keeps s' := by
  simp [State.clearWords]

@[simp] theorem spdWrites (c : Nat) (ws : List (Nat × W256)) : s.Keeps (s'.spdWrites c ws) ↔ s.Keeps s' := by
  simp [State.spdWrites]

@[simp] theorem upset (c : Nat) (ups : List Upset) : s.Keeps (s'.upset c ups) ↔ s.Keeps s' := by
  simp [State.upset]

@[simp] theorem starve (c : Nat) (u : UnitName) (late : List (Nat × Nat)) : s.Keeps (s'.starve c u late) ↔ s.Keeps s' := by
  simp [State.starve]

@[simp] theorem sawUe (c : Nat) (ue : Bool) : s.Keeps (s'.sawUe c ue) ↔ s.Keeps s' := by
  simp [State.sawUe]

@[simp] theorem faultAt (c t code op pc : Nat) : s.Keeps (s'.faultAt c t code op pc) ↔ s.Keeps s' := by
  simp [State.faultAt]

@[simp] theorem fault (c t code : Nat) : s.Keeps (s'.fault c t code) ↔ s.Keeps s' := by
  simp [State.fault]

@[simp] theorem issue (c t : Nat) (want : Kind) {go : Nat → State → State} (hgo : ∀ w (u : State), u.Keeps (go w u)) (hs : s.Keeps s') :
    s.Keeps (s'.issue c t want go) := by
  unfold State.issue
  dsimp only
  split
  · exact hs
  · split
    · exact (fault c t _).2 hs
    · split
      · exact (fault c t _).2 hs
      · have hrun := hs.trans (hgo ((s'.core c).wordAt t) s')
        split
        · exact hs
        · split <;> simp [hs, hrun]

@[simp] theorem ctrl (c t : Nat) (f : TaskSlot → TaskSlot) : s.Keeps (s'.ctrl c t f) ↔ s.Keeps s' := by
  simp [State.ctrl]

@[simp] theorem occupy (c t : Nat) (u : UnitName) (w dur : Nat) (f : Busy → Busy) : s.Keeps (s'.occupy c t u w dur f) ↔ s.Keeps s' := by
  simp [State.occupy]

@[simp] theorem partway (c : Nat) : s.Keeps (s'.partway c) ↔ s.Keeps s' := by
  simp [State.partway]

@[simp] theorem checked (c t : Nat) (fs : List (Bool × Nat)) {go : State → State} (hgo : ∀ u : State, u.Keeps (go u)) (hs : s.Keeps s') :
    s.Keeps (s'.checked c t fs go) := by
  unfold State.checked
  split
  · exact (fault c t _).2 hs
  · exact hs.trans (hgo s')

end State.Keeps

@[simp] theorem execLdw_holds (c : CoreId) (t : SlotId) (slice : Nat) (ups : List Upset) (ue : Bool) (late : List (Nat × Nat)) (s : State) : s.Holds (execLdw c t slice ups ue late s) := by
  rw [execLdw, State.holds_next]
  refine State.Keeps.issue c t _ (fun w u => ?_) (.refl s)
  simp only [State.Keeps.ite_iff, State.Keeps.refl, if_true_left]
  intro _
  split <;> simp

namespace State.Keeps

@[simp] theorem Strm_pass (m : Strm) (c v : Nat) : s.Keeps (Strm.pass m c v s').2.2 ↔ s.Keeps s' := by
  unfold Strm.pass
  dsimp only
  repeat' split
  all_goals simp

@[simp] theorem Strm_run (m : Strm) (c : Nat) (vs due : List Nat) : s.Keeps (m.run c vs due s').2.2 ↔ s.Keeps s' := by
  induction vs generalizing due s' with
  | nil => rfl
  | cons v vs ih =>
    have hpass := Strm_pass (s := s) (s' := s') m c v
    simp only [Strm.run]
    split
    · next h => rw [← hpass, h]
    · next h => rw [ih, ← hpass, h]

end State.Keeps

@[simp] theorem execStrm_holds (c : CoreId) (t : SlotId) (slice : Nat) (ups : List Upset) (ue : Bool) (late : List (Nat × Nat)) (s : State) : s.Holds (execStrm c t slice ups ue late s) := by
  rw [execStrm, State.holds_next]
  refine State.Keeps.issue c t _ (fun w u => ?_) (.refl s)
  refine State.Keeps.checked c t _ (fun v => ?_) (.refl u)
  dsimp only
  split <;> simp

@[simp] theorem execRqnt_holds (c : CoreId) (t : SlotId) (ev : UnitEvents) (s : State) : s.Holds (execRqnt c t ev s) := by
  rw [execRqnt, State.holds_next]
  refine State.Keeps.issue c t _ (fun w u => ?_) (.refl s)
  refine State.Keeps.checked c t _ (fun v => ?_) (.refl u)
  dsimp only
  rw [State.Keeps.occupy]
  split <;> simp

namespace State.Keeps

@[simp] theorem indexList (c a cap : Nat) : s.Keeps (s'.indexList c a cap).2 ↔ s.Keeps s' := by
  unfold State.indexList
  dsimp only
  repeat' split
  all_goals simp

@[simp] theorem scatAdd (c t n : Nat) (ev : UnitEvents) (w : Nat) (hs : s.Keeps s') : s.Keeps (s'.scatAdd c t n ev w) := by
  unfold State.scatAdd
  refine checked c t _ (fun u => ?_) hs
  split
  · next h =>
    have hu : u.Keeps _ := of_snd h (by simp)
    simp [hu]
  · next h =>
    have hu : u.Keeps _ := of_snd h (by simp)
    simp [hu]

end State.Keeps

@[simp] theorem execScatAdd32_holds (c : CoreId) (t : SlotId) (ev : UnitEvents) (s : State) : s.Holds (execScatAdd32 c t ev s) := by
  simp [execScatAdd32]

@[simp] theorem execScatAdd64_holds (c : CoreId) (t : SlotId) (ev : UnitEvents) (s : State) : s.Holds (execScatAdd64 c t ev s) := by
  simp [execScatAdd64]

@[simp] theorem execScatVadd_holds (c : CoreId) (t : SlotId) (ev : UnitEvents) (s : State) : s.Holds (execScatVadd c t ev s) := by
  rw [execScatVadd, State.holds_next]
  refine State.Keeps.issue c t _ (fun w u => ?_) (.refl s)
  refine State.Keeps.checked c t _ (fun v => ?_) (.refl u)
  split
  · next h =>
    have hv : v.Keeps _ := .of_snd h (by simp)
    simp [hv]
  · next h =>
    have hv : v.Keeps _ := .of_snd h (by simp)
    dsimp only
    split <;> simp [hv]

@[simp] theorem execScatLoad_holds (c : CoreId) (t : SlotId) (ev : UnitEvents) (s : State) : s.Holds (execScatLoad c t ev s) := by
  rw [execScatLoad, State.holds_next]
  refine State.Keeps.issue c t _ (fun w u => ?_) (.refl s)
  refine State.Keeps.checked c t _ (fun v => ?_) (.refl u)
  dsimp only
  refine State.Keeps.checked c t _ (fun x => ?_) (by simp)
  simp

@[simp] theorem execScatStore_holds (c : CoreId) (t : SlotId) (ev : UnitEvents) (s : State) : s.Holds (execScatStore c t ev s) := by
  simp [execScatStore]

namespace State.Keeps

@[simp] theorem setChan (i : Nat) (x : Chan) : s.Keeps (s'.setChan i x) ↔ s.Keeps s' := by
  simp [State.setChan]

@[simp] theorem mendLine (i ppn line : Nat) : s.Keeps (s'.mendLine i ppn line) ↔ s.Keeps s' := by
  simp [State.mendLine]

@[simp] theorem spoil (u : DdrUpset) : s.Keeps (s'.spoil u) ↔ s.Keeps s' := by
  simp [State.spoil]

@[simp] theorem countLines (i : Nat) (isWrite : Bool) (n : Nat) : s.Keeps (s'.countLines i isWrite n) ↔ s.Keeps s' := by
  simp [State.countLines]

@[simp] theorem countLine (i : Nat) (isWrite : Bool) : s.Keeps (s'.countLine i isWrite) ↔ s.Keeps s' := by
  simp [State.countLine]

@[simp] theorem ddrCe (i lane : Nat) : s.Keeps (s'.ddrCe i lane) ↔ s.Keeps s' := by
  simp [State.ddrCe]

@[simp] theorem ddrUe (i ppn line : Nat) : s.Keeps (s'.ddrUe i ppn line) ↔ s.Keeps s' := by
  simp [State.ddrUe]

@[simp] theorem meetLine (i ppn line : Nat) : s.Keeps (s'.meetLine i ppn line).2 ↔ s.Keeps s' := by
  unfold State.meetLine
  split <;> simp

@[simp] theorem findModule (ms : List (Option DdrModule)) (x : Nat × Option DdrModule) : s.Keeps (s'.findModule ms x) ↔ s.Keeps s' := by
  unfold State.findModule
  dsimp only
  repeat' split
  all_goals simp

@[simp] theorem findModules (dimms : List (Option DdrModule)) : s.Keeps (s'.findModules dimms) ↔ s.Keeps s' := by
  simp [State.findModules]

end State.Keeps

end Sys2Proof.Machine
end

section
/-! The map of device memory, fetches and the instructions of the core engines keep what stands protected. -/

namespace Sys2Proof.Machine

variable {s s' u : State}

namespace State.Keeps

@[simp] theorem setPage (p : Nat) (e : PageEnt) : s.Keeps (s'.setPage p e) ↔ s.Keeps s' := by
  simp [State.setPage]

theorem takePage {i p : Nat} (h : s'.takePage i = some (p, u)) : s.Keeps u ↔ s.Keeps s' := by
  unfold State.takePage at h
  dsimp only at h
  split at h
  · cases h
  · split at h
    · cases h
      simp
    · cases h

@[simp] theorem freePage (i p : Nat) : s.Keeps (s'.freePage i p) ↔ s.Keeps s' := by
  simp [State.freePage]

theorem takeFirst {is : List Nat} {i p : Nat} (h : State.takeFirst is s' = some (i, p, u)) : s.Keeps u ↔ s.Keeps s' := by
  induction is with
  | nil => cases h
  | cons j js ih =>
    simp only [State.takeFirst] at h
    split at h
    · next ht =>
      cases h
      exact takePage ht
    · exact ih h

@[simp] theorem tableLine (dla : Nat) (isWrite whole : Bool) : s.Keeps (s'.tableLine dla isWrite whole).2 ↔ s.Keeps s' := by
  unfold State.tableLine
  dsimp only
  repeat' split
  all_goals simp

@[simp] theorem writePageEntry (p : Nat) : s.Keeps (s'.writePageEntry p) ↔ s.Keeps s' := by
  simp [State.writePageEntry]

@[simp] theorem putPage (p : Nat) (e : PageEnt) : s.Keeps (s'.putPage p e) ↔ s.Keeps s' := by
  simp [State.putPage]

@[simp] theorem dropReplicaBit (p d : Nat) : s.Keeps (s'.dropReplicaBit p d) ↔ s.Keeps s' := by
  simp [State.dropReplicaBit]

@[simp] theorem dropPtb (p : Nat) : s.Keeps (s'.dropPtb p) ↔ s.Keeps s' := by
  simp [State.dropPtb]

@[simp] theorem retire (r : CopyRec) : s.Keeps (s'.retire r) ↔ s.Keeps s' := by
  simp [State.retire]

@[simp] theorem endRetire (r : CopyRec) : s.Keeps (s'.endRetire r) ↔ s.Keeps s' := by
  simp [State.endRetire]

theorem allocateN {n : Nat} {a : Agent} {p i q : Nat} (h : s'.allocateN a p n = some (i, q, u)) : s.Keeps u ↔ s.Keeps s' := by
  induction n generalizing s' with
  | zero => exact takeFirst h
  | succ n ih =>
    unfold State.allocateN at h
    split at h
    · next hx =>
      cases h
      exact takeFirst hx
    · split at h
      · exact (ih h).trans (endRetire ..)
      · split at h
        · exact (ih h).trans (retire ..)
        · cases h

theorem allocate {a : Agent} {p i q : Nat} (h : s'.allocate a p = some (i, q, u)) : s.Keeps u ↔ s.Keeps s' := allocateN h

@[simp] theorem startRetire (r : CopyRec) : s.Keeps (s'.startRetire r) ↔ s.Keeps s' := by
  simp [State.startRetire]

@[simp] theorem meetReserve (n : Nat) : s.Keeps (State.meetReserve n s') ↔ s.Keeps s' := by
  induction n generalizing s' with
  | zero => rfl
  | succ n ih =>
    unfold State.meetReserve
    split
    · rfl
    · split <;> simp [ih]

@[simp] theorem cacheUe (u : CacheUpset) (cache src set : Nat) : s.Keeps (s'.cacheUe u cache src set) ↔ s.Keeps s' := by
  simp [State.cacheUe]

@[simp] theorem fresh_ (u : CacheUpset) : s.Keeps (s'.fresh_ u) ↔ s.Keeps s' := by
  simp [State.fresh_]

@[simp] theorem loseEntry (p : Nat) : s.Keeps (s'.loseEntry p) ↔ s.Keeps s' := by
  simp [State.loseEntry]

@[simp] theorem readEntry (p : Nat) : s.Keeps (s'.readEntry p) ↔ s.Keeps s' := by
  unfold State.readEntry
  dsimp only
  split <;> simp

@[simp] theorem mapDiscard (p : Nat) : s.Keeps (s'.mapDiscard p) ↔ s.Keeps s' := by
  simp [State.mapDiscard]

@[simp] theorem mapFetch (p : Nat) : s.Keeps (s'.mapFetch p) ↔ s.Keeps s' := by
  simp [State.mapFetch]

@[simp] theorem hubLookup (p : Nat) : s.Keeps (s'.hubLookup p) ↔ s.Keeps s' := by
  simp [State.hubLookup]

@[simp] theorem ptbDiscard (d p : Nat) : s.Keeps (s'.ptbDiscard d p) ↔ s.Keeps s' := by
  unfold State.ptbDiscard
  split <;> simp

@[simp] theorem ptbFresh (d p : Nat) : s.Keeps (s'.ptbFresh d p) ↔ s.Keeps s' := by
  simp [State.ptbFresh]

@[simp] theorem ptbLookup (d p : Nat) : s.Keeps (s'.ptbLookup d p) ↔ s.Keeps s' := by
  simp [State.ptbLookup]

@[simp] theorem translate (a : Agent) (p : Nat) (isWrite : Bool) : s.Keeps (s'.translate a p isWrite) ↔ s.Keeps s' := by
  unfold State.translate
  split <;> simp

@[simp] theorem noteWrite (p : Nat) : s.Keeps (s'.noteWrite p) ↔ s.Keeps s' := by
  simp [State.noteWrite]

@[simp] theorem landCopy (i ppn line : Nat) (whole home : Bool) : s.Keeps (s'.landCopy i ppn line whole home).2 ↔ s.Keeps s' := by
  unfold State.landCopy
  dsimp only
  split <;> simp

@[simp] theorem landLine (dla : Nat) (bs : List Byte) (poison : Bool) (hs : s.Keeps s') : s.Keeps (s'.landLine dla bs poison) := by
  unfold State.landLine
  dsimp only
  rw [noteWrite]
  refine write_mem ?_ (Plm.put_wf _ _ _ _)
  simp [hs]

@[simp] theorem writeLine (a : Agent) (dla : Nat) (bs : List Byte) (poison : Bool) (hs : s.Keeps s') : s.Keeps (s'.writeLine a dla bs poison) := by
  have ht : s.Keeps (s'.translate a (pageOf dla) true) := (translate ..).2 hs
  unfold State.writeLine
  dsimp only
  split
  · exact landLine _ _ _ ht
  · exact landLine _ _ _ ht
  · split
    · next h =>
      rw [meetReserve]
      refine landLine _ _ _ ((putPage ..).2 (write_mem ((allocate h).2 ht) (Plm.erasePage_wf _ _)))
    · simp [ht]
  · split
    · next h =>
      rw [meetReserve]
      refine landLine _ _ _ ((putPage ..).2 (write_mem ((allocate h).2 ht) fun hw => ?_))
      rw [Plm.poisonPage_mem]
      exact Plm.erasePage_wf _ _ hw
    · simp [ht]

@[simp] theorem readLine (a : Agent) (dla n : Nat) (again : Bool) : s.Keeps (s'.readLine a dla n again).2.2 ↔ s.Keeps s' := by
  unfold State.readLine
  dsimp only
  repeat' split
  all_goals simp

@[simp] theorem devWrite (a : Agent) (dla : Nat) (bs : List Byte) (hs : s.Keeps s') : s.Keeps (s'.devWrite a dla bs) := by
  simp [State.devWrite, hs]

@[simp] theorem devRead (a : Agent) (dla n : Nat) : s.Keeps (s'.devRead a dla n).2.2 ↔ s.Keeps s' := by
  unfold State.devRead
  exact foldl_of_iff (fun r : List Byte × Bool × State => r.2.2) fun s r c => readLine a c.1 c.2 false

@[simp] theorem markedRead (a : Agent) (dla n : Nat) (again : Bool) : s.Keeps (s'.markedRead a dla n again).2 ↔ s.Keeps s' := by
  unfold State.markedRead
  exact foldl_of_iff Prod.snd fun s r c => readLine a c.1 c.2 again

@[simp] theorem snoop (line : Nat) (inv : Bool) : s.Keeps (s'.snoop line inv) ↔ s.Keeps s' := by
  simp [State.snoop]

@[simp] theorem snoopInv (ls : List Nat) : s.Keeps (s'.snoopInv ls) ↔ s.Keeps s' := by
  simp [State.snoopInv]

@[simp] theorem clearSet (set : Nat) : s.Keeps (s'.clearSet set) ↔ s.Keeps s' := by
  simp [State.clearSet]

@[simp] theorem filterLookup (line : Nat) : s.Keeps (s'.filterLookup line) ↔ s.Keeps s' := by
  simp [State.filterLookup]

@[simp] theorem ownWriteLine (src dla : Nat) (bs : List Byte) (poison : Bool) (hs : s.Keeps s') : s.Keeps (s'.ownWriteLine src dla bs poison) := by
  simp [State.ownWriteLine, hs]

@[simp] theorem ownWrite (src dla : Nat) (bs : List Byte) (hs : s.Keeps s') : s.Keeps (s'.ownWrite src dla bs) := by
  simp [State.ownWrite, hs]

@[simp] theorem snoopData (ls : List Nat) : s.Keeps (s'.snoopData ls) ↔ s.Keeps s' := by
  simp [State.snoopData]

@[simp] theorem fetchWord (c t win : Nat) (x : Option Fetch × Fetch) : s.Keeps (s'.fetchWord c t win x) ↔ s.Keeps s' := by
  simp [State.fetchWord]

@[simp] theorem fetchAll (c t win w : Nat) (fs : List Fetch) : s.Keeps (s'.fetchAll c t win w fs) ↔ s.Keeps s' := by
  unfold State.fetchAll
  dsimp only
  repeat' split
  all_goals simp

end State.Keeps

@[simp] theorem execFill_holds (c : CoreId) (t : SlotId) (ev : UnitEvents) (s : State) : s.Holds (execFill c t ev s) := by
  rw [execFill, State.holds_next]
  refine State.Keeps.issue c t _ (fun w u => ?_) (.refl s)
  dsimp only
  split <;> simp

namespace State.Keeps

@[simp] theorem writeReads (c a : Nat) (rs : List SpdRead) : s.Keeps (s'.writeReads c a rs) ↔ s.Keeps s' := by
  simp [State.writeReads]

end State.Keeps

@[simp] theorem execCopyLocal_holds (c : CoreId) (t : SlotId) (ev : UnitEvents) (s : State) : s.Holds (execCopyLocal c t ev s) := by
  rw [execCopyLocal, State.holds_next]
  refine State.Keeps.issue c t _ (fun w u => ?_) (.refl s)
  dsimp only
  split <;> simp

@[simp] theorem execCopyWindow_holds (c : CoreId) (t : SlotId) (s : State) : s.Holds (execCopyWindow c t s) := by
  rw [execCopyWindow, State.holds_next]
  refine State.Keeps.issue c t _ (fun w u => ?_) (.refl s)
  dsimp only
  split <;> simp

namespace State.Keeps

theorem sendWord {c t win off : Nat} {r : SpdRead} (h : s'.sendWord c t win off r = some u) (hs : s.Keeps s') : s.Keeps u := by
  unfold State.sendWord at h
  dsimp only at h
  split at h
  · cases h
  · split at h
    · cases h
      exact hs
    · split at h
      · split at h
        · cases h
          exact ownWriteLine _ _ _ _ hs
        · cases h
      · cases h
        simpa using hs

theorem sendLine {c t win off : Nat} {r q : SpdRead} (h : s'.sendLine c t win off r q = some u) (hs : s.Keeps s') : s.Keeps u := by
  unfold State.sendLine at h
  dsimp only at h
  split at h
  · split at h
    · cases h
    · split at h
      · cases h
        exact hs
      · cases h
        exact ownWriteLine _ _ _ _ hs
  · cases h

@[simp] theorem sendAll (c t win off : Nat) (rs : List SpdRead) (hs : s.Keeps s') : s.Keeps (s'.sendAll c t win off rs).2 := by
  induction off, rs, s' using State.sendAll.induct c t win with
  | case1 => simpa [State.sendAll] using hs
  | case2 _ _ _ h => simpa [State.sendAll, h] using hs
  | case3 _ _ _ _ h => simpa [State.sendAll, h] using sendWord h hs
  | case4 _ _ _ _ _ _ h ih => simpa [State.sendAll, h] using ih (sendLine h hs)
  | case5 _ _ _ _ _ hl hw => simpa [State.sendAll, hl, hw] using hs
  | case6 _ _ _ _ _ hl _ hw ih => simpa [State.sendAll, hl, hw] using ih (sendWord hw hs)

end State.Keeps

@[simp] theorem execSend_holds (c : CoreId) (t : SlotId) (s : State) : s.Holds (execSend c t s) := by
  rw [execSend, State.holds_next]
  refine State.Keeps.issue c t _ (fun w u => ?_) (.refl s)
  dsimp only
  split
  · simp
  · split
    · exact .refl u
    · have hread := fun a n => (State.Keeps.spdReads (s := u) (s' := u) c ((List.range n).map (a + ·))).2 (.refl u)
      split
      · next h => simp [State.Keeps.of_snd h (State.Keeps.sendAll c t _ _ _ ((State.Keeps.modCore ..).2 (hread _ _)))]
      · next h => simp [State.Keeps.of_snd h (State.Keeps.sendAll c t _ _ _ ((State.Keeps.modCore ..).2 (hread _ _)))]

namespace State.Keeps

@[simp] theorem gather (c t w dest : Nat) (bad : Bool) (fetch : Nat → List Nat → List Fetch) (clear zero : Nat → List Nat → List Nat)
    (hs : s.Keeps s') : s.Keeps (s'.gather c t w dest bad fetch clear zero) := by
  unfold State.gather
  refine checked c t _ (fun u => ?_) hs
  split
  · next h => simp [of_snd h ((indexList ..).2 (refl u))]
  · next h =>
    have hu := of_snd h ((indexList ..).2 (refl u))
    dsimp only
    split
    · exact refl u
    · split <;> simp [hu]

end State.Keeps

@[simp] theorem execGathRow_holds (c : CoreId) (t : SlotId) (s : State) : s.Holds (execGathRow c t s) := by
  simp [execGathRow]

@[simp] theorem execGathLane_holds (c : CoreId) (t : SlotId) (s : State) : s.Holds (execGathLane c t s) := by
  simp [execGathLane]

namespace State.Keeps

@[simp] theorem pack (c t w : Nat) (signed : Bool) (ev : UnitEvents) (hs : s.Keeps s') : s.Keeps (s'.pack c t w signed ev) := by
  simp [State.pack, hs]

end State.Keeps

@[simp] theorem execGathPack_holds (c : CoreId) (t : SlotId) (ev : UnitEvents) (s : State) : s.Holds (execGathPack c t ev s) := by
  simp [execGathPack]

@[simp] theorem execGathPacku_holds (c : CoreId) (t : SlotId) (ev : UnitEvents) (s : State) : s.Holds (execGathPacku c t ev s) := by
  simp [execGathPacku]

@[simp] theorem execCfgXset_holds (c : CoreId) (t : SlotId) (s : State) : s.Holds (execCfgXset c t s) := by
  simp [execCfgXset]

@[simp] theorem execCfgXadd_holds (c : CoreId) (t : SlotId) (s : State) : s.Holds (execCfgXadd c t s) := by
  simp [execCfgXadd]

@[simp] theorem execCfgXmad_holds (c : CoreId) (t : SlotId) (s : State) : s.Holds (execCfgXmad c t s) := by
  simp [execCfgXmad]

@[simp] theorem execCfgSetl_holds (c : CoreId) (t : SlotId) (s : State) : s.Holds (execCfgSetl c t s) := by
  simp [execCfgSetl]

@[simp] theorem execCfgSetstr_holds (c : CoreId) (t : SlotId) (s : State) : s.Holds (execCfgSetstr c t s) := by
  simp [execCfgSetstr]

@[simp] theorem execCfgSbarm_holds (c : CoreId) (t : SlotId) (s : State) : s.Holds (execCfgSbarm c t s) := by
  rw [execCfgSbarm, State.holds_next]
  refine State.Keeps.issue c t _ (fun w u => ?_) (.refl s)
  split <;> simp

@[simp] theorem execCfgLdrq_holds (c : CoreId) (t : SlotId) (ev : UnitEvents) (s : State) : s.Holds (execCfgLdrq c t ev s) := by
  rw [execCfgLdrq, State.holds_next]
  refine State.Keeps.issue c t _ (fun w u => ?_) (.refl s)
  dsimp only
  split <;> simp

@[simp] theorem execCfgSetparam_holds (c : CoreId) (t : SlotId) (s : State) : s.Holds (execCfgSetparam c t s) := by
  rw [execCfgSetparam, State.holds_next]
  refine State.Keeps.issue c t _ (fun w u => ?_) (.refl s)
  split <;> simp

@[simp] theorem execLoop_holds (c : CoreId) (t : SlotId) (s : State) : s.Holds (execLoop c t s) := by
  rw [execLoop, State.holds_next]
  refine State.Keeps.issue c t _ (fun w u => ?_) (.refl s)
  dsimp only
  split <;> simp

@[simp] theorem execBr_holds (c : CoreId) (t : SlotId) (s : State) : s.Holds (execBr c t s) := by
  rw [execBr, State.holds_next]
  refine State.Keeps.issue c t _ (fun w u => ?_) (.refl s)
  dsimp only
  split <;> simp

namespace State.Keeps

@[simp] theorem variantRestart (c t : Nat) : s.Keeps (s'.variantRestart c t) ↔ s.Keeps s' := by
  unfold State.variantRestart
  dsimp only
  split <;> simp

end State.Keeps

@[simp] theorem execHalt_holds (c : CoreId) (t : SlotId) (s : State) : s.Holds (execHalt c t s) := by
  simp [execHalt]

@[simp] theorem execAsyncComplete_holds (c : CoreId) (u : UnitName) (s : State) : s.Holds (execAsyncComplete c u s) := by
  unfold execAsyncComplete
  split <;> simp

@[simp] theorem execBlockingInstructionComplete_holds (c : CoreId) (u : UnitName) (s : State) : s.Holds (execBlockingInstructionComplete c u s) := by
  unfold execBlockingInstructionComplete
  split <;> simp

@[simp] theorem execFreezeEnd_holds (c : CoreId) (s : State) : s.Holds (execFreezeEnd c s) := by
  simp [execFreezeEnd]

@[simp] theorem execWait_holds (c : CoreId) (t : SlotId) (s : State) : s.Holds (execWait c t s) := by
  simp [execWait]

@[simp] theorem execWaitRelease_holds (c : CoreId) (t : SlotId) (s : State) : s.Holds (execWaitRelease c t s) := by
  unfold execWaitRelease
  split <;> simp

@[simp] theorem execWaitTimeout_holds (c : CoreId) (t : SlotId) (s : State) : s.Holds (execWaitTimeout c t s) := by
  rw [execWaitTimeout, State.holds_next]
  split
  · split <;> simp
  · simp

@[simp] theorem execSig_holds (c : CoreId) (t : SlotId) (s : State) : s.Holds (execSig c t s) := by
  simp [execSig]

@[simp] theorem execSigRemoteDelivery_holds (src : CoreId) (t : SlotId) (dest : CoreId) (s : State) : s.Holds (execSigRemoteDelivery src t dest s) := by
  unfold execSigRemoteDelivery
  split <;> simp

@[simp] theorem execTsStart_holds (c : CoreId) (t : SlotId) (r : SlotRanges) (s : State) : s.Holds (execTsStart c t r s) := by
  simp [execTsStart]

namespace State.Keeps

@[simp] theorem stopSlot (c t : Nat) (restart : Bool) : s.Keeps (s'.stopSlot c t restart) ↔ s.Keeps s' := by
  simp [State.stopSlot]

@[simp] theorem tsStop (c t : Nat) : s.Keeps (s'.tsStop c t) ↔ s.Keeps s' := by
  simp [State.tsStop]

end State.Keeps

@[simp] theorem execTsStop_holds (c : CoreId) (t : SlotId) (s : State) : s.Holds (execTsStop c t s) := by
  simp [execTsStop]

@[simp] theorem execSlotRestart_holds (c : CoreId) (t : SlotId) (s : State) : s.Holds (execSlotRestart c t s) := by
  simp [execSlotRestart]

@[simp] theorem execClockGateIdle_holds (c : CoreId) (s : State) : s.Holds (execClockGateIdle c s) := by
  simp [execClockGateIdle]

@[simp] theorem execHbeatAdvance_holds (c : CoreId) (checksPass : Bool) (ue : Bool) (s : State) : s.Holds (execHbeatAdvance c checksPass ue s) := by
  simp [execHbeatAdvance]

namespace State.Keeps

@[simp] theorem reject (src slot num target : Nat) : s.Keeps (s'.reject src slot num target) ↔ s.Keeps s' := by
  unfold State.reject
  dsimp only
  split <;> simp

@[simp] theorem unpowered (src : Nat) : s.Keeps (s'.unpowered src) ↔ s.Keeps s' := by
  simp [State.unpowered]

@[simp] theorem arrive (src slot target : Nat) (a : Arrival) (stuck : Bool) : s.Keeps (s'.arrive src slot target a stuck) ↔ s.Keeps s' := by
  unfold State.arrive
  split <;> simp

end State.Keeps

@[simp] theorem execSpdRemoteWrite_holds (src : CoreId) (t : SlotId) (target : CoreId) (stuck : Bool) (s : State) : s.Holds
    (execSpdRemoteWrite src t target stuck s) := by
  unfold execSpdRemoteWrite
  split <;> simp

@[simp] theorem execSpdRemoteRead_holds (src : CoreId) (t : SlotId) (target : CoreId) (ups : List Upset) (stuck : Bool) (s : State) : s.Holds
    (execSpdRemoteRead src t target ups stuck s) := by
  unfold execSpdRemoteRead
  split <;> simp

@[simp] theorem execSpdPatrolScrub_holds (c : CoreId) (b : BankId) (upset : Nat) (s : State) : s.Holds (execSpdPatrolScrub c b upset s) := by
  simp [execSpdPatrolScrub]

@[simp] theorem execSpdBankReqWrite_holds (c : CoreId) (on : BitVec 16) (s : State) : s.Holds (execSpdBankReqWrite c on s) := by
  simp [execSpdBankReqWrite]

@[simp] theorem execBankWakeStart_holds (c : CoreId) (b : BankId) (s : State) : s.Holds (execBankWakeStart c b s) := by
  simp [execBankWakeStart]

@[simp] theorem execBankWakeDone_holds (c : CoreId) (b : BankId) (s : State) : s.Holds (execBankWakeDone c b s) := by
  simp [execBankWakeDone]

namespace State.Keeps

@[simp] theorem logicCheck (c : Nat) : s.Keeps (s'.logicCheck c) ↔ s.Keeps s' := by
  simp [State.logicCheck]

end State.Keeps

@[simp] theorem execBankDrainDone_holds (c : CoreId) (b : BankId) (s : State) : s.Holds (execBankDrainDone c b s) := by
  simp [execBankDrainDone]

namespace State.Keeps

@[simp] theorem forcedAnswer (c : Nat) (q : QReq) : s.Keeps (s'.forcedAnswer c q) ↔ s.Keeps s' := by
  unfold State.forcedAnswer
  split <;> simp

@[simp] theorem poisonMove (c : Nat) (b : Busy) (d : MoveDst) (hs : s.Keeps s') : s.Keeps (s'.poisonMove c b d) := by
  unfold State.poisonMove
  split <;> simp [hs]

@[simp] theorem forcedRead (c b : Nat) (r : UnitName × Nat) (hs : s.Keeps s') : s.Keeps (s'.forcedRead c b r) := by
  unfold State.forcedRead
  split <;> simp [hs]

@[simp] theorem forcedWrite (c : Nat) (w : Nat) : s.Keeps (s'.forcedWrite c w) ↔ s.Keeps s' := by
  simp [State.forcedWrite]

end State.Keeps

@[simp] theorem execSpdForcedOff_holds (c : CoreId) (b : BankId) (reads : List (UnitName × Nat)) (writes : List Nat) (s : State) : s.Holds
    (execSpdForcedOff c b reads writes s) := by
  simp [execSpdForcedOff]

namespace State.Keeps

@[simp] theorem preload (c : Nat) (p : PartRec) : s.Keeps (s'.preload c p) ↔ s.Keeps s' := by
  simp [State.preload]

@[simp] theorem fillData (c : Nat) (q : CoreRecs) (pre : List PartRec) : s.Keeps (s'.fillData c q pre) ↔ s.Keeps s' := by
  simp [State.fillData]

@[simp] theorem writeCore (st : Stream) (r : ClassRec) (c : Nat) : s.Keeps (s'.writeCore st r c) ↔ s.Keeps s' := by
  simp [State.writeCore]

@[simp] theorem requestBanks (st : Stream) (r : ClassRec) (c : Nat) : s.Keeps (s'.requestBanks st r c) ↔ s.Keeps s' := by
  simp [State.requestBanks]

@[simp] theorem startProgram (st : Stream) (p : ProgRec) (ctr c : Nat) : s.Keeps (s'.startProgram st p ctr c) ↔ s.Keeps s' := by
  simp [State.startProgram]

@[simp] theorem modStep (n : Nat) (f : EStep → EStep) : s.Keeps (s'.modStep n f) ↔ s.Keeps s' := by
  simp [State.modStep]

end State.Keeps

end Sys2Proof.Machine
end

section
/-! Tiles, leases, fencing and Estuary keep what stands protected. -/

namespace Sys2Proof.Machine

variable {s s' u : State}

namespace State.Keeps

@[simp] theorem auxPlace (l : LayerRec) : s.Keeps (s'.auxPlace l).2 ↔ s.Keeps s' := by
  simp [State.auxPlace]

@[simp] theorem placeSplits (l : LayerRec) (xs : List SplitTile) : s.Keeps (s'.placeSplits l xs).2 ↔ s.Keeps s' := by
  unfold State.placeSplits
  refine foldl_of_iff Prod.snd fun s r x => ?_
  split <;> simp

@[simp] theorem layShares (d : Nat) (census : List SkewCensus) (xs : List SplitTile) (hs : s.Keeps s') : s.Keeps (s'.layShares d census xs) := by
  unfold State.layShares
  refine foldl (fun u x => ?_) hs
  split
  · split <;> simp
  · exact refl u

@[simp] theorem drainCheck (d n : Nat) : s.Keeps (s'.drainCheck d n) ↔ s.Keeps s' := by
  simp [State.drainCheck]

@[simp] theorem failPosting (d n : Nat) : s.Keeps (s'.failPosting d n) ↔ s.Keeps s' := by
  simp [State.failPosting]

@[simp] theorem openPosting (d : Nat) (e : EStep) (st : Stream) (l : LayerRec) (r : ClassRec) (b : BucketRec) (census : List SkewCensus)
    (writer : Option Nat) (hs : s.Keeps s') : s.Keeps (s'.openPosting d e st l r b census writer) := by
  unfold State.openPosting
  dsimp only
  repeat' split
  all_goals simp [hs]

@[simp] theorem addSplits (d n : Nat) : s.Keeps (s'.addSplits d n) ↔ s.Keeps s' := by
  simp [State.addSplits]

end State.Keeps

@[simp] theorem execPostingOpen_holds (d : DieId) (step : Nat) (layer : Nat) (census : List SkewCensus) (halo : List (Nat × Nat))
    (writer : Option Nat) (s : State) : s.Holds (execPostingOpen d step layer census halo writer s) := by
  unfold execPostingOpen
  dsimp only
  repeat' split
  all_goals simp

@[simp] theorem execAffwaitExpiry_holds (d : DieId) (ctr : Nat) (s : State) : s.Holds (execAffwaitExpiry d ctr s) := by
  simp [execAffwaitExpiry]

@[simp] theorem execRetryAvailable_holds (d : DieId) (s : State) : s.Holds (execRetryAvailable d s) := by
  simp [execRetryAvailable]

@[simp] theorem execTake_holds (c : CoreId) (t : SlotId) (s : State) : s.Holds (execTake c t s) := by
  simp [execTake]

namespace State.Keeps

@[simp] theorem handOut (c t n : Nat) (q : Counter) (tile retry : Nat) (entry : Option Retry) : s.Keeps (s'.handOut c t n q tile retry entry) ↔
    s.Keeps s' := by
  simp [State.handOut]

end State.Keeps

@[simp] theorem execTakeServe_holds (c : CoreId) (t : SlotId) (s : State) : s.Holds (execTakeServe c t s) := by
  unfold execTakeServe
  dsimp only
  repeat' split
  all_goals simp

@[simp] theorem execDone_holds (c : CoreId) (t : SlotId) (s : State) : s.Holds (execDone c t s) := by
  rw [execDone, State.holds_next]
  refine State.Keeps.issue c t _ (fun w u => ?_) (.refl s)
  dsimp only
  split <;> simp

namespace State.Keeps

@[simp] theorem commitTile (c t n tile : Nat) (gen : W32) (sat : Nat) : s.Keeps (s'.commitTile c t n tile gen sat) ↔ s.Keeps s' := by
  simp [State.commitTile]

end State.Keeps

@[simp] theorem execLeaseCommit_holds (c : CoreId) (t : SlotId) (pairOk : Bool) (upsets : List LeaseUpset) (s : State) : s.Holds
    (execLeaseCommit c t pairOk upsets s) := by
  unfold execLeaseCommit
  split <;> simp

@[simp] theorem execDoneComplete_holds (c : CoreId) (t : SlotId) (s : State) : s.Holds (execDoneComplete c t s) := by
  unfold execDoneComplete
  split <;> simp

@[simp] theorem execLeaseExpired_holds (d : DieId) (e : Nat) (upsets : List LeaseUpset) (s : State) : s.Holds (execLeaseExpired d e upsets s) := by
  simp [execLeaseExpired]

namespace State.Keeps

@[simp] theorem dropReads (c : Nat) : s.Keeps (s'.dropReads c) ↔ s.Keeps s' := by
  simp [State.dropReads]

@[simp] theorem resetLost (c : Nat) : s.Keeps (s'.resetLost c) ↔ s.Keeps s' := by
  unfold State.resetLost
  dsimp only
  split
  · refine (foldl_iff fun s u x => ?_).trans ((foldl_iff fun s u x => ?_).trans ?_)
    · split <;> simp
    · split <;> simp
    · simp
  · simp only [write, draw]
    refine (foldl_iff fun s u x => ?_).trans ((foldl_iff fun s u x => ?_).trans ?_)
    · split <;> simp
    · split <;> simp
    · simp

@[simp] theorem clearCe2 (c : Nat) : s.Keeps (s'.clearCe2 c) ↔ s.Keeps s' := by
  simp [State.clearCe2]

@[simp] theorem revokeCore (c : Nat) : s.Keeps (s'.revokeCore c) ↔ s.Keeps s' := by
  simp [State.revokeCore]

@[simp] theorem coreReset (c : Nat) (hs : s.Keeps s') : s.Keeps (s'.coreReset c) := by
  simp [State.coreReset, hs]

end State.Keeps

@[simp] theorem execHeartbeatTimeout_holds (c : CoreId) (s : State) : s.Holds (execHeartbeatTimeout c s) := by
  simp [execHeartbeatTimeout]

@[simp] theorem execCe2WindowEnd_holds (s : State) : s.Holds (execCe2WindowEnd s) := by
  simp [execCe2WindowEnd]

namespace State.Keeps

@[simp] theorem classShort (h : Nat) (r : ClassRec) (before now : Nat) : s.Keeps (s'.classShort h r before now) ↔ s.Keeps s' := by
  simp [State.classShort]

@[simp] theorem fenceOne (d seq cause c : Nat) : s.Keeps (s'.fenceOne d seq cause c) ↔ s.Keeps s' := by
  simp [State.fenceOne]

end State.Keeps

@[simp] theorem execFenceEvent_holds (d : DieId) (toHub : Bool) (pairOk : Bool) (s : State) : s.Holds (execFenceEvent d toHub pairOk s) := by
  unfold execFenceEvent
  split <;> simp

@[simp] theorem execFenceResend_holds (d : DieId) (s : State) : s.Holds (execFenceResend d s) := by
  simp [execFenceResend]

namespace State.Keeps

@[simp] theorem retargetAll (c : Nat) (joiner : Option Nat) : s.Keeps (s'.retargetAll c joiner) ↔ s.Keeps s' := by
  unfold State.retargetAll
  split <;> simp

@[simp] theorem joinPostings (c : Nat) (hs : s.Keeps s') : s.Keeps (s'.joinPostings c) := by
  unfold State.joinPostings
  split
  · exact hs
  · refine foldl (fun u x => ?_) hs
    split
    · split <;> simp
    · exact refl u

@[simp] theorem join (k : Nat) (hs : s.Keeps s') : s.Keeps (s'.join k) := by
  unfold State.join
  dsimp only
  split <;> simp [hs]

end State.Keeps

@[simp] theorem execFenceAck_holds (d : DieId) (fromHub : Bool) (pairOk : Bool) (s : State) : s.Holds (execFenceAck d fromHub pairOk s) := by
  rw [execFenceAck, State.holds_next]
  split
  · exact .refl s
  · split
    · simp
    · dsimp only
      split
      · simp
      · refine State.Keeps.foldl (fun u c => ?_) (by simp)
        split <;> simp

@[simp] theorem execJoinComplete_holds (c : CoreId) (s : State) : s.Holds (execJoinComplete c s) := by
  unfold execJoinComplete
  dsimp only
  repeat' split
  all_goals simp

@[simp] theorem execFenceRelease_holds (d : DieId) (ns : Nat) (s : State) : s.Holds (execFenceRelease d ns s) := by
  simp [execFenceRelease]

@[simp] theorem execSelftestDone_holds (c : CoreId) (pass : Bool) (pairOk : Bool) (s : State) : s.Holds (execSelftestDone c pass pairOk s) := by
  simp [execSelftestDone]

namespace State.Keeps

@[simp] theorem modEnt (n : Nat) (f : StreamEnt → StreamEnt) : s.Keeps (s'.modEnt n f) ↔ s.Keeps s' := by
  simp [State.modEnt]

@[simp] theorem writeEnt (n : Nat) : s.Keeps (s'.writeEnt n) ↔ s.Keeps s' := by
  simp [State.writeEnt]

@[simp] theorem modStat (f : EstStat → EstStat) : s.Keeps (s'.modStat f) ↔ s.Keeps s' := by
  simp [State.modStat]

@[simp] theorem setSeq (r : SlotRef) (q : W32) : s.Keeps (s'.setSeq r q) ↔ s.Keeps s' := by
  unfold State.setSeq
  split <;> simp

@[simp] theorem hostWrite (addr : Nat) (bs : List Byte) : s.Keeps (s'.hostWrite addr bs) ↔ s.Keeps s' := by
  simp [State.hostWrite]

@[simp] theorem drainCqs (fuel : Nat) (hs : s.Keeps s') : s.Keeps (State.drainCqs fuel s') := by
  induction fuel generalizing s' with
  | zero => exact hs
  | succ fuel ih =>
    unfold State.drainCqs
    split
    · exact hs
    · exact iteInduction (motive := fun u => s.Keeps u) (fun _ => hs) fun _ => ih (by simp [hs])

@[simp] theorem drainCq (hs : s.Keeps s') : s.Keeps s'.drainCq := by
  simp [State.drainCq, hs]

@[simp] theorem answer (a : Ans) (hs : s.Keeps s') : s.Keeps (s'.answer a) := by
  simp [State.answer, hs]

@[simp] theorem touch (r : SlotRef) : s.Keeps (s'.touch r) ↔ s.Keeps s' := by
  unfold State.touch
  split <;> simp

@[simp] theorem goLive (e : Exam) : s.Keeps (s'.goLive e) ↔ s.Keeps s' := by
  unfold State.goLive
  split <;> simp

@[simp] theorem examineLive (r : SlotRef) (want : List Byte → Bool) {go : Exam → State → State} (hgo : ∀ e (u : State), u.Keeps (go e u))
    (hs : s.Keeps s') : s.Keeps (s'.examineLive r want go) := by
  unfold State.examineLive
  split
  · exact hs
  · split
    · exact hs
    · split
      · simpa using hs
      · split
        · exact State.Keeps.trans (by simpa using hs) (hgo _ _)
        · exact hs

end State.Keeps

@[simp] theorem execIntakeStaleWrite_holds (slot : SlotRef) (s : State) : s.Holds (execIntakeStaleWrite slot s) := by
  unfold execIntakeStaleWrite
  dsimp only
  repeat' split
  all_goals simp

@[simp] theorem execTornTimeout_holds (slot : SlotRef) (s : State) : s.Holds (execTornTimeout slot s) := by
  unfold execTornTimeout
  split <;> simp

namespace State.Keeps

@[simp] theorem bring (n : Nat) : s.Keeps (s'.bring n) ↔ s.Keeps s' := by
  simp [State.bring]

end State.Keeps

@[simp] theorem execStreamTableFill_holds (n : Nat) (s : State) : s.Holds (execStreamTableFill n s) := by
  simp [execStreamTableFill]

@[simp] theorem execEstEnable_holds (v : W32) (s : State) : s.Holds (execEstEnable v s) := by
  simp only [execEstEnable, State.holds_next, State.Keeps.ite_iff]
  simp [Plm.setIntake]

namespace State.Keeps

@[simp] theorem initTable (n : Nat) : s.Keeps (s'.initTable n) ↔ s.Keeps s' := by
  simp [State.initTable]

end State.Keeps

@[simp] theorem execEstInitDone_holds (s : State) : s.Holds (execEstInitDone s) := by
  simp [execEstInitDone]

namespace State.Keeps

@[simp] theorem closeStreams : s.Keeps s'.closeStreams ↔ s.Keeps s' := by
  simp [State.closeStreams]

end State.Keeps

@[simp] theorem execEstDisable_holds (v : W32) (s : State) : s.Holds (execEstDisable v s) := by
  simp only [execEstDisable, State.holds_next, State.Keeps.ite_iff]
  simp [Plm.setIntake]

@[simp] theorem execEstWindowRegWrite_holds (offset : Nat) (v : W32) (s : State) : s.Holds (execEstWindowRegWrite offset v s) := by
  simp [execEstWindowRegWrite]

namespace State.Keeps

@[simp] theorem refuse (n : Nat) (e : Exam) (why : Nat) (hs : s.Keeps s') : s.Keeps (s'.refuse n e why) := by
  simp [State.refuse, hs]

end State.Keeps

@[simp] theorem execStreamOpen_holds (n : Nat) (s : State) : s.Holds (execStreamOpen n s) := by
  rw [execStreamOpen, State.holds_next]
  refine State.Keeps.examineLive _ _ (fun e u => ?_) (.refl s)
  dsimp only
  repeat' split
  all_goals simp

namespace State.Keeps

@[simp] theorem admitStream (n : Nat) (hs : s.Keeps s') : s.Keeps (s'.admitStream n) := by
  simp [State.admitStream, hs]

@[simp] theorem endRequest (n answer reason : Nat) (hs : s.Keeps s') : s.Keeps (s'.endRequest n answer reason) := by
  simp [State.endRequest, hs]

end State.Keeps

@[simp] theorem execStreamSubmit_holds (n : Nat) (s : State) : s.Holds (execStreamSubmit n s) := by
  rw [execStreamSubmit, State.holds_next]
  refine State.Keeps.examineLive _ _ (fun e u => ?_) (.refl s)
  dsimp only
  repeat' split
  all_goals simp

@[simp] theorem execStreamClose_holds (n : Nat) (s : State) : s.Holds (execStreamClose n s) := by
  rw [execStreamClose, State.holds_next]
  refine State.Keeps.examineLive _ _ (fun e u => ?_) (.refl s)
  dsimp only
  repeat' split
  all_goals simp

@[simp] theorem execDeferTimeout_holds (n : Nat) (s : State) : s.Holds (execDeferTimeout n s) := by
  simp [execDeferTimeout]

namespace State.Keeps

@[simp] theorem reexamine (fuel cls : Nat) (hs : s.Keeps s') : s.Keeps (State.reexamine fuel cls s') := by
  induction fuel generalizing s' with
  | zero => exact hs
  | succ fuel ih =>
    unfold State.reexamine
    split
    · exact hs
    · dsimp only
      split
      · exact ih (by simp [hs])
      · split
        · exact hs
        · exact ih (by simp [hs])

end State.Keeps

@[simp] theorem execDeferredReexamine_holds (s : State) : s.Holds (execDeferredReexamine s) := by
  simp [execDeferredReexamine]

@[simp] theorem execStepForm_holds (h : HandleId) (cls : Fin 4) (s : State) : s.Holds (execStepForm h cls s) := by
  simp [execStepForm]

@[simp] theorem execStepHandoff_holds (step : Nat) (cols : List (Nat × Nat × Nat)) (s : State) : s.Holds (execStepHandoff step cols s) := by
  unfold execStepHandoff
  split <;> simp

namespace State.Keeps

@[simp] theorem finish (n outLen : Nat) (hs : s.Keeps s') : s.Keeps (s'.finish n outLen) := by
  simp [State.finish, hs]

end State.Keeps

@[simp] theorem execStepComplete_holds (step : Nat) (outLens : List Nat) (s : State) : s.Holds (execStepComplete step outLens s) := by
  rw [execStepComplete, State.holds_next]
  split
  · exact .refl s
  · split
    · exact .refl s
    · refine State.Keeps.foldl (fun u x => ?_) (by simp)
      dsimp only
      split <;> simp

@[simp] theorem execStepFailed_holds (step : Nat) (s : State) : s.Holds (execStepFailed step s) := by
  rw [execStepFailed, State.holds_next]
  split
  · exact .refl s
  · split
    · exact .refl s
    · refine State.Keeps.foldl (fun u x => ?_) (by simp)
      split <;> simp

@[simp] theorem execCqHeadWrite_holds (s : State) : s.Holds (execCqHeadWrite s) := by
  simp [execCqHeadWrite]

@[simp] theorem execNotifyWrite_holds (s : State) : s.Holds (execNotifyWrite s) := by
  simp [execNotifyWrite]

@[simp] theorem execBiSnoopDelay_holds (line : Nat) (s : State) : s.Holds (execBiSnoopDelay line s) := by
  unfold execBiSnoopDelay
  split <;> simp

end Sys2Proof.Machine
end

section
/-! Tidemark, the mailboxes and the settings keep what stands protected; a key that is enrolled or revoked leaves every revoked key in the store. -/

namespace Sys2Proof.Machine

variable {s s' u : State}

namespace State.Keeps

@[simp] theorem msi (v : Nat) : s.Keeps (s'.msi v) ↔ s.Keeps s' := by
  simp [State.msi]

@[simp] theorem msiPending (n : Nat) : s.Keeps (s'.msiPending n) ↔ s.Keeps s' := by
  simp [State.msiPending]

@[simp] theorem msixWrite (n k v : Nat) : s.Keeps (s'.msixWrite n k v) ↔ s.Keeps s' := by
  unfold State.msixWrite
  split <;> simp

@[simp] theorem eventRecord (e : TmkEntry) (seq : Nat) : s.Keeps (s'.eventRecord e seq) ↔ s.Keeps s' := by
  simp [State.eventRecord]

@[simp] theorem overflowCheck : s.Keeps s'.overflowCheck ↔ s.Keeps s' := by
  simp [State.overflowCheck]

@[simp] theorem writeEntry (e : TmkEntry) (rest : List TmkEntry) : s.Keeps (s'.writeEntry e rest) ↔ s.Keeps s' := by
  simp [State.writeEntry]

end State.Keeps

@[simp] theorem execTidemarkEntryWrite_holds (whole : Bool) (s : State) : s.Holds (execTidemarkEntryWrite whole s) := by
  unfold execTidemarkEntryWrite
  dsimp only
  repeat' split
  all_goals simp

namespace State.Keeps

@[simp] theorem slotBytes (n : Nat) : s.Keeps (s'.slotBytes n).2 ↔ s.Keeps s' := by
  unfold State.slotBytes
  dsimp only
  split
  · rfl
  · split
    · rfl
    · exact draw

@[simp] theorem snapshot (x : Snap) : s.Keeps (s'.snapshot x).2 ↔ s.Keeps s' := by
  simp [State.snapshot]

end State.Keeps

@[simp] theorem execTmkRdSeqHiWrite_holds (v : W32) (s : State) : s.Holds (execTmkRdSeqHiWrite v s) := by
  simp [execTmkRdSeqHiWrite]

@[simp] theorem execPairEpisodeEnd_holds (k : Fin 9) (s : State) : s.Holds (execPairEpisodeEnd k s) := by
  simp [execPairEpisodeEnd]

namespace State.Keeps

@[simp] theorem hostDone (rc : Nat) (reply : List Byte) : s.Keeps (s'.hostDone rc reply) ↔ s.Keeps s' := by
  simp [State.hostDone]

@[simp] theorem rc (c : CxlRc) (reply : List Byte) : s.Keeps (s'.rc c reply) ↔ s.Keeps s' := by
  simp [State.rc]

@[simp] theorem answerCmd (src : Source) (op : Nat) (st : Status) (data : List Byte) : s.Keeps (s'.answerCmd src op st data) ↔ s.Keeps s' := by
  unfold State.answerCmd
  split <;> simp

@[simp] theorem inTurn (i : Instr) (go : State → State) (hgo : ∀ u : State, u.Keeps (go u)) (hs : s.Keeps s') : s.Keeps (s'.inTurn i go) := by
  simp [State.inTurn, hs, hs.trans (hgo _)]

@[simp] theorem cmd (i : Instr) (src : Source) (op : Nat) (from_ : List Source) (inRecovery : Bool) (go : State → State)
    (hgo : ∀ u : State, u.Keeps (go u)) (hs : s.Keeps s') : s.Keeps (s'.cmd i src op from_ inRecovery go) := by
  unfold State.cmd
  split
  · exact hs
  · refine inTurn _ _ (fun u => ?_) hs
    split
    · simp
    · exact hgo u

@[simp] theorem hubCmd (i : Instr) (op : Nat) (l : MboxLink) (go : State → State) (hgo : ∀ u : State, u.Keeps (go u)) (hs : s.Keeps s') :
    s.Keeps (s'.hubCmd i op l go) := by
  have hdone (u t : State) (ht : u.Keeps t) :
      u.Keeps (if l.replyOk then { t with hub := { t.hub with mbxReissue := none } }
        else ({ t with out := { t.out with hubStatus := u.out.hubStatus }, hub := { t.hub with mbxReissue := some l.seq } }).pairError 4) := by
    split <;> simp [ht]
  unfold State.hubCmd
  split
  · exact hs
  · refine inTurn _ _ (fun u => hdone u _ ?_) hs
    split
    · simp
    · split
      · split <;> simp [hgo]
      · simp [hgo]

@[simp] theorem mailbox (inRecovery : Bool) (go : State → State) (hgo : ∀ u : State, u.Keeps (go u)) (hs : s.Keeps s') :
    s.Keeps (s'.mailbox inRecovery go) := by
  simp [State.mailbox, hs, hs.trans (hgo _)]

end State.Keeps

@[simp] theorem execGetEventRecords_holds (log : Fin 3) (s : State) : s.Holds (execGetEventRecords log s) := by
  simp [execGetEventRecords]

@[simp] theorem execClearEventRecords_holds (log : Fin 3) (handles : List Nat) (all : Bool) (s : State) : s.Holds
    (execClearEventRecords log handles all s) := by
  simp [execClearEventRecords]

@[simp] theorem execGetEventInterruptPolicy_holds (s : State) : s.Holds (execGetEventInterruptPolicy s) := by
  simp [execGetEventInterruptPolicy]

@[simp] theorem execSetEventInterruptPolicy_holds (v : List Byte) (s : State) : s.Holds (execSetEventInterruptPolicy v s) := by
  simp [execSetEventInterruptPolicy]

@[simp] theorem execGetTimestamp_holds (s : State) : s.Holds (execGetTimestamp s) := by
  simp [execGetTimestamp]

@[simp] theorem execSetTimestamp_holds (v : Nat) (s : State) : s.Holds (execSetTimestamp v s) := by
  simp [execSetTimestamp]

@[simp] theorem execGetSupportedLogs_holds (s : State) : s.Holds (execGetSupportedLogs s) := by
  simp [execGetSupportedLogs]

@[simp] theorem execGetLog_holds (log : Nat) (s : State) : s.Holds (execGetLog log s) := by
  simp [execGetLog]

@[simp] theorem execMailboxUnsupported_holds (src : Source) (opcode : Nat) (link : MboxLink) (s : State) : s.Holds
    (execMailboxUnsupported src opcode link s) := by
  unfold execMailboxUnsupported
  dsimp only
  repeat' split
  all_goals simp

namespace State.Keeps

@[simp] theorem doe (inRecovery : Bool) (go : State → List Byte) : s.Keeps (s'.doe inRecovery go) ↔ s.Keeps s' := by
  simp [State.doe]

end State.Keeps

@[simp] theorem execDoeDiscovery_holds (index : Nat) (s : State) : s.Holds (execDoeDiscovery index s) := by
  simp [execDoeDiscovery]

@[simp] theorem execDoeCdat_holds (entry : Nat) (s : State) : s.Holds (execDoeCdat entry s) := by
  simp [execDoeCdat]

namespace State.Keeps

@[simp] theorem applySetting (id : Nat) (v : List Byte) : s.Keeps (s'.applySetting id v) ↔ s.Keeps s' := by
  unfold State.applySetting
  split <;> simp

@[simp] theorem applyAll (items : Items) : s.Keeps (s'.applyAll items) ↔ s.Keeps s' := by
  simp [State.applyAll]

@[simp] theorem startJob : s.Keeps s'.startJob ↔ s.Keeps s' := by
  unfold State.startJob
  split <;> simp

@[simp] theorem queueJob (job : BankJob) : s.Keeps (s'.queueJob job) ↔ s.Keeps s' := by
  simp [State.queueJob]

@[simp] theorem answerJob (j : BankWrite) (st : Status) : s.Keeps (s'.answerJob j st) ↔ s.Keeps s' := by
  unfold State.answerJob
  split <;> simp

end State.Keeps

@[simp] theorem execSettingSet_holds (src : Source) (ident : Nat) (v : List Byte) (s : State) : s.Holds (execSettingSet src ident v s) := by
  unfold execSettingSet
  split <;> simp

@[simp] theorem execSettingGet_holds (src : Source) (ident : Nat) (s : State) : s.Holds (execSettingGet src ident s) := by
  simp [execSettingGet]

@[simp] theorem execFactoryReset_holds (src : Source) (s : State) : s.Holds (execFactoryReset src s) := by
  simp [execFactoryReset]

@[simp] theorem execKeyEnroll_holds (src : Source) (key : List Byte) (s : State) : s.Holds (execKeyEnroll src key s) := by
  rw [execKeyEnroll, State.holds_next]
  refine State.Keeps.cmd _ _ _ _ _ _ (fun u => ?_) (.refl s)
  have hkeys : u.Keeps { u with sec := u.sec.retag (u.sec.keys ++ [⟨key, false⟩]) } :=
    { State.Keeps.refl u with keys := fun k hk _ => List.mem_append_left _ hk }
  dsimp only
  repeat' split
  all_goals simp [hkeys]

@[simp] theorem execKeyRevoke_holds (src : Source) (keyId : Nat) (s : State) : s.Holds (execKeyRevoke src keyId s) := by
  rw [execKeyRevoke, State.holds_next]
  refine State.Keeps.cmd _ _ _ _ _ _ (fun u => ?_) (.refl s)
  have hkeys : u.Keeps { u with sec := u.sec.retag (u.sec.keys.map fun k => if keyIdOf k.key = keyId then { k with revoked := true } else k) } :=
    { State.Keeps.refl u with
      keys := fun k hk hr => List.mem_map.2 ⟨k, hk, by split; exacts [congrArg (KeyEnt.mk k.key) hr.symm, rfl]⟩ }
  dsimp only
  split
  · simp
  · split <;> simp_all

@[simp] theorem execKeyList_holds (src : Source) (s : State) : s.Holds (execKeyList src s) := by
  simp [execKeyList]

end Sys2Proof.Machine
end

section
/-! The loader keeps what stands protected. -/

namespace Sys2Proof.Machine

variable {s s' u : State}

namespace State.Keeps

@[simp] theorem tileRows (a : Agent) (dla w : Nat) : s.Keeps (s'.tileRows a dla w).2 ↔ s.Keeps s' := by
  unfold State.tileRows
  refine foldl_of_iff Prod.snd fun s r i => ?_
  simp

@[simp] theorem ownWriteMarked (src dla : Nat) (bs : List Byte) (poison : Bool) (hs : s.Keeps s') : s.Keeps (s'.ownWriteMarked src dla bs poison) := by
  simp [State.ownWriteMarked, hs]

@[simp] theorem prepSlice (d : Nat) (l : LayerRec) (q : SlotCfg) (j i : Nat) (hs : s.Keeps s') : s.Keeps (s'.prepSlice d l q j i).2 := by
  unfold State.prepSlice
  generalize tileCensus = census
  dsimp only
  split <;> split
  · exact foldl (fun u x => by simp) (by simp [hs])
  · simp [hs]
  · exact foldl (fun u x => by simp) (by simp [hs])
  · simp [hs]

@[simp] theorem takeCensus (h d : Nat) (l : LayerRec) (q : SlotCfg) (hs : s.Keeps s') : s.Keeps (s'.takeCensus h d l q) := by
  unfold State.takeCensus
  refine foldl (fun u j => ?_) (by simp [hs])
  refine write.2 (foldl_of Prod.snd (fun a i => ?_) (refl u))
  simp

@[simp] theorem heldWeights (a : Agent) (l : LayerRec) (q : SlotCfg) : s.Keeps (s'.heldWeights a l q).2.2 ↔ s.Keeps s' := by
  unfold State.heldWeights
  refine foldl_of_iff (fun r : List (List Int) × Bool × State => r.2.2) fun s r n => ?_
  refine foldl_of_iff (fun r : List Int × Bool × State => r.2.2) fun s x i => ?_
  simp

@[simp] theorem writeTransposes (a : Agent) (src : Nat) (l : LayerRec) (q : SlotCfg) (packed badMask : Bool) (hs : s.Keeps s') : s.Keeps
    (s'.writeTransposes a src l q packed badMask) := by
  simp [State.writeTransposes, hs]

@[simp] theorem testMask (h d : Nat) (l : LayerRec) (q : SlotCfg) (hs : s.Keeps s') : s.Keeps (s'.testMask h d l q) := by
  simp [State.testMask, hs]

@[simp] theorem prepLayer (h : Nat) (st : Stream) (l : LayerRec) (hs : s.Keeps s') : s.Keeps (s'.prepLayer h st l) := by
  unfold State.prepLayer
  split <;> simp [hs]

@[simp] theorem ctrlAnswer (slot : Nat) (r : List Byte) (answer reason : Nat) (hs : s.Keeps s') : s.Keeps (s'.ctrlAnswer slot r answer reason) := by
  simp [State.ctrlAnswer, hs]

@[simp] theorem ldrEnd (slot : Nat) (r : List Byte) (f : LdrFail) (hs : s.Keeps s') : s.Keeps (s'.ldrEnd slot r f) := by
  simp [State.ldrEnd, hs]

@[simp] theorem refuseDeferred (h reason : Nat) (hs : s.Keeps s') : s.Keeps (s'.refuseDeferred h reason) := by
  simp [State.refuseDeferred, hs]

@[simp] theorem ldrCheck (slot : Nat) (r : List Byte) (during : HandleSt) (hs : s.Keeps s') : s.Keeps (s'.ldrCheck slot r during) := by
  have hrefuse (f : LdrFail) (t : State) (ht : s.Keeps t) : s.Keeps
      (if during = .loading then
        ((t.ldrEnd slot r f).modHandle (bits (recField r 0 8) 5 4) fun x => { x with st := if during = .loading then .empty else .loaded }).refuseDeferred
          (bits (recField r 0 8) 5 4) 0x16
      else (t.ldrEnd slot r f).modHandle (bits (recField r 0 8) 5 4) fun x => { x with st := if during = .loading then .empty else .loaded }) := by
    split <;> simp [ht]
  unfold State.ldrCheck
  dsimp only
  split
  · exact hrefuse _ _ (by simp [hs])
  · split
    · exact hrefuse _ _ (by simp [hs])
    · split
      · refine hrefuse _ _ ?_
        split <;> simp [hs]
      · simp [hs]

@[simp] theorem ldrStart (slot : Nat) (r : List Byte) (during : HandleSt) (copying : Bool) : s.Keeps (s'.ldrStart slot r during copying) ↔ s.Keeps
    s' := by
  simp [State.ldrStart]

@[simp] theorem ldrCopy (slot : Nat) (r : List Byte) (during : HandleSt) (hs : s.Keeps s') : s.Keeps (s'.ldrCopy slot r during) := by
  unfold State.ldrCopy
  split <;> simp [hs]

@[simp] theorem ldrServe (slot op : Nat) (hs : s.Keeps s') : s.Keeps (s'.ldrServe slot op) := by
  unfold State.ldrServe
  dsimp only
  repeat' split
  all_goals simp [hs]

@[simp] theorem ctrlPass (slot op : Nat) (hs : s.Keeps s') : s.Keeps (s'.ctrlPass slot op) := by
  unfold State.ctrlPass
  split <;> simp [hs]

end State.Keeps

@[simp] theorem execLoaderLoad_holds (slot : Fin 15) (s : State) : s.Holds (execLoaderLoad slot s) := by
  simp [execLoaderLoad]

@[simp] theorem execLoaderReplace_holds (slot : Fin 15) (s : State) : s.Holds (execLoaderReplace slot s) := by
  simp [execLoaderReplace]

@[simp] theorem execLoaderUnload_holds (slot : Fin 15) (s : State) : s.Holds (execLoaderUnload slot s) := by
  simp [execLoaderUnload]

@[simp] theorem execCtrlRecordBad_holds (slot : Fin 15) (s : State) : s.Holds (execCtrlRecordBad slot s) := by
  unfold execCtrlRecordBad
  split <;> simp

namespace State.Keeps

@[simp] theorem stopCores (cs : List Nat) : s.Keeps (s'.stopCores cs) ↔ s.Keeps s' := by
  simp [State.stopCores]

@[simp] theorem idleCtrs (h : Nat) : s.Keeps (s'.idleCtrs h) ↔ s.Keeps s' := by
  simp [State.idleCtrs]

@[simp] theorem releaseCores (cs : List Nat) : s.Keeps (s'.releaseCores cs) ↔ s.Keeps s' := by
  simp [State.releaseCores]

@[simp] theorem dropRanges (h : Nat) : s.Keeps (s'.dropRanges h) ↔ s.Keeps s' := by
  simp [State.dropRanges]

@[simp] theorem registerRanges (h : Nat) (st : Stream) : s.Keeps (s'.registerRanges h st) ↔ s.Keeps s' := by
  simp [State.registerRanges]

@[simp] theorem commitStream (h : Nat) (st : Stream) (hs : s.Keeps s') : s.Keeps (s'.commitStream h st) := by
  unfold State.commitStream
  refine ldrEnd _ _ _ ?_
  simp only [record, modHandle, releaseCores]
  refine foldl (fun u l => prepLayer _ _ _ (refl u)) ?_
  simp only [idleCtrs, registerRanges, write]
  refine foldl (fun u c => ?_) hs
  split <;> simp

end State.Keeps

@[simp] theorem execLoaderCommit_holds (h : HandleId) (s : State) : s.Holds (execLoaderCommit h s) := by
  rw [execLoaderCommit, State.holds_next]
  split
  · exact .refl s
  · dsimp only
    split
    · exact .refl s
    · cases (s.handle h).stream <;> dsimp only
      all_goals
        split
        · split
          · refine State.Keeps.commitStream _ _ (.foldl (fun u c => ?_) (by simp))
            split <;> simp
          · refine .foldl (fun u c => ?_) (by simp)
            split <;> simp
        · refine (State.Keeps.snoopData _).2 (.foldl (fun u c => ?_) (by simp))
          split <;> simp

@[simp] theorem execUnloadComplete_holds (h : HandleId) (s : State) : s.Holds (execUnloadComplete h s) := by
  unfold execUnloadComplete
  dsimp only
  split <;> simp

@[simp] theorem execStreamRewrite_holds (h : HandleId) (scope : RewriteScope) (s : State) : s.Holds (execStreamRewrite h scope s) := by
  unfold execStreamRewrite
  rw [State.holds_next]
  split
  · exact .refl s
  · cases scope <;> dsimp only
    all_goals
      split
      · split
        · refine .foldl (fun u c => ?_) (by simp)
          split <;> simp
        · refine .foldl (fun u c => by split <;> simp) ?_
          simp only [State.Keeps.record, State.Keeps.write]
          refine .foldl (fun u c => ?_) (.foldl (fun u c => ?_) (.refl s))
          · split <;> simp
          · split <;> simp
      · refine (State.Keeps.snoopData _).2 (.foldl (fun u c => ?_) (by simp))
        split <;> simp

namespace State.Keeps

@[simp] theorem countCopy (src dst ppn : Nat) : s.Keeps (s'.countCopy src dst ppn) ↔ s.Keeps s' := by
  simp [State.countCopy]

theorem pickOne {ls : List Nat} {i : Nat} (h : s'.pickOne ls = some (i, u)) : s.Keeps u ↔ s.Keeps s' := by
  cases ls with
  | nil => cases h
  | cons x xs =>
    obtain ⟨j, -, hj⟩ := Option.map_eq_some_iff.1 h
    cases hj
    exact draw

@[simp] theorem startCopy (p d : Nat) : s.Keeps (s'.startCopy p d) ↔ s.Keeps s' := by
  unfold State.startCopy
  split
  · rfl
  · split
    · rfl
    · next hi =>
      split
      · exact pickOne hi
      · next hp => rw [← pickOne hi, ← takePage hp]; exact write_plm rfl

@[simp] theorem startMove (p : Nat) (dests : List Nat) (hs : s.Keeps s') : s.Keeps (s'.startMove p dests) := by
  unfold State.startMove
  split
  · exact hs
  · split
    · exact hs
    · next hi =>
      split
      · exact (pickOne hi).2 hs
      · next hp => simp [(takePage hp).2 ((pickOne hi).2 hs)]

@[simp] theorem replicate (p : Nat) (u : PageUse) (hs : s.Keeps s') : s.Keeps (s'.replicate p u) := by
  simp [State.replicate, hs]

@[simp] theorem evaluate (p : Nat) (hs : s.Keeps s') : s.Keeps (s'.evaluate p) := by
  unfold State.evaluate
  dsimp only
  repeat' split
  all_goals simp [hs]

@[simp] theorem idleReplicas : s.Keeps s'.idleReplicas ↔ s.Keeps s' := by
  simp [State.idleReplicas]

end State.Keeps

@[simp] theorem execCountingWindowEnd_holds (s : State) : s.Holds (execCountingWindowEnd s) := by
  simp [execCountingWindowEnd]

namespace State.Keeps

@[simp] theorem copyLines (p i ppn : Nat) : s.Keeps (s'.copyLines p i ppn) ↔ s.Keeps s' := by
  simp [State.copyLines]

end State.Keeps

end Sys2Proof.Machine
end

section
/-! Migration, the DDR4 channels, the CXL port and the registers keep what stands protected. -/

namespace Sys2Proof.Machine

variable {s s' u : State}

@[simp] theorem execReplicaCopyDone_holds (page : Nat) (d : DieId) (s : State) : s.Holds (execReplicaCopyDone page d s) := by
  unfold execReplicaCopyDone
  dsimp only
  repeat' split
  all_goals simp

@[simp] theorem execReplicaRetireDone_holds (page : Nat) (d : DieId) (s : State) : s.Holds (execReplicaRetireDone page d s) := by
  unfold execReplicaRetireDone
  split <;> simp

namespace State.Keeps

@[simp] theorem endMove (r : CopyRec) : s.Keeps (s'.endMove r) ↔ s.Keeps s' := by
  simp [State.endMove]

end State.Keeps

@[simp] theorem execMoveComplete_holds (page : Nat) (s : State) : s.Holds (execMoveComplete page s) := by
  unfold execMoveComplete
  repeat' split
  all_goals simp

@[simp] theorem execZeroFillPage_holds (d : DieId) (ch : ChanId) (s : State) : s.Holds (execZeroFillPage d ch s) := by
  unfold execZeroFillPage
  dsimp only
  repeat' split
  all_goals simp

@[simp] theorem execPlmRelGo_holds (s : State) : s.Holds (execPlmRelGo s) := by
  simp [execPlmRelGo]

namespace State.Keeps

@[simp] theorem releasePage (p : Nat) (hs : s.Keeps s') : s.Keeps (s'.releasePage p) := by
  unfold State.releasePage
  dsimp only
  generalize hu : State.dropPtb p _ = u
  have hk : s.Keeps u := hu ▸ (by simp [hs])
  exact write_mem hk (Plm.erasePage_wf _ _)

end State.Keeps

@[simp] theorem execReleaseDone_holds (s : State) : s.Holds (execReleaseDone s) := by
  simp [execReleaseDone]

namespace State.Keeps

@[simp] theorem dieReset (d cause : Nat) : s.Keeps (s'.dieReset d cause) ↔ s.Keeps s' := by
  simp [State.dieReset]

@[simp] theorem loseDie (d : Nat) : s.Keeps (s'.loseDie d) ↔ s.Keeps s' := by
  simp [State.loseDie]

@[simp] theorem isolate (d : Nat) : s.Keeps (s'.isolate d) ↔ s.Keeps s' := by
  simp [State.isolate]

end State.Keeps

@[simp] theorem execUcieRetryFail_holds (d : DieId) (m : Nat) (s : State) : s.Holds (execUcieRetryFail d m s) := by
  simp [execUcieRetryFail]

@[simp] theorem execDieLostWalkDone_holds (d : DieId) (s : State) : s.Holds (execDieLostWalkDone d s) := by
  unfold execDieLostWalkDone
  split <;> simp

namespace State.Keeps

@[simp] theorem evacuatePage (i p : Nat) (hs : s.Keeps s') : s.Keeps (s'.evacuatePage i p).1 := by
  unfold State.evacuatePage
  dsimp only
  split
  · exact hs
  · next hj =>
    split
    · exact (pickOne hj).2 hs
    · next hp => simp [(takePage hp).2 ((pickOne hj).2 hs)]

@[simp] theorem evacuateReplica (i : Nat) (r : CopyRec) (hs : s.Keeps s') : s.Keeps (s'.evacuateReplica i r).1 := by
  unfold State.evacuateReplica
  split
  · exact hs
  · next hj =>
    split
    · exact (pickOne hj).2 hs
    · next hp => simp [(takePage hp).2 ((pickOne hj).2 hs)]

end State.Keeps

@[simp] theorem execEvacuationDone_holds (d : DieId) (ch : ChanId) (s : State) : s.Holds (execEvacuationDone d ch s) := by
  have hpages (i : Nat) (ps : List Nat) (r : State × Nat) (hr : s.Keeps r.1) :
      s.Keeps (ps.foldl (fun (a : State × Nat) p => let (s, n) := a.1.evacuatePage i p; (s, a.2 + n)) r).1 :=
    State.Keeps.foldl_of Prod.fst (fun a p => by simp) hr
  have hreps (i : Nat) (qs : List CopyRec) (r : State × Nat) (hr : s.Keeps r.1) :
      s.Keeps (qs.foldl (fun (a : State × Nat) q => let (s, n) := a.1.evacuateReplica i q; (s, a.2 + n)) r).1 :=
    State.Keeps.foldl_of Prod.fst (fun a q => by simp) hr
  rw [execEvacuationDone, State.holds_next]
  dsimp only
  split
  · exact .refl s
  · split
    · simp [hreps _ _ _ (hpages _ _ (s, 0) (.refl s))]
    · simp [hreps _ _ _ (hpages _ _ (s, 0) (.refl s))]

@[simp] theorem execDdrPatrolScrub_holds (d : DieId) (ch : ChanId) (s : State) : s.Holds (execDdrPatrolScrub d ch s) := by
  rw [execDdrPatrolScrub, State.holds_next]
  dsimp only
  split
  · exact .refl s
  · refine (State.Keeps.setChan _ _).2 (.foldl (fun u e => ?_) (by simp))
    split
    · split <;> simp
    · simp

@[simp] theorem execDdrRefresh_holds (d : DieId) (ch : ChanId) (temp : Int) (s : State) : s.Holds (execDdrRefresh d ch temp s) := by
  simp [execDdrRefresh]

namespace State.Keeps

@[simp] theorem trainChan (x : Nat × Nat) : s.Keeps (s'.trainChan x) ↔ s.Keeps s' := by
  simp [State.trainChan]

end State.Keeps

@[simp] theorem execDdrTrainDone_holds (failed : List Nat) (s : State) : s.Holds (execDdrTrainDone failed s) := by
  rw [execDdrTrainDone, State.holds_next]
  split
  · exact .refl s
  · dsimp only
    generalize hu : List.foldl State.trainChan _ _ = u
    have hk : s.Keeps u := hu ▸ .foldl (fun u x => by simp) (by simp [Sec.runs])
    split <;> simp [hk]

namespace State.Keeps

@[simp] theorem estSees (dla n : Nat) : s.Keeps (s'.estSees dla n) ↔ s.Keeps s' := by
  unfold State.estSees
  dsimp only
  repeat' split
  all_goals simp

@[simp] theorem spoilLine (dla : Nat) (err : DdrErr) : s.Keeps (s'.spoilLine dla err) ↔ s.Keeps s' := by
  simp [State.spoilLine]

@[simp] theorem hostStore (dla : Nat) (bs : List Byte) (poison : Bool) (hs : s.Keeps s') : s.Keeps (s'.hostStore dla bs poison) := by
  simp [State.hostStore, hs]

@[simp] theorem owned (dla : Nat) (copy : HostCopy) : s.Keeps (s'.owned dla copy) ↔ s.Keeps s' := by
  simp [State.owned]

@[simp] theorem hostRead (w : BiWait) : s.Keeps (s'.hostRead w) ↔ s.Keeps s' := by
  simp [State.hostRead]

@[simp] theorem hostWriteMem (w : BiWait) (hs : s.Keeps s') : s.Keeps (s'.hostWriteMem w) := by
  simp [State.hostWriteMem, hs]

@[simp] theorem hostServe (w : BiWait) (hs : s.Keeps s') : s.Keeps (s'.hostServe w) := by
  unfold State.hostServe
  dsimp only
  repeat' split
  all_goals simp [hs]

end State.Keeps

@[simp] theorem execCxlMemRead_holds (hpa : Nat) (copy : HostCopy) (err : DdrErr) (s : State) : s.Holds (execCxlMemRead hpa copy err s) := by
  unfold execCxlMemRead
  split <;> simp

@[simp] theorem execCxlMemWrite_holds (hpa : Nat) (data : List Byte) (poison : Bool) (copy : HostCopy) (err : DdrErr) (s : State) : s.Holds
    (execCxlMemWrite hpa data poison copy err s) := by
  unfold execCxlMemWrite
  split <;> simp

namespace State.Keeps

@[simp] theorem proceed (w : BiWait) (hs : s.Keeps s') : s.Keeps (s'.proceed w) := by
  simp [State.proceed, hs]

@[simp] theorem serveHeld (hs : s.Keeps s') : s.Keeps s'.serveHeld := by
  simp [State.serveHeld, hs]

@[simp] theorem writeback (line : Nat) (dirty : Option (List Byte)) (hs : s.Keeps s') : s.Keeps (s'.writeback line dirty) := by
  unfold State.writeback
  split <;> simp [hs]

end State.Keeps

@[simp] theorem execBirspReceived_holds (line : Nat) (dirty : Option (List Byte)) (s : State) : s.Holds (execBirspReceived line dirty s) := by
  rw [execBirspReceived, State.holds_next]
  split
  · simp
  · exact State.Keeps.drainCq (.foldl (fun u w => by simp) (by simp))

@[simp] theorem execH2dSnoop_holds (_addr : Nat) (s : State) : s.Holds (execH2dSnoop _addr s) := by
  simp [execH2dSnoop]

@[simp] theorem execHdmDecoderCommit_holds (base size ways : Nat) (lock : Bool) (s : State) : s.Holds (execHdmDecoderCommit base size ways lock s) := by
  simp [execHdmDecoderCommit]

@[simp] theorem execCacheEnableChange_holds (ctl : CfgCtl) (s : State) : s.Holds (execCacheEnableChange ctl s) := by
  simp [execCacheEnableChange]

namespace State.Keeps

@[simp] theorem linkMode (rate width : Nat) (latOpt : Bool) (hs : s.Keeps s') : s.Keeps (s'.linkMode rate width latOpt) := by
  simp [State.linkMode, hs]

end State.Keeps

@[simp] theorem execCxlLinkTrain_holds (rate width : Nat) (latOpt pbr : Bool) (biId : Option Nat) (s : State) : s.Holds
    (execCxlLinkTrain rate width latOpt pbr biId s) := by
  simp [execCxlLinkTrain]

@[simp] theorem execCxlLinkRecovery_holds (rate width : Nat) (latOpt : Bool) (s : State) : s.Holds (execCxlLinkRecovery rate width latOpt s) := by
  simp [execCxlLinkRecovery]

@[simp] theorem execBar0BadAccess_holds (write : Bool) (s : State) : s.Holds (execBar0BadAccess write s) := by
  simp [execBar0BadAccess]

namespace State.Keeps

@[simp] theorem clearPairs (m : BitVec 9) : s.Keeps (s'.clearPairs m) ↔ s.Keeps s' := by
  simp [State.clearPairs]

@[simp] theorem modEstClass (n : Nat) (f : EstClass → EstClass) : s.Keeps (s'.modEstClass n f) ↔ s.Keeps s' := by
  simp [State.modEstClass]

/-- A register's effect that changes nothing protected. -/
def Kept (e : RegEffect) : Prop := ∀ rwl f, e = some (rwl, f) → ∀ s u : State, s.Keeps (f u) ↔ s.Keeps u

@[simp] theorem kept_none : Kept none := nofun
@[simp] theorem kept_some {rwl : Bool} {f : State → State} : Kept (some (rwl, f)) ↔ ∀ s u : State, s.Keeps (f u) ↔ s.Keeps u :=
  ⟨fun h => h _ _ rfl, fun h _ _ he => by cases he; exact h⟩

@[simp] theorem kept_hubReg (off v : Nat) : Kept (hubReg off v) := by
  unfold hubReg
  split <;> simp
@[simp] theorem kept_bwReg (off v : Nat) : Kept (bwReg off v) := by
  unfold bwReg
  split <;> simp
@[simp] theorem kept_estReg (off v : Nat) : Kept (estReg off v) := by
  unfold estReg
  split
  · split <;> simp
  · split <;> simp
@[simp] theorem kept_plmReg (off v : Nat) : Kept (plmReg off v) := by
  unfold plmReg
  split <;> simp
@[simp] theorem kept_klReg (off v : Nat) : Kept (klReg off v) := by
  unfold klReg
  split
  · simp
  · split <;> simp
@[simp] theorem kept_tmkReg (off v : Nat) : Kept (tmkReg off v) := by
  unfold tmkReg
  split <;> simp
@[simp] theorem kept_dieReg (d off v : Nat) : Kept (dieReg d off v) := by
  unfold dieReg
  split
  · simp
  · split
    · split <;> simp
    · simp
@[simp] theorem kept_regEffect (off v : Nat) : Kept (regEffect off v) := by
  unfold regEffect
  dsimp only
  split
  · split
    iterate 5 simp
    · split <;> simp
    · simp
    · split
      · simp
      · split <;> simp
  · split <;> simp
@[simp] theorem kept_spdReg (d off v : Nat) : Kept (spdReg d off v) := by
  unfold spdReg
  dsimp only
  split <;> simp
theorem kept_pathEffect (p : RegPath) (off v : Nat) : Kept (pathEffect p off v) := by
  cases p <;> simp [pathEffect]

@[simp] theorem regWrite (path : RegPath) (offset v : Nat) : s.Keeps (s'.regWrite path offset v) ↔ s.Keeps s' := by
  unfold State.regWrite
  split
  · rfl
  · next h =>
    split
    · simp
    · exact kept_pathEffect _ _ _ _ _ h _ _

end State.Keeps

@[simp] theorem execRegisterWrite_holds (path : RegPath) (offset : Nat) (v : W32) (hi : Option W32) (s : State) : s.Holds
    (execRegisterWrite path offset v hi s) := by
  unfold execRegisterWrite
  split <;> simp

namespace State.Keeps

@[simp] theorem setRwc (k : Nat) (v : Option (W32 × Nat)) : s.Keeps (s'.setRwc k v) ↔ s.Keeps s' := by
  simp [State.setRwc]

end State.Keeps

@[simp] theorem execRwcValueWrite_holds (path : Path) (r : RwcReg) (v : W32) (s : State) : s.Holds (execRwcValueWrite path r v s) := by
  simp [execRwcValueWrite]

@[simp] theorem execRwcPendingTimeout_holds (path : Path) (r : RwcReg) (s : State) : s.Holds (execRwcPendingTimeout path r s) := by
  unfold execRwcPendingTimeout
  dsimp only
  split <;> simp

end Sys2Proof.Machine
end

section
/-! The ring, its ports and the update engine keep what stands protected. -/

namespace Sys2Proof.Machine

variable {s s' u : State}

namespace State.Keeps

@[simp] theorem pumpN (p n : Nat) : s.Keeps (s'.pumpN p n) ↔ s.Keeps s' := by
  induction n generalizing s' with
  | zero => rfl
  | succ n ih =>
    unfold State.pumpN
    dsimp only
    split
    · rfl
    · split
      · rfl
      · simp [ih]

@[simp] theorem pump (p : Nat) : s.Keeps (s'.pump p) ↔ s.Keeps s' := by
  simp [State.pump]

@[simp] theorem pumpAll : s.Keeps s'.pumpAll ↔ s.Keeps s' := by
  simp [State.pumpAll]

@[simp] theorem sendOn (p : Nat) (i : TxItem) : s.Keeps (s'.sendOn p i) ↔ s.Keeps s' := by
  simp [State.sendOn]

@[simp] theorem allPorts (f : Port → Port) : s.Keeps (s'.allPorts f) ↔ s.Keeps s' := by
  simp [State.allPorts]

@[simp] theorem sendRing (ring b : Nat) (body : TxBody) : s.Keeps (s'.sendRing ring b body) ↔ s.Keeps s' := by
  simp [State.sendRing]

@[simp] theorem sendBoth (m : RingMsg) : s.Keeps (s'.sendBoth m) ↔ s.Keeps s' := by
  simp [State.sendBoth]

@[simp] theorem passOn (p ring b : Nat) (body : TxBody) : s.Keeps (s'.passOn p ring b body) ↔ s.Keeps s' := by
  simp [State.passOn]

@[simp] theorem ctrlVisit (p : Nat) (m : RingMsg) {act : Nat → State → State} (hact : ∀ n (u : State), u.Keeps (act n u)) (hs : s.Keeps s') :
    s.Keeps (s'.ctrlVisit p m act) := by
  unfold State.ctrlVisit
  split
  · exact hs
  · split
    · exact hs
    · dsimp only
      split
      · simp [hs]
      · exact State.Keeps.trans (by simp [hs]) (hact _ _)

@[simp] theorem relay (ring : Nat) (m : RingMsg) : s.Keeps (s'.relay ring m) ↔ s.Keeps s' := by
  simp [State.relay]

@[simp] theorem abortOps (which : RingOp → Bool) (cause : Nat) : s.Keeps (s'.abortOps which cause) ↔ s.Keeps s' := by
  simp [State.abortOps]

@[simp] theorem failWaiting (which : RingOp → Bool) (code : Nat) : s.Keeps (s'.failWaiting which code) ↔ s.Keeps s' := by
  simp [State.failWaiting]

@[simp] theorem abortAll (cause : Nat) : s.Keeps (s'.abortAll cause) ↔ s.Keeps s' := by
  simp [State.abortAll]

@[simp] theorem breakRing (cause : Nat) : s.Keeps (s'.breakRing cause) ↔ s.Keeps s' := by
  simp [State.breakRing]

@[simp] theorem hopLost (r : Nat) : s.Keeps (s'.hopLost r) ↔ s.Keeps s' := by
  unfold State.hopLost
  split <;> simp

@[simp] theorem portGone (p : Nat) (st : PortSt) : s.Keeps (s'.portGone p st) ↔ s.Keeps s' := by
  simp [State.portGone]

@[simp] theorem trainPort (p : Nat) : s.Keeps (s'.trainPort p) ↔ s.Keeps s' := by
  simp [State.trainPort]

end State.Keeps

@[simp] theorem execKlPortEnWrite_holds (p : PortId) (v : W32) (s : State) : s.Holds (execKlPortEnWrite p v s) := by
  simp [execKlPortEnWrite]

@[simp] theorem execKlPortTrain_holds (p : PortId) (s : State) : s.Holds (execKlPortTrain p s) := by
  simp [execKlPortTrain]

@[simp] theorem execPortTrainRetry_holds (p : PortId) (s : State) : s.Holds (execPortTrainRetry p s) := by
  simp [execPortTrainRetry]

@[simp] theorem execPortTrainDone_holds (p : PortId) (r : PortResult) (s : State) : s.Holds (execPortTrainDone p r s) := by
  simp [execPortTrainDone]

namespace State.Keeps

@[simp] theorem portDown (p : Nat) : s.Keeps (s'.portDown p) ↔ s.Keeps s' := by
  simp [State.portDown]

end State.Keeps

@[simp] theorem execPortTrainTimeout_holds (p : PortId) (s : State) : s.Holds (execPortTrainTimeout p s) := by
  rw [execPortTrainTimeout, State.holds_next]
  split
  · exact .refl s
  · split <;> simp

namespace State.Keeps

@[simp] theorem startRetrain (p : Nat) : s.Keeps (s'.startRetrain p) ↔ s.Keeps s' := by
  simp [State.startRetrain]

@[simp] theorem noteNak (p : Nat) : s.Keeps (s'.noteNak p) ↔ s.Keeps s' := by
  simp [State.noteNak]

@[simp] theorem sendNak (p : Nat) : s.Keeps (s'.sendNak p) ↔ s.Keeps s' := by
  simp [State.sendNak]

@[simp] theorem replayPort (p : Nat) : s.Keeps (s'.replayPort p) ↔ s.Keeps s' := by
  simp [State.replayPort]

end State.Keeps

@[simp] theorem execRetrainDone_holds (p : PortId) (r : Option PortResult) (s : State) : s.Holds (execRetrainDone p r s) := by
  unfold execRetrainDone
  split <;> simp

namespace State.Keeps

@[simp] theorem takeHeader (p : Nat) (f : Flit) : s.Keeps (s'.takeHeader p f) ↔ s.Keeps s' := by
  simp [State.takeHeader]

@[simp] theorem deliver (p : Nat) (f : Flit) : s.Keeps (s'.deliver p f) ↔ s.Keeps s' := by
  simp [State.deliver]

end State.Keeps

@[simp] theorem execFlitReceive_holds (p : PortId) (bytes : List Byte) (s : State) : s.Holds (execFlitReceive p bytes s) := by
  unfold execFlitReceive
  dsimp only
  repeat' split
  all_goals simp

@[simp] theorem execAckTimer_holds (p : PortId) (s : State) : s.Holds (execAckTimer p s) := by
  simp [execAckTimer]

@[simp] theorem execMemberSwitchedOff_holds (p : PortId) (s : State) : s.Holds (execMemberSwitchedOff p s) := by
  simp [execMemberSwitchedOff]

namespace State.Keeps

@[simp] theorem readDesc (tid nelem : Nat) : s.Keeps (s'.readDesc tid nelem).2 ↔ s.Keeps s' := by
  unfold State.readDesc
  dsimp only
  split <;> simp

@[simp] theorem modOp (opid : Nat) (f : RingOp → RingOp) : s.Keeps (s'.modOp opid f) ↔ s.Keeps s' := by
  simp [State.modOp]

@[simp] theorem localBlock (o : RingOp) (st : Stream) (l : LayerRec) (b : Nat) : s.Keeps (s'.localBlock o st l b).2 ↔ s.Keeps s' := by
  simp [State.localBlock]

@[simp] theorem gotRdone (opid rank : Nat) (poison arrays : Bool) : s.Keeps (s'.gotRdone opid rank poison arrays) ↔ s.Keeps s' := by
  unfold State.gotRdone
  split <;> simp

@[simp] theorem rangesPoisoned (rs : List (Nat × Nat)) : s.Keeps (s'.rangesPoisoned rs).2 ↔ s.Keeps s' := by
  unfold State.rangesPoisoned
  refine foldl_of_iff Prod.snd fun s x r => ?_
  simp

@[simp] theorem checkShard (opid : Nat) (l : LayerRec) : s.Keeps (s'.checkShard opid l) ↔ s.Keeps s' := by
  unfold State.checkShard
  split <;> simp

@[simp] theorem emit (opid b : Nat) (l : LayerRec) (u : Block) : s.Keeps (s'.emit opid b l u) ↔ s.Keeps s' := by
  simp [State.emit]

@[simp] theorem addAt (p : Nat) (o : RingOp) (st : Stream) (l : LayerRec) (b : Nat) (u : Block) (fault : AdderFault) : s.Keeps
    (s'.addAt p o st l b u fault) ↔ s.Keeps s' := by
  unfold State.addAt
  dsimp only
  split <;> simp

end State.Keeps

@[simp] theorem execRedBlockReceive_holds (p : PortId) (opid : Nat) (b : Nat) (u : Block) (fault : AdderFault) (s : State) : s.Holds
    (execRedBlockReceive p opid b u fault s) := by
  unfold execRedBlockReceive
  dsimp only
  repeat' split
  all_goals simp

@[simp] theorem execAdderLocalReady_holds (p : PortId) (b : Nat) (fault : AdderFault) (s : State) : s.Holds (execAdderLocalReady p b fault s) := by
  unfold execAdderLocalReady
  dsimp only
  repeat' split
  all_goals simp

namespace State.Keeps

@[simp] theorem startChunks (opid : Nat) (hs : s.Keeps s') : s.Keeps (s'.startChunks opid) := by
  unfold State.startChunks
  split
  · exact hs
  · split
    · exact hs
    · dsimp only
      split
      · simp [hs]
      · exact (checkShard ..).2 (foldl (fun u b => by simp) (by simp [hs]))

@[simp] theorem abortOne (opid cause : Nat) : s.Keeps (s'.abortOne opid cause) ↔ s.Keeps s' := by
  simp [State.abortOne]

@[simp] theorem descFail (opid : Nat) : s.Keeps (s'.descFail opid) ↔ s.Keeps s' := by
  simp [State.descFail]

@[simp] theorem joinOp (opid tid step : Nat) (hs : s.Keeps s') : s.Keeps (s'.joinOp opid tid step) := by
  unfold State.joinOp
  dsimp only
  repeat' split
  all_goals simp [hs]

@[simp] theorem newOp (opid tid : Nat) : s.Keeps (s'.newOp opid tid) ↔ s.Keeps s' := by
  simp [State.newOp]

@[simp] theorem takeQueued (hs : s.Keeps s') : s.Keeps s'.takeQueued := by
  unfold State.takeQueued
  dsimp only
  repeat' split
  all_goals simp [hs]

end State.Keeps

@[simp] theorem execTensorHandover_holds (tid : Nat) (s : State) : s.Holds (execTensorHandover tid s) := by
  unfold execTensorHandover
  dsimp only
  repeat' split
  all_goals simp

namespace State.Keeps

@[simp] theorem resumeRing (hs : s.Keeps s') : s.Keeps s'.resumeRing := by
  unfold State.resumeRing
  refine takeQueued (foldl (fun u o => startChunks _ (refl u)) hs)

end State.Keeps

@[simp] theorem execRdone_holds (p : PortId) (opid : Nat) (rank : Nat) (poison arrays : Bool) (s : State) :
    s.Holds (execRdone p opid rank poison arrays s) := by
  rw [execRdone, State.holds_next]
  refine State.Keeps.ctrlVisit _ _ (fun n u => ?_) (.refl s)
  split
  · exact .refl u
  · dsimp only
    split
    · simp
    · split <;> simp

namespace State.Keeps

@[simp] theorem updateBlock (o : RingOp) (st : Stream) (l : LayerRec) (q : SlotCfg) (mask : List Byte) (b : Nat) (hs : s.Keeps s') :
    s.Keeps (s'.updateBlock o st l q mask b) := by
  have harrays (n : Nat) (as : List Nat) (r : List (List (Byte × Bool)) × State) (hr : s.Keeps r.2) :
      s.Keeps (as.foldl (fun (x : List (List (Byte × Bool)) × State) a =>
        let (ms, s) := x.2.markedRead .hub (a + 128 * b) (4 * n) true; (x.1 ++ [ms], s)) r).2 :=
    foldl_of Prod.snd (fun x a => by simp) hr
  have hrows (rs : List (Nat × Nat)) (r : List (Nat × List Byte × Bool) × State) (hr : s.Keeps r.2) :
      s.Keeps (rs.foldl (fun (x : List (Nat × List Byte × Bool) × State) r =>
        let (bs, p, s) := x.2.devRead .hub r.1 r.2; (x.1 ++ [(r.1, bs, p)], s)) r).2 :=
    foldl_of Prod.snd (fun x a => by simp) hr
  have hput (c : Prop) [Decidable c] (dla : Nat) (bs : List Byte) (u : State) (hu : s.Keeps u) :
      s.Keeps (if c then u.ownWrite hubSrc dla bs else u) := by
    split <;> simp [hu]
  unfold State.updateBlock
  split
  · exact hs
  · exact ownWriteMarked _ _ _ _ (hput _ _ _ _ (hput _ _ _ _ (hput _ _ _ _ (write.2 (hrows _ _ (harrays _ (optArrays o.desc) ([], s') hs))))))

@[simp] theorem setStatus (tid v : Nat) (hs : s.Keeps s') : s.Keeps (s'.setStatus tid v) := by
  simp [State.setStatus, hs]

@[simp] theorem paramBlock (o : RingOp) (l : LayerRec) (b : Nat) : s.Keeps (s'.paramBlock o l b).2 ↔ s.Keeps s' := by
  simp [State.paramBlock]

@[simp] theorem endOp (o : RingOp) (cands : List Int) (hs : s.Keeps s') : s.Keeps (s'.endOp o cands) := by
  simp [State.endOp, hs]

@[simp] theorem reopen (opid : Nat) : s.Keeps (s'.reopen opid) ↔ s.Keeps s' := by
  unfold State.reopen
  split <;> simp

@[simp] theorem gotPdone (opid rank : Nat) (cand : Int) (hs : s.Keeps s') : s.Keeps (s'.gotPdone opid rank cand) := by
  unfold State.gotPdone
  split <;> simp [hs]

@[simp] theorem sendParams (opid : Nat) (hs : s.Keeps s') : s.Keeps (s'.sendParams opid) := by
  unfold State.sendParams
  split
  · exact hs
  · split
    · exact hs
    · refine gotPdone _ _ _ ?_
      simp [hs]

@[simp] theorem applyUpdate (o : RingOp) (st : Stream) (l : LayerRec) (blocks : List Nat) (hs : s.Keeps s') :
    s.Keeps (s'.applyUpdate o st l blocks) := by
  unfold State.applyUpdate
  dsimp only
  split
  · split <;> simp [hs]
  · refine setStatus _ _ (write.2 (foldl (fun u b => by simp) ?_))
    split <;> simp [hs]

@[simp] theorem sendWhenRead (o : RingOp) (l : LayerRec) (blocks : List Nat) (hs : s.Keeps s') : s.Keeps (s'.sendWhenRead o l blocks) := by
  simp [State.sendWhenRead, hs]

end State.Keeps

@[simp] theorem execUpdateApply_holds (s : State) : s.Holds (execUpdateApply s) := by
  rw [execUpdateApply, State.holds_next]
  split
  · exact .refl s
  · split
    · exact .refl s
    · split
      · simp
      · dsimp only
        split
        · simp
        · split
          · simp
          · split
            · exact .refl s
            · exact .takeQueued (.sendWhenRead _ _ _ (.applyUpdate _ _ _ _ (.refl s)))

@[simp] theorem execParBlockReceive_holds (p : PortId) (opid : Nat) (b : Nat) (u : Block) (s : State) : s.Holds (execParBlockReceive p opid b u s) := by
  unfold execParBlockReceive
  dsimp only
  repeat' split
  all_goals simp

@[simp] theorem execPdone_holds (p : PortId) (opid : Nat) (rank : Nat) (cand : Int) (s : State) : s.Holds (execPdone p opid rank cand s) := by
  rw [execPdone, State.holds_next]
  refine State.Keeps.ctrlVisit _ _ (fun n u => ?_) (.refl s)
  split
  · exact .refl u
  · dsimp only
    split
    · simp
    · split <;> simp

namespace State.Keeps

@[simp] theorem writeTensor (tid : Nat) (o : RingOp) (st : Stream) (l : LayerRec) (hs : s.Keeps s') : s.Keeps (s'.writeTensor tid o st l) := by
  unfold State.writeTensor
  cases l.masked <;> dsimp only
  all_goals
    refine iteInduction (motive := fun u => s.Keeps u) (fun _ => writeTransposes _ _ _ _ _ _ ?_) fun _ => ?_
    all_goals
      split
      · refine iteInduction (motive := fun u => s.Keeps u) (fun _ => takeCensus _ _ _ _ ?_) fun _ => ?_
        all_goals exact foldl (fun u n => foldl (fun v i => ownWriteMarked _ _ _ _ (refl v)) (refl u)) (by simp [hs])
      · exact foldl (fun u n => foldl (fun v i => ownWriteMarked _ _ _ _ (refl v)) (refl u)) (by simp [hs])

@[simp] theorem tensorWritten (tid : Nat) : s.Keeps (s'.tensorWritten tid) ↔ s.Keeps s' := by
  simp [State.tensorWritten]

end State.Keeps

@[simp] theorem execParamWrite_holds (tid : Nat) (s : State) : s.Holds (execParamWrite tid s) := by
  unfold execParamWrite
  dsimp only
  repeat' split
  all_goals simp

namespace State.Keeps

@[simp] theorem decideRerun (opid : Nat) (hs : s.Keeps s') : s.Keeps (s'.decideRerun opid) := by
  unfold State.decideRerun
  split <;> simp [hs]

@[simp] theorem rerunOp (o : RingOp) (hs : s.Keeps s') : s.Keeps (s'.rerunOp o) := by
  unfold State.rerunOp
  split <;> simp [hs]

end State.Keeps

@[simp] theorem execOperationRerun_holds (s : State) : s.Holds (execOperationRerun s) := by
  rw [execOperationRerun, State.holds_next]
  split
  · exact .refl s
  · exact .takeQueued (.foldl (fun u o => .rerunOp _ (.refl u)) (.refl s))

namespace State.Keeps

@[simp] theorem openOp (m : OpenMsg) (hs : s.Keeps s') : s.Keeps (s'.openOp m) := by
  unfold State.openOp
  repeat' split
  all_goals simp [hs]

end State.Keeps

@[simp] theorem execRingOpen_holds (p : PortId) (m : OpenMsg) (s : State) : s.Holds (execRingOpen p m s) := by
  rw [execRingOpen, State.holds_next]
  refine State.Keeps.ctrlVisit _ _ (fun n u => ?_) (.refl s)
  dsimp only
  split
  · exact .refl u
  · split
    · simp
    · split
      · simp
      · split
        · simp
        · split
          · simp
          · split
            · simp
            · exact .takeQueued (.decideRerun _ (by simp))

end Sys2Proof.Machine
end

section
/-! The security unit and HUB_LOCK: what may write them. -/

namespace Sys2Proof.Machine

/-! ### The security unit's operations that leave the rollback counter, the fuses and the keys -/

namespace Sec

@[simp] theorem setSlotSt_stored (slot v : Nat) (x : Sec) :
    (x.setSlotSt slot v).rollback = x.rollback ∧ (x.setSlotSt slot v).sigRevoked = x.sigRevoked ∧ (x.setSlotSt slot v).keys = x.keys := by
  unfold setSlotSt
  split <;> exact ⟨rfl, rfl, rfl⟩
@[simp] theorem setFlash_stored (slot : Nat) (bs : List Byte) (x : Sec) :
    (x.setFlash slot bs).rollback = x.rollback ∧ (x.setFlash slot bs).sigRevoked = x.sigRevoked ∧ (x.setFlash slot bs).keys = x.keys := by
  unfold setFlash
  split <;> exact ⟨rfl, rfl, rfl⟩
@[simp] theorem append_stored (data : List Byte) (x : Sec) :
    (x.append data).rollback = x.rollback ∧ (x.append data).sigRevoked = x.sigRevoked ∧ (x.append data).keys = x.keys := by
  simp [append]
@[simp] theorem endSession_stored (code : Nat) (x : Sec) :
    (x.endSession code).rollback = x.rollback ∧ (x.endSession code).sigRevoked = x.sigRevoked ∧ (x.endSession code).keys = x.keys := ⟨rfl, rfl, rfl⟩
@[simp] theorem openSession_stored (holder slot : Nat) (x : Sec) :
    (x.openSession holder slot).rollback = x.rollback ∧ (x.openSession holder slot).sigRevoked = x.sigRevoked ∧
      (x.openSession holder slot).keys = x.keys := ⟨rfl, rfl, rfl⟩
@[simp] theorem runs_stored (step : Nat) (x : Sec) :
    (x.runs step).rollback = x.rollback ∧ (x.runs step).sigRevoked = x.sigRevoked ∧ (x.runs step).keys = x.keys := ⟨rfl, rfl, rfl⟩
@[simp] theorem deriveKeys_stored (x : Sec) :
    x.deriveKeys.rollback = x.rollback ∧ x.deriveKeys.sigRevoked = x.sigRevoked ∧ x.deriveKeys.keys = x.keys := ⟨rfl, rfl, rfl⟩
@[simp] theorem endorse_stored (x : Sec) :
    x.endorse.rollback = x.rollback ∧ x.endorse.sigRevoked = x.sigRevoked ∧ x.endorse.keys = x.keys := ⟨rfl, rfl, rfl⟩
@[simp] theorem loadBoot_stored (v : List Byte) (x : Sec) :
    (x.loadBoot v).rollback = x.rollback ∧ (x.loadBoot v).sigRevoked = x.sigRevoked ∧ (x.loadBoot v).keys = x.keys := ⟨rfl, rfl, rfl⟩
@[simp] theorem start_stored (slot : Nat) (x : Sec) :
    (x.start slot).rollback = x.rollback ∧ (x.start slot).sigRevoked = x.sigRevoked ∧ (x.start slot).keys = x.keys := ⟨rfl, rfl, rfl⟩
@[simp] theorem startRecovery_stored (x : Sec) :
    x.startRecovery.rollback = x.rollback ∧ x.startRecovery.sigRevoked = x.sigRevoked ∧ x.startRecovery.keys = x.keys := ⟨rfl, rfl, rfl⟩

end Sec

/-- The BMC is told without a change to the security unit. -/
@[simp] theorem State.tellBmc_sec (holder : Nat) (r : PldmReq) (s : State) : (s.tellBmc holder r).sec = s.sec := by
  unfold State.tellBmc
  split <;> rfl

/-! ### Commands that write HUB_LOCK -/

/-- `t` keeps what stands protected in `s`, but HUB_LOCK may have become `l`. -/
structure State.KeepsBut (l : Bool) (s t : State) : Prop where
  stored : s.Keeps { t with hub := { t.hub with lock := s.hub.lock } }
  lock : t.hub.lock = s.hub.lock ∨ t.hub.lock = l

section

variable {s t u : State} {l : Bool}

theorem State.KeepsBut.trans (h : s.KeepsBut l t) (k : t.Keeps u) : s.KeepsBut l u where
  stored :=
    { mem := fun hm => k.mem (h.stored.mem hm), rollback := h.stored.rollback.trans k.rollback, fuses := fun i hi => k.fuses i (h.stored.fuses i hi),
      keys := fun x hx hr => k.keys x (h.stored.keys x hx hr) hr, lock := rfl }
  lock := k.lock ▸ h.lock

theorem State.Keeps.but (l : Bool) (h : s.Keeps t) : s.KeepsBut l t := ⟨⟨h.mem, h.rollback, h.fuses, h.keys, rfl⟩, .inl h.lock⟩

end

/-- A command's answer keeps what stands protected in `s`, but HUB_LOCK may have become `l`. -/
def State.HoldsBut (l : Bool) (s : State) (r : Res) : Prop := ∀ t, r = .next t → s.KeepsBut l t

@[simp] theorem State.holdsBut_next {l : Bool} {s t : State} : s.HoldsBut l (.next t) ↔ s.KeepsBut l t :=
  ⟨fun h => h t rfl, fun h _ hu => Host.Outcome.next.inj hu ▸ h⟩

theorem State.Holds.but (l : Bool) {s : State} {r : Res} (h : s.Holds r) : s.HoldsBut l r := fun t ht => (h t ht).but l

@[simp] theorem execRwcComplementWrite_holds {path : Path} {r : RwcReg} (h : path ≠ .host ∨ r ≠ .hubLock) (v : W32) (s : State) :
    s.Holds (execRwcComplementWrite path r v s) := by
  rw [execRwcComplementWrite, State.holds_next]
  dsimp only
  split
  · simp
  · split
    · cases r with
      | hubLock =>
        have hp : path ≠ .host := h.resolve_right (not_not_intro rfl)
        simp [State.takeRwc, hp]
      | bwCeil => simp [State.takeRwc]
    · simp

/-- The complement sets HUB_LOCK at most. -/
theorem execRwcComplementWrite_holdsBut (path : Path) (r : RwcReg) (v : W32) (s : State) : s.HoldsBut true (execRwcComplementWrite path r v s) := by
  rw [execRwcComplementWrite, State.holdsBut_next]
  dsimp only
  split
  · exact State.Keeps.but _ (by simp)
  · split
    · cases r with
      | hubLock =>
        dsimp only [State.takeRwc]
        split
        · exact ⟨by simp [State.setRwc], .inr rfl⟩
        · exact State.Keeps.but _ (by simp)
      | bwCeil => exact State.Keeps.but _ (by simp [State.takeRwc])
    · exact State.Keeps.but _ (by simp)

end Sys2Proof.Machine
end

section
/-! Resets of the ring, update sessions, bank writes and power events keep what stands protected; a confirmed image raises the rollback counter and blows fuses alone. -/

namespace Sys2Proof.Machine

variable {s s' u : State}

namespace State.Keeps

@[simp] theorem enterRing (wrap : Option Nat) (hs : s.Keeps s') : s.Keeps (s'.enterRing wrap) := by
  unfold State.enterRing
  dsimp only
  split <;> simp [hs]

end State.Keeps

@[simp] theorem execRingForm_holds (s : State) : s.Holds (execRingForm s) := by
  simp [execRingForm]

@[simp] theorem execRingDissolve_holds (s : State) : s.Holds (execRingDissolve s) := by
  simp [execRingDissolve]

@[simp] theorem execRingBypass_holds (on : Bool) (s : State) : s.Holds (execRingBypass on s) := by
  simp [execRingBypass]

@[simp] theorem execHello_holds (p : PortId) (m : HelloMsg) (s : State) : s.Holds (execHello p m s) := by
  unfold execHello
  dsimp only
  repeat' split
  all_goals simp

@[simp] theorem execToken_holds (p : PortId) (s : State) : s.Holds (execToken p s) := by
  simp [execToken]

@[simp] theorem execFormed_holds (p : PortId) (wrapRank : Option Nat) (s : State) : s.Holds (execFormed p wrapRank s) := by
  simp [execFormed]

@[simp] theorem execHopCheckTimeout_holds (missing : List Nat) (s : State) : s.Holds (execHopCheckTimeout missing s) := by
  unfold execHopCheckTimeout
  dsimp only
  repeat' split
  all_goals simp

@[simp] theorem execFormTimeout_holds (s : State) : s.Holds (execFormTimeout s) := by
  simp [execFormTimeout]

@[simp] theorem execRingAbort_holds (cause : RingLoss) (s : State) : s.Holds (execRingAbort cause s) := by
  unfold execRingAbort
  dsimp only
  repeat' split
  all_goals simp

namespace State.Keeps

@[simp] theorem abortSession (cause : Nat) : s.Keeps (s'.abortSession cause) ↔ s.Keeps s' := by
  simp [State.abortSession]

@[simp] theorem linkLost : s.Keeps s'.linkLost ↔ s.Keeps s' := by
  simp [State.linkLost]

end State.Keeps

@[simp] theorem execWarmResetComplete_holds (s : State) : s.Holds (execWarmResetComplete s) := by
  simp [execWarmResetComplete]

namespace State.Keeps

@[simp] theorem rejectHeader (code : Nat) : s.Keeps (s'.rejectHeader code) ↔ s.Keeps s' := by
  simp [State.rejectHeader]

@[simp] theorem askBmc (r : PldmReq) : s.Keeps (s'.askBmc r) ↔ s.Keeps s' := by
  simp [State.askBmc]

@[simp] theorem tellBmc (holder : Nat) (r : PldmReq) : s.Keeps (s'.tellBmc holder r) ↔ s.Keeps s' := by
  simp [State.tellBmc]

@[simp] theorem acceptHeader : s.Keeps s'.acceptHeader ↔ s.Keeps s' := by
  unfold State.acceptHeader
  split <;> simp

@[simp] theorem writeData (data : List Byte) (last : Bool) : s.Keeps (s'.writeData data last) ↔ s.Keeps s' := by
  unfold State.writeData
  dsimp only
  split <;> simp [State.draw]

@[simp] theorem receive (offset : Nat) (data : List Byte) (last : Bool) : s.Keeps (s'.receive offset data last) ↔ s.Keeps s' := by
  unfold State.receive
  simp only [ite_iff]
  simp [State.draw]

@[simp] theorem rcOpen (st : Nat) : s.Keeps (s'.rcOpen st) ↔ s.Keeps s' := by
  simp [State.rcOpen]

end State.Keeps

@[simp] theorem execGetFwInfo_holds (s : State) : s.Holds (execGetFwInfo s) := by
  simp [execGetFwInfo]

@[simp] theorem execTransferFw_holds (slot : Nat) (offset : Nat) (data : List Byte) (last : Bool) (s : State) :
    s.Holds (execTransferFw slot offset data last s) := by
  rw [execTransferFw, State.holds_next]
  refine State.Keeps.mailbox _ _ (fun u => ?_) (.refl s)
  simp only [State.Keeps.ite_iff]
  simp

namespace State.Keeps

@[simp] theorem activate : s.Keeps s'.activate ↔ s.Keeps s' := by
  simp [State.activate]

end State.Keeps

@[simp] theorem execActivateFw_holds (slot : Nat) (onNextColdReset : Bool) (s : State) : s.Holds (execActivateFw slot onNextColdReset s) := by
  simp [execActivateFw]

@[simp] theorem execImageVerifyDone_holds (flashError : Bool) (s : State) : s.Holds (execImageVerifyDone flashError s) := by
  rw [execImageVerifyDone, State.holds_next]
  split
  · exact .refl s
  · split
    · simp
    · dsimp only
      split
      · simp
      · simp [State.draw]

@[simp] theorem execUpdateSessionTimeout_holds (s : State) : s.Holds (execUpdateSessionTimeout s) := by
  simp [execUpdateSessionTimeout]

@[simp] theorem execUpdState_holds (src : Source) (s : State) : s.Holds (execUpdState src s) := by
  simp [execUpdState]

@[simp] theorem execUpdCancel_holds (src : Source) (s : State) : s.Holds (execUpdCancel src s) := by
  simp [execUpdCancel]

@[simp] theorem execFwConfirm_holds (src : Source) (s : State) : s.Holds (execFwConfirm src s) := by
  simp [execFwConfirm]

namespace State.Keeps

@[simp] theorem pldm (code : Nat) (data : List Byte) : s.Keeps (s'.pldm code data) ↔ s.Keeps s' := by
  simp [State.pldm]

@[simp] theorem fromBmc {go : State → State} (hgo : ∀ u : State, u.Keeps (go u)) (hs : s.Keeps s') : s.Keeps (s'.fromBmc go) := by
  unfold State.fromBmc
  split
  · exact hs.trans (hgo _)
  · exact hs

@[simp] theorem pldmIn (at_ : PldmSt) {go : State → State} (hgo : ∀ u : State, u.Keeps (go u)) (hs : s.Keeps s') : s.Keeps (s'.pldmIn at_ go) := by
  refine fromBmc (fun u => ?_) hs
  split
  · simp
  · split
    · simp
    · exact State.Keeps.trans (by simp) (hgo _)

end State.Keeps

@[simp] theorem execRequestUpdate_holds (s : State) : s.Holds (execRequestUpdate s) := by
  rw [execRequestUpdate, State.holds_next]
  refine State.Keeps.fromBmc (fun u => ?_) (.refl s)
  simp

@[simp] theorem execPassComponentTable_holds (data : List Byte) (s : State) : s.Holds (execPassComponentTable data s) := by
  simp [execPassComponentTable]

namespace State.Keeps

@[simp] theorem askPiece : s.Keeps s'.askPiece ↔ s.Keeps s' := by
  simp [State.askPiece]

end State.Keeps

@[simp] theorem execUpdateComponent_holds (s : State) : s.Holds (execUpdateComponent s) := by
  simp [execUpdateComponent]

@[simp] theorem execFirmwareDataReceived_holds (offset : Nat) (data : List Byte) (last : Bool) (s : State) : s.Holds
    (execFirmwareDataReceived offset data last s) := by
  simp [execFirmwareDataReceived]

@[simp] theorem execActivateFirmware_holds (selfContained : Bool) (s : State) : s.Holds (execActivateFirmware selfContained s) := by
  simp [execActivateFirmware]

@[simp] theorem execPldmGetStatus_holds (s : State) : s.Holds (execPldmGetStatus s) := by
  simp [execPldmGetStatus]

@[simp] theorem execCancelUpdate_holds (s : State) : s.Holds (execCancelUpdate s) := by
  simp [execCancelUpdate]

namespace State.Keeps

@[simp] theorem blowFuses (hs : s.Keeps s') : s.Keeps s'.blowFuses := by
  unfold State.blowFuses
  refine foldl (fun u k => ?_) hs
  split
  · refine (record ..).2 { refl u with fuses := fun i hi => ?_ }
    simp [hi]
  · exact refl u

@[simp] theorem raiseRollback (hs : s.Keeps s') : s.Keeps s'.raiseRollback := by
  unfold State.raiseRollback
  split
  · next h => exact (record ..).2 (hs.trans { refl s' with rollback := h.le })
  · exact hs

@[simp] theorem reformat : s.Keeps s'.reformat ↔ s.Keeps s' := by
  simp [State.reformat]

@[simp] theorem jobDone (job : BankJob) (hs : s.Keeps s') : s.Keeps (s'.jobDone job) := by
  cases job with
  | factory src =>
    have hk : s.Keeps (s'.applyAll []) := by simp [hs]
    exact (record ..).2 (hk.trans { refl _ with keys := fun k hk hr => List.mem_filter.2 ⟨hk, hr⟩ })
  | confirm src =>
    unfold State.jobDone
    dsimp only
    split
    · simp [hs]
    · exact reformat.2 (blowFuses (raiseRollback (by simp [hs])))
  | erase =>
    unfold State.jobDone
    dsimp only
    split <;> simp [hs]
  | _ => simp [State.jobDone, hs]

@[simp] theorem bankWrite (readBackOk : Bool) (hs : s.Keeps s') : s.Keeps (s'.bankWrite readBackOk) := by
  unfold State.bankWrite
  split <;> simp [hs]

@[simp] theorem pkg (f : Bw → Bw) : s.Keeps (s'.pkg f) ↔ s.Keeps s' := by
  simp [State.pkg]

@[simp] theorem setSlack (on : Bool) : s.Keeps (s'.setSlack on) ↔ s.Keeps s' := by
  simp [State.setSlack]

@[simp] theorem setNeap (on : Bool) : s.Keeps (s'.setNeap on) ↔ s.Keeps s' := by
  simp [State.setNeap]

end State.Keeps

@[simp] theorem execBwCtrlSlackWrite_holds (on : Bool) (s : State) : s.Holds (execBwCtrlSlackWrite on s) := by
  simp [execBwCtrlSlackWrite]

@[simp] theorem execBwCtrlNeapWrite_holds (on : Bool) (s : State) : s.Holds (execBwCtrlNeapWrite on s) := by
  simp [execBwCtrlNeapWrite]

@[simp] theorem execSlack_holds (src : Source) (enter : Bool) (s : State) : s.Holds (execSlack src enter s) := by
  simp [execSlack]

@[simp] theorem execNeap_holds (src : Source) (enter : Bool) (s : State) : s.Holds (execNeap src enter s) := by
  simp [execNeap]

namespace State.Keeps

@[simp] theorem freezeDebt : s.Keeps s'.freezeDebt ↔ s.Keeps s' := by
  simp [State.freezeDebt]

@[simp] theorem warnLow : s.Keeps s'.warnLow ↔ s.Keeps s' := by
  simp [State.warnLow]

end State.Keeps

@[simp] theorem execPwrWarnAssert_holds (s : State) : s.Holds (execPwrWarnAssert s) := by
  simp [execPwrWarnAssert]

@[simp] theorem execPwrWarnDeassert_holds (s : State) : s.Holds (execPwrWarnDeassert s) := by
  simp [execPwrWarnDeassert]

@[simp] theorem execNeapExit_holds (s : State) : s.Holds (execNeapExit s) := by
  simp [execNeapExit]

namespace State.Keeps

@[simp] theorem abandonJobs : s.Keeps s'.abandonJobs ↔ s.Keeps s' := by
  unfold State.abandonJobs
  refine (foldl_iff fun s u j => ?_).trans (by simp)
  split <;> simp

@[simp] theorem park : s.Keeps s'.park ↔ s.Keeps s' := by
  simp [State.park]

@[simp] theorem powerFail (uj : Nat) : s.Keeps (s'.powerFail uj) ↔ s.Keeps s' := by
  simp [State.powerFail]

end State.Keeps

@[simp] theorem execPowerReturn_holds (s : State) : s.Holds (execPowerReturn s) := by
  simp [execPowerReturn]

@[simp] theorem execPllUnlock_holds (d : Fin 5) (s : State) : s.Holds (execPllUnlock d s) := by
  unfold execPllUnlock
  dsimp only
  repeat' split
  all_goals simp

@[simp] theorem execThermalUpdate_holds (temps : List TempReading) (s : State) : s.Holds (execThermalUpdate temps s) := by
  unfold execThermalUpdate
  split <;> simp

@[simp] theorem execThermtrip_holds (temp : Int) (die : Fin 5) (s : State) : s.Holds (execThermtrip temp die s) := by
  simp [execThermtrip]

@[simp] theorem execBaseRecalibrate_holds (r : RailReading) (s : State) : s.Holds (execBaseRecalibrate r s) := by
  simp [execBaseRecalibrate]

@[simp] theorem execAcousticUpdate_holds (s : State) : s.Holds (execAcousticUpdate s) := by
  simp [execAcousticUpdate]

@[simp] theorem execFanUpdate_holds (pulses0 pulses1 : Nat) (s : State) : s.Holds (execFanUpdate pulses0 pulses1 s) := by
  simp [execFanUpdate]

@[simp] theorem execFanStall_holds (n : Fin 2) (s : State) : s.Holds (execFanStall n s) := by
  simp [execFanStall]

@[simp] theorem execHoldupSample_holds (mv : Nat) (s : State) : s.Holds (execHoldupSample mv s) := by
  simp [execHoldupSample]

namespace State.Keeps

@[simp] theorem bootWrite (hs : s.Keeps s') : s.Keeps s'.bootWrite := by
  simp [State.bootWrite, hs]

@[simp] theorem bootActive (hs : s.Keeps s') : s.Keeps s'.bootActive := by
  unfold State.bootActive
  dsimp only
  split
  · simp [hs]
  · split <;> simp [hs]

@[simp] theorem revert (cause : Nat) (hs : s.Keeps s') : s.Keeps (s'.revert cause) := by
  unfold State.revert
  exact bootActive (by simp [hs])

@[simp] theorem bootChoice (hs : s.Keeps s') : s.Keeps s'.bootChoice := by
  unfold State.bootChoice
  dsimp only
  split
  · simp [hs]
  · split
    · exact revert _ hs
    · split
      · simp [hs]
      · exact revert _ (by simp [hs])

@[simp] theorem loadSettings (hs : s.Keeps s') : s.Keeps s'.loadSettings := by
  unfold State.loadSettings
  split <;> simp [hs]

@[simp] theorem startPlanes (dimms : List (Option DdrModule)) : s.Keeps (s'.startPlanes dimms) ↔ s.Keeps s' := by
  unfold State.startPlanes
  split
  · rfl
  · simp

end State.Keeps

end Sys2Proof.Machine
end

section
/-! The budget epoch, the row unit, the management commands and the sideband keep what stands protected. -/

namespace Sys2Proof.Machine

variable {s s' u : State}

namespace State.Keeps

@[simp] theorem takeRequests (reqs : List ReqWord) : s.Keeps (s'.takeRequests reqs) ↔ s.Keeps s' := by
  simp [State.takeRequests]

@[simp] theorem health (r : ReqWord) (c : Nat) : s.Keeps (s'.health r c) ↔ s.Keeps s' := by
  simp [State.health]

@[simp] theorem deliver_ (reqs : List ReqWord) (x : Share) : s.Keeps (s'.deliver_ reqs x) ↔ s.Keeps s' := by
  simp [State.deliver_]

@[simp] theorem ageLeases : s.Keeps s'.ageLeases ↔ s.Keeps s' := by
  simp [State.ageLeases]

@[simp] theorem dueResets : s.Keeps s'.dueResets ↔ s.Keeps s' := by
  simp [State.dueResets]

@[simp] theorem budget (reqs : List ReqWord) : s.Keeps (s'.budget reqs) ↔ s.Keeps s' := by
  simp [State.budget]

@[simp] theorem loseEntries : s.Keeps s'.loseEntries ↔ s.Keeps s' := by
  simp [State.loseEntries]

@[simp] theorem mramUpset (u : MramUpset) : s.Keeps (s'.mramUpset u) ↔ s.Keeps s' := by
  unfold State.mramUpset
  split <;> simp

@[simp] theorem linkCrc : s.Keeps s'.linkCrc ↔ s.Keeps s' := by
  simp [State.linkCrc]

@[simp] theorem upsets (e : SoftErrors) : s.Keeps (s'.upsets e) ↔ s.Keeps s' := by
  simp [State.upsets]

end State.Keeps

@[simp] theorem execBudgetEpoch_holds (reqs : List ReqWord) (errs : SoftErrors) (s : State) : s.Holds (execBudgetEpoch reqs errs s) := by
  have hupsets : s.Keeps (State.upsets errs { s with us := s.us + 1 }) := by simp
  rw [execBudgetEpoch, State.holds_next]
  dsimp only
  split
  · exact hupsets
  · split
    · simp
    · exact .drainCq (.resumeRing (by simp))

@[simp] theorem execDomainWakeDone_holds (core : CoreId) (s : State) : s.Holds (execDomainWakeDone core s) := by
  simp [execDomainWakeDone]

namespace State.Keeps

@[simp] theorem putWords (c : Nat) (apb : Bool) (ws : List MaskedWord) : s.Keeps (s'.putWords c apb ws) ↔ s.Keeps s' := by
  simp [State.putWords]

@[simp] theorem censWrite (c : Nat) (q : SlotCfg) (apb : Bool) (a ostr : Nat) (xs : List (List Int)) : s.Keeps (s'.censWrite c q apb a ostr xs) ↔
    s.Keeps s' := by
  simp [State.censWrite]

end State.Keeps

@[simp] theorem execRowf_holds (c : CoreId) (t : SlotId) (ev : UnitEvents) (s : State) : s.Holds (execRowf c t ev s) := by
  rw [execRowf, State.holds_next]
  refine State.Keeps.issue c t _ (fun w u => ?_) (.refl s)
  dsimp only
  split <;> simp

@[simp] theorem execCens_holds (c : CoreId) (t : SlotId) (ev : UnitEvents) (s : State) : s.Holds (execCens c t ev s) := by
  rw [execCens, State.holds_next]
  refine State.Keeps.issue c t _ (fun w u => ?_) (.refl s)
  dsimp only
  split <;> simp

@[simp] theorem execPred_holds (c : CoreId) (t : SlotId) (ev : UnitEvents) (s : State) : s.Holds (execPred c t ev s) := by
  rw [execPred, State.holds_next]
  refine State.Keeps.issue c t _ (fun w u => ?_) (.refl s)
  dsimp only
  split <;> simp

namespace State.Keeps

@[simp] theorem swash (c t : Nat) (key : Bool) (ev : UnitEvents) (w : Nat) (hs : s.Keeps s') : s.Keeps (s'.swash c t key ev w) := by
  unfold State.swash
  dsimp only
  split <;> simp [hs]

end State.Keeps

@[simp] theorem execDelta_holds (c : CoreId) (t : SlotId) (ev : UnitEvents) (s : State) : s.Holds (execDelta c t ev s) := by
  simp [execDelta]

@[simp] theorem execDeltaKey_holds (c : CoreId) (t : SlotId) (ev : UnitEvents) (s : State) : s.Holds (execDeltaKey c t ev s) := by
  simp [execDeltaKey]

namespace State.Keeps

@[simp] theorem coreCmd (i : Instr) (src : Source) (op : Nat) (from_ : List Source) (core : Nat) (go : State → State)
    (hgo : ∀ u : State, u.Keeps (go u)) (hs : s.Keeps s') : s.Keeps (s'.coreCmd i src op from_ core go) := by
  simp [State.coreCmd, hs, hgo]

@[simp] theorem fenceCore (i : Instr) (src : Source) (core : Nat) (hs : s.Keeps s') : s.Keeps (s'.fenceCore i src core) := by
  simp [State.fenceCore, hs]

end State.Keeps

@[simp] theorem execFenceCore_holds (src : Source) (core : Nat) (link : MboxLink) (s : State) : s.Holds (execFenceCore src core link s) := by
  unfold execFenceCore
  split <;> simp

@[simp] theorem execUnbeach_holds (src : Source) (core : Nat) (s : State) : s.Holds (execUnbeach src core s) := by
  simp [execUnbeach]

@[simp] theorem execCoreReset_holds (src : Source) (core : Nat) (s : State) : s.Holds (execCoreReset src core s) := by
  simp [execCoreReset]

@[simp] theorem execDieReset_holds (src : Source) (die : Nat) (s : State) : s.Holds (execDieReset src die s) := by
  simp [execDieReset]

@[simp] theorem execDieResetRelease_holds (d : DieId) (s : State) : s.Holds (execDieResetRelease d s) := by
  simp [execDieResetRelease]

namespace State.Keeps

@[simp] theorem unitReset (u : ResetUnit) (d cause : Nat) : s.Keeps (s'.unitReset u d cause) ↔ s.Keeps s' := by
  unfold State.unitReset
  split <;> simp

end State.Keeps

@[simp] theorem execUnitReset_holds (src : Source) (code : Nat) (die : Nat) (s : State) : s.Holds (execUnitReset src code die s) := by
  unfold execUnitReset
  split <;> simp

@[simp] theorem execUnitWatchdog_holds (u : ResetUnit) (d : DieId) (s : State) : s.Holds (execUnitWatchdog u d s) := by
  simp [execUnitWatchdog]

@[simp] theorem execHeartbeat_holds (link : MboxLink) (s : State) : s.Holds (execHeartbeat link s) := by
  rw [execHeartbeat, State.holds_next]
  exact .hubCmd _ _ _ _ (fun u => .cmd _ _ _ _ _ _ (fun v => by simp) (.refl u)) (.refl s)

@[simp] theorem execHeartbeatMiss_holds (s : State) : s.Holds (execHeartbeatMiss s) := by
  simp [execHeartbeatMiss]

@[simp] theorem execTmkRead_holds (src : Source) (seq : Nat) (s : State) : s.Holds (execTmkRead src seq s) := by
  simp [execTmkRead]

namespace State.Keeps

@[simp] theorem readReply (x : Snap) : s.Keeps (s'.readReply x) ↔ s.Keeps s' := by
  simp [State.readReply]

@[simp] theorem snapshotDone (src : Source) : s.Keeps (s'.snapshotDone src) ↔ s.Keeps s' := by
  unfold State.snapshotDone
  split <;> simp

@[simp] theorem attest (src : Source) (nonce : List Byte) (go : State → List Byte) : s.Keeps (s'.attest src nonce go) ↔ s.Keeps s' := by
  unfold State.attest
  split
  · rfl
  · split <;> simp

end State.Keeps

@[simp] theorem execAttestReport_holds (src : Source) (nonce : List Byte) (s : State) : s.Holds (execAttestReport src nonce s) := by
  simp [execAttestReport]

@[simp] theorem execAttestCert_holds (src : Source) (nonce : List Byte) (s : State) : s.Holds (execAttestCert src nonce s) := by
  simp [execAttestCert]

theorem serveCmd_holds (i : Instr) (s : State) : s.Holds (serveCmd i s) := by
  cases i <;> simp [serveCmd]

namespace State.Keeps

@[simp] theorem serveCmds (n : Nat) (hs : s.Keeps s') : s.Keeps (s'.serveCmds n) := by
  induction n generalizing s' with
  | zero => exact hs
  | succ n ih =>
    unfold State.serveCmds
    split
    · exact hs
    · split
      · exact hs
      · next i rest _ =>
        split
        · next t ht =>
          have hrest : s.Keeps { s' with sec := { s'.sec with cmds := rest } } := by simp [hs]
          exact ih (hrest.trans (serveCmd_holds i _ _ ht))
        · exact hs

@[simp] theorem serveWaiting (hs : s.Keeps s') : s.Keeps s'.serveWaiting := serveCmds _ hs

end State.Keeps

@[simp] theorem execSettingsBankWrite_holds (readBackOk : Bool) (s : State) : s.Holds (execSettingsBankWrite readBackOk s) := by
  simp [execSettingsBankWrite]

@[simp] theorem execTmkSnapshotDone_holds (src : Source) (s : State) : s.Holds (execTmkSnapshotDone src s) := by
  simp [execTmkSnapshotDone]

@[simp] theorem execPwrFailAssert_holds (uj : Nat) (s : State) : s.Holds (execPwrFailAssert uj s) := by
  simp [execPwrFailAssert]

@[simp] theorem execRefclkLoss_holds (s : State) : s.Holds (execRefclkLoss s) := by
  simp [execRefclkLoss]

namespace State.Keeps

@[simp] theorem sideband {go : State → State} (hgo : ∀ u : State, u.Keeps (go u)) (hs : s.Keeps s') : s.Keeps (s'.sideband go) := by
  unfold State.sideband
  split
  · exact hs.trans (hgo _)
  · exact hs

@[simp] theorem clearAlerts (m : BitVec 4) : s.Keeps (s'.clearAlerts m) ↔ s.Keeps s' := by
  simp [State.clearAlerts]

end State.Keeps

@[simp] theorem execHubAlertClear_holds (v : W32) (s : State) : s.Holds (execHubAlertClear v s) := by
  simp [execHubAlertClear]

@[simp] theorem execSmbusAlertResponse_holds (s : State) : s.Holds (execSmbusAlertResponse s) := by
  simp [execSmbusAlertResponse]

@[simp] theorem execIbiAck_holds (k : Fin 4) (s : State) : s.Holds (execIbiAck k s) := by
  simp [execIbiAck]

@[simp] theorem execPldmGetSensorReading_holds (sensor : PldmSensor) (s : State) : s.Holds (execPldmGetSensorReading sensor s) := by
  simp [execPldmGetSensorReading]

@[simp] theorem execMctpControl_holds (b : Binding) (m : MctpMsg) (s : State) : s.Holds (execMctpControl b m s) := by
  unfold execMctpControl
  dsimp only
  repeat' split
  all_goals simp

@[simp] theorem execI3cCcc_holds (c : Ccc) (s : State) : s.Holds (execI3cCcc c s) := by
  unfold execI3cCcc
  split <;> simp

@[simp] theorem execJtagInstruction_holds (i : JtagInstr) (s : State) : s.Holds (execJtagInstruction i s) := by
  simp [execJtagInstruction]

end Sys2Proof.Machine
end

section
/-! Every command keeps what stands protected (R38, R281, R429, R432, R445). -/

namespace Sys2Proof.Machine

/-! ### Resets -/

namespace State.Keeps

variable {s s' : State}

/-- Warm reset clears HUB_LOCK (R38) and keeps the rest. -/
theorem warmReset_but (cause : Nat) (s : State) : s.KeepsBut false (s.warmReset cause) := by
  unfold State.warmReset
  split
  · exact (refl s).but false
  · extract_lets host broken aborted abortedSec closed closedSec closedHub units checked
    have hclosed : s.Keeps closed := by
      refine iteInduction (motive := fun u => s.Keeps u) (fun _ => ?_) fun _ => ?_ <;> simp [abortedSec, aborted, broken]
    have hunits : s.KeepsBut false units := ⟨⟨hclosed.mem, hclosed.rollback, hclosed.fuses, hclosed.keys, rfl⟩, .inr rfl⟩
    exact hunits.trans (foldl (fun u w => by simp) (by simp [checked]))

end State.Keeps

theorem execHotReset_holdsBut (s : State) : s.HoldsBut false (execHotReset s) :=
  State.holdsBut_next.2 ((State.Keeps.warmReset_but 2 s).trans (by simp))
theorem execDlDown_holdsBut (s : State) : s.HoldsBut false (execDlDown s) :=
  State.holdsBut_next.2 ((State.Keeps.warmReset_but 3 s).trans (by simp))
theorem execFlr_holdsBut (s : State) : s.HoldsBut false (execFlr s) := State.holdsBut_next.2 (State.Keeps.warmReset_but 4 s)
theorem execCxlReset_holdsBut (s : State) : s.HoldsBut false (execCxlReset s) := State.holdsBut_next.2 (State.Keeps.warmReset_but 5 s)

/-- What PERST_N and cold reset keep (R396, R397). -/
theorem State.Keeps.coldHold_but (s : State) : s.KeepsBut false s.coldHold := ⟨⟨fun _ => rfl, le_rfl, fun _ => id, fun _ h _ => h, rfl⟩, .inr rfl⟩

theorem execPerstAssert_holdsBut (s : State) : s.HoldsBut false (execPerstAssert s) :=
  State.holdsBut_next.2 ((State.Keeps.coldHold_but s).trans (by simp))

namespace State.Keeps

variable {s s' : State}

theorem startMgmt_but (p : BootPins) (s : State) : s.KeepsBut false (s.startMgmt p) := ⟨⟨fun _ => rfl, le_rfl, fun _ => id, fun _ h _ => h, rfl⟩, .inr rfl⟩
@[simp] theorem logReset (cause : Nat) : s.Keeps (s'.logReset cause) ↔ s.Keeps s' := by
  unfold State.logReset
  dsimp only
  split <;> simp
@[simp] theorem deriveKeys : s.Keeps s'.deriveKeys ↔ s.Keeps s' := by simp [State.deriveKeys]
theorem chooseImage (p : BootPins) (hs : s.Keeps s') : s.Keeps (s'.chooseImage p) := by
  unfold State.chooseImage
  split <;> simp [hs]
theorem startImage (p : BootPins) (hs : s.Keeps s') : s.Keeps (s'.startImage p) := by
  simp [State.startImage, hs]
theorem actOnWarn (p : BootPins) (hs : s.Keeps s') : s.Keeps (s'.actOnWarn p) := by
  unfold State.actOnWarn
  split <;> simp [hs]

end State.Keeps

/-- A cold reset whose supply has already failed parks the package again. -/
theorem exec_coldReset_of_failLow {p : BootPins} (htest : p.testEn = false) (hfail : p.failLow = true) (s : State) :
    exec (.coldReset p) s = .next (((s.startMgmt p).logReset (coldCause p)).draw.2.powerFail ((s.startMgmt p).logReset (coldCause p)).draw.1) := by
  cases p
  subst htest hfail
  rfl

theorem exec_coldReset_of_testEn {p : BootPins} (htest : p.testEn = true) (s : State) :
    exec (.coldReset p) s = .next { s.coldHold with hub := { s.coldHold.hub with bootsrc := p.bootsrc % 4, sbaddr := p.sbaddr % 8, testEn := true } } := by
  cases p
  subst htest
  rfl

theorem exec_coldReset_holdsBut (p : BootPins) (s : State) : s.HoldsBut false (exec (.coldReset p) s) := by
  by_cases htest : p.testEn = true
  · rw [exec_coldReset_of_testEn htest, State.holdsBut_next]
    exact (State.Keeps.coldHold_but s).trans (by simp)
  · have hmgmt := State.Keeps.startMgmt_but p s
    by_cases hfail : p.failLow = true
    · rw [exec_coldReset_of_failLow (by simpa using htest) hfail, State.holdsBut_next]
      exact hmgmt.trans (by simp)
    · rw [exec_coldReset (by simpa using htest) (by simpa using hfail), State.holdsBut_next]
      exact hmgmt.trans (.actOnWarn p (.startImage p (.chooseImage p (by simp))))

/-! ### Every command -/

theorem exec_holds {i : Instr} (hend : lockEnds i = false) (hset : ∀ v, i ≠ .rwcComplementWrite .host .hubLock v) (s : State) : s.Holds (exec i s) := by
  cases i
  case rwcComplementWrite path r v =>
    refine execRwcComplementWrite_holds ?_ v s
    rw [← not_and_or]
    rintro ⟨rfl, rfl⟩
    exact hset v rfl
  case hotReset | dlDown | flr | cxlReset | perstAssert | coldReset => cases hend
  all_goals simp [exec]

theorem exec_holdsBut {i : Instr} (hend : lockEnds i = true) (s : State) : s.HoldsBut false (exec i s) := by
  cases i
  case hotReset => exact execHotReset_holdsBut s
  case dlDown => exact execDlDown_holdsBut s
  case flr => exact execFlr_holdsBut s
  case cxlReset => exact execCxlReset_holdsBut s
  case perstAssert => exact execPerstAssert_holdsBut s
  case coldReset p => exact exec_coldReset_holdsBut p s
  all_goals cases hend

/-- What a command keeps, by the three kinds that R38 makes: those that clear HUB_LOCK, the one that sets it, and all others. -/
theorem exec_keepsBut (i : Instr) {s t : State} (h : exec i s = .next t) :
    (lockEnds i = true ∧ s.KeepsBut false t) ∨ ((∃ v, i = .rwcComplementWrite .host .hubLock v) ∧ s.KeepsBut true t) ∨ s.Keeps t := by
  cases hend : lockEnds i with
  | true => exact .inl ⟨rfl, exec_holdsBut hend s t h⟩
  | false =>
    by_cases hset : ∃ v, i = .rwcComplementWrite .host .hubLock v
    · obtain ⟨v, rfl⟩ := hset
      exact .inr (.inl ⟨⟨v, rfl⟩, execRwcComplementWrite_holdsBut _ _ v s t h⟩)
    · exact .inr (.inr (exec_holds hend (fun v hv => hset ⟨v, hv⟩) s t h))

theorem exec_keepsStored (i : Instr) {s t : State} (h : exec i s = .next t) : s.Keeps { t with hub := { t.hub with lock := s.hub.lock } } := by
  obtain ⟨-, hk⟩ | ⟨-, hk⟩ | hk := exec_keepsBut i h
  · exact hk.stored
  · exact hk.stored
  · exact (hk.but true).stored

/-- Settles O58, by what every command keeps. -/
theorem stepKeepsMemoryCanonical : Obligations.StepKeepsMemoryCanonical := by
  unfold Obligations.StepKeepsMemoryCanonical
  intro s t hwf hstep
  unfold step at hstep
  split at hstep
  · cases hstep
    exact hwf
  · next i rest _ => exact (exec_keepsStored i hstep).mem hwf

/-- Settles O59, by what every command keeps: HUB_LOCK is written by the commands of R38 and the host's complement alone. -/
theorem protectedStateHolds : Obligations.ProtectedStateHolds := by
  unfold Obligations.ProtectedStateHolds
  intro c s t hexec
  have hstored := exec_keepsStored c hexec
  refine ⟨hstored.rollback, hstored.fuses, hstored.keys, fun hs ht => ?_, fun hs ht => ?_⟩
  · obtain ⟨hend, -⟩ | ⟨-, hk⟩ | hk := exec_keepsBut c hexec
    · exact hend
    · simpa [hs, ht] using hk.lock
    · simpa [hs, ht] using hk.lock
  · obtain ⟨-, hk⟩ | ⟨hset, -⟩ | hk := exec_keepsBut c hexec
    · simpa [hs, ht] using hk.lock
    · exact hset
    · simpa [hs, ht] using hk.lock

end Sys2Proof.Machine
end

section
/-! Every command goes on, but for a host access that the committed decoder does not hold. -/

namespace Sys2Proof.Machine

/-- Settles O56: each command's meaning answers a next state but those of the host's CXL.mem accesses. -/
theorem everyCommandGoesOn : Obligations.EveryCommandGoesOn := by
  unfold Obligations.EveryCommandGoesOn
  intro c s
  cases c
  case cxlMemRead hpa copy err =>
    cases h : s.hostDla hpa with
    | none => exact .inr ⟨by simp [exec, execCxlMemRead, h], hpa, h, .inl ⟨copy, err, rfl⟩⟩
    | some dla => exact .inl (by simp [exec, execCxlMemRead, h])
  case cxlMemWrite hpa data p copy err =>
    cases h : s.hostDla hpa with
    | none => exact .inr ⟨by simp [exec, execCxlMemWrite, h], hpa, h, .inr ⟨data, p, copy, err, rfl⟩⟩
    | some dla => exact .inl (by simp [exec, execCxlMemWrite, h])
  all_goals exact .inl ⟨_, rfl⟩

end Sys2Proof.Machine
end

section
/-! The mailboxes: when a command is served, waits behind another one, or is refused (R448, R356, R440). -/

namespace Sys2Proof.Machine

variable {s : State} {i : Instr} {src : Source} {op : Nat} {from_ : List Source} {inRecovery : Bool} {go : State → State}

theorem State.inTurn_of_idle (h : s.serving = false) : s.inTurn i go = go s := by
  simp [State.inTurn, h]

theorem State.inTurn_of_serving (h : s.serving = true) : s.inTurn i go = { s with sec := { s.sec with cmds := s.sec.cmds ++ [i] } } := by
  simp [State.inTurn, h]

/-- A command from a source that has it, outside RECOVERY or served in it, is carried out in its turn. -/
theorem State.cmd_inTurn (ht : s.takesFrom src = true) (hsrc : src ∈ from_) (hrec : s.sec.recovery = false ∨ inRecovery = true)
    (hidle : s.serving = false) : s.cmd i src op from_ inRecovery go = go s := by
  rw [State.cmd, ht, if_neg (by simp), State.inTurn_of_idle hidle, if_neg]
  rcases hrec with h | h <;> simp [hsrc, h]

/-- A command that comes while another is served waits its turn. -/
theorem State.cmd_waits (ht : s.takesFrom src = true) (hserving : s.serving = true) :
    s.cmd i src op from_ inRecovery go = { s with sec := { s.sec with cmds := s.sec.cmds ++ [i] } } := by
  rw [State.cmd, ht, if_neg (by simp), State.inTurn_of_serving hserving]

/-- In RECOVERY a command that it does not serve is unsupported. -/
theorem State.cmd_recovery (ht : s.takesFrom src = true) (hrec : s.sec.recovery = true) (hidle : s.serving = false) :
    s.cmd i src op from_ false go = s.answerCmd src op .unsupported [] := by
  rw [State.cmd, ht, if_neg (by simp), State.inTurn_of_idle hidle, if_pos (by simp [hrec])]

/-- A command of a source that does not have it is unsupported. -/
theorem State.cmd_unsupported (ht : s.takesFrom src = true) (hsrc : src ∉ from_) (hidle : s.serving = false) :
    s.cmd i src op from_ inRecovery go = s.answerCmd src op .unsupported [] := by
  rw [State.cmd, ht, if_neg (by simp), State.inTurn_of_idle hidle, if_pos (by simp [hsrc])]

theorem State.mailbox_served (ht : s.takesFrom .host = true) (hrec : s.sec.recovery = false ∨ inRecovery = true) : s.mailbox inRecovery go = go s := by
  rw [State.mailbox, ht, if_neg (by simp), if_neg]
  rcases hrec with h | h <;> simp [h]

theorem State.mailbox_recovery (ht : s.takesFrom .host = true) (hrec : s.sec.recovery = true) : s.mailbox false go = s.rc .unsupported [] := by
  rw [State.mailbox, ht, if_neg (by simp), if_pos (by simp [hrec])]

theorem State.doe_served {reply : State → List Byte} (ht : s.takesFrom .host = true) (hrec : s.sec.recovery = false ∨ inRecovery = true) :
    s.doe inRecovery reply = { s with out := { s.out with doe := reply s } } := by
  rw [State.doe, ht, if_neg (by simp), if_neg]
  rcases hrec with h | h <;> simp [h]

/-- An interrupt message changes the CXL port and the outputs alone. -/
@[simp] theorem State.msi_fields (v : Nat) (s : State) : (s.msi v).cores = s.cores ∧ (s.msi v).roles = s.roles ∧ (s.msi v).fabric = s.fabric ∧
    (s.msi v).dies = s.dies ∧ (s.msi v).ldr = s.ldr ∧ (s.msi v).est = s.est ∧ (s.msi v).plm = s.plm ∧ (s.msi v).kl = s.kl ∧ (s.msi v).bw = s.bw ∧
    (s.msi v).tmk = s.tmk ∧ (s.msi v).sec = s.sec ∧ (s.msi v).hub = s.hub ∧ (s.msi v).us = s.us ∧ (s.msi v).fresh = s.fresh ∧
    (s.msi v).pending = s.pending := by
  unfold State.msi
  split <;> simp
@[simp] theorem State.msi_hostStatus (v : Nat) (s : State) : (s.msi v).out.hostStatus = s.out.hostStatus := by
  unfold State.msi
  split <;> rfl
@[simp] theorem State.msi_hostReply (v : Nat) (s : State) : (s.msi v).out.hostReply = s.out.hostReply := by
  unfold State.msi
  split <;> rfl

@[simp] theorem State.hostDone_fields (rc : Nat) (reply : List Byte) (s : State) : (s.hostDone rc reply).cores = s.cores ∧
    (s.hostDone rc reply).roles = s.roles ∧ (s.hostDone rc reply).fabric = s.fabric ∧ (s.hostDone rc reply).dies = s.dies ∧
    (s.hostDone rc reply).ldr = s.ldr ∧ (s.hostDone rc reply).est = s.est ∧ (s.hostDone rc reply).plm = s.plm ∧ (s.hostDone rc reply).kl = s.kl ∧
    (s.hostDone rc reply).bw = s.bw ∧ (s.hostDone rc reply).tmk = s.tmk ∧ (s.hostDone rc reply).sec = s.sec ∧ (s.hostDone rc reply).hub = s.hub ∧
    (s.hostDone rc reply).us = s.us ∧ (s.hostDone rc reply).fresh = s.fresh ∧ (s.hostDone rc reply).pending = s.pending := by
  simp [State.hostDone]
@[simp] theorem State.hostDone_status (rc : Nat) (reply : List Byte) (s : State) : (s.hostDone rc reply).out.hostStatus = rc := by simp [State.hostDone]
@[simp] theorem State.hostDone_reply (rc : Nat) (reply : List Byte) (s : State) : (s.hostDone rc reply).out.hostReply = reply := by simp [State.hostDone]

/-- A source other than the hub Headland is the host or the BMC. -/
theorem Source.mem_hostBmc {src : Source} (h : src ≠ .hub) : src ∈ [Source.host, .bmc] := by
  cases src
  · simp
  · simp
  · exact absurd rfl h

end Sys2Proof.Machine
end

section
/-! RECOVERY serves its own commands alone (R440). -/

namespace Sys2Proof.Machine

/-- Settles O60, by what a mailbox answers in RECOVERY. -/
theorem recoveryRefuses : Obligations.RecoveryRefuses := by
  unfold Obligations.RecoveryRefuses
  intro s hrec
  refine ⟨fun src hsrc ht hidle => ?_, fun ht => ?_, fun src seq hsrc hseq ht hidle => ?_⟩
  · have hno {i : Instr} {op : Nat} {from_ : List Source} {go : State → State} :
        (.next (s.cmd i src op from_ false go) : Res) = .next (s.answerCmd src op .unsupported []) := by
      rw [State.cmd_recovery ht hrec hidle]
    refine ⟨hno, fun c l => ?_, fun c => hno, fun c => hno, fun d => hno, fun u d => hno, fun b => hno, fun b => hno, fun i v => hno, fun i => hno, hno,
      fun k => hno, fun k => hno, hno⟩
    cases src with
    | hub => exact absurd rfl hsrc
    | host => exact hno
    | bmc => exact hno
  · have hno {go : State → State} : (.next (s.mailbox false go) : Res) = .next (s.rc .unsupported []) := by
      rw [State.mailbox_recovery ht hrec]
    refine ⟨fun l => hno, fun l h a => hno, hno, fun v => hno, hno, fun v => hno, hno, fun l => hno, ⟨_, rfl, ?_⟩, fun nonce hn => ?_, fun hidle => ?_⟩
    · rw [State.mailbox_served ht (.inr rfl)]
      exact State.hostDone_status ..
    · change Host.Outcome.next _ = _
      rw [State.attest, if_neg (by simp [hn])]
      exact congrArg _ (State.doe_served ht (.inr rfl))
    · exact congrArg Host.Outcome.next (State.cmd_inTurn ht (by simp) (.inr rfl) hidle)
  · change Host.Outcome.next _ = _
    rw [State.cmd_inTurn ht (by simpa [hrec] using Source.mem_hostBmc hsrc) (.inr rfl) hidle, Nat.mod_eq_of_lt hseq]

end Sys2Proof.Machine
end

section
/-! Weights and requantiser entries are loaded (R92, R116, R118). -/

namespace Sys2Proof.Machine

@[simp] theorem lowest_nil : lowest [] = none := rfl
@[simp] theorem lowest_cons_false (code : Nat) (fs : List (Bool × Nat)) : lowest ((false, code) :: fs) = lowest fs := rfl

theorem lowest_cons_of_false {b : Bool} (code : Nat) (fs : List (Bool × Nat)) (h : b = false) : lowest ((b, code) :: fs) = lowest fs := by
  rw [h, lowest_cons_false]

/-- Settles O5: both instructions issue, their ranges and reads are given, and no fault is met. -/
theorem weightLoads : Obligations.WeightLoads := by
  unfold Obligations.WeightLoads
  intro c t s w
  refine ⟨fun ev a h ha hp => ?_, fun slice ups ue late a b h hv hu ha hb hp htag => ?_⟩
  · change execCfgLdrq c t ev s = _
    rw [execCfgLdrq, issue_eq h]
    simp only [ha]
    rw [checked_none _ (by simp [hp])]
  · change execLdw c t slice ups ue late s = _
    rw [execLdw, issue_eq h]
    dsimp only
    rw [if_neg]
    · simp only [ha, hb, hv, Bool.not_true, Option.isNone_some, Bool.or_self, lowest_cons_false, lowest_nil, Option.getD_some, List.splitAt_eq]
      rw [checked_none]
      refine (lowest_cons_of_false _ _ ?_).trans (by rw [hp]; rfl)
      simp only [Bool.and_eq_false_imp, List.any_eq_false, List.mem_range, Bool.not_eq_true]
      intro hscale row hrow g hg
      simpa using fun _ => htag hscale row hrow g hg
    · split
      · next x hx => simpa using hu x hx
      · simp

end Sys2Proof.Machine
end

section
/-! Passes of the array, and the requantiser (R42 to R46, R92, R93). -/

namespace Sys2Proof.Machine

/-- The blocks of a requantiser instruction bear one tag. -/
theorem tags_agree {k : Core} {blk n : Nat} {tag : W32} (h : ∀ i < n, Tab.get 0 k.tags (blk + i) = tag) :
    ((List.range n).any fun i => decide (Tab.get 0 k.tags (blk + i) ≠ tag)) = false := by
  simpa [List.any_eq_false] using h

/-- Settles O6: both instructions issue, their operands are given and no fault is met. -/
theorem streamPassAndRequantise : Obligations.StreamPassAndRequantise := by
  unfold Obligations.StreamPassAndRequantise
  intro c t s w
  dsimp only
  refine ⟨fun slice ups ue late a b due u h hv ha hb hacc hrun => ?_, fun ev a h hacc htag hv hpl h0 h1 h2 => ⟨fun hd => ?_, fun hd => ?_, fun hd => ?_⟩⟩
  · change execStrm c t slice ups ue late s = _
    rw [execStrm, issue_eq h]
    dsimp only
    rw [checked_none _ (by simp only [ha, hb, hv, hacc, Option.isNone_some, Bool.not_true, Bool.or_self, lowest_cons_false, lowest_nil])]
    simp only [ha, hb, Option.getD_some]
    erw [hrun] <;> rfl
  all_goals
    change execRqnt c t ev s = _
    rw [execRqnt, issue_eq h]
  · simp only [hd, h0 hd]
    rw [checked_none]
    · simp
    · refine (lowest_cons_of_false _ _ (by simp [hacc])).trans ((lowest_cons_of_false _ _ (tags_agree htag)).trans ?_)
      refine (lowest_cons_of_false _ _ (by rw [hv, decide_eq_false hpl]; rfl)).trans ?_
      simp
  · obtain ⟨hwhere, hfused⟩ := h1 hd
    simp only [hd, hwhere]
    rw [checked_none]
    · simp
    · refine (lowest_cons_of_false _ _ (by simp [hacc])).trans ((lowest_cons_of_false _ _ (tags_agree htag)).trans ?_)
      refine (lowest_cons_of_false _ _ (by rw [hv, decide_eq_false hpl]; rfl)).trans ?_
      simp [hfused]
  · obtain ⟨hfmt, hblock, hrows⟩ := h2 hd
    simp only [hd]
    rw [checked_none]
    · simp
    · refine (lowest_cons_of_false _ _ (by simp [hacc])).trans ((lowest_cons_of_false _ _ (tags_agree htag)).trans ?_)
      refine (lowest_cons_of_false _ _ (by rw [hv, decide_eq_false hpl]; rfl)).trans ?_
      refine (lowest_cons_of_false _ _ ?_).trans (by simp)
      rw [hfmt]
      simp [hblock, hrows]

end Sys2Proof.Machine
end

section
/-! The five scatter instructions (R132 to R135). -/

namespace Sys2Proof.Machine

/-- A tile whose blocks all belong to the slot has each of them. -/
theorem TaskSlot.accOk_mono {ts : TaskSlot} {blk n i : Nat} (h : ts.accOk blk n = true) (hi : i < n) : ts.accOk (blk + i) 1 = true := by
  simp only [TaskSlot.accOk, Bool.and_eq_true, decide_eq_true_eq] at h ⊢
  omega

/-- Every block of a SCAT LOAD or STORE is good where its range is the slot's. -/
theorem TaskSlot.goodBlocks_eq {ts : TaskSlot} {blk n : Nat} (h : ts.accOk blk n = true) : ts.goodBlocks blk n = n := by
  rw [TaskSlot.goodBlocks, List.takeWhile_eq_self_iff.2, List.length_range]
  exact fun i hi => TaskSlot.accOk_mono h (List.mem_range.1 hi)

/-- Every update of a list is good where each entry lies in the slot's blocks. -/
theorem TaskSlot.scatGood_eq {ts : TaskSlot} {us : List (Nat × Int)} (h : ∀ u ∈ us, u.1 < 32768 ∧ ts.accOk (u.1 / 2048) 1 = true) :
    ts.scatGood us = (us, false) := by
  have hall : us.takeWhile (fun u => decide (u.1 < 32768) && ts.accOk (u.1 / 2048) 1) = us :=
    List.takeWhile_eq_self_iff.2 fun u hu => by simpa using h u hu
  simp only [TaskSlot.scatGood, hall, Nat.lt_irrefl, decide_false]

/-- SCAT ADD32 and ADD64 whose ranges, list and updates are in bounds and unpoisoned. -/
theorem State.scatAdd_eq {c t n w : Nat} {ev : UnitEvents} {s s1 : State} {vals list : Nat} {es : List Nat}
    (hvals : spRange ((s.core c).slot t) (s.core c).spd (bits w 48 46) (bits w 45 32) (ceilDiv (bits w 14 3 * n) 256) = some vals)
    (hlist : spRange ((s.core c).slot t) (s.core c).spd (bits w 31 29) (bits w 28 15) (listWords (bits w 14 3)) = some list)
    (hes : s.indexList c list (bits w 14 3) = (.ok es, s1)) :
    let r := s1.spdReads c ((List.range (ceilDiv (es.length * n) 256)).map (vals + ·))
    poisoned r.1 = false →
    let us := es.zip (scatValues n es.length (datas r.1))
    (∀ u ∈ us, u.1 < 32768 ∧ ((s.core c).slot t).accOk (u.1 / 2048) 1 = true) →
    let s2 := (r.2.modCore c (Core.freezeFor ((ce2At r.1).map (listWords es.length + ·)) ((s.core c).lateOf .result ev.late))).sawUe c ev.ue
    let lands := (s2.core c).arrayPasses
    let run := scatRun lands (s2.core c).cycle (us.map (·.1))
    let adds := run.adds (s2.core c).cycle us
    let k2 := scatAdds adds (s2.core c)
    s.scatAdd c t n ev w = (s2.setCore c { k2 with cnt := { k2.cnt with scatStall := satAdd k2.cnt.scatStall run.stalls } }).occupy
      c t .result w (run.last + 8) fun b => { b with lands := lands, adds := adds, ups := us, stalls := run.stalls } := by
  intro r hp us hus s2 lands run adds k2
  rw [State.scatAdd, checked_none _ (by simp only [hvals, hlist, Option.isNone_some, Bool.or_self, lowest_cons_false, lowest_nil])]
  simp only [hvals, hlist, Option.getD_some, hes]
  rw [checked_none _ ((lowest_cons_of_false _ _ hp).trans lowest_nil)]
  rw [TaskSlot.scatGood_eq hus]
  rfl

/-- Settles O7: each of the five issues, its operands are given and no fault is met. -/
theorem scatterResults : Obligations.ScatterResults := by
  unfold Obligations.ScatterResults
  intro c t s w
  dsimp only
  refine ⟨fun ev n kd i hi h vals list es s1 hvals hlist hes hp hus => ?_, fun ev list us s1 h hlist hus hv => ?_, fun a hp hn hr => ?_,
    fun ev a h ha hacc hp => ?_, fun ev a h ha hacc => ?_⟩
  · simp only [List.mem_cons, Prod.mk.injEq, List.not_mem_nil, or_false] at hi
    obtain ⟨rfl, rfl, rfl⟩ | ⟨rfl, rfl, rfl⟩ := hi
    · exact congrArg Host.Outcome.next ((issue_eq h _).trans (State.scatAdd_eq hvals hlist hes hp hus))
    · exact congrArg Host.Outcome.next ((issue_eq h _).trans (State.scatAdd_eq hvals hlist hes hp hus))
  · change execScatVadd c t ev s = _
    rw [execScatVadd, issue_eq h]
    simp only [hlist]
    rw [checked_none _ (by simp)]
    simp only [Option.getD_some, hus, hv]
  · simp only [State.indexList, hp, hr, Nat.not_lt.2 hn]
    rfl
  · change execScatLoad c t ev s = _
    rw [execScatLoad, issue_eq h]
    simp only [imageWords, ha, TaskSlot.goodBlocks_eq hacc]
    rw [checked_none _ (by simp), checked_none _ (by simp [hp]), if_neg (Nat.lt_irrefl _)]
    rfl
  · change execScatStore c t ev s = _
    rw [execScatStore, issue_eq h]
    simp only [imageWords, ha, TaskSlot.goodBlocks_eq hacc]
    rw [checked_none _ (by simp), if_neg (Nat.lt_irrefl _)]
    rfl

end Sys2Proof.Machine
end

section
/-! The gather unit (R125 to R131). -/

namespace Sys2Proof.Machine

theorem TaskSlot.blocks_pos (ts : TaskSlot) : 0 < ts.blocks := by
  unfold TaskSlot.blocks
  split <;> omega

/-- A gather that fetches as many words for each item has fetched them all. -/
theorem fetched_items {n m : Nat} (hm : 0 < m) : n * m / max 1 (n * m / max 1 n) = n := by
  obtain rfl | hn := Nat.eq_zero_or_pos n
  · simp
  · rw [Nat.max_eq_right hn, Nat.mul_div_cancel_left _ hn, Nat.max_eq_right hm, Nat.mul_div_cancel _ hm]

/-- A gather whose list and destination are in bounds and whose fetches may all be made. -/
theorem State.gather_eq {c t w dest list dst m : Nat} {bad : Bool} {fetch : Nat → List Nat → List Fetch} {clear zero : Nat → List Nat → List Nat}
    {s s1 : State} {items : List Nat} (hbad : bad = false) (hm : 0 < m) (hlen : (fetch dst items).length = items.length * m)
    (hlist : spRange ((s.core c).slot t) (s.core c).spd (bits w 48 46) (bits w 45 32) (listWords (bits w 14 3)) = some list)
    (hdst : spRange ((s.core c).slot t) (s.core c).spd (bits w 31 29) (bits w 28 15) dest = some dst)
    (hitems : s.indexList c list (bits w 14 3) = (.ok items, s1))
    (hgood : s1.fetchable c (bits w 2 0) (fetch dst items) = (fetch dst items, false))
    (hworks : s1.fetchWorks c (bits w 2 0) (fetch dst items) = true) (hlines : s1.fetchLines c (bits w 2 0) (fetch dst items) = []) :
    s.gather c t w dest bad fetch clear zero =
      ((((s1.modCore c fun k => { k with cnt := { k.cnt with gathItems := satAdd k.cnt.gathItems items.length } }).clearWords c
        (clear dst items)).spdWrites c ((zero dst items).map fun a => (a, 0))).fetchAll c t (bits w 2 0) w (fetch dst items)) := by
  rw [State.gather]
  simp only [hbad, hlist, hdst]
  rw [checked_none _ rfl]
  simp only [Option.getD_some, hitems, hgood, hworks, hlines, hlen, fetched_items hm]
  rfl

/-- Fetches that the window and the grants let through and that no line of the host's holds up. -/
theorem State.fetchAll_eq {c t win w : Nat} {fs : List Fetch} {s : State} (hgood : s.fetchable c win fs = (fs, false))
    (hworks : s.fetchWorks c win fs = true) (hlines : s.fetchLines c win fs = []) :
    s.fetchAll c t win w fs = (((none :: fs.map some).zip fs).foldl (State.fetchWord c t win) s).occupy c t .move w 1 := by
  rw [State.fetchAll]
  simp only [hgood, hworks, hlines]
  rfl

/-- The words of every item: `n` slices of `m` words each. -/
theorem length_flatMap_items {α : Type} (items : List Nat) (n m : Nat) (f : Nat × Nat → Nat → Nat → α) :
    ((items.mapIdx fun i x => (i, x)).flatMap fun x => (List.range n).flatMap fun l => (List.range m).map (f x l)).length = items.length * (n * m) := by
  simp [List.length_flatMap, List.map_const']

/-- PACK and PACKU whose source and destination are in bounds. -/
theorem State.pack_eq {c t w src dst : Nat} {signed : Bool} {ev : UnitEvents} {s : State}
    (ho : (if signed = true then 2 else 1) ≤ ((s.core c).slot t).ostr) (ho' : ((s.core c).slot t).ostr ≤ 8)
    (hsrc : spVectors ((s.core c).slot t) (s.core c).spd (bits w 48 46) (bits w 45 32)
      (((s.core c).slot t).blocks * (2 * ((s.core c).slot t).ostr + 2)) (bits w 14 3) ((s.core c).slot t).vstr = some src)
    (hdst : spRange ((s.core c).slot t) (s.core c).spd (bits w 31 29) (bits w 28 15)
      (((s.core c).slot t).blocks * 256 * (((s.core c).slot t).ostr + 2)) = some dst) :
    let k := s.core c
    let ts := k.slot t
    let o := ts.ostr
    let n := ts.blocks
    let cap := bits w 14 3
    let per := 2 * o + 2
    let from_ := (List.range n).flatMap fun l => (List.range cap).flatMap fun i => (List.range per).map fun j =>
      (src + i * ts.vstr + l * per + j, dst + (l * 256 + i) * (o + 2))
    let r := s.spdReads c (from_.map (·.1))
    let rows := (List.range (n * 256)).map fun i =>
      let mine := if i % 256 < cap then (r.1.drop ((i / 256 * cap + i % 256) * per)).take per else []
      (packRow o signed (datas mine), poisoned mine)
    s.pack c t w signed ev = (((r.2.modCore c fun k => k.freezeFor (ce2At r.1) (k.lateOf .move ev.late)).modCore c fun k =>
      { k with cnt := { k.cnt with packDrop := satAdd k.cnt.packDrop ((rows.map fun x => x.1.2).sum) } }).writeReads c dst
        (rows.flatMap fun x => x.1.1.map fun y => ⟨y, x.2, false⟩)).occupy c t .move w (n * 256 * (3 * o + 4) + 12) fun b =>
          { b with moves := from_.map fun x => (x.1, .here x.2 (o + 2)) } := by
  intro k ts o n cap per from_ r rows
  have hbad : decide (((s.core c).slot t).ostr < (if signed = true then 2 else 1) ∨ 8 < ((s.core c).slot t).ostr) = false :=
    decide_eq_false (by omega)
  rw [State.pack]
  simp only [hsrc, hdst, hbad]
  rw [checked_none _ rfl]
  rfl

/-- Settles O8: each of the four issues, its list, its destination and its window are given. -/
theorem gatherResults : Obligations.GatherResults := by
  unfold Obligations.GatherResults
  intro c t s w
  dsimp only
  refine ⟨fun list dst items s1 h ho ho' hlist hdst hitems hgood hworks hlines => ?_, fun list dst items s1 h ho ho' hlist hdst hitems hgood hworks hlines => ?_,
    fun win fs hgood hworks hlines => ?_, fun ev signed src dst h ho ho' hsrc hdst => ?_⟩
  · refine congrArg Host.Outcome.next ((issue_eq h _).trans ((State.gather_eq (decide_eq_false (by omega)) (Nat.mul_pos (TaskSlot.blocks_pos _) ho)
      (length_flatMap_items ..) hlist hdst hitems hgood hworks hlines).trans ?_))
    simp only [List.map_flatMap, List.map_map]
    rfl
  · exact congrArg Host.Outcome.next ((issue_eq h _).trans (State.gather_eq (decide_eq_false (by omega)) (Nat.mul_pos (TaskSlot.blocks_pos _) ho)
      (length_flatMap_items ..) hlist hdst hitems hgood hworks hlines))
  · exact State.fetchAll_eq hgood hworks hlines
  · cases signed
    · exact congrArg Host.Outcome.next ((issue_eq h _).trans (State.pack_eq ho ho' hsrc hdst))
    · exact congrArg Host.Outcome.next ((issue_eq h _).trans (State.pack_eq ho ho' hsrc hdst))

end Sys2Proof.Machine
end

section
/-! The MOVE unit: FILL, COPY and SEND (R95, R166 to R171). -/

namespace Sys2Proof.Machine

/-- Settles O9: each of the four issues, its ranges are given, and its window's unit is granted. -/
theorem moveUnit : Obligations.MoveUnit := by
  unfold Obligations.MoveUnit
  intro c t s w
  dsimp only
  refine ⟨fun ev a h ha => ?_, fun ev a b h ha hb => ?_, fun a h ha hgood hworks hlines => ?_, fun a u h ha hworks hsend => ?_⟩
  · change execFill c t ev s = _
    rw [execFill, issue_eq h]
    simp only [ha]
  · change execCopyLocal c t ev s = _
    rw [execCopyLocal, issue_eq h]
    simp only [ha, hb]
  · change execCopyWindow c t s = _
    rw [execCopyWindow, issue_eq h]
    simp only [ha, State.fetchAll_eq hgood hworks hlines]
  · change execSend c t s = _
    rw [execSend, issue_eq h]
    simp only [ha, hworks, hsend]
    rfl

end Sys2Proof.Machine
end

section
/-! The row function unit: ROWF and CENS (R52 to R58, R136 to R140). -/

namespace Sys2Proof.Machine

theorem and_eq_false_of_imp {a b : Bool} (h : a = true → b = false) : (a && b) = false := by
  cases a
  · rfl
  · exact h rfl

/-- Settles O10: both instructions issue, their operands are given and no fault is met. -/
theorem rowFunctionAndCensus : Obligations.RowFunctionAndCensus := by
  unfold Obligations.RowFunctionAndCensus
  intro c t s w
  dsimp only
  refine ⟨fun ev a h hv hn hcens ha hparam hfused hp => ?_, fun ev src a h hv hfmt hg hsrc ha hfused hp => ?_⟩
  · change execRowf c t ev s = _
    rw [execRowf, issue_eq h]
    dsimp only
    rw [checked_none, checked_none _ ((lowest_cons_of_false _ _ hp).trans lowest_nil)]
    · simp only [ha, Option.getD_some]
      by_cases hc : 2 ≤ bits w 42 41
      · simp only [hc, Bool.and_eq_true, decide_eq_true_eq, decide_true, if_true, Bool.not_true, Bool.false_and]
      · simp only [hc, Bool.and_eq_true, decide_eq_true_eq, decide_false, Bool.not_false, Bool.true_and]
    · rw [hv, ha, lowest_cons_of_false, lowest_cons_of_false, lowest_cons_of_false, lowest_cons_of_false, lowest_nil]
      · exact and_eq_false_of_imp hfused
      · simpa only [Option.isNone_some, Bool.false_or, Bool.not_eq_false', Bool.or_eq_true, Bool.and_eq_true, decide_eq_true_eq, and_assoc] using hparam
      · simp only [Bool.or_eq_false_iff, decide_eq_false_iff_not, not_lt]
        refine ⟨hn, and_eq_false_of_imp fun hc => ?_⟩
        obtain ⟨hf, hg⟩ := hcens hc
        simp [hf, hg]
      · rfl
  · change execCens c t ev s = _
    rw [execCens, issue_eq h]
    dsimp only
    rw [checked_none, checked_none]
    · simp only [hsrc, ha, Option.getD_some]
    · simp only [hsrc, Option.getD_some, hp, lowest_cons_false, lowest_nil]
    · rw [hv, hsrc, ha, lowest_cons_of_false, lowest_cons_of_false, lowest_cons_of_false, lowest_cons_of_false, lowest_nil]
      · exact and_eq_false_of_imp hfused
      · rfl
      · simp [hfmt, hg]
      · rfl

end Sys2Proof.Machine
end

section
/-! The Lookout predictor and the Swash unit (R122 to R126, R141 to R145). -/

namespace Sys2Proof.Machine

/-- Settles O11: each of the three issues, its operands are given and no fault is met. -/
theorem predictionAndDeltas : Obligations.PredictionAndDeltas := by
  unfold Obligations.PredictionAndDeltas
  intro c t s w
  dsimp only
  refine ⟨fun ev z out h hz hout hlo hhi hmap hp hrank hrank' hq => ?_, fun ev key a frame area h ha hhp hba hba' hkey hframe harea hp => ?_⟩
  · change execPred c t ev s = _
    rw [execPred, issue_eq h]
    dsimp only
    rw [checked_none, checked_none]
    · simp only [hz, hout, Option.getD_some]
    · rw [hz, Option.getD_some, lowest_cons_of_false, lowest_cons_of_false _ _ hp, lowest_nil]
      refine and_eq_false_of_imp fun _ => ?_
      simp only [Bool.or_eq_false_iff, decide_eq_false_iff_not]
      exact ⟨⟨Nat.one_le_iff_ne_zero.1 hrank, Nat.not_lt.2 hrank'⟩, hq⟩
    · simp [hz, hout, hlo, hhi, hmap]
  · have hexec : exec (if key = true then .deltaKey c t ev else .delta c t ev) s = .next (s.swash c t key ev w) := by
      cases key
      · exact congrArg Host.Outcome.next (issue_eq h _)
      · exact congrArg Host.Outcome.next (issue_eq h _)
    rw [hexec, State.swash]
    simp only [ha]
    rw [checked_none, checked_none]
    · simp only [hframe, Option.getD_some]
    · simp only [hframe, Option.getD_some]
      exact (lowest_cons_of_false _ _ hp).trans lowest_nil
    · rw [lowest_cons_of_false, lowest_cons_of_false, lowest_cons_of_false _ _ hhp, lowest_nil]
      · rw [hframe, harea]
        exact Bool.and_false _
      · refine and_eq_false_of_imp fun _ => ?_
        simp only [Bool.or_eq_false_iff, decide_eq_false_iff_not]
        refine ⟨⟨Nat.not_lt.2 hba, Nat.not_lt.2 hba'⟩, and_eq_false_of_imp fun hk => ?_⟩
        obtain ⟨hheld, hlayer⟩ := hkey.resolve_left (by simpa using hk)
        rw [hheld, Bool.not_true, Bool.false_or]
        split
        · next b hb => simpa using hlayer b hb
        · rfl

end Sys2Proof.Machine
end

section
/-! Tiles are taken, and their commits are sent (R230 to R234). -/

namespace Sys2Proof.Machine

theorem State.modCore_modSlot (s : State) (c t : Nat) (f : TaskSlot → TaskSlot) (g : Core → Core) :
    s.modCore c (fun k => g (k.modSlot t f)) = s.setCore c (g ((s.core c).setSlot t (f ((s.core c).slot t)))) := rfl

@[simp] theorem Core.slot_modSlot (k : Core) (t : Nat) (f : TaskSlot → TaskSlot) : (k.modSlot t f).slot t = f (k.slot t) := Core.slot_setSlot ..

@[simp] theorem TaskSlot.setX_pc_eq (ts : TaskSlot) (n : Nat) (v : W32) : (ts.setX n v).pc = ts.pc := by
  unfold TaskSlot.setX
  split <;> rfl

/-- The slot that is handed a tile. -/
theorem State.slot_handOut (c t n tile retry : Nat) (q : Counter) (entry : Option Retry) (s : State) :
    let us := ((s.handOut c t n q tile retry entry).core c).slot t
    us.st = .ready ∧ us.blk = .none ∧ us.pc = ((s.core c).slot t).pc + 1 ∧ us.getX 7 = BitVec.ofNat 32 tile ∧
      us.held.map (fun h => (h.tile, h.gen, h.ctr)) = some (BitVec.ofNat 32 tile, BitVec.ofNat 32 (q.pseq * 256 + retry), n) := by
  intro us
  have hus : us = _ := (congrArg (fun k => Core.slot k t) (State.core_modCore ..)).trans (Core.slot_modSlot ..)
  rw [hus]
  refine ⟨rfl, rfl, ?_, ?_, rfl⟩
  · simp
    rfl
  · change TaskSlot.getX ((((TaskSlot.setX 7 _ _).setX 5 _).setX 6 _).setX 4 _) 7 = _
    simp [TaskSlot.getX_setX]

/-- The die whose counter hands out a tile. -/
theorem State.die_handOut (c t n tile retry : Nat) (q : Counter) (entry : Option Retry) (s : State) :
    let x := (s.handOut c t n q tile retry entry).die (coreDie c)
    x.lease (leaseIx c t) = Lease.make (BitVec.ofNat 32 tile) (BitVec.ofNat 32 (q.pseq * 256 + retry)) (leaseCtl 1 n 0) ∧
      (entry = none → tile ∈ (x.ctr n).taken) := by
  intro x
  have hx : x = _ := (State.die_modCore ..).trans (State.die_modDie ..)
  rw [hx]
  cases entry with
  | none =>
    refine ⟨Die.lease_setLease .., fun _ => ?_⟩
    have htaken := congrArg Counter.taken (Die.ctr_setCtr (s.die (coreDie c)) n
      { (s.die (coreDie c)).ctr n with taken := ((s.die (coreDie c)).ctr n).taken ++ [tile] })
    exact htaken ▸ List.mem_append_right _ (List.mem_singleton_self tile)
  | some r => exact ⟨Die.lease_setLease .., nofun⟩

/-- A slot that waits for a tile, on a core that may issue and is not joining. -/
theorem State.takeServe_eq {c : CoreId} {t : SlotId} {s : State} {n : Nat} {exh : Int} (hblk : ((s.core c).slot t).blk = .take n exh)
    (hissue : s.canIssue c = true) (hjoin : (c : Nat) ∉ (s.die (coreDie c)).joining) :
    let q := (s.die (coreDie c)).ctr n
    execTakeServe c t s = .next (if q.st ≠ .open ∧ q.st ≠ .closed then
        s.modCore c fun k => { k.modSlot t fun ts => { ts with st := .ready, blk := .none, pc := ((ts.pc : Int) + exh).toNat } with progress := true }
      else if q.held then s
      else match s.nextTile c t n q with
        | some (tile, retry, entry) => s.handOut c t n q tile retry entry
        | none => s) := by
  rw [execTakeServe]
  simp only [hblk, hissue, hjoin]
  rfl

/-- Settles O12: what blocks each of the commands is excluded. -/
theorem takeAndDone : Obligations.TakeAndDone := by
  unfold Obligations.TakeAndDone
  intro c t s w
  dsimp only
  refine ⟨fun p h hheld htarget => ?_, fun hjoin => ?_, fun n exh hblk hissue hjoin => ⟨fun hopen hclosed => ?_, fun hst hq tile retry entry hnext => ?_⟩,
    fun x h hheld => ?_, fun ok hcommit hblk hissue => ?_⟩
  · change execTake c t s = _
    rw [execTake, issue_eq h]
    dsimp only
    rw [checked_none _ (by simp [hheld, htarget])]
    rfl
  · change execTakeServe c t s = _
    rw [execTakeServe]
    dsimp only
    split
    · rw [if_pos (by simp [hjoin])]
    · rfl
  · change execTakeServe c t s = _
    rw [State.takeServe_eq hblk hissue hjoin, if_pos ⟨hopen, hclosed⟩]
    rfl
  · obtain ⟨hready, hnone, hpc, hx7, hheld⟩ := State.slot_handOut c t n tile retry ((s.die (coreDie c)).ctr n) entry s
    obtain ⟨hlease, htaken⟩ := State.die_handOut c t n tile retry ((s.die (coreDie c)).ctr n) entry s
    refine ⟨s.handOut c t n ((s.die (coreDie c)).ctr n) tile retry entry, (State.takeServe_eq hblk hissue hjoin).trans ?_, hready, hnone, hpc, hx7, hheld,
      hlease, htaken, ?_⟩
    · rw [if_neg (not_and_of_not_or_not (hst.imp not_not_intro not_not_intro)), hq, hnext]
      rfl
    · exact congrArg Core.satTile (State.core_modCore ..)
  · change execDone c t s = _
    rw [execDone, issue_eq h]
    split
    · next hnone => cases hheld.symm.trans hnone
    · next y hy =>
      cases hheld.symm.trans hy
      rfl
  · change execDoneComplete c t s = _
    rw [execDoneComplete]
    split
    · rw [if_pos ⟨hblk, hissue⟩]
      rfl
    · next hno => exact absurd hcommit (hno ok)

end Sys2Proof.Machine
end

section
/-! The lease table takes a commit once (R233, R234, R236). -/

namespace Sys2Proof.Machine

/-- A function may be applied before or after a read. -/
theorem Tab.get_map {α β : Type} (f : α → β) (d : α) (t : Tab α) (k : Nat) :
    Tab.get (f d) (t.map fun x => (x.1, f x.2)) k = f (Tab.get d t k) := by
  induction t with
  | nil => rfl
  | cons x t ih =>
    simp only [List.map_cons, Tab.get]
    split
    · rfl
    · exact ih

theorem Die.ctr_setCtr_ne (x : Die) {n m : Nat} (q : Counter) (h : m ≠ n) : (x.setCtr n q).ctr m = x.ctr m := Tab.get_insert_ne _ _ _ h

/-! ### What leaves the tiles of a die as they are -/

/-- The counters of `y` have the commits of `x`, and its leases and count of discarded commits are those of `x`. -/
structure Die.SameTiles (x y : Die) : Prop where
  committed : ∀ m, (y.ctr m).committed = (x.ctr m).committed
  sats : ∀ m, (y.ctr m).sats = (x.ctr m).sats
  leases : ∀ e, y.lease e = x.lease e
  stale : y.statStale = x.statStale

namespace Die.SameTiles

variable {x y z : Die}

theorem refl (x : Die) : x.SameTiles x := ⟨fun _ => rfl, fun _ => rfl, fun _ => rfl, rfl⟩

theorem trans (h : x.SameTiles y) (k : y.SameTiles z) : x.SameTiles z where
  committed m := (k.committed m).trans (h.committed m)
  sats m := (k.sats m).trans (h.sats m)
  leases e := (k.leases e).trans (h.leases e)
  stale := k.stale.trans h.stale

theorem of_eq (hc : y.ctrs = x.ctrs) (hl : y.leases = x.leases) (hs : y.statStale = x.statStale) : x.SameTiles y where
  committed m := by rw [Die.ctr, hc, Die.ctr]
  sats m := by rw [Die.ctr, hc, Die.ctr]
  leases e := by rw [Die.lease, hl, Die.lease]
  stale := hs

/-- A counter is written that has the commits of the one it replaces. -/
theorem of_setCtr {n : Nat} {q : Counter} (hy : y.ctrs = Tab.insert x.ctrs n q) (hl : y.leases = x.leases) (hs : y.statStale = x.statStale)
    (hc : q.committed = (x.ctr n).committed) (hsats : q.sats = (x.ctr n).sats) : x.SameTiles y := by
  have hctr (m : Nat) : y.ctr m = (x.setCtr n q).ctr m := by rw [Die.ctr, hy, Die.ctr, Die.setCtr]
  refine ⟨fun m => ?_, fun m => ?_, fun e => by rw [Die.lease, hl, Die.lease], hs⟩
  · rw [hctr]
    by_cases h : m = n
    · rw [h, Die.ctr_setCtr, hc]
    · rw [Die.ctr_setCtr_ne _ _ h]
  · rw [hctr]
    by_cases h : m = n
    · rw [h, Die.ctr_setCtr, hsats]
    · rw [Die.ctr_setCtr_ne _ _ h]

end Die.SameTiles

/-- A counter without the postings of a step that wait for it. -/
def Counter.dropPostings (n : Nat) (q : Counter) : Counter := { q with queue := q.queue.filter fun p => p.step ≠ n }
/-- A die without the postings of a step that wait. -/
def Die.dropPostings (n : Nat) (x : Die) : Die := { x with ctrs := x.ctrs.map fun q => (q.1, q.2.dropPostings n) }

theorem Die.ctr_dropPostings (n m : Nat) (x : Die) : (x.dropPostings n).ctr m = (x.ctr m).dropPostings n :=
  Tab.get_map (Counter.dropPostings n) {} x.ctrs m
theorem State.die_dropPostings (n d : Nat) (s : State) : (s.dropPostings n).die d = (s.die d).dropPostings n :=
  Tab.get_map (Die.dropPostings n) {} s.dies d
theorem State.die_failStep (n code d : Nat) (s : State) : (s.failStep n code).die d = (s.die d).dropPostings n := State.die_dropPostings ..

theorem Die.SameTiles.dropPostings (n : Nat) (x : Die) : x.SameTiles (x.dropPostings n) where
  committed m := by rw [Die.ctr_dropPostings]; rfl
  sats m := by rw [Die.ctr_dropPostings]; rfl
  leases _ := rfl
  stale := rfl

@[simp] theorem State.die_modStep (n d : Nat) (f : EStep → EStep) (s : State) : (s.modStep n f).die d = s.die d := rfl

theorem State.die_failTile (d ctr tile code : Nat) (s : State) : (s.die d).SameTiles ((s.failTile d ctr tile code).die d) := by
  rw [State.failTile]
  dsimp only
  rw [State.die_failStep, State.die_record, State.die_modDie]
  refine .trans ?_ (.dropPostings _ _)
  exact .of_setCtr rfl rfl rfl rfl rfl

/-- Work on cores leaves every die. -/
theorem State.die_foldl_modCore (d : Nat) (at' : Nat → Nat) (f : Core → Core) (cs : List Nat) (s : State) :
    (cs.foldl (fun s l => s.modCore (at' l) f) s).die d = s.die d := by
  induction cs generalizing s with
  | nil => rfl
  | cons c cs ih => exact (ih _).trans (State.die_modCore ..)

theorem State.die_beach (d : Nat) (locals : List Nat) (cause : Nat) (s : State) : (s.die d).SameTiles ((s.beach d locals cause).die d) := by
  unfold State.beach
  extract_lets ls seq v fall hub bw u
  split
  · exact .refl _
  · have h := State.die_foldl_modCore d (fun l => 36 * d + l) (fun k => { k with gated := true }) ls u
    rw [State.die_modDie, h]
    exact .of_eq rfl rfl rfl

theorem State.die_drainCheck (d n : Nat) (s : State) : (s.die d).SameTiles ((s.drainCheck d n).die d) := by
  unfold State.drainCheck
  dsimp only
  split
  · rw [State.die_modStep, State.modCtr, State.die_modDie]
    exact .of_setCtr rfl rfl rfl rfl rfl
  · exact .refl _

/-- A lease that is revoked is REVOKED, and its die's tiles are otherwise as they were. -/
theorem State.die_revokeLease (d e : Nat) (l : Lease) (code : Option Nat) (s : State) :
    ((s.die d).setLease e (l.withSt 2)).SameTiles ((s.revokeLease d e l code).die d) := by
  unfold State.revokeLease
  dsimp only
  split
  · rw [State.die_modDie]
    exact .of_eq rfl rfl rfl
  · split
    · refine .trans ?_ (State.die_failTile ..)
      rw [State.die_modDie]
      exact .of_setCtr rfl rfl rfl rfl rfl
    · rw [State.die_modDie, State.die_modDie]
      exact .of_setCtr rfl rfl rfl rfl rfl

/-! ### The state of an entry -/

theorem Lease.st_make (tile gen : W32) (st ctr age : Nat) : (Lease.make tile gen (leaseCtl st ctr age)).st = st % 4 := by
  simp only [Lease.st, Lease.make, leaseCtl, bits, BitVec.toNat_ofNat, Nat.shiftRight_zero]
  omega

theorem Lease.st_withSt (l : Lease) (st : Nat) : (l.withSt st).st = st % 4 := Lease.st_make ..

theorem Die.SameTiles.setLease_self (x : Die) (e : Nat) : (x.setLease e (x.lease e)).SameTiles x where
  committed _ := rfl
  sats _ := rfl
  leases m := by
    by_cases h : m = e
    · rw [h, Die.lease_setLease]
    · exact (Tab.get_insert_ne _ _ _ h).symm
  stale := rfl

@[simp] theorem State.die_pairError (k d : Nat) (s : State) : (s.pairError k).die d = s.die d := by
  simp only [State.pairError]
  split <;> rfl

/-- A stored pair that is bad revokes its entry, whoever held it (log entry 145). -/
theorem State.die_leasePairFault (d e : Nat) (code : Option Nat) (s : State) :
    ∃ l : Lease, l.st = 2 ∧ ((s.die d).setLease e l).SameTiles ((s.leasePairFault d e code).die d) := by
  unfold State.leasePairFault
  dsimp only
  rw [State.die_record, State.die_pairError]
  split
  next n tile gen _ => exact ⟨_, Lease.st_withSt _ 2, State.die_revokeLease ..⟩
  · rw [State.die_modDie]
    exact ⟨_, Lease.st_make 0 0 2 0 0, .refl _⟩

/-- A revoked entry is not HELD, and its die's tiles are otherwise as they were. -/
theorem State.die_revoke (d e : Nat) (code : Option Nat) (s : State) :
    ∃ l : Lease, l.st ≠ 1 ∧ ((s.die d).setLease e l).SameTiles ((s.revoke d e code).die d) := by
  unfold State.revoke
  dsimp only
  split
  · obtain ⟨l, hl, h⟩ := State.die_leasePairFault d e code s
    exact ⟨l, by omega, h⟩
  · split
    next h => exact ⟨_, h, .setLease_self ..⟩
    · exact ⟨_, by rw [Lease.st_withSt]; decide, State.die_revokeLease ..⟩

/-! ### The record of mismatches -/

@[simp] theorem State.pair_record (ty src : Nat) (pl : List Byte) (core unit : Nat) (s : State) :
    (s.record ty src pl core unit).tmk.pair = s.tmk.pair := by
  rw [State.record]
  obtain ⟨q, n, ds, h⟩ := Tmk.enqueue_eq (s.entry ty src pl core unit) s.tmk
  exact (congrArg Tmk.pair h : (Tmk.enqueue (s.entry ty src pl core unit) s.tmk).pair = _)

theorem State.pair_pairError (k : Nat) (s : State) : (s.pairError k).tmk.pair = s.tmk.pair ||| (1#9 <<< k) := by
  simp only [State.pairError]
  split
  · rfl
  · exact State.pair_record ..

theorem State.pair_failTile (d ctr tile code : Nat) (s : State) : (s.failTile d ctr tile code).tmk.pair = s.tmk.pair :=
  State.pair_record ..

theorem State.pair_revokeLease (d e : Nat) (l : Lease) (code : Option Nat) (s : State) :
    (s.revokeLease d e l code).tmk.pair = s.tmk.pair := by
  unfold State.revokeLease
  dsimp only
  split
  · rfl
  · split
    · exact State.pair_failTile ..
    · rfl

/-- A mismatch that is marked stays marked while an entry is revoked. -/
theorem State.pair_revoke (d e k : Nat) (code : Option Nat) (s : State) (h : s.tmk.pair.getLsbD k = true) :
    (s.revoke d e code).tmk.pair.getLsbD k = true := by
  have hfault : (s.leasePairFault d e code).tmk.pair.getLsbD k = true := by
    unfold State.leasePairFault
    dsimp only
    rw [State.pair_record, State.pair_pairError, BitVec.getLsbD_or, Bool.or_eq_true]
    left
    split
    · rw [State.pair_revokeLease, h]
    · exact h
  unfold State.revoke
  dsimp only
  split
  · exact hfault
  · split
    · exact h
    · rw [State.pair_revokeLease, h]

/-! ### A commit -/

/-- A commit that is answered leaves its answer in the slot. -/
theorem State.commit_answered (c t : Nat) (ok : Bool) (s : State) :
    (((s.modSlot c t fun ts => { ts with commit := .answered ok }).core c).slot t).commit = .answered ok := by
  simp [State.modSlot]

@[simp] theorem State.die_modSlot (c t d : Nat) (f : TaskSlot → TaskSlot) (s : State) : (s.modSlot c t f).die d = s.die d := rfl

/-- A commit is counted as stale and its entry revoked. -/
def State.discardCommit (d e : Nat) (s : State) : State := (s.modDie d fun x => { x with statStale := satInc x.statStale }).revoke d e none

/-- What a discarded commit leaves: its count, and the entry not HELD. -/
theorem State.die_discardCommit (d e : Nat) (s : State) :
    (((s.discardCommit d e).die d).lease e).st ≠ 1 ∧ ((s.discardCommit d e).die d).statStale = satInc (s.die d).statStale ∧
    ∀ m, (((s.discardCommit d e).die d).ctr m).committed = ((s.die d).ctr m).committed := by
  obtain ⟨l, hl, h⟩ := State.die_revoke d e none (s.modDie d fun x => { x with statStale := satInc x.statStale })
  rw [State.die_modDie] at h
  refine ⟨?_, h.stale, h.committed⟩
  rwa [State.discardCommit, h.leases, Die.lease_setLease]

/-- The tile of a commit is taken where its posting stands, and its entry is FREE. -/
theorem State.die_commitTile (c t n tile : Nat) (gen : W32) (sat : Nat) (s : State) :
    (((s.commitTile c t n tile gen sat).die (coreDie c)).lease (leaseIx c t)).st = 0 ∧
    (((s.commitTile c t n tile gen sat).die (coreDie c)).ctr n).committed =
      ((s.die (coreDie c)).ctr n).committed ++ (if gen.toNat / 256 = ((s.die (coreDie c)).ctr n).pseq then [tile] else []) ∧
    (gen.toNat / 256 = ((s.die (coreDie c)).ctr n).pseq →
      Tab.get 0 (((s.commitTile c t n tile gen sat).die (coreDie c)).ctr n).sats tile = sat) := by
  unfold State.commitTile
  extract_lets d q s1 blame
  have h1 : ((s1.die d).lease (leaseIx c t)).st = 0 := by
    rw [State.die_modDie]
    exact (congrArg Lease.st (Die.lease_setLease ..)).trans (Lease.st_withSt _ 0)
  have hctr : (s1.die d).ctr n = q := by
    rw [State.die_modDie]
    rfl
  change _ ∧ _ = q.committed ++ (if gen.toNat / 256 = q.pseq then [tile] else []) ∧ (gen.toNat / 256 = q.pseq → _)
  split
  next hne =>
    rw [List.append_nil]
    exact ⟨h1, congrArg Counter.committed hctr, fun h => absurd h hne⟩
  next heq =>
    obtain ⟨i, j⟩ := q.place tile
    have h23 (u : State) : (u.die d).SameTiles
        (((if blame ≠ 0 ∧ blame < 1000 ∧ blame ≠ c + 1 then u.beach d [coreLocal (blame - 1)] 4 else u).drainCheck d n).die d) := by
      refine .trans ?_ (State.die_drainCheck ..)
      exact iteInduction (motive := fun v : State => (u.die d).SameTiles (v.die d)) (fun _ => State.die_beach ..) fun _ => .refl _
    have h2 (f : Counter → Counter) : ((s1.modCtr d n f).die d).ctr n = f q := by
      rw [State.modCtr, State.die_modDie, Die.ctr_setCtr, hctr]
    refine ⟨?_, ?_, fun _ => ?_⟩
    · refine (congrArg Lease.st ((h23 _).leases _)).trans ?_
      rw [State.modCtr, State.die_modDie]
      exact h1
    · rw [if_pos (not_not.mp heq)]
      exact ((h23 _).committed n).trans (congrArg Counter.committed (h2 _))
    · exact (congrArg (Tab.get 0 · tile) (((h23 _).sats n).trans (congrArg Counter.sats (h2 _)))).trans (Tab.get_set_self ..)

/-- Settles O13: the tile is committed where the entry holds it, and the entry is revoked and the commit counted otherwise. -/
theorem commitIsOnceOnly : Obligations.CommitIsOnceOnly := by
  unfold Obligations.CommitIsOnceOnly
  intro c t s tile gen n sat
  dsimp only
  intro hsent
  simp only [exec, execLeaseCommit, hsent, State.upsetLeases, List.foldl_nil, Bool.not_true, Bool.not_false, Bool.false_eq_true, if_false, if_true]
  refine ⟨fun hpair hst htile hgen hctr => ?_, fun hnot => ?_, ?_⟩
  · simp only [hpair, hst, htile, hgen, hctr, and_self, if_true]
    exact ⟨_, rfl, State.commit_answered .., State.die_commitTile ..⟩
  · simp only [hnot, if_false]
    exact ⟨_, rfl, State.commit_answered .., State.die_discardCommit ..⟩
  · obtain ⟨-, -, hcommitted⟩ := State.die_discardCommit (coreDie c) (leaseIx c t) (s.pairError 6)
    simp only [State.die_pairError] at hcommitted
    refine ⟨_, rfl, State.commit_answered .., State.pair_revoke _ _ 6 none _ ?_, hcommitted⟩
    have hpair : ((s.pairError 6).modDie (coreDie c) fun x => { x with statStale := satInc x.statStale }).tmk.pair = s.tmk.pair ||| (1#9 <<< 6) :=
      State.pair_pairError ..
    rw [hpair, BitVec.getLsbD_or, Bool.or_eq_true]
    exact .inr (by decide)

end Sys2Proof.Machine
end

section
/-! Postings, retries and the expiry of leases (R231, R233 to R236). -/

namespace Sys2Proof.Machine

/-- A list has no element of a kind where each fails the test. -/
theorem List.any_eq_false_of {α : Type} {p : α → Bool} {l : List α} (h : ∀ x ∈ l, p x = false) : l.any p = false := by
  rw [List.any_eq_false]
  exact fun x hx => by simp [h x hx]

/-- A part that is not on the list of the posted ones is not found there. -/
theorem posted_any_eq_false {layer d : Nat} {ps : List (Nat × Nat)} (h : (layer, d) ∉ ps) :
    (ps.any fun y => decide (y.1 = layer) && decide (y.2 = d)) = false :=
  List.any_eq_false_of fun y hy => by
    by_cases h1 : y.1 = layer <;> by_cases h2 : y.2 = d
    · exact absurd (h1 ▸ h2 ▸ hy) h
    all_goals simp [h1, h2]

/-- A retry is not yet due while those before it are available or young. -/
theorem execRetryAvailable_go_append (s : State) {r : Retry} {before after : List Retry}
    (hb : ∀ x ∈ before, x.avail = true ∨ s.us < x.since + 2) (hr : r.avail = false) (hdue : r.since + 2 ≤ s.us) :
    execRetryAvailable.go s (before ++ r :: after) = before ++ { r with avail := true } :: after := by
  induction before with
  | nil => simp [execRetryAvailable.go, hr, hdue]
  | cons x xs ih =>
    have hx : (!x.avail && decide (x.since + 2 ≤ s.us)) = false := by
      rcases hb x List.mem_cons_self with h | h
      · rw [h]; rfl
      · rw [decide_eq_false (by omega), Bool.and_false]
    rw [List.cons_append, execRetryAvailable.go, hx, ih fun y hy => hb y (List.mem_cons_of_mem _ hy)]
    rfl

/-- Settles O14: each branch of a posting's opening, and the three timers. -/
theorem postingsAndRetries : Obligations.PostingsAndRetries := by
  unfold Obligations.PostingsAndRetries
  intro d s
  refine ⟨?_, ?_, ?_, fun e => ?_⟩
  · intro step layer census halo writer e st l r b hstep hst hl hr hb
    dsimp only
    have hexec : exec (.postingOpen d step layer census halo writer) s = execPostingOpen d step layer census halo writer s := rfl
    rw [hexec, execPostingOpen]
    erw [hstep]
    dsimp only
    erw [hst, hl]
    dsimp only
    erw [hr, hb]
    dsimp only
    refine ⟨fun hopen hq hlay => ?_, fun hnot hhand hfail hcols hposted => ?_⟩
    · simp [hopen, hq, hlay]
    have hopen : (decide (((s.die d).ctr l.ctr).st = .open) && decide (((s.die d).ctr l.ctr).step = step) &&
        decide (((s.die d).ctr l.ctr).layer = layer)) = false := by
      rw [Bool.and_assoc, ← Bool.decide_and, ← Bool.decide_and]
      exact decide_eq_false hnot
    have hpost : (!e.handed || decide (e.fail ≠ 0) || decide ((e.colsOn layer d).2 = 0) ||
        e.posted.any fun y => decide (y.1 = layer) && decide (y.2 = d)) = false := by
      rw [posted_any_eq_false hposted]
      simp [hhand, hfail, hcols]
    rw [hopen, hpost]
    simp only [Bool.false_eq_true, if_false]
    refine ⟨fun hqueue hmay hno hnc => ?_, fun hqueue hlen hwhy => ?_⟩
    · rw [hmay]
      simp only [Bool.true_and]
      cases hq : ((s.die d).ctr l.ctr).queue with
      | nil => simp [hno, hnc]
      | cons p ps =>
        obtain ⟨hp, hp'⟩ := hqueue p ps hq
        simp [hno, hnc, hp, hp']
    · have hqueued : (((s.die d).ctr l.ctr).queue.any fun p => decide (p.step = step) && decide (p.layer = layer)) = false :=
        List.any_eq_false_of fun p hp => by
          rcases hqueue p hp with h | h <;> simp [h]
      rw [hqueued]
      have hshort : decide (15 ≤ ((s.die d).ctr l.ctr).queue.length) = false := decide_eq_false (by omega)
      rw [hshort]
      cases hq : ((s.die d).ctr l.ctr).queue with
      | nil =>
        rw [hq] at hwhy
        rcases hwhy with h | h | h | h
        · simp [h]
        · simp [h]
        · simp [h]
        · exact absurd rfl h
      | cons p ps => rcases hqueue p (hq ▸ List.mem_cons_self) with h | h <;> simp [h]
  · intro n
    dsimp only
    intro hst hdue
    exact congrArg Host.Outcome.next (if_pos ⟨hst, hdue⟩)
  · intro before r after hretry hb hr hdue
    have hexec : exec (.retryAvailable d) s = .next (s.modDie d fun x => { x with retry := execRetryAvailable.go s x.retry }) := rfl
    rw [hexec, State.modDie, hretry, execRetryAvailable_go_append s hb hr hdue]
    rfl
  · have hexec : exec (.leaseExpired d e []) s = execLeaseExpired d e [] s := rfl
    rw [hexec, execLeaseExpired]
    simp only [State.upsetLeases, List.foldl_nil]
    refine ⟨fun hpair hst htmo hage => ?_, fun hpair => ?_⟩
    · simp only [hpair, hst, hage, Bool.not_true, Bool.false_eq_true, if_false, and_true, true_and]
      simp only [if_pos htmo]
    · simp [hpair]

end Sys2Proof.Machine
end

section
/-! Beaching: what it does to a die and its cores (R239, R381). -/

namespace Sys2Proof.Machine

theorem core_of_die_local (c : Nat) : 36 * coreDie c + coreLocal c = c := Nat.div_add_mod c 36
theorem coreDie_add {d l : Nat} (h : l < 36) : coreDie (36 * d + l) = d := by unfold coreDie; omega
theorem coreLocal_add {d l : Nat} (h : l < 36) : coreLocal (36 * d + l) = l := by unfold coreLocal; omega
theorem coreLocal_lt (c : Nat) : coreLocal c < 36 := Nat.mod_lt _ (by decide)

/-- The mask of a rising list of locals holds the bits of the list. -/
theorem bit_mask {ls : List Nat} (h : ls.Pairwise (· < ·)) (l : Nat) : bit (ls.map fun l => 2 ^ l).sum l = true ↔ l ∈ ls := by
  rw [bit, ← Nat.mem_bitIndices, Nat.bitIndices_sum_map_two_pow h.sortedLT]

/-- Work on cores changes the cores alone. -/
theorem State.foldl_modCore_eq (at' : Nat → Nat) (f : Core → Core) (cs : List Nat) (s : State) :
    cs.foldl (fun s l => s.modCore (at' l) f) s = { s with cores := (cs.foldl (fun s l => s.modCore (at' l) f) s).cores } := by
  induction cs generalizing s with
  | nil => rfl
  | cons c cs ih => exact (ih _).trans rfl

/-- The locals of a die that are not beached yet. -/
def State.unfenced (d : Nat) (locals : List Nat) (s : State) : List Nat := locals.filter fun l => !s.fenced (36 * d + l)
/-- The event of a beaching (R240). -/
def State.beachEvt (d : Nat) (locals : List Nat) (cause : Nat) (s : State) : FenceEvt :=
  { seq := (s.hub.fenceSeq + 1) % 65536, mask := ((s.unfenced d locals).map fun l => 2 ^ l).sum,
    causes := (s.unfenced d locals).map fun l => (l, cause), sent := s.us }

theorem State.die_beach_self (d : Nat) (locals : List Nat) (cause : Nat) (s : State) (h : s.unfenced d locals ≠ []) :
    (s.beach d locals cause).die d = { s.die d with evts := (s.die d).evts ++ [s.beachEvt d locals cause] } := by
  unfold State.beach
  extract_lets ls seq v fall hub bw u
  rw [if_neg (show ¬ ls = [] from h), State.die_modDie]
  have hdie : (_ : Die) = _ := State.die_foldl_modCore d (fun l => 36 * d + l) (fun k => { k with gated := true }) ls u
  rw [hdie]
  rfl

theorem State.beach_nil {d : Nat} {locals : List Nat} (cause : Nat) {s : State} (h : s.unfenced d locals = []) : s.beach d locals cause = s := by
  unfold State.beach
  extract_lets ls seq v fall hub bw u
  exact if_pos h

theorem State.die_beach_ne {d e : Nat} (locals : List Nat) (cause : Nat) (s : State) (h : e ≠ d) : (s.beach d locals cause).die e = s.die e := by
  unfold State.beach
  extract_lets ls seq v fall hub bw u
  split
  · rfl
  · rw [State.die_modDie_ne _ _ h]
    exact State.die_foldl_modCore e (fun l => 36 * d + l) (fun k => { k with gated := true }) ls u

@[simp] theorem State.role_beach (d : Nat) (locals : List Nat) (cause c : Nat) (s : State) : (s.beach d locals cause).role c = s.role c := by
  unfold State.beach
  extract_lets ls seq v fall hub bw u
  split
  · rfl
  · rw [State.role_modDie, State.foldl_modCore_eq (fun l => 36 * d + l)]
    rfl

/-- A beached core's share leaves the fall limit (log entry 114). -/
theorem State.bw_beach (d : Nat) (locals : List Nat) (cause : Nat) (s : State) :
    (s.beach d locals cause).bw = { s.bw with fallCores := s.bw.fallCores +
      ((s.unfenced d locals).map fun l => min coreRated (s.bw.grantOf (36 * d + l)).grant).sum } := by
  unfold State.beach
  extract_lets ls seq v fall hub bw u
  split
  next h =>
    rw [show s.unfenced d locals = [] from h]
    rfl
  · rw [State.modDie, State.setDie, State.foldl_modCore_eq (fun l => 36 * d + l)]
    rfl

theorem State.fenced_beach_ne {d c : Nat} (locals : List Nat) (cause : Nat) (s : State) (h : coreDie c ≠ d) :
    (s.beach d locals cause).fenced c = s.fenced c := by
  rw [State.fenced, State.role_beach, State.die_beach_ne _ _ _ h, State.fenced]

/-- What is beached stays beached. -/
theorem State.fenced_beach_of_fenced {d c : Nat} (locals : List Nat) (cause : Nat) {s : State} (h : s.fenced c = true) :
    (s.beach d locals cause).fenced c = true := by
  by_cases hd : coreDie c = d
  · by_cases hnil : s.unfenced d locals = []
    · rw [State.beach_nil _ hnil, h]
    · rw [State.fenced] at h
      rw [State.fenced, State.role_beach, hd, State.die_beach_self _ _ _ _ hnil, List.any_append, ← Bool.or_assoc, ← hd, h, Bool.true_or]
  · rw [State.fenced_beach_ne _ _ _ hd, h]

theorem State.fenced_beach {c : Nat} {locals : List Nat} (cause : Nat) (s : State) (hl : locals.Pairwise (· < ·)) (h : coreLocal c ∈ locals) :
    (s.beach (coreDie c) locals cause).fenced c = true := by
  by_cases hc : s.fenced c = true
  · exact State.fenced_beach_of_fenced _ _ hc
  · have hmem : coreLocal c ∈ s.unfenced (coreDie c) locals := by
      rw [State.unfenced, List.mem_filter, core_of_die_local]
      exact ⟨h, by simp [hc]⟩
    rw [State.fenced, State.die_beach_self _ _ _ _ (List.ne_nil_of_mem hmem), List.any_append, Bool.or_eq_true, Bool.or_eq_true]
    refine .inr (.inr ?_)
    rw [List.any_cons, Bool.or_eq_true]
    exact .inl ((bit_mask (hl.filter _) _).mpr hmem)

/-- Cores that are gated one after the other are gated, and none is let go. -/
theorem State.gated_foldl (at' : Nat → Nat) (cs : List Nat) (c : Nat) (s : State) (h : (s.core c).gated = true ∨ c ∈ cs.map at') :
    ((cs.foldl (fun s l => s.modCore (at' l) fun k => { k with gated := true }) s).core c).gated = true := by
  induction cs generalizing s with
  | nil => exact h.resolve_right List.not_mem_nil
  | cons x xs ih =>
    refine ih _ ?_
    by_cases hx : c = at' x
    · rw [hx, State.core_modCore]
      exact .inl rfl
    · rw [State.core_modCore_ne _ _ hx]
      exact h.imp_right fun hm => (List.mem_cons.mp hm).resolve_left hx

theorem State.gated_beach {c : Nat} {locals : List Nat} (cause : Nat) (s : State) (hc : s.fenced c = false) (h : coreLocal c ∈ locals) :
    ((s.beach (coreDie c) locals cause).core c).gated = true := by
  have hmem : coreLocal c ∈ s.unfenced (coreDie c) locals := by
    rw [State.unfenced, List.mem_filter, core_of_die_local, hc]
    exact ⟨h, rfl⟩
  unfold State.beach
  extract_lets ls seq v fall hub bw u
  rw [if_neg (show ¬ ls = [] from List.ne_nil_of_mem hmem), State.core_modDie]
  refine State.gated_foldl (fun l => 36 * coreDie c + l) ls c u (.inr ?_)
  exact List.mem_map.mpr ⟨_, hmem, core_of_die_local c⟩

/-! ### The end of a window of CE2 -/

/-- The dies' shares of a sum over cores make up the sum. -/
theorem sum_by_die (p : Nat → Bool) (g : Nat → Nat) (l : List Nat) (h : ∀ x ∈ l, x < 144) :
    ((List.range 4).map fun d => ((((l.filter fun c => decide (coreDie c = d)).map coreLocal).filter fun i => p (36 * d + i)).map
      fun i => g (36 * d + i)).sum).sum = ((l.filter p).map g).sum := by
  induction l with
  | nil => rfl
  | cons x xs ih =>
    have ih := ih fun y hy => h y (List.mem_cons_of_mem _ hy)
    have hx : coreDie x < 4 := Nat.div_lt_of_lt_mul (h x List.mem_cons_self)
    have hcore := core_of_die_local x
    have hterm (d : Nat) : ((((((x :: xs).filter fun c => decide (coreDie c = d)).map coreLocal).filter fun i => p (36 * d + i)).map
        fun i => g (36 * d + i))).sum = (if coreDie x = d then if p x = true then g x else 0 else 0) +
          (((((xs.filter fun c => decide (coreDie c = d)).map coreLocal).filter fun i => p (36 * d + i)).map fun i => g (36 * d + i))).sum := by
      by_cases hd : coreDie x = d
      · subst hd
        by_cases hp : p x = true <;> simp [hcore, hp]
      · simp [hd]
    simp only [hterm]
    rw [List.sum_map_add, ih, List.filter_cons]
    have hone : ((List.range 4).map fun d => if coreDie x = d then if p x = true then g x else 0 else 0).sum = if p x = true then g x else 0 := by
      generalize coreDie x = d at hx
      interval_cases d <;> simp [List.range_succ]
    rw [hone]
    split <;> simp

/-- The cores of each die that are beached one die after another. -/
def State.beachAll (cause : Nat) (locals : Nat → List Nat) (ds : List Nat) (s : State) : State := ds.foldl (fun s d => s.beach d (locals d) cause) s

theorem State.fenced_beachAll_of_fenced (cause : Nat) (locals : Nat → List Nat) (ds : List Nat) {s : State} {c : Nat} (h : s.fenced c = true) :
    (s.beachAll cause locals ds).fenced c = true := by
  induction ds generalizing s with
  | nil => exact h
  | cons d ds ih => exact ih (State.fenced_beach_of_fenced _ _ h)

theorem State.fenced_beachAll (cause : Nat) {locals : Nat → List Nat} (hl : ∀ d, (locals d).Pairwise (· < ·)) (ds : List Nat) (s : State) {c : Nat}
    (hd : coreDie c ∈ ds) (hc : coreLocal c ∈ locals (coreDie c)) : (s.beachAll cause locals ds).fenced c = true := by
  induction ds generalizing s with
  | nil => exact absurd hd List.not_mem_nil
  | cons d ds ih =>
    rcases List.mem_cons.mp hd with rfl | hd
    · exact State.fenced_beachAll_of_fenced cause locals ds (State.fenced_beach cause s (hl _) hc)
    · exact ih _ hd

theorem State.bw_beachAll (cause : Nat) (locals : Nat → List Nat) (hl : ∀ d, ∀ i ∈ locals d, i < 36) (ds : List Nat) (hds : ds.Nodup) (s : State) :
    (s.beachAll cause locals ds).bw = { s.bw with fallCores := s.bw.fallCores +
      (ds.map fun d => ((s.unfenced d (locals d)).map fun l => min coreRated (s.bw.grantOf (36 * d + l)).grant).sum).sum } := by
  induction ds generalizing s with
  | nil => rfl
  | cons d ds ih =>
    obtain ⟨hd, hds⟩ := List.nodup_cons.mp hds
    have hrest : (ds.map fun e => (((s.beach d (locals d) cause).unfenced e (locals e)).map fun l =>
          min coreRated ((s.beach d (locals d) cause).bw.grantOf (36 * e + l)).grant).sum) =
        ds.map fun e => ((s.unfenced e (locals e)).map fun l => min coreRated (s.bw.grantOf (36 * e + l)).grant).sum := by
      refine List.map_congr_left fun e he => ?_
      have hne : e ≠ d := fun h => hd (h ▸ he)
      have hunf : (s.beach d (locals d) cause).unfenced e (locals e) = s.unfenced e (locals e) := List.filter_congr fun i hi => by
        rw [State.fenced_beach_ne _ _ _ (by rw [coreDie_add (hl e i hi)]; exact hne)]
      rw [hunf, State.bw_beach]
      rfl
    rw [State.beachAll, List.foldl_cons]
    refine (ih hds _).trans ?_
    rw [hrest, State.bw_beach, List.map_cons, List.sum_cons, Nat.add_assoc]

/-- Cores with CE2 detections above the limit in two windows. -/
def State.ce2Excess (s : State) : List Nat := (List.range 144).filter fun c =>
  decide (s.sec.ce2Limit < Tab.get 0 s.bw.ce2Prev c) && decide (s.sec.ce2Limit < Tab.get 0 s.bw.ce2Cur c)

theorem State.mem_ce2Excess {s : State} {c : Nat} : c ∈ s.ce2Excess ↔
    c < 144 ∧ s.sec.ce2Limit < Tab.get 0 s.bw.ce2Prev c ∧ s.sec.ce2Limit < Tab.get 0 s.bw.ce2Cur c := by
  simp [State.ce2Excess]

/-- The locals of a die among them. -/
def State.ce2Locals (s : State) (d : Nat) : List Nat := (s.ce2Excess.filter fun c => decide (coreDie c = d)).map coreLocal

theorem State.ce2Locals_sorted (s : State) (d : Nat) : (s.ce2Locals d).Pairwise (· < ·) := by
  rw [State.ce2Locals, List.pairwise_map]
  refine ((List.pairwise_lt_range.filter _).filter _).imp_of_mem fun {x y} hx hy hlt => ?_
  have hxd := of_decide_eq_true (List.mem_filter.mp hx).2
  have hyd := of_decide_eq_true (List.mem_filter.mp hy).2
  have hxl := core_of_die_local x
  have hyl := core_of_die_local y
  omega

end Sys2Proof.Machine
end

section
/-! The fencing sequence: cores that are fenced stay fenced (R241 to R244). -/

namespace Sys2Proof.Machine

/-- What work on leases and postings leaves of the fencing of a die. -/
structure State.FenceKept (d : Nat) (s u : State) : Prop where
  cores : u.cores = s.cores
  roles : u.roles = s.roles
  mask : (u.die d).fenceMask = (s.die d).fenceMask
  fencing : (u.die d).fencing = (s.die d).fencing
  leases : ∀ e, ((s.die d).lease e).st ≠ 1 → ((u.die d).lease e).st ≠ 1

namespace State.FenceKept

variable {d : Nat} {s u v : State}

theorem refl (s : State) : s.FenceKept d s := ⟨rfl, rfl, rfl, rfl, fun _ h => h⟩

theorem trans (h : s.FenceKept d u) (k : u.FenceKept d v) : s.FenceKept d v where
  cores := k.cores.trans h.cores
  roles := k.roles.trans h.roles
  mask := k.mask.trans h.mask
  fencing := k.fencing.trans h.fencing
  leases e he := k.leases e (h.leases e he)

/-- Work that goes one step after another. -/
theorem foldl {α : Type} {f : State → α → State} (h : ∀ (s : State) x, s.FenceKept d (f s x)) (l : List α) (s : State) : s.FenceKept d (l.foldl f s) := by
  induction l generalizing s with
  | nil => exact refl s
  | cons x l ih => exact (h s x).trans (ih _)

/-- Work on another die. -/
theorem of_die (hc : u.cores = s.cores) (hr : u.roles = s.roles) (hd : u.die d = s.die d) : s.FenceKept d u := by
  refine ⟨hc, hr, ?_, ?_, fun e he => ?_⟩ <;> rw [hd]
  exact he

end State.FenceKept

theorem State.fenceKept_record (d ty src : Nat) (pl : List Byte) (core unit : Nat) (s : State) : s.FenceKept d (s.record ty src pl core unit) :=
  .of_die rfl rfl rfl

theorem State.fenceKept_pairError (d k : Nat) (s : State) : s.FenceKept d (s.pairError k) := by
  unfold State.pairError
  dsimp only
  split
  · exact .of_die rfl rfl rfl
  · refine .trans ?_ (State.fenceKept_record ..)
    exact .of_die rfl rfl rfl

theorem State.fenceKept_failStep (d n code : Nat) (s : State) : s.FenceKept d (s.failStep n code) := by
  refine ⟨rfl, rfl, ?_, ?_, fun e he => ?_⟩ <;> rw [State.die_failStep]
  exacts [rfl, rfl, he]

/-- A change of a die's tiles alone. -/
theorem State.fenceKept_modDie (d e : Nat) (f : Die → Die) (s : State) (hm : (f (s.die d)).fenceMask = (s.die d).fenceMask)
    (hf : (f (s.die d)).fencing = (s.die d).fencing) (hl : ∀ e, ((s.die d).lease e).st ≠ 1 → ((f (s.die d)).lease e).st ≠ 1) :
    s.FenceKept d (s.modDie e f) := by
  by_cases h : d = e
  · subst h
    refine ⟨rfl, rfl, ?_, ?_, fun e he => ?_⟩ <;> rw [State.die_modDie]
    exacts [hm, hf, hl e he]
  · exact .of_die rfl rfl (State.die_modDie_ne _ _ h)

theorem State.fenceKept_failTile (d e ctr tile code : Nat) (s : State) : s.FenceKept d (s.failTile e ctr tile code) := by
  rw [State.failTile]
  dsimp only
  refine .trans (.trans ?_ (State.fenceKept_record ..)) (State.fenceKept_failStep ..)
  exact State.fenceKept_modDie _ _ _ _ rfl rfl fun _ h => h

/-- A lease that is written not HELD leaves no lease HELD that was not. -/
theorem Die.lease_setLease_ne_held {x : Die} {l : Lease} {e : Nat} (hl : l.st ≠ 1) (i : Nat) (h : (x.lease i).st ≠ 1) :
    ((x.setLease e l).lease i).st ≠ 1 := by
  by_cases hi : i = e
  · rwa [hi, Die.lease_setLease]
  · rwa [Die.lease, Die.setLease, Tab.get_insert_ne _ _ _ hi, ← Die.lease]

theorem State.fenceKept_revokeLease (d i e : Nat) (l : Lease) (code : Option Nat) (s : State) : s.FenceKept d (s.revokeLease i e l code) := by
  have hl : (l.withSt 2).st ≠ 1 := by rw [Lease.st_withSt]; decide
  unfold State.revokeLease
  dsimp only
  split
  · exact State.fenceKept_modDie _ _ _ _ rfl rfl fun j hj => Die.lease_setLease_ne_held hl j hj
  · split
    · refine .trans ?_ (State.fenceKept_failTile ..)
      exact State.fenceKept_modDie _ _ _ _ rfl rfl fun j hj => Die.lease_setLease_ne_held hl j hj
    · refine .trans ?_ (State.fenceKept_modDie _ _ _ _ rfl rfl fun _ h => h)
      exact State.fenceKept_modDie _ _ _ _ rfl rfl fun j hj => Die.lease_setLease_ne_held hl j hj

theorem State.fenceKept_revoke (d i e : Nat) (code : Option Nat) (s : State) : s.FenceKept d (s.revoke i e code) := by
  unfold State.revoke
  dsimp only
  split
  · unfold State.leasePairFault
    refine .trans (.trans ?_ (State.fenceKept_pairError ..)) (State.fenceKept_record ..)
    split
    · exact State.fenceKept_revokeLease ..
    · exact State.fenceKept_modDie _ _ _ _ rfl rfl fun j hj => Die.lease_setLease_ne_held (by rw [Lease.st_make]; decide) j hj
  · split
    · exact .refl _
    · exact State.fenceKept_revokeLease ..

theorem State.lease_revoke_ne_held (d e : Nat) (code : Option Nat) (s : State) : (((s.revoke d e code).die d).lease e).st ≠ 1 := by
  obtain ⟨l, hl, h⟩ := State.die_revoke d e code s
  rwa [h.leases, Die.lease_setLease]

theorem State.fenceKept_revokeCore (d c : Nat) (s : State) : s.FenceKept d (s.revokeCore c) :=
  .foldl (fun _ _ => State.fenceKept_revoke ..) _ _

/-- No lease of a core is HELD once they are revoked. -/
theorem State.lease_revokeCore_ne_held (c : Nat) {t : Nat} (ht : t < 4) (s : State) :
    (((s.revokeCore c).die (coreDie c)).lease (leaseIx c t)).st ≠ 1 := by
  have h (ts : List Nat) (u : State) (hu : ((u.die (coreDie c)).lease (leaseIx c t)).st ≠ 1 ∨ t ∈ ts) :
      (((ts.foldl (fun (s : State) t => s.revoke (coreDie c) (leaseIx c t) none) u).die (coreDie c)).lease (leaseIx c t)).st ≠ 1 := by
    induction ts generalizing u with
    | nil => exact hu.resolve_right List.not_mem_nil
    | cons x xs ih =>
      refine ih _ ?_
      by_cases hx : t = x
      · exact .inl (hx ▸ State.lease_revoke_ne_held _ _ _ _)
      · exact hu.imp ((State.fenceKept_revoke ..).leases _) fun hm => (List.mem_cons.mp hm).resolve_left hx
  exact h _ _ (.inr (List.mem_range.mpr ht))

theorem State.fenceKept_classShort (d h : Nat) (r : ClassRec) (before now : Nat) (s : State) : s.FenceKept d (s.classShort h r before now) := by
  unfold State.classShort
  extract_lets u
  have hu : s.FenceKept d u := by
    refine iteInduction (motive := fun u : State => s.FenceKept d u) (fun _ => ?_) fun _ => .refl _
    refine .trans (State.fenceKept_record d 0x0022 4 (b8 h ++ b8 r.cls ++ b8 now) 0xFF 0 s) ?_
    exact .of_die rfl rfl rfl
  refine hu.trans ?_
  split
  · refine .foldl (fun s e => .foldl (fun s n => ?_) _ _) _ _
    dsimp only
    split
    · exact State.fenceKept_failTile ..
    · exact .refl _
  · exact .refl _

/-! ### One core -/

/-- Local `x` of a die is fenced: beached, masked, without leases, and its slots stopped or its logic off. -/
structure State.Stopped (d x : Nat) (s : State) : Prop where
  role : s.role (36 * d + x) = .beached
  mask : bit (s.die d).fenceMask x = true
  leases : ∀ t < 4, ((s.die d).lease (4 * x + t)).st ≠ 1
  slots : ∀ t < 4, ((s.core (36 * d + x)).slot t).st = .stopped ∨ (s.core (36 * d + x)).logicOff = true

theorem State.Stopped.of_kept {d x : Nat} {s u : State} (h : s.Stopped d x) (k : s.FenceKept d u) : u.Stopped d x where
  role := by rw [State.role, k.roles]; exact h.role
  mask := by rw [k.mask]; exact h.mask
  leases t ht := k.leases _ (h.leases t ht)
  slots t ht := by rw [State.core, k.cores]; exact h.slots t ht

theorem State.Stopped.logicCheck {d x : Nat} {s : State} (h : s.Stopped d x) (c : Nat) : (s.logicCheck c).Stopped d x := by
  unfold State.logicCheck
  split
  · refine ⟨h.role, h.mask, h.leases, fun t ht => ?_⟩
    by_cases hc : 36 * d + x = c
    · rw [hc, State.core_modCore]
      exact .inr rfl
    · rw [State.core_modCore_ne _ _ hc]
      exact h.slots t ht
  · exact h

theorem bit_or (a b k : Nat) : bit (a ||| b) k = (bit a k || bit b k) := Nat.testBit_or ..

theorem Core.slot_modSlot_ne (k : Core) {t u : Nat} (f : TaskSlot → TaskSlot) (h : u ≠ t) : (k.modSlot t f).slot u = k.slot u :=
  Core.slot_setSlot_ne _ _ h

@[simp] theorem Core.slot_gate (k : Core) (g : Bool) (t : Nat) : ({ k with gated := g } : Core).slot t = k.slot t := rfl
@[simp] theorem Core.slot_modSpd (k : Core) (f : Spad → Spad) (t : Nat) : (k.modSpd f).slot t = k.slot t := rfl

theorem Core.slot_foldl_modSlot (f : TaskSlot → TaskSlot) (hf : ∀ ts, (f ts).st = .stopped) (ts : List Nat) (k : Core) (t : Nat)
    (h : (k.slot t).st = .stopped ∨ t ∈ ts) : ((ts.foldl (fun (k : Core) t => k.modSlot t f) k).slot t).st = .stopped := by
  induction ts generalizing k with
  | nil => exact h.resolve_right List.not_mem_nil
  | cons x xs ih =>
    refine ih _ ?_
    by_cases hx : t = x
    · rw [hx, Core.slot_modSlot, hf]
      exact .inl rfl
    · rw [Core.slot_modSlot_ne _ _ hx]
      exact h.imp_right fun hm => (List.mem_cons.mp hm).resolve_left hx

/-- A core that is fenced is stopped. -/
theorem State.stopped_fenceOne (d seq cause : Nat) {x : Nat} (hx : x < 36) (s : State) : (s.fenceOne d seq cause (36 * d + x)).Stopped d x := by
  have hrev (t : Nat) (ht : t < 4) := State.lease_revokeCore_ne_held (36 * d + x) ht s
  simp only [coreDie_add hx, leaseIx, coreLocal_add hx] at hrev
  unfold State.fenceOne
  generalize s.revokeCore (36 * d + x) = r at hrev
  extract_lets held s1 s2 s3
  suffices h3 : s3.Stopped d x from (h3.of_kept (State.fenceKept_record ..)).logicCheck _
  refine ⟨?_, ?_, fun t ht => ?_, fun t ht => .inl ?_⟩
  · rw [State.role_modDie, State.role_modCore, State.role_setRole]
  · rw [State.die_modDie, coreLocal_add hx, bit_or, Bool.or_eq_true]
    exact .inr (Nat.testBit_two_pow_self ..)
  · rw [State.die_modDie]
    exact hrev t ht
  · rw [State.core_modDie, State.core_modCore]
    have h := Core.slot_foldl_modSlot (fun ts => { ts with st := .stopped, blk := .none, held := none, variant := none }) (fun _ => rfl)
      (List.range 4) (s1.core (36 * d + x)) t (.inr (List.mem_range.mpr ht))
    dsimp only at h ⊢
    rw [Core.slot_gate, Core.slot_modSpd]
    exact h

/-- A core that is stopped is stopped still when another is fenced. -/
theorem State.Stopped.fenceOne {d x : Nat} {s : State} (h : s.Stopped d x) (seq cause y : Nat) (hne : x ≠ y) :
    (s.fenceOne d seq cause (36 * d + y)).Stopped d x := by
  have hne : 36 * d + x ≠ 36 * d + y := by omega
  have hrev := h.of_kept (State.fenceKept_revokeCore d (36 * d + y) s)
  unfold State.fenceOne
  generalize s.revokeCore (36 * d + y) = r at hrev
  extract_lets held s1 s2 s3
  suffices h3 : s3.Stopped d x from (h3.of_kept (State.fenceKept_record ..)).logicCheck _
  refine ⟨?_, ?_, fun t ht => ?_, fun t ht => ?_⟩
  · rw [State.role_modDie, State.role_modCore, State.role_setRole_ne _ _ hne]
    exact hrev.role
  · rw [State.die_modDie, bit_or, Bool.or_eq_true]
    exact .inl hrev.mask
  · rw [State.die_modDie]
    exact hrev.leases t ht
  · rw [State.core_modDie, State.core_modCore_ne _ _ hne]
    exact hrev.slots t ht

/-- Every core of a list is stopped once they are fenced one after another. -/
theorem State.stopped_foldl_fenceOne (d seq : Nat) (cause : Nat → Nat) {x : Nat} (hx : x < 36) (ls : List Nat) (s : State)
    (h : s.Stopped d x ∨ x ∈ ls) :
    ((ls.map (36 * d + ·)).foldl (fun (s : State) c => s.fenceOne d seq (cause c) c) s).Stopped d x := by
  induction ls generalizing s with
  | nil => exact h.resolve_right List.not_mem_nil
  | cons y ys ih =>
    rw [List.map_cons, List.foldl_cons]
    apply ih
    by_cases hxy : x = y
    · exact .inl (hxy ▸ State.stopped_fenceOne d seq _ hx s)
    · exact h.imp (fun h => h.fenceOne seq _ y hxy) fun hm => (List.mem_cons.mp hm).resolve_left hxy

end Sys2Proof.Machine
end

section
/-! The fencing sequence as a whole (R239 to R247). -/

namespace Sys2Proof.Machine

theorem State.Stopped.modDie {d x : Nat} {s : State} (h : s.Stopped d x) (f : Die → Die) (hm : (f (s.die d)).fenceMask = (s.die d).fenceMask)
    (hl : (f (s.die d)).leases = (s.die d).leases) : (s.modDie d f).Stopped d x where
  role := h.role
  mask := by rw [State.die_modDie, hm]; exact h.mask
  leases t ht := by rw [State.die_modDie, Die.lease, hl]; exact h.leases t ht
  slots := h.slots

/-! ### Acknowledgements -/

/-- Work that leaves the events of a die and its last acknowledged one. -/
structure State.EvtsKept (d : Nat) (s u : State) : Prop where
  evts : (u.die d).evts = (s.die d).evts
  seq : (u.die d).fenceSeq = (s.die d).fenceSeq

namespace State.EvtsKept

variable {d : Nat} {s u v : State}

theorem refl (s : State) : s.EvtsKept d s := ⟨rfl, rfl⟩
theorem trans (h : s.EvtsKept d u) (k : u.EvtsKept d v) : s.EvtsKept d v := ⟨k.evts.trans h.evts, k.seq.trans h.seq⟩
theorem of_dies (h : u.dies = s.dies) : s.EvtsKept d u := by constructor <;> rw [State.die, h, State.die]

theorem foldl {α : Type} {f : State → α → State} (h : ∀ (s : State) x, s.EvtsKept d (f s x)) (l : List α) (s : State) : s.EvtsKept d (l.foldl f s) := by
  induction l generalizing s with
  | nil => exact refl s
  | cons x l ih => exact (h s x).trans (ih _)

end State.EvtsKept

theorem State.evtsKept_modDie (d e : Nat) (f : Die → Die) (s : State) (he : (f (s.die d)).evts = (s.die d).evts)
    (hs : (f (s.die d)).fenceSeq = (s.die d).fenceSeq) : s.EvtsKept d (s.modDie e f) := by
  by_cases h : d = e
  · subst h
    constructor <;> rw [State.die_modDie]
    exacts [he, hs]
  · constructor <;> rw [State.die_modDie_ne _ _ h]

theorem State.evtsKept_retargetAll (d c : Nat) (j : Option Nat) (s : State) : s.EvtsKept d (s.retargetAll c j) := by
  unfold State.retargetAll
  split
  · exact .refl _
  · refine .foldl (fun _ _ => ?_) _ _
    exact .of_dies rfl

theorem State.evtsKept_startProgram (d : Nat) (st : Stream) (p : ProgRec) (n c : Nat) (s : State) : s.EvtsKept d (s.startProgram st p n c) := by
  refine .foldl (fun s t => ?_) _ _
  dsimp only
  split
  · exact .of_dies rfl
  · split
    · exact .refl _
    · exact .of_dies rfl

theorem State.evtsKept_joinPostings (d c : Nat) (s : State) : s.EvtsKept d (s.joinPostings c) := by
  unfold State.joinPostings
  split
  · exact .refl _
  · refine .foldl (fun s q => ?_) _ _
    split
    · split
      · exact State.evtsKept_startProgram ..
      · exact .refl _
    · exact .refl _

theorem State.evtsKept_join (d k : Nat) (s : State) : s.EvtsKept d (s.join k) := by
  unfold State.join
  extract_lets e u
  have hu : s.EvtsKept d u := by
    refine .trans ?_ (State.evtsKept_modDie _ _ _ _ rfl rfl)
    exact .of_dies rfl
  refine hu.trans ?_
  split
  · exact .refl _
  · split
    · exact State.evtsKept_joinPostings ..
    · refine .trans ?_ (State.evtsKept_modDie _ _ _ _ rfl rfl)
      unfold State.requestBanks
      split
      · exact .refl _
      · exact .of_dies rfl

/-- What the die Headland's acknowledgement of an event does for one of its cores (R243). -/
def State.ackCore (d : Nat) (v : FenceEvt) (s : State) (c : Nat) : State :=
  let joiner := if c ∈ v.lost then s.standbyOf d (coreGroup c) else none
  let s := s.retargetAll c joiner
  match joiner with
  | some k => s.join k
  | none => s

theorem State.evtsKept_ackCores (d : Nat) (v : FenceEvt) (cs : List Nat) (s : State) : s.EvtsKept d (cs.foldl (State.ackCore d v) s) := by
  refine .foldl (fun s c => ?_) _ _
  unfold State.ackCore
  dsimp only
  generalize (if c ∈ v.lost then s.standbyOf d (coreGroup c) else none) = joiner
  refine (State.evtsKept_retargetAll d c joiner s).trans ?_
  cases joiner with
  | some k => exact State.evtsKept_join ..
  | none => exact .refl _

theorem FenceEvt.seq_modLink (toHub : Bool) (f : FenceLink → FenceLink) (v : FenceEvt) : (v.modLink toHub f).seq = v.seq := by
  cases toHub <;> rfl
theorem FenceEvt.link_modLink (toHub : Bool) (f : FenceLink → FenceLink) (v : FenceEvt) : (v.modLink toHub f).link toHub = f (v.link toHub) := by
  cases toHub <;> rfl

/-- An acknowledged event that stays has its acknowledgement, and waits for the other. -/
theorem Die.acked_of_mem {x : Die} {fromHub : Bool} {n : Nat} {v : FenceEvt}
    (h : v ∈ (x.modEvt n (FenceEvt.modLink fromHub fun y => { y with onWay := false, acked := true })).evts.filter fun y => !(y.die.acked && y.hub.acked))
    (hn : v.seq = n) : (v.link fromHub).acked = true ∧ ¬ (v.die.acked = true ∧ v.hub.acked = true) := by
  obtain ⟨hmem, hopen⟩ := List.mem_filter.mp h
  refine ⟨?_, fun ⟨h1, h2⟩ => by simp [h1, h2] at hopen⟩
  obtain ⟨w, -, rfl⟩ := List.mem_map.mp hmem
  by_cases hw : w.seq = n
  · rw [if_pos hw, FenceEvt.link_modLink]
  · rw [if_neg hw] at hn
    exact absurd hn hw

/-- The oldest event that is due is sent again; those before it are younger. -/
theorem execFenceResend_go_append (s : State) {v : FenceEvt} {before after : List FenceEvt} (hb : ∀ x ∈ before, s.us < x.sent + 1)
    (hv : v.sent + 1 ≤ s.us) : execFenceResend.go s (before ++ v :: after) =
      before ++ { v with die := v.die.resend, hub := v.hub.resend, sent := s.us } :: after := by
  induction before with
  | nil => exact if_neg (by omega)
  | cons x xs ih =>
    rw [List.cons_append, execFenceResend.go, if_pos (hb x List.mem_cons_self), ih fun y hy => hb y (List.mem_cons_of_mem _ hy)]
    rfl

/-- Clearing a bit of a mask. -/
theorem bit_clear (m k : Nat) : bit (if bit m k then m - 2 ^ k else m) k = false := by
  by_cases h : bit m k = true
  · rw [if_pos h]
    have hm : m = 2 ^ k + (m - 2 ^ k) := (Nat.add_sub_cancel' (Nat.ge_two_pow_of_testBit h)).symm
    rw [bit, hm, Nat.testBit_two_pow_add_eq, Bool.not_eq_true'] at h
    exact h
  · rw [if_neg h]
    exact Bool.eq_false_iff.mpr h

/-! ### The cores of an event -/

/-- An event that reaches its Headland stops every core it names. -/
theorem fenceEvent_stops (d : DieId) (s : State) {v : FenceEvt} (hfind : (s.die d).evts.find? (fun v => (v.link false).onWay) = some v)
    (hup : (s.die d).inReset = false ∨ (s.die d).isolated = true) (hrec : v.die.received = false) :
    ∃ u, exec (.fenceEvent d false true) s = .next u ∧ (u.die d).fencing = true ∧ ∀ x < 36, bit v.mask x = true → u.Stopped d x := by
  have hexec : exec (.fenceEvent d false true) s = execFenceEvent d false true s := rfl
  rw [hexec, execFenceEvent]
  erw [hfind]
  dsimp only
  have hrun : ((s.die d).inReset && !(s.die d).isolated) = false := by rcases hup with h | h <;> simp [h]
  have hlink : (v.link false).received = false := hrec
  simp only [hrun, hlink, Bool.false_eq_true, if_false, Bool.not_true]
  refine ⟨_, rfl, ?_⟩
  generalize s.modDie d _ = s1
  have hls (x : Nat) (hx : x < 36) (hbit : bit v.mask x = true) : x ∈ (List.range 36).filter fun l => bit v.mask l :=
    List.mem_filter.mpr ⟨List.mem_range.mpr hx, hbit⟩
  generalize (List.range 36).filter (fun l => bit v.mask l) = ls at hls
  generalize List.flatMap _ (List.range 4) = classes
  have hstop (x : Nat) (hx : x < 36) (hbit : bit v.mask x = true) :=
    State.stopped_foldl_fenceOne d v.seq (fun c => Tab.get 0 v.causes (coreLocal c)) hx ls s1 (.inr (hls x hx hbit))
  generalize List.foldl _ s1 (ls.map (36 * (d : Nat) + ·)) = s2 at hstop ⊢
  generalize hs3 : s2.modDie d _ = s3
  have hfenc : (s3.die d).fencing = true := by rw [← hs3, State.die_modDie]
  have hstop3 (x : Nat) (hx : x < 36) (hbit : bit v.mask x = true) : s3.Stopped d x := by
    rw [← hs3]
    exact (hstop x hx hbit).modDie _ rfl rfl
  have hkept := State.FenceKept.foldl (d := d) (fun (s : State) (x : (Nat × ClassRec) × Nat) =>
    State.fenceKept_classShort d x.1.1 x.1.2 x.2 ((x.1.2.cores.filter fun c => s.role c = .inService).length) s)
  exact ⟨(hkept _ _).fencing.trans hfenc, fun x hx hbit => (hstop3 x hx hbit).of_kept (hkept _ _)⟩

/-! ### The obligation -/

/-- A heartbeat that has not come for 10 microseconds beaches its core. -/
theorem heartbeatTimeout_beaches (c : CoreId) (s : State) (hf : s.fenced c = false) (hr : (s.core c).inReset = false)
    (hrole : s.role c ≠ .disabled) (hdue : (Tab.get (0, 0) s.bw.hbeatSeen c).2 + 10 ≤ s.us) :
    exec (.heartbeatTimeout c) s = .next (s.beach (coreDie c) [coreLocal c] 2) := by
  have hexec : exec (.heartbeatTimeout c) s = execHeartbeatTimeout c s := rfl
  rw [hexec, execHeartbeatTimeout, if_pos (by simp [hf, hr, hrole, hdue])]

theorem State.unfenced_single {c : Nat} {s : State} (hf : s.fenced c = false) : s.unfenced (coreDie c) [coreLocal c] = [coreLocal c] := by
  rw [State.unfenced, List.filter_cons, core_of_die_local, hf]
  rfl

/-- The end of a window of CE2 beaches the cores above the limit, die by die. -/
theorem ce2WindowEnd_eq (s : State) (h0 : s.bw.epoch % 2 ^ 20 = 0) (h1 : s.bw.epoch ≠ 0) :
    exec .ce2WindowEnd s = .next (let u := s.beachAll 3 s.ce2Locals (List.range 4); { u with bw := { u.bw with ce2Prev := u.bw.ce2Cur, ce2Cur := [] } }) := by
  have hexec : exec .ce2WindowEnd s = execCe2WindowEnd s := rfl
  rw [hexec, execCe2WindowEnd, if_neg (not_or.mpr ⟨not_not.mpr h0, h1⟩)]
  rfl

/-- Cores whose reset waited for their fence are reset. -/
theorem State.resetDue_eq (s : State) {due due' : List Nat} (h : due = due') :
    due.foldl (fun (s : State) c => s.coreReset c) { s with hub := { s.hub with
      resetAfterFence := s.hub.resetAfterFence.filter fun c => !(c ∈ due) } } =
    due'.foldl (fun (s : State) c => s.coreReset c) { s with hub := { s.hub with
      resetAfterFence := s.hub.resetAfterFence.filter fun c => c ∉ due' } } := by
  subst h
  simp only [decide_not]

@[simp] theorem State.core_watch (cs : List Nat) (c : Nat) (s : State) : (s.watch cs).core c = s.core c := rfl

/-- Settles O15: each event of the fencing sequence. -/
theorem fencingAndJoins : Obligations.FencingAndJoins := by
  unfold Obligations.FencingAndJoins
  intro d c s
  refine ⟨?_, ?_, ?_, ?_, ?_, ?_, ?_, ?_⟩
  · intro hf hr hrole hdue
    refine ⟨_, heartbeatTimeout_beaches c s hf hr hrole hdue, State.fenced_beach _ _ (List.pairwise_singleton ..) List.mem_cons_self,
      State.gated_beach _ _ hf List.mem_cons_self, ?_⟩
    rw [State.die_beach_self _ _ _ _ (by rw [State.unfenced_single hf]; simp), State.beachEvt, State.unfenced_single hf]
    rfl
  · intro h0 h1
    refine ⟨_, ce2WindowEnd_eq s h0 h1, ?_, fun x hx hprev hcur => ?_⟩
    · have hlocal : ∀ d, ∀ i ∈ s.ce2Locals d, i < 36 := fun d i hi => by
        obtain ⟨c, -, rfl⟩ := List.mem_map.mp hi
        exact coreLocal_lt c
      have hsum := sum_by_die (fun c => !s.fenced c) (fun x => min coreRated (s.bw.grantOf x).grant) s.ce2Excess fun x hx => (State.mem_ce2Excess.mp hx).1
      have hbw := State.bw_beachAll 3 s.ce2Locals hlocal (List.range 4) List.nodup_range s
      rw [show (((List.range 4).map fun d => ((s.unfenced d (s.ce2Locals d)).map fun l => min coreRated (s.bw.grantOf (36 * d + l)).grant).sum).sum) = _
        from hsum, State.ce2Excess, List.filter_filter] at hbw
      simp only [hbw, ← Bool.and_assoc]
    · have hmem : x ∈ s.ce2Excess := State.mem_ce2Excess.mpr ⟨hx, hprev, hcur⟩
      have hdie : coreDie x ∈ List.range 4 := List.mem_range.mpr (Nat.div_lt_of_lt_mul hx)
      refine State.fenced_beachAll 3 s.ce2Locals_sorted _ s hdie ?_
      exact List.mem_map_of_mem (List.mem_filter.mpr ⟨hmem, decide_eq_true rfl⟩)
  · intro toHub v hfind hup
    dsimp only
    have hexec (ok : Bool) : exec (.fenceEvent d toHub ok) s = execFenceEvent d toHub ok s := rfl
    have hrun : (if toHub = true then !s.hub.hubUp else (s.die d).inReset && !(s.die d).isolated) = false := by
      cases toHub
      · rcases hup with h | h <;> simp [h]
      · simp [show s.hub.hubUp = true from hup]
    refine ⟨?_, fun hrec => ?_, fun htoHub hrec => ?_, fun htoHub hrec => ?_⟩
    · rw [hexec, execFenceEvent]
      erw [hfind]
      simp only [hrun]
      rfl
    · rw [hexec, execFenceEvent]
      erw [hfind]
      simp only [hrun, hrec]
      rfl
    · subst htoHub
      rw [hexec, execFenceEvent]
      erw [hfind]
      simp only [show s.hub.hubUp = true from hup, show (v.link true).received = false from hrec, Bool.not_true, Bool.false_eq_true, if_false, if_true]
    · subst htoHub
      obtain ⟨u, hu, hfenc, hstop⟩ := fenceEvent_stops d s hfind hup hrec
      refine ⟨u, hu, hfenc, fun x hx hbit => ?_⟩
      obtain ⟨hrole, hmask, hleases, hslots⟩ := hstop x hx hbit
      exact ⟨hrole, hmask, fun t ht => ⟨hleases t ht, hslots t ht⟩⟩
  · intro before v after hevts hb hv
    have hexec : exec (.fenceResend d) s = .next (s.modDie d fun x => { x with evts := execFenceResend.go s x.evts }) := rfl
    rw [hexec, State.modDie, hevts, execFenceResend_go_append s hb hv]
    rfl
  · intro fromHub v hfind
    have hexec (ok : Bool) : exec (.fenceAck d fromHub ok) s = execFenceAck d fromHub ok s := rfl
    constructor
    · rw [hexec, execFenceAck]
      erw [hfind]
      rfl
    · rw [hexec, execFenceAck]
      erw [hfind]
      simp only [Bool.not_true, Bool.false_eq_true, if_false]
      cases fromHub with
      | true =>
        refine ⟨_, rfl, ?_, fun x hx hseq => ?_⟩
        · rw [if_pos rfl, State.die_modDie]
          rfl
        · rw [if_pos rfl, State.die_modDie] at hx
          exact Die.acked_of_mem hx hseq
      | false =>
        refine ⟨List.foldl (State.ackCore d v) _ _, rfl, ?_, fun x hx hseq => ?_⟩
        · exact (State.evtsKept_ackCores ..).seq.trans (congrArg Die.fenceSeq (State.die_modDie ..))
        · rw [(State.evtsKept_ackCores ..).evts, State.die_modDie, State.die_modDie] at hx
          exact Die.acked_of_mem hx hseq
  · intro h st r hjoin hready hf hclaim
    dsimp only
    intro hpre hwork
    have hexec : exec (.joinComplete c) s = execJoinComplete c s := rfl
    rw [hexec, execJoinComplete]
    dsimp only
    rw [if_neg (by simp [hjoin, hready, hf])]
    erw [hclaim]
    dsimp only
    erw [hpre]
    simp [hwork]
  · intro ns hfenc hopen
    dsimp only
    have hany : ((s.die d).evts.any fun x => x.open_) = false := List.any_eq_false_of hopen
    have hexec : exec (.fenceRelease d ns) s = execFenceRelease d ns s := rfl
    refine (fun hrun => And.intro (fun hdue => ?_) hrun) ?_
    · rw [hrun]
      simp only [hdue, List.foldl_nil, List.not_mem_nil, not_false_eq_true, decide_true, List.filter_true, State.modDie_hub]
      rfl
    · rw [hexec, execFenceRelease]
      dsimp only
      rw [if_neg (by simp [hfenc, hany])]
      exact congrArg Host.Outcome.next (State.resetDue_eq _ (List.filter_congr fun x _ => (Bool.decide_and ..).symm))
  · intro hself hlogic
    have hexec (pass ok : Bool) : exec (.selftestDone c pass ok) s = execSelftestDone c pass ok s := rfl
    refine ⟨fun hup pass ok => ?_, fun hup pass => ?_, fun hup => ?_, fun hup => ?_⟩
    · simp [hexec, execSelftestDone, hup]
    · simp [hexec, execSelftestDone, hup, hself, hlogic]
    · rw [hexec, execSelftestDone]
      simp only [hself, hlogic, hup, decide_true, Bool.not_true, Bool.or_false, Bool.false_eq_true, if_false]
      refine ⟨_, rfl, ?_, ?_, ?_, ?_⟩
      · exact State.role_setRole ..
      · rw [State.core_record, State.core_modDie, State.core_watch]
        exact congrArg Core.gated (State.core_modCore ..)
      · exact fun hmem => absurd rfl (of_decide_eq_true (List.mem_filter.mp hmem).2)
      · rw [State.die_record, State.die_modDie]
        exact bit_clear _ _
    · simp [hexec, execSelftestDone, hup, hself, hlogic]

end Sys2Proof.Machine
end

section
/-! The scratchpad's banks: requests, power and scrub (R167, R169, R172 to R177). -/

namespace Sys2Proof.Machine

@[simp] theorem State.spd_modSpd (c : Nat) (f : Spad → Spad) (s : State) : ((s.modSpd c f).core c).spd = f (s.core c).spd := by
  rw [State.modSpd, State.core_modCore, Core.modSpd]

@[simp] theorem Spad.bank_setBank (m : Spad) (b : Nat) (x : Bank) : (m.setBank b x).bank b = x := Tab.get_insert_self ..
@[simp] theorem Spad.bank_modBank (m : Spad) (b : Nat) (f : Bank → Bank) : (m.modBank b f).bank b = f (m.bank b) := Spad.bank_setBank ..
theorem Spad.bank_modBank_ne (m : Spad) {a b : Nat} (f : Bank → Bank) (h : b ≠ a) : (m.modBank a f).bank b = m.bank b := Tab.get_insert_ne _ _ _ h

/-! ### Scoreboards leave the scratchpad -/

@[simp] theorem Core.spd_landed (w : Nat) (k : Core) : (k.landed w).spd = k.spd := by
  unfold Core.landed
  generalize List.range 16 = ns
  induction ns generalizing k with
  | nil => rfl
  | cons n ns ih =>
    refine (ih _).trans ?_
    dsimp only
    split
    · rfl
    · rfl

/-! ### A bank that has accepted nothing -/

theorem State.emptyBank_of_empty (fuel c b : Nat) (s : State) (h : ((s.core c).spd.bank b).queue = []) : s.emptyBank fuel c b = s := by
  cases fuel with
  | zero => rfl
  | succ n =>
    unfold State.emptyBank
    dsimp only
    rw [h]
    rfl

theorem State.bankRetire_of_empty {c b : Nat} {s : State} (h : ((s.core c).spd.bank b).queue = []) : s.bankRetire c b = s :=
  State.emptyBank_of_empty _ _ _ _ h

/-! ### Requests that arrive -/

theorem execSpdRemoteWrite_eq {c target : CoreId} {t : SlotId} {s : State} {a : Arrival} {fs : List Flight} (stuck : Bool)
    (h : takeWrite c t target 0 s.fabric = some (a, fs)) (hgo : s.turnedAway c target a.word stuck = false) :
    exec (.spdRemoteWrite c t target stuck) s = .next (({ s with fabric := fs } : State).arrive c t target a stuck) := by
  have hexec : exec (.spdRemoteWrite c t target stuck) s = execSpdRemoteWrite c t target stuck s := rfl
  rw [hexec, execSpdRemoteWrite, h]
  dsimp only
  rw [hgo]
  rfl

theorem execSpdRemoteRead_eq {c target : CoreId} {t : SlotId} {s : State} {a : Arrival} {fs : List Flight} (ups : List Upset) (stuck : Bool)
    (h : takeRead c t target s.fabric = some (a, fs)) (hgo : s.turnedAway c target a.word stuck = false) :
    exec (.spdRemoteRead c t target ups stuck) s = .next ((({ s with fabric := fs } : State).upset target ups).arrive c t target a stuck) := by
  have hexec : exec (.spdRemoteRead c t target ups stuck) s = execSpdRemoteRead c t target ups stuck s := rfl
  rw [hexec, execSpdRemoteRead, h]
  dsimp only
  rw [hgo]
  rfl

/-- A target in reset turns every request away (log entry 165). -/
theorem State.turnedAway_of_inReset {s : State} {target : Nat} (h : (s.core target).inReset = true) (src w : Nat) (stuck : Bool) :
    s.turnedAway src target w stuck = true := by
  simp [State.turnedAway, h]

section arrive

variable {s : State} {src slot target : Nat} {a : Arrival}

theorem State.arrive_beyond (h : 16384 ≤ a.word) (stuck : Bool) : s.arrive src slot target a stuck = s.reject src slot a.num target :=
  if_pos h

theorem State.arrive_write_off {d : W256} {p : Bool} (hb : a.body = .write d p) (hw : a.word < 16384) (hon : (s.core target).spd.isOn a.word = false)
    (stuck : Bool) : s.arrive src slot target a stuck = (s.spdDiscard target src a.word).unpowered src := by
  unfold State.arrive
  dsimp only
  rw [if_neg (by omega), hon, hb]
  rfl

theorem State.arrive_read_off {l : Landing} (hb : a.body = .read l) (hw : a.word < 16384) (hon : (s.core target).spd.isOn a.word = false)
    (stuck : Bool) : s.arrive src slot target a stuck = (s.unpowered src).land src l 0 true := by
  unfold State.arrive
  dsimp only
  rw [if_neg (by omega), hon, hb]
  rfl

/-- Whether a request writes. -/
def QBody.writes : QBody → Bool
  | .write .. => true
  | .read _ => false

theorem State.arrive_on (hw : a.word < 16384) (hon : (s.core target).spd.isOn a.word = true) (stuck : Bool) :
    s.arrive src slot target a stuck =
      if (s.core target).spd.grants a.word a.body.writes = false then s.reject src slot a.num target
      else if stuck = true then s.modSpd target (Spad.modBank ((s.core target).spd.bankOf a.word) fun x =>
        { x with queue := x.queue ++ [⟨4 * src + slot, a.word, a.body, a.sigs⟩] })
      else (s.bankRetire target ((s.core target).spd.bankOf a.word)).bankServe target ⟨4 * src + slot, a.word, a.body, a.sigs⟩ := by
  obtain ⟨w, body, num, sigs⟩ := a
  unfold State.arrive
  dsimp only at hw hon ⊢
  rw [if_neg (by omega), hon]
  simp only [Bool.not_true, Bool.false_eq_true, if_false, Bool.not_eq_true']
  cases body <;> rfl

end arrive

/-- A bank that is ON takes a word, and every other word stays. -/
theorem State.storeWord_on {c w : Nat} {s : State} (h : (s.core c).spd.isOn w = true) (r : Nat) (d : W256) (p : Bool) :
    (((s.storeWord c r w d p).1.core c).spd.word w = d ∧ Tab.get false ((s.storeWord c r w d p).1.core c).spd.poison w = p) ∧
    ∀ v, v ≠ w → ((s.storeWord c r w d p).1.core c).spd.word v = (s.core c).spd.word v := by
  rw [State.storeWord, if_pos h]
  dsimp only
  rw [State.core_modCore, Core.spd_landed]
  refine ⟨⟨Tab.get_set_self .., Tab.get_set_self ..⟩, fun v hv => ?_⟩
  exact (Tab.get_set ..).trans (if_neg hv)

/-! ### Bank power -/

/-- What SPD_BANK_REQ asks of one bank. -/
def Bank.request (on : Bool) (now : Nat) (fence : Bool) (x : Bank) : Bank :=
  match x.st with
  | .on => if on then x else x.drain now fence
  | .draining => if on && !x.fenced then x.enterOn true now else x
  | _ => x

theorem Spad.foldl_modBank (f : Nat → Bank → Bank) (bs : List Nat) (hbs : bs.Nodup) (m : Spad) :
    (bs.foldl (fun m b => m.modBank b (f b)) m).bankReq = m.bankReq ∧
    ∀ b, (bs.foldl (fun m b => m.modBank b (f b)) m).bank b = if b ∈ bs then f b (m.bank b) else m.bank b := by
  induction bs generalizing m with
  | nil => exact ⟨rfl, fun b => rfl⟩
  | cons a as ih =>
    obtain ⟨ha, has⟩ := List.nodup_cons.mp hbs
    obtain ⟨hreq, hbank⟩ := ih has (m.modBank a (f a))
    refine ⟨hreq, fun b => (hbank b).trans ?_⟩
    by_cases hb : b = a
    · subst hb
      simp [ha]
    · simp [hb, Spad.bank_modBank_ne _ _ hb]

theorem Spad.request_fields (on : BitVec 16) (now : Nat) (fence : Bool) (m : Spad) :
    (m.request on now fence).bankReq = on ∧ ∀ b < 16, (m.request on now fence).bank b = (m.bank b).request (on.getLsbD b) now fence := by
  obtain ⟨hreq, hbank⟩ := Spad.foldl_modBank (fun b x => x.request (on.getLsbD b) now fence) (List.range 16) List.nodup_range { m with bankReq := on }
  exact ⟨hreq, fun b hb => (hbank b).trans (if_pos (List.mem_range.mpr hb))⟩

/-- A table from which the keys of a kind are gone reads as empty there. -/
theorem Tab.get_filter_of_not {α : Type} (d : α) (t : Tab α) (p : Nat × α → Bool) {k : Nat} (h : ∀ v, p (k, v) = false) :
    Tab.get d (t.filter p) k = d := by
  induction t with
  | nil => rfl
  | cons x t ih =>
    obtain ⟨j, v⟩ := x
    by_cases hx : p (j, v) = true
    · have hne : ¬ j = k := fun he => by rw [he, h] at hx; exact Bool.noConfusion hx
      rw [List.filter_cons_of_pos hx, Tab.get, if_neg hne, ih]
    · rw [List.filter_cons_of_neg hx, ih]

/-- A cleared bank reads as zero. -/
theorem Spad.word_clearBank (m : Spad) {b w : Nat} (h : m.bankOf w = b) : (m.clearBank b).word w = 0 :=
  Tab.get_filter_of_not 0 m.words _ fun _ => decide_eq_false (not_not.mpr h)

theorem State.logicCheck_spd (c : Nat) (s : State) :
    ((s.logicCheck c).core c).spd = (s.core c).spd ∨
    (((s.logicCheck c).core c).spd = { banks := (s.core c).spd.banks } ∧ ((s.logicCheck c).core c).logicOff = true) := by
  unfold State.logicCheck
  split
  · rw [State.core_modCore]
    exact .inr ⟨rfl, rfl⟩
  · exact .inl rfl

/-- A bank that goes OFF is empty, whether or not the core's logic goes off with it. -/
theorem State.bankOff_fields (c b now : Nat) (f : Spad → Spad) (hf : ∀ m : Spad, (f m).banks = m.banks ∧ (f m).words = m.words) (s : State) :
    let u := (s.modSpd c fun m => f (m.bankOff b now)).logicCheck c
    ((u.core c).spd.bank b).st = .off ∧ ((u.core c).spd.bank b).queue = [] ∧ ((u.core c).spd.bank b).fenced = false ∧
    ∀ w, (s.core c).spd.bankOf w = b → (u.core c).spd.word w = 0 := by
  intro u
  have hbank : (u.core c).spd.bank b = { (s.core c).spd.bank b with st := .off, queue := [], since := now, fenced := false } := by
    have hb : (f ((s.core c).spd.bankOff b now)).bank b = { (s.core c).spd.bank b with st := .off, queue := [], since := now, fenced := false } := by
      rw [Spad.bank, (hf _).1]
      exact Spad.bank_modBank ((s.core c).spd.clearBank b) b fun x => { x with st := .off, queue := [], since := now, fenced := false }
    rcases State.logicCheck_spd c (s.modSpd c fun m => f (m.bankOff b now)) with h | ⟨h, -⟩
    · rw [h, State.spd_modSpd, hb]
    · rw [h, State.spd_modSpd]
      exact hb
  rw [hbank]
  refine ⟨rfl, rfl, rfl, fun w hw => ?_⟩
  rcases State.logicCheck_spd c (s.modSpd c fun m => f (m.bankOff b now)) with h | ⟨h, -⟩
  · rw [h, State.spd_modSpd, Spad.word, (hf _).2]
    exact Spad.word_clearBank _ hw
  · rw [h]
    rfl

/-! ### Scrub -/

/-- What a read counts leaves the banks and the scrub's own fields. -/
theorem State.spdCount_scrub (c w : Nat) (o : EccOut) (s : State) :
    ((s.spdCount c w o).core c).spd.banks = (s.core c).spd.banks ∧ ((s.spdCount c w o).core c).spd.scrubPass = (s.core c).spd.scrubPass := by
  cases o <;> simp [State.spdCount]

theorem State.spdReadOn_scrub (c w : Nat) (s : State) :
    ((s.spdReadOn c w).2.core c).spd.banks = (s.core c).spd.banks ∧ ((s.spdReadOn c w).2.core c).spd.scrubPass = (s.core c).spd.scrubPass := by
  unfold State.spdReadOn
  dsimp only
  split
  · exact ⟨rfl, rfl⟩
  · rw [(State.spdCount_scrub ..).1, (State.spdCount_scrub ..).2]
    split <;> exact ⟨rfl, rfl⟩

/-- The scrub goes to the next row, and counts a pass at the last. -/
theorem Spad.scrubNext {m n : Spad} (hb : n.banks = m.banks) (hp : n.scrubPass = m.scrubPass) (b : Nat) :
    let u : Spad := { n.modBank b fun x => { x with scrubRow := (x.scrubRow + 1) % 1024 } with
      scrubPass := if (m.bank b).scrubRow = 1023 then satInc n.scrubPass else n.scrubPass }
    (u.bank b).scrubRow = ((m.bank b).scrubRow + 1) % 1024 ∧ u.scrubPass = if (m.bank b).scrubRow = 1023 then satInc m.scrubPass else m.scrubPass := by
  intro u
  have hbank : n.bank b = m.bank b := congrArg (Tab.get ({} : Bank) · b) hb
  refine ⟨?_, by simp only [u, hp]⟩
  exact (congrArg Bank.scrubRow (Spad.bank_modBank n b fun x => { x with scrubRow := (x.scrubRow + 1) % 1024 })).trans (by rw [hbank])

/-! ### The obligation -/

/-- A write that a bank ON takes at once lands. -/
theorem State.bankServe_write_on {c b : Nat} {s : State} {q : QReq} {d : W256} {p : Bool} (hq : q.body = .write d p)
    (hempty : ((s.core c).spd.bank b).queue = []) (hon : (s.core c).spd.isOn q.word = true) :
    (((s.bankRetire c b).bankServe c q).core c).spd.word q.word = d ∧
    Tab.get false (((s.bankRetire c b).bankServe c q).core c).spd.poison q.word = p ∧
    ∀ v, v ≠ q.word → (((s.bankRetire c b).bankServe c q).core c).spd.word v = (s.core c).spd.word v := by
  rw [State.bankRetire_of_empty hempty]
  obtain ⟨⟨hword, hpoison⟩, hother⟩ := State.storeWord_on hon (q.src / 4) d p
  have hserve : s.bankServe c q = (s.storeWord c (q.src / 4) q.word d p).1 := by
    rw [State.bankServe, State.serveWith, hq]
  rw [hserve]
  exact ⟨hword, hpoison, hother⟩

/-- Settles O16: requests by the bank's state and rights, then scrub, bank power and forced OFF. -/
theorem scratchpadBanks : Obligations.ScratchpadBanks := by
  unfold Obligations.ScratchpadBanks
  intro c target t b s
  dsimp only
  refine ⟨?_, ?_, ?_, ?_, ?_, ?_, ?_, ?_, ?_⟩
  · intro stuck hreset
    have hw : exec (.spdRemoteWrite c t target stuck) s = execSpdRemoteWrite c t target stuck s := rfl
    have hr (ups : List Upset) : exec (.spdRemoteRead c t target ups stuck) s = execSpdRemoteRead c t target ups stuck s := rfl
    refine ⟨?_, fun ups => ?_⟩
    · rw [hw, execSpdRemoteWrite]
      split
      · rfl
      · rw [if_pos (State.turnedAway_of_inReset hreset ..)]
    · rw [hr, execSpdRemoteRead]
      split
      · rfl
      · rw [if_pos (State.turnedAway_of_inReset hreset ..)]
  · intro a data p fs hcarry hreset htake hbody
    have hgo : s.turnedAway c target a.word false = false := by simp [State.turnedAway, hcarry, hreset]
    have hrun := execSpdRemoteWrite_eq false htake hgo
    refine ⟨fun hw => ?_, fun hw hon => ?_, fun hw hon hgrant => ?_, fun hw hon hgrant => ?_⟩
    · rw [hrun, State.arrive_beyond hw]
    · rw [hrun, State.arrive_write_off (s := { s with fabric := fs }) hbody hw hon]
    · rw [hrun, State.arrive_on (s := { s with fabric := fs }) hw hon, hbody]
      exact congrArg Host.Outcome.next (if_pos hgrant)
    · have hserve (stuck : Bool) : ({ s with fabric := fs } : State).arrive c t target a stuck = _ :=
        (State.arrive_on (s := { s with fabric := fs }) hw hon stuck).trans (if_neg (by rw [hbody]; exact fun h => Bool.noConfusion (hgrant.symm.trans h)))
      refine ⟨?_, fun hempty => ?_, fun hlen => ?_, fun hfull => ?_⟩
      · rw [hrun, hserve]
        rfl
      · rw [hrun, hserve]
        exact ⟨_, rfl, State.bankServe_write_on (s := { s with fabric := fs }) hbody hempty hon⟩
      · have hgo : s.turnedAway c target a.word true = false := by
          simp [State.turnedAway, hcarry, hreset, Spad.queueFull, Nat.not_le.mpr hlen]
        rw [execSpdRemoteWrite_eq true htake hgo, hserve]
        rfl
      · have hstay : s.turnedAway c target a.word true = true := by simp [State.turnedAway, Spad.queueFull, hfull]
        have hexec : exec (.spdRemoteWrite c t target true) s = execSpdRemoteWrite c t target true s := rfl
        rw [hexec, execSpdRemoteWrite, htake]
        dsimp only
        rw [if_pos hstay]
  · intro a l fs hcarry hreset htake hbody hw
    have hspd : ((({ s with fabric := fs } : State).upset target []).core target).spd = (s.core target).spd := State.spd_modSpd ..
    have hgo : s.turnedAway c target a.word false = false := by simp [State.turnedAway, hcarry, hreset]
    have hrun := execSpdRemoteRead_eq [] false htake hgo
    rw [← hspd]
    refine ⟨fun hon => ?_, fun hon hgrant => ?_, fun hon hgrant => ?_⟩
    · rw [hrun, State.arrive_read_off hbody hw hon]
    · rw [hrun, State.arrive_on hw hon, hbody]
      exact congrArg Host.Outcome.next (if_pos hgrant)
    · have hserve (stuck : Bool) : (({ s with fabric := fs } : State).upset target []).arrive c t target a stuck = _ :=
        (State.arrive_on hw hon stuck).trans (if_neg (by rw [hbody]; exact fun h => Bool.noConfusion (hgrant.symm.trans h)))
      refine ⟨?_, fun hlen => ?_⟩
      · rw [hrun, hserve, if_neg Bool.false_ne_true, State.bankServe, State.serveWith, hbody]
        rfl
      · have hgo : s.turnedAway c target a.word true = false := by
          rw [hspd] at hlen
          simp [State.turnedAway, hcarry, hreset, Spad.queueFull, Nat.not_le.mpr hlen]
        rw [execSpdRemoteRead_eq [] true htake hgo, hserve]
        rfl
  · intro hscrub hon
    have hexec : exec (.spdPatrolScrub c b 0) s = execSpdPatrolScrub c b 0 s := rfl
    rw [hexec, execSpdPatrolScrub]
    dsimp only
    rw [if_neg (by simp [hscrub, hon])]
    obtain ⟨hbanks, hpass⟩ := State.spdReadOn_scrub c ((s.core c).spd.wordAt b ((s.core c).spd.bank b).scrubRow)
      (s.upset c [⟨(s.core c).spd.wordAt b ((s.core c).spd.bank b).scrubRow, 0⟩])
    rw [State.upset, State.spd_modSpd, ← State.upset] at hbanks hpass
    generalize State.spdReadOn c _ (s.upset c _) = read at hbanks hpass ⊢
    obtain ⟨r, u⟩ := read
    dsimp only at hbanks hpass ⊢
    generalize Tab.get false _ _ = marked
    refine ⟨_, rfl, ?_⟩
    by_cases hkeep : (r.poison || marked) = true
    · rw [if_pos hkeep, State.spd_modSpd]
      exact Spad.scrubNext hbanks hpass b
    · rw [if_neg hkeep, State.spd_modSpd, State.spd_modSpd]
      exact Spad.scrubNext hbanks hpass b
  · intro on
    have hexec : exec (.spdBankReqWrite c on) s = .next (s.modSpd c (Spad.request on s.us false)) := rfl
    obtain ⟨hreq, hbank⟩ := Spad.request_fields on s.us false (s.core c).spd
    refine ⟨_, hexec, ?_⟩
    rw [State.spd_modSpd, hbank b b.isLt]
    refine ⟨hreq, fun hon => ?_, fun hdrain hfence => ?_, fun hoff => ?_⟩
    · simp only [Bank.request, hon]
      split
      · exact hon
      · rfl
    · simp only [Bank.request, hdrain, hfence, Bool.not_false, Bool.and_true]
      split
      · rfl
      · exact hdrain
    · rcases hoff with h | h | ⟨hfence, h⟩
      · simp only [Bank.request, h]
      · simp only [Bank.request, h]
      · simp only [Bank.request, h, hfence, Bool.not_true, Bool.and_false, Bool.false_eq_true, if_false]
  · intro hoff hreq hrole hleft hdie
    have hexec : exec (.bankWakeStart c b) s = execBankWakeStart c b s := rfl
    rw [hexec, execBankWakeStart]
    exact congrArg Host.Outcome.next (if_pos (by simp [hoff, hreq, hrole, hleft, hdie]))
  · intro hwake
    have hexec : exec (.bankWakeDone c b) s = execBankWakeDone c b s := rfl
    rw [hexec, execBankWakeDone]
    dsimp only
    rw [if_neg (by simp [hwake])]
    refine ⟨_, rfl, ?_, fun w hw => ?_⟩
    · rw [State.spd_modSpd, Spad.bank_modBank, Bank.enterOn]
      split <;> rfl
    · rw [State.spd_modSpd]
      exact Spad.word_clearBank _ hw
  · intro hdrain
    have hexec : exec (.bankDrainDone c b) s = execBankDrainDone c b s := rfl
    rw [hexec, execBankDrainDone, if_pos hdrain]
    obtain ⟨hst, hqueue, hfenced, hwords⟩ := State.bankOff_fields c b s.us id (fun _ => ⟨rfl, rfl⟩) (s.bankRetire c b)
    refine ⟨_, rfl, hst, hqueue, hfenced, fun hempty w hw => hwords w ?_⟩
    rw [State.bankRetire_of_empty hempty, hw]
  · intro reads writes hdrain hreads hwrites hpos hlen hdue
    have hr : (reads.filter fun r => decide ((s.core c).spd.bankOf r.2 = b)) = reads := List.filter_eq_self.mpr fun r hm => decide_eq_true (hreads r hm)
    have hw : (writes.filter fun w => decide ((s.core c).spd.bankOf w = b)) = writes := List.filter_eq_self.mpr fun w hm => decide_eq_true (hwrites w hm)
    have hexec : exec (.spdForcedOff c b reads writes) s = execSpdForcedOff c b reads writes s := rfl
    rw [hexec, execSpdForcedOff]
    simp only [hr, hw]
    rw [if_pos ⟨hdrain, hpos, hlen, hdue⟩]
    refine ⟨_, rfl, ?_⟩
    generalize List.foldl (State.forcedRead c b) _ reads = u
    obtain ⟨hst, hqueue, -, -⟩ := State.bankOff_fields c b u.us (fun m => { m with forced := true }) (fun _ => ⟨rfl, rfl⟩) u
    refine ⟨hst, hqueue, ?_⟩
    rcases State.logicCheck_spd c (u.modSpd c fun m => { m.bankOff b u.us with forced := true }) with h | ⟨-, h⟩
    · rw [h, State.spd_modSpd]
      exact .inl rfl
    · exact .inr h

end Sys2Proof.Machine
end

section
/-! What an access of device memory can change: the memory plane, the queues of the CXL port, the queue of Tidemark, the translations and counts
of the dies, and the free values. Everything else stays (R279 to R298, R349 to R351, R408). -/

namespace Sys2Proof.Machine

/-- What an access changes of the memory plane. -/
def Plm.Same (x y : Plm) : Prop :=
  y = { x with mem := y.mem, poison := y.poison, map := y.map, replicas := y.replicas, copying := y.copying, retiring := y.retiring, moves := y.moves,
               idle := y.idle, cache := y.cache, hostWrites := y.hostWrites, full := y.full, statRetire := y.statRetire, statLost := y.statLost,
               cacheMiss := y.cacheMiss, ptbMiss := y.ptbMiss, chans := y.chans }
/-- What an access changes of the CXL port. -/
def Cxl.Same (x y : Cxl) : Prop :=
  y = { x with held := y.held, waiting := y.waiting, filter := y.filter, snoops := y.snoops, bisnp := y.bisnp }
/-- What an access changes of Tidemark. -/
def Tmk.Same (x y : Tmk) : Prop := y = { x with queue := y.queue, dropped := y.dropped, drops := y.drops, cacheUe := y.cacheUe, cacheBad := y.cacheBad }
/-- What an access changes of a die. -/
def Die.Same (x y : Die) : Prop := y = { x with ptb := y.ptb, counts := y.counts }

@[simp] theorem Plm.same_iff {x y : Plm} : x.Same y ↔ y = { x with
    mem := y.mem, poison := y.poison, map := y.map, replicas := y.replicas, copying := y.copying, retiring := y.retiring, moves := y.moves,
    idle := y.idle, cache := y.cache, hostWrites := y.hostWrites, full := y.full, statRetire := y.statRetire, statLost := y.statLost,
    cacheMiss := y.cacheMiss, ptbMiss := y.ptbMiss, chans := y.chans } := .rfl
@[simp] theorem Cxl.same_iff {x y : Cxl} : x.Same y ↔ y = { x with
    held := y.held, waiting := y.waiting, filter := y.filter, snoops := y.snoops, bisnp := y.bisnp } := .rfl
@[simp] theorem Die.same_iff {x y : Die} : x.Same y ↔ y = { x with ptb := y.ptb, counts := y.counts } := .rfl
@[simp] theorem Tmk.same_refl (x : Tmk) : x.Same x := rfl
@[simp] theorem Tmk.same_cacheBad (x : Tmk) (bad : List CacheUpset) : x.Same { x with cacheBad := bad } := rfl
@[simp] theorem Tmk.same_cacheUe (x : Tmk) (bad : List CacheUpset) (n : Nat) : x.Same { x with cacheBad := bad, cacheUe := n } := rfl

theorem Plm.Same.trans {x y z : Plm} (h : x.Same y) (k : y.Same z) : x.Same z := by
  unfold Plm.Same at *
  rw [h] at k
  exact k
theorem Cxl.Same.trans {x y z : Cxl} (h : x.Same y) (k : y.Same z) : x.Same z := by
  unfold Cxl.Same at *
  rw [h] at k
  exact k
theorem Tmk.Same.trans {x y z : Tmk} (h : x.Same y) (k : y.Same z) : x.Same z := by
  unfold Tmk.Same at *
  rw [h] at k
  exact k
theorem Die.Same.trans {x y z : Die} (h : x.Same y) (k : y.Same z) : x.Same z := by
  unfold Die.Same at *
  rw [h] at k
  exact k
theorem Plm.Same.symm {x y : Plm} (h : x.Same y) : y.Same x := by
  unfold Plm.Same at *
  rw [h]
theorem Cxl.Same.symm {x y : Cxl} (h : x.Same y) : y.Same x := by
  unfold Cxl.Same at *
  rw [h]
theorem Tmk.Same.symm {x y : Tmk} (h : x.Same y) : y.Same x := by
  unfold Tmk.Same at *
  rw [h]
theorem Die.Same.symm {x y : Die} (h : x.Same y) : y.Same x := by
  unfold Die.Same at *
  rw [h]
@[simp] theorem Tmk.same_enqueue (e : TmkEntry) (t : Tmk) : t.Same (t.enqueue e) := by
  obtain ⟨q, n, ds, h⟩ := Tmk.enqueue_eq e t
  rw [h]
  rfl

/-- A die whose translation of a page is dropped. -/
def Die.dropPtb (p : Nat) (x : Die) : Die := { x with ptb := x.ptb.filter (· ≠ p) }

/-- `t` is `s` after accesses of device memory. -/
structure State.MemOnly (s t : State) : Prop where
  cores : t.cores = s.cores
  roles : t.roles = s.roles
  fabric : t.fabric = s.fabric
  die : ∀ d, (s.die d).Same (t.die d)
  ldr : t.ldr = s.ldr
  est : t.est = s.est
  plm : s.plm.Same t.plm
  kl : t.kl = s.kl
  cxl : s.cxl.Same t.cxl
  bw : t.bw = s.bw
  tmk : s.tmk.Same t.tmk
  sec : t.sec = s.sec
  hub : t.hub = s.hub
  out : t.out = s.out
  us : t.us = s.us
  pending : t.pending = s.pending

namespace State.MemOnly

variable {s s' t u : State}

@[simp] theorem refl (s : State) : s.MemOnly s := ⟨rfl, rfl, rfl, fun _ => rfl, rfl, rfl, rfl, rfl, rfl, rfl, rfl, rfl, rfl, rfl, rfl, rfl⟩

theorem trans (h : s.MemOnly t) (k : t.MemOnly u) : s.MemOnly u where
  cores := k.cores.trans h.cores
  roles := k.roles.trans h.roles
  fabric := k.fabric.trans h.fabric
  die d := (h.die d).trans (k.die d)
  ldr := k.ldr.trans h.ldr
  est := k.est.trans h.est
  plm := h.plm.trans k.plm
  kl := k.kl.trans h.kl
  cxl := h.cxl.trans k.cxl
  bw := k.bw.trans h.bw
  tmk := h.tmk.trans k.tmk
  sec := k.sec.trans h.sec
  hub := k.hub.trans h.hub
  out := k.out.trans h.out
  us := k.us.trans h.us
  pending := k.pending.trans h.pending

theorem symm (h : s.MemOnly t) : t.MemOnly s where
  cores := h.cores.symm
  roles := h.roles.symm
  fabric := h.fabric.symm
  die d := (h.die d).symm
  ldr := h.ldr.symm
  est := h.est.symm
  plm := h.plm.symm
  kl := h.kl.symm
  cxl := h.cxl.symm
  bw := h.bw.symm
  tmk := h.tmk.symm
  sec := h.sec.symm
  hub := h.hub.symm
  out := h.out.symm
  us := h.us.symm
  pending := h.pending.symm

/-- A step that accesses memory may be left out. -/
theorem congr (h : t.MemOnly u) : s.MemOnly u ↔ s.MemOnly t := ⟨fun k => k.trans h.symm, fun k => k.trans h⟩

/-! ### A state whose fields are written -/

section Write

variable {plm : Plm} {cxl : Cxl} {tmk : Tmk} {fresh : Nat}

@[simp] theorem write (hp : t.plm.Same plm) (hc : t.cxl.Same cxl) (ht : t.tmk.Same tmk) :
    s.MemOnly ⟨t.cores, t.roles, t.fabric, t.dies, t.ldr, t.est, plm, t.kl, cxl, t.bw, tmk, t.sec, t.hub, t.out, t.us, fresh, t.pending⟩ ↔ s.MemOnly t :=
  congr ⟨rfl, rfl, rfl, fun _ => rfl, rfl, rfl, hp, rfl, hc, rfl, ht, rfl, rfl, rfl, rfl, rfl⟩

@[simp] theorem modDie {d : Nat} {f : Die → Die} (hf : ∀ x : Die, x.Same (f x)) : s.MemOnly (s'.modDie d f) ↔ s.MemOnly s' := by
  refine congr ⟨rfl, rfl, rfl, fun e => ?_, rfl, rfl, rfl, rfl, rfl, rfl, rfl, rfl, rfl, rfl, rfl, rfl⟩
  by_cases h : e = d
  · rw [h, State.die_modDie]
    exact hf _
  · rw [State.die_modDie_ne _ _ h]
    rfl

end Write

/-! ### Cases and folds -/

@[simp] theorem ite_iff {c : Prop} [Decidable c] : s.MemOnly (if c then t else u) ↔ if c then s.MemOnly t else s.MemOnly u := by
  split <;> rfl

@[simp] theorem foldl_iff {α : Type} {f : State → α → State} {xs : List α} (hf : ∀ (s u : State) x, s.MemOnly (f u x) ↔ s.MemOnly u) :
    s.MemOnly (xs.foldl f t) ↔ s.MemOnly t := by
  induction xs generalizing t with
  | nil => rfl
  | cons x xs ih => exact ih.trans (hf s t x)

/-- The same for a fold that gathers results beside the state. -/
theorem foldl_of_iff {α β : Type} {f : β → α → β} (p : β → State) {xs : List α} (hf : ∀ (s : State) b x, s.MemOnly (p (f b x)) ↔ s.MemOnly (p b))
    {b : β} : s.MemOnly (p (xs.foldl f b)) ↔ s.MemOnly (p b) := by
  induction xs generalizing b with
  | nil => rfl
  | cons x xs ih => exact ih.trans (hf s b x)

/-! ### The operations -/

@[simp] theorem draw : s.MemOnly (s'.draw).2 ↔ s.MemOnly s' := by
  simp [State.draw]

@[simp] theorem record (ty src : Nat) (payload : List Byte) (core : Nat) (unit : Nat) : s.MemOnly (s'.record ty src payload core unit) ↔ s.MemOnly s' := by
  simp [State.record]

@[simp] theorem setChan (i : Nat) (x : Chan) : s.MemOnly (s'.setChan i x) ↔ s.MemOnly s' := by
  simp [State.setChan]

@[simp] theorem countLines (i : Nat) (isWrite : Bool) (n : Nat) : s.MemOnly (s'.countLines i isWrite n) ↔ s.MemOnly s' := by
  simp [State.countLines]

@[simp] theorem countLine (i : Nat) (isWrite : Bool) : s.MemOnly (s'.countLine i isWrite) ↔ s.MemOnly s' := by
  simp [State.countLine]

@[simp] theorem mendLine (i ppn line : Nat) : s.MemOnly (s'.mendLine i ppn line) ↔ s.MemOnly s' := by
  simp [State.mendLine]

@[simp] theorem ddrCe (i lane : Nat) : s.MemOnly (s'.ddrCe i lane) ↔ s.MemOnly s' := by
  simp [State.ddrCe]

@[simp] theorem ddrUe (i ppn line : Nat) : s.MemOnly (s'.ddrUe i ppn line) ↔ s.MemOnly s' := by
  unfold State.ddrUe
  dsimp only
  rw [State.MemOnly.record, State.MemOnly.setChan]

@[simp] theorem meetLine (i ppn line : Nat) : s.MemOnly (s'.meetLine i ppn line).2 ↔ s.MemOnly s' := by
  unfold State.meetLine
  split <;> simp

@[simp] theorem setPage (p : Nat) (e : PageEnt) : s.MemOnly (s'.setPage p e) ↔ s.MemOnly s' := by
  simp [State.setPage]

theorem takePage {i p : Nat} (h : s'.takePage i = some (p, u)) : s.MemOnly u ↔ s.MemOnly s' := by
  unfold State.takePage at h
  dsimp only at h
  split at h
  · cases h
  · split at h
    · cases h
      simp
    · cases h

@[simp] theorem freePage (i p : Nat) : s.MemOnly (s'.freePage i p) ↔ s.MemOnly s' := by
  simp [State.freePage]

theorem takeFirst {is : List Nat} {i p : Nat} (h : State.takeFirst is s' = some (i, p, u)) : s.MemOnly u ↔ s.MemOnly s' := by
  induction is with
  | nil => cases h
  | cons j js ih =>
    simp only [State.takeFirst] at h
    split at h
    · next ht =>
      cases h
      exact takePage ht
    · exact ih h

@[simp] theorem tableLine (dla : Nat) (isWrite whole : Bool) : s.MemOnly (s'.tableLine dla isWrite whole).2 ↔ s.MemOnly s' := by
  unfold State.tableLine
  dsimp only
  repeat' split
  all_goals simp

@[simp] theorem writePageEntry (p : Nat) : s.MemOnly (s'.writePageEntry p) ↔ s.MemOnly s' := by
  simp [State.writePageEntry]

@[simp] theorem putPage (p : Nat) (e : PageEnt) : s.MemOnly (s'.putPage p e) ↔ s.MemOnly s' := by
  simp [State.putPage]

@[simp] theorem dropReplicaBit (p d : Nat) : s.MemOnly (s'.dropReplicaBit p d) ↔ s.MemOnly s' := by
  simp [State.dropReplicaBit]

@[simp] theorem dropPtb (p : Nat) : s.MemOnly (s'.dropPtb p) ↔ s.MemOnly s' := by
  refine congr ⟨rfl, rfl, rfl, fun d => ?_, rfl, rfl, rfl, rfl, rfl, rfl, rfl, rfl, rfl, rfl, rfl, rfl⟩
  have h : (s'.dropPtb p).die d = (s'.die d).dropPtb p := Tab.get_map (Die.dropPtb p) {} s'.dies d
  rw [h]
  rfl

@[simp] theorem retire (r : CopyRec) : s.MemOnly (s'.retire r) ↔ s.MemOnly s' := by
  unfold State.retire
  dsimp only
  rw [freePage]
  refine Iff.trans (write rfl rfl rfl) ?_
  rw [dropPtb, dropReplicaBit]

@[simp] theorem endRetire (r : CopyRec) : s.MemOnly (s'.endRetire r) ↔ s.MemOnly s' := by
  simp [State.endRetire]

theorem allocateN {n : Nat} {a : Agent} {p i q : Nat} (h : s'.allocateN a p n = some (i, q, u)) : s.MemOnly u ↔ s.MemOnly s' := by
  induction n generalizing s' with
  | zero => exact takeFirst h
  | succ n ih =>
    unfold State.allocateN at h
    split at h
    · next hx =>
      cases h
      exact takeFirst hx
    · split at h
      · exact (ih h).trans (endRetire ..)
      · split at h
        · exact (ih h).trans (retire ..)
        · cases h

theorem allocate {a : Agent} {p i q : Nat} (h : s'.allocate a p = some (i, q, u)) : s.MemOnly u ↔ s.MemOnly s' := allocateN h

@[simp] theorem startRetire (r : CopyRec) : s.MemOnly (s'.startRetire r) ↔ s.MemOnly s' := by
  unfold State.startRetire
  dsimp only
  refine Iff.trans (write rfl rfl rfl) ?_
  rw [dropPtb, dropReplicaBit]

@[simp] theorem meetReserve (n : Nat) : s.MemOnly (State.meetReserve n s') ↔ s.MemOnly s' := by
  induction n generalizing s' with
  | zero => rfl
  | succ n ih =>
    unfold State.meetReserve
    split
    · rfl
    · split <;> simp [ih]

@[simp] theorem cacheUe (u : CacheUpset) (cache src set : Nat) : s.MemOnly (s'.cacheUe u cache src set) ↔ s.MemOnly s' := by
  simp [State.cacheUe]

@[simp] theorem fresh_ (u : CacheUpset) : s.MemOnly (s'.fresh_ u) ↔ s.MemOnly s' := by
  simp [State.fresh_]

@[simp] theorem loseEntry (p : Nat) : s.MemOnly (s'.loseEntry p) ↔ s.MemOnly s' := by
  simp [State.loseEntry]

@[simp] theorem readEntry (p : Nat) : s.MemOnly (s'.readEntry p) ↔ s.MemOnly s' := by
  unfold State.readEntry
  dsimp only
  split <;> simp

@[simp] theorem mapDiscard (p : Nat) : s.MemOnly (s'.mapDiscard p) ↔ s.MemOnly s' := by
  simp [State.mapDiscard]

@[simp] theorem mapFetch (p : Nat) : s.MemOnly (s'.mapFetch p) ↔ s.MemOnly s' := by
  simp [State.mapFetch]

@[simp] theorem hubLookup (p : Nat) : s.MemOnly (s'.hubLookup p) ↔ s.MemOnly s' := by
  simp [State.hubLookup]

@[simp] theorem ptbDiscard (d p : Nat) : s.MemOnly (s'.ptbDiscard d p) ↔ s.MemOnly s' := by
  unfold State.ptbDiscard
  split <;> simp

@[simp] theorem ptbFresh (d p : Nat) : s.MemOnly (s'.ptbFresh d p) ↔ s.MemOnly s' := by
  simp [State.ptbFresh]

@[simp] theorem ptbLookup (d p : Nat) : s.MemOnly (s'.ptbLookup d p) ↔ s.MemOnly s' := by
  simp [State.ptbLookup]

@[simp] theorem translate (a : Agent) (p : Nat) (isWrite : Bool) : s.MemOnly (s'.translate a p isWrite) ↔ s.MemOnly s' := by
  unfold State.translate
  split <;> simp

@[simp] theorem noteWrite (p : Nat) : s.MemOnly (s'.noteWrite p) ↔ s.MemOnly s' := by
  simp [State.noteWrite]

@[simp] theorem landCopy (i ppn line : Nat) (whole home : Bool) : s.MemOnly (s'.landCopy i ppn line whole home).2 ↔ s.MemOnly s' := by
  unfold State.landCopy
  dsimp only
  split <;> simp

@[simp] theorem landLine (dla : Nat) (bs : List Byte) (poison : Bool) : s.MemOnly (s'.landLine dla bs poison) ↔ s.MemOnly s' := by
  unfold State.landLine
  dsimp only
  rw [noteWrite]
  simp [Plm.put]

@[simp] theorem writeLine (a : Agent) (dla : Nat) (bs : List Byte) (poison : Bool) : s.MemOnly (s'.writeLine a dla bs poison) ↔ s.MemOnly s' := by
  unfold State.writeLine
  dsimp only
  split
  · simp
  · simp
  · split
    · next h => simp [Plm.erasePage, allocate h]
    · simp
  · split
    · next h => simp [Plm.erasePage, Plm.poisonPage, allocate h]
    · simp

@[simp] theorem readLine (a : Agent) (dla n : Nat) (again : Bool) : s.MemOnly (s'.readLine a dla n again).2.2 ↔ s.MemOnly s' := by
  unfold State.readLine
  dsimp only
  repeat' split
  all_goals simp

@[simp] theorem devWrite (a : Agent) (dla : Nat) (bs : List Byte) : s.MemOnly (s'.devWrite a dla bs) ↔ s.MemOnly s' := by
  simp [State.devWrite]

@[simp] theorem devRead (a : Agent) (dla n : Nat) : s.MemOnly (s'.devRead a dla n).2.2 ↔ s.MemOnly s' := by
  unfold State.devRead
  exact foldl_of_iff (fun r : List Byte × Bool × State => r.2.2) fun s r c => readLine a c.1 c.2 false

@[simp] theorem markedRead (a : Agent) (dla n : Nat) (again : Bool) : s.MemOnly (s'.markedRead a dla n again).2 ↔ s.MemOnly s' := by
  unfold State.markedRead
  exact foldl_of_iff Prod.snd fun s r c => readLine a c.1 c.2 again

@[simp] theorem snoop (line : Nat) (inv : Bool) : s.MemOnly (s'.snoop line inv) ↔ s.MemOnly s' := by
  simp [State.snoop]

@[simp] theorem snoopInv (ls : List Nat) : s.MemOnly (s'.snoopInv ls) ↔ s.MemOnly s' := by
  simp [State.snoopInv]

@[simp] theorem clearSet (set : Nat) : s.MemOnly (s'.clearSet set) ↔ s.MemOnly s' := by
  simp [State.clearSet]

@[simp] theorem filterLookup (line : Nat) : s.MemOnly (s'.filterLookup line) ↔ s.MemOnly s' := by
  simp [State.filterLookup]

@[simp] theorem ownWriteLine (src dla : Nat) (bs : List Byte) (poison : Bool) : s.MemOnly (s'.ownWriteLine src dla bs poison) ↔ s.MemOnly s' := by
  unfold State.ownWriteLine
  split
  · exact write rfl rfl rfl
  · extract_lets u v
    have hu : s.MemOnly u ↔ s.MemOnly s' := filterLookup ..
    split
    · refine Iff.trans (write rfl rfl rfl) ?_
      rw [snoop, hu]
    · rw [writeLine, hu]

@[simp] theorem ownWrite (src dla : Nat) (bs : List Byte) : s.MemOnly (s'.ownWrite src dla bs) ↔ s.MemOnly s' := by
  simp [State.ownWrite]

@[simp] theorem snoopData (ls : List Nat) : s.MemOnly (s'.snoopData ls) ↔ s.MemOnly s' := by
  simp [State.snoopData]

end State.MemOnly

end Sys2Proof.Machine
end

section
/-! What an answer of Estuary changes: the statistics, the completion ring, and what its writes to memory and to the host change (R259, R267, R273
to R275). The stream table, the cache, the queues and the steps stay. -/

namespace Sys2Proof.Machine

/-- What an answer changes of Estuary. -/
def Est.Same (x y : Est) : Prop :=
  y = { x with stat := y.stat, cqWait := y.cqWait, tail := y.tail, notifyDue := y.notifyDue, cqFull := y.cqFull }

theorem Est.Same.trans {x y z : Est} (h : x.Same y) (k : y.Same z) : x.Same z := by
  unfold Est.Same at *
  rw [h] at k
  exact k

/-- `t` is `s` after answers. -/
structure State.AnswersOnly (s t : State) : Prop where
  cores : t.cores = s.cores
  roles : t.roles = s.roles
  ldr : t.ldr = s.ldr
  est : s.est.Same t.est
  plm : s.plm.Same t.plm
  kl : t.kl = s.kl
  bw : t.bw = s.bw
  sec : t.sec = s.sec
  hub : t.hub = s.hub
  us : t.us = s.us

namespace State.AnswersOnly

variable {s t u : State}

theorem refl (s : State) : s.AnswersOnly s := ⟨rfl, rfl, rfl, rfl, rfl, rfl, rfl, rfl, rfl, rfl⟩

theorem trans (h : s.AnswersOnly t) (k : t.AnswersOnly u) : s.AnswersOnly u where
  cores := k.cores.trans h.cores
  roles := k.roles.trans h.roles
  ldr := k.ldr.trans h.ldr
  est := h.est.trans k.est
  plm := h.plm.trans k.plm
  kl := k.kl.trans h.kl
  bw := k.bw.trans h.bw
  sec := k.sec.trans h.sec
  hub := k.hub.trans h.hub
  us := k.us.trans h.us

theorem of_memOnly (h : s.MemOnly t) : s.AnswersOnly t where
  cores := h.cores
  roles := h.roles
  ldr := h.ldr
  est := by rw [h.est]; rfl
  plm := h.plm
  kl := h.kl
  bw := h.bw
  sec := h.sec
  hub := h.hub
  us := h.us

/-- A write of the parts of Estuary that answers change. -/
theorem write_est {x : Est} (hx : t.est.Same x) (h : s.AnswersOnly t) : s.AnswersOnly { t with est := x } :=
  h.trans ⟨rfl, rfl, rfl, hx, rfl, rfl, rfl, rfl, rfl, rfl⟩

theorem ent (h : s.AnswersOnly t) (n : Nat) : t.ent n = s.ent n := by rw [State.ent, h.est, State.ent]
theorem estClass (h : s.AnswersOnly t) (n : Nat) : t.estClass n = s.estClass n := by rw [State.estClass, h.est, State.estClass]
theorem steps (h : s.AnswersOnly t) : t.est.steps = s.est.steps := by rw [h.est]
theorem pend (h : s.AnswersOnly t) : t.est.pend = s.est.pend := by rw [h.est]

end State.AnswersOnly

theorem State.answersOnly_hostWrite (addr : Nat) (bs : List Byte) (s : State) : s.AnswersOnly (s.hostWrite addr bs) :=
  ⟨rfl, rfl, rfl, rfl, rfl, rfl, rfl, rfl, rfl, rfl⟩

theorem State.answersOnly_drainCqs (n : Nat) (s : State) : s.AnswersOnly (s.drainCqs n) := by
  induction n generalizing s with
  | zero => exact .refl s
  | succ n ih =>
    unfold State.drainCqs
    split
    · exact .refl s
    next e es _ =>
      extract_lets r
      split
      · exact .refl s
      · refine .trans ?_ (ih _)
        exact .write_est rfl (State.answersOnly_hostWrite ..)

theorem State.answersOnly_drainCq (s : State) : s.AnswersOnly s.drainCq := by
  unfold State.drainCq
  exact .write_est rfl (State.answersOnly_drainCqs ..)

theorem State.stat_drainCqs (n : Nat) (s : State) : (s.drainCqs n).est.stat = s.est.stat := by
  induction n generalizing s with
  | zero => rfl
  | succ n ih =>
    unfold State.drainCqs
    split
    · rfl
    next e es _ =>
      extract_lets r
      split
      · rfl
      · exact ih _

theorem State.answersOnly_answer (a : Ans) (s : State) : s.AnswersOnly (s.answer a) := by
  unfold State.answer
  extract_lets s1 s2
  have h1 : s.AnswersOnly s1 := .write_est rfl (.refl s)
  have h2 : s1.AnswersOnly s2 := by
    refine iteInduction (motive := fun u : State => s1.AnswersOnly u) (fun _ => ?_) fun _ => .refl s1
    exact .of_memOnly ((State.MemOnly.ownWrite ..).mpr (.refl _))
  refine (h1.trans h2).trans ?_
  split
  · exact .refl _
  · refine .trans ?_ (State.answersOnly_drainCq _)
    exact .write_est rfl (.refl s2)

/-- An answer counts itself. -/
theorem State.stat_answer (a : Ans) (s : State) : (s.answer a).est.stat = s.est.stat.count a := by
  unfold State.answer
  extract_lets s1 s2
  have h2 : s2.est = s1.est := by
    refine iteInduction (motive := fun u : State => u.est = s1.est) (fun _ => ?_) fun _ => rfl
    exact ((State.MemOnly.ownWrite ..).mpr (.refl _)).est
  have hstat : s2.est.stat = s.est.stat.count a := by rw [h2]; rfl
  split
  · exact hstat
  · exact (State.stat_drainCqs ..).trans hstat

/-! ### The stream table -/

@[simp] theorem State.ent_modEnt (n : Nat) (f : StreamEnt → StreamEnt) (s : State) : (s.modEnt n f).ent n = f (s.ent n) := Tab.get_set_self ..
theorem State.ent_modEnt_ne {n m : Nat} (f : StreamEnt → StreamEnt) (s : State) (h : m ≠ n) : (s.modEnt n f).ent m = s.ent m :=
  (Tab.get_set ..).trans (if_neg h)
@[simp] theorem State.ent_answer (a : Ans) (n : Nat) (s : State) : (s.answer a).ent n = s.ent n := (State.answersOnly_answer a s).ent n
@[simp] theorem State.us_answer (a : Ans) (s : State) : (s.answer a).us = s.us := (State.answersOnly_answer a s).us
@[simp] theorem State.us_modEnt (n : Nat) (f : StreamEnt → StreamEnt) (s : State) : (s.modEnt n f).us = s.us := rfl
@[simp] theorem State.steps_answer (a : Ans) (s : State) : (s.answer a).est.steps = s.est.steps := (State.answersOnly_answer a s).steps
@[simp] theorem State.steps_modEnt (n : Nat) (f : StreamEnt → StreamEnt) (s : State) : (s.modEnt n f).est.steps = s.est.steps := rfl

/-! ### Records -/

/-- A write that is examined is one of its slot. -/
theorem slot_of_takeExam {r : SlotRef} {p : Bool} {l es : List Exam} {e : Exam} (h : takeExam r p l = some (e, es)) : e.slot = r := by
  induction l generalizing es with
  | nil => cases h
  | cons x xs ih =>
    simp only [takeExam] at h
    split at h
    next hx =>
      split at h
      · cases h
        exact hx
      · exact ih h
    · rw [Option.map_eq_some_iff] at h
      obtain ⟨⟨y, ys⟩, hy, heq⟩ := h
      cases heq
      exact ih hy

theorem slot_of_nextExam {x : Est} {r : SlotRef} {e : Exam} {es : List Exam} (h : x.nextExam r = some (e, es)) : e.slot = r := slot_of_takeExam h

theorem State.touch_of_cached {n : Nat} {s : State} (h : s.cached (.stream n) = true) :
    s.touch (.stream n) = { s with est := { s.est with cache := n :: s.est.cache.filter (· ≠ n) } } := by
  simp only [State.cached, Bool.and_eq_true, decide_eq_true_eq, Bool.not_eq_true', decide_eq_false_iff_not] at h
  simp only [State.touch, h.2, h.1, false_and, if_false, if_true]

end Sys2Proof.Machine
end

section
/-! Stream records: OPEN, SUBMIT and CLOSE (R264 to R269). -/

namespace Sys2Proof.Machine

/-- A record that is examined acts once it is live. -/
theorem State.examineLive_live {r : SlotRef} {want : List Byte → Bool} {go : Exam → State → State} {s : State} {e : Exam} {es : List Exam}
    (hin : s.intake = true) (hnext : s.est.nextExam r = some (e, es)) (hcached : s.cached r = true) (hlive : s.seqCase e = .live)
    (hwant : want e.rec_ = true) :
    s.examineLive r want go = go e ((({ s with est := { s.est with examine := es } } : State).goLive e).touch r) := by
  unfold State.examineLive
  rw [hin, hnext]
  dsimp only
  rw [hcached]
  simp only [Bool.not_true, Bool.false_eq_true, if_false]
  rw [if_pos ⟨hlive, hwant⟩]

@[simp] theorem State.us_touch (r : SlotRef) (s : State) : (s.touch r).us = s.us := by
  unfold State.touch
  split
  · rfl
  · dsimp only
    repeat' split
    all_goals rfl

/-- A cached slot's look-up leaves its entry. -/
@[simp] theorem State.ent_touch (r : SlotRef) (n : Nat) (s : State) : (s.touch r).ent n = s.ent n := by
  unfold State.touch
  split
  · rfl
  · dsimp only
    repeat' split
    all_goals rfl

/-- The table's line that a stream's entry is written through to leaves Estuary. -/
theorem State.memOnly_writeEnt (n : Nat) (s : State) : s.MemOnly (s.writeEnt n) := (State.MemOnly.tableLine ..).mpr (.refl s)

theorem State.us_goLive (e : Exam) (s : State) : (s.goLive e).us = s.us := by
  unfold State.goLive State.setSeq
  dsimp only
  split
  · rfl
  next n _ => exact (State.memOnly_writeEnt n _).us

/-- A record that becomes live gives its stream its sequence. -/
theorem State.ent_goLive {e : Exam} {n : Nat} (h : e.slot = .stream n) (s : State) : (s.goLive e).ent n = { s.ent n with seq := recSeq e.rec_ } := by
  unfold State.goLive State.setSeq
  rw [h]
  dsimp only
  have hent (u : State) (p : List Pending) : ({ u.writeEnt n with est := { (u.writeEnt n).est with pend := p } } : State).ent n = u.ent n := by
    have hest := (State.memOnly_writeEnt n u).est
    simp only [State.ent, hest]
  rw [hent]
  exact State.ent_modEnt n (fun x => { x with seq := recSeq e.rec_ }) s

/-- Bringing an entry into the cache reads the table's line and leaves the table. -/
theorem State.bring_fields (n : Nat) (s : State) : (s.bring n).us = s.us ∧ ∀ m, (s.bring n).ent m = s.ent m := by
  unfold State.bring
  split
  · exact ⟨rfl, fun _ => rfl⟩
  · extract_lets u cache
    have hu : s.MemOnly u := (State.MemOnly.fresh_ _).mpr ((State.MemOnly.tableLine ..).mpr (.refl s))
    have htable : u.est.table = s.est.table := congrArg Est.table hu.est
    exact ⟨hu.us, fun m => congrArg (fun t => Tab.get ({} : StreamEnt) t m) htable⟩
@[simp] theorem State.ent_bring (n m : Nat) (s : State) : (s.bring n).ent m = s.ent m := (State.bring_fields n s).2 m
@[simp] theorem State.us_bring (n : Nat) (s : State) : (s.bring n).us = s.us := (State.bring_fields n s).1

theorem State.ent_admitStream (n : Nat) (s : State) : (s.admitStream n).ent n = { s.ent n with st := .admitted, tadm := s.us, reason := 0 } := by
  simp [State.admitStream]

/-- A request that ends in an open stream leaves it idle. -/
theorem State.ent_endRequest {n : Nat} {s : State} (h : (s.ent n).st ≠ .closing) (answer reason : Nat) :
    (s.endRequest n answer reason).ent n = { s.ent n with st := .idle, op := 0, step := 0 } := by
  simp [State.endRequest, h]

/-- Settles O17: each record by its checks. -/
theorem estuaryStreamRequests : Obligations.EstuaryStreamRequests := by
  unfold Obligations.EstuaryStreamRequests
  intro n e es s
  dsimp only
  intro hin hnext hcached hlive
  have hslot := slot_of_nextExam hnext
  have hseq : (((({ s with est := { s.est with examine := es } } : State).goLive e).touch (.stream n)).ent n).seq = recSeq e.rec_ := by
    rw [State.ent_touch, State.ent_goLive hslot]
  have hus : ((({ s with est := { s.est with examine := es } } : State).goLive e).touch (.stream n)).us = s.us := by
    rw [State.us_touch, State.us_goLive]
  have hrun {want : List Byte → Bool} {go : Exam → State → State} := State.examineLive_live (go := go) (want := want) hin hnext hcached hlive
  have hopen (h : (recOp e.rec_ ≠ 2 && recOp e.rec_ ≠ 3) = true) : exec (.streamOpen n) s = _ := congrArg Host.Outcome.next (hrun h)
  have hsubmit (h : recOp e.rec_ = 2) : exec (.streamSubmit n) s = _ := congrArg Host.Outcome.next (hrun (decide_eq_true h))
  have hclose (h : recOp e.rec_ = 3) : exec (.streamClose n) s = _ := congrArg Host.Outcome.next (hrun (decide_eq_true h))
  generalize (({ s with est := { s.est with examine := es } } : State).goLive e).touch (.stream n) = s1 at *
  refine ⟨fun hop hpol hmax => ?_, fun hop hpol hload => ⟨fun hdefer => ?_, fun why hdefer hmax => ?_⟩,
    fun hop hpol => ⟨fun hst => ?_, fun hst => ?_, fun hst => ?_⟩, fun why hpol => ?_⟩
  · rw [hopen (by simp [hop]), hpol]
    dsimp only
    rw [if_neg (Nat.not_le.mpr hmax)]
    refine ⟨_, rfl, ?_⟩
    rw [State.ent_answer, State.ent_modEnt, hseq]
  · rw [hsubmit hop, hpol]
    dsimp only
    rw [if_neg hload, hdefer]
    refine ⟨_, rfl, ?_⟩
    rw [State.ent_admitStream, State.ent_modEnt]
    exact ⟨rfl, hus, rfl, rfl⟩
  · rw [hsubmit hop, hpol]
    dsimp only
    rw [if_neg hload, hdefer]
    dsimp only
    rw [if_neg (Nat.not_le.mpr hmax)]
    refine ⟨_, rfl, ?_⟩
    rw [State.ent_answer, State.ent_modEnt, State.ent_modEnt]
    exact ⟨rfl, rfl, hus⟩
  · rw [hclose hop, hpol]
    dsimp only
    rw [hst]
    refine ⟨_, rfl, ?_⟩
    rw [State.ent_answer, State.ent_modEnt, hseq]
  · rw [hclose hop, hpol]
    dsimp only
    rw [hst]
    refine ⟨_, rfl, ?_⟩
    rw [State.ent_answer, State.ent_modEnt, State.ent_endRequest (by rw [hst]; decide)]
    exact congrArg (fun q => ({ seq := q } : StreamEnt)) hseq
  · rw [hclose hop, hpol]
    dsimp only
    rcases hst with h | h <;> rw [h]
  · split
    next h2 => rw [hsubmit h2, hpol]
    next h3 => rw [hclose h3, hpol]
    next h2 h3 => rw [hopen (Bool.and_eq_true_iff.mpr ⟨decide_eq_true h2, decide_eq_true h3⟩), hpol]

end Sys2Proof.Machine
end

section
/-! The intake's other cases, the window's registers and the host's (R254, R255, R258, R260, R262, R266, R275, R276). -/

namespace Sys2Proof.Machine

/-! ### Stale, bad and torn records -/

/-- The most recent use of a slot's entry in the stream cache. -/
def Est.used (x : Est) : SlotRef → List Nat
  | .ctrl _ => x.cache
  | .stream n => n :: x.cache.filter (· ≠ n)

theorem State.touch_eq {slot : SlotRef} {s : State} (h : s.cached slot = true) : s.touch slot = { s with est := { s.est with cache := s.est.used slot } } := by
  cases slot with
  | ctrl c => rfl
  | stream n => exact State.touch_of_cached h

/-- Settles O18: the cases of a record that is not live, the fill of the cache, and deferral. -/
theorem estuaryIntakeAndDeferral : Obligations.EstuaryIntakeAndDeferral := by
  unfold Obligations.EstuaryIntakeAndDeferral
  intro slot n s
  refine ⟨?_, ?_, ?_, ?_, ?_⟩
  · intro e es hin hnext hcached
    have hexec : exec (.intakeStaleWrite slot) s = execIntakeStaleWrite slot s := rfl
    have htouch : State.touch slot { s with est := { s.est with examine := es } } =
      { s with est := { s.est with examine := es, cache := s.est.used slot } } := State.touch_eq hcached
    rw [hexec]
    unfold execIntakeStaleWrite
    rw [hin, hnext]
    simp only [Bool.not_true, Bool.false_eq_true, if_false, hcached, htouch]
    refine ⟨fun hcase => ?_, fun hcase => ?_, fun hcase hpend => ?_⟩
    · rw [hcase]
      cases slot <;> rfl
    · rw [hcase]
      refine ⟨_, rfl, rfl, rfl, rfl, rfl, ?_⟩
      cases slot <;> rfl
    · rw [hcase]
      dsimp only
      rw [List.any_eq_false_of fun p hp => decide_eq_false (hpend p hp)]
      cases slot <;> rfl
  · intro p hfind hin hdue hworks
    have hexec : exec (.tornTimeout slot) s = execTornTimeout slot s := rfl
    have hready : (!s.intake || decide (s.us < p.since + s.est.tornWait) || !s.hubWorks (s.slotDla slot) 64) = false := by
      rw [hin, hworks, decide_eq_false (by omega)]
      rfl
    rw [hexec, execTornTimeout]
    erw [hfind]
    simp only [hready, Bool.false_eq_true, if_false]
    refine ⟨fun hclean => ?_, fun hdirty => ?_⟩
    · rw [if_neg (not_not.mpr hclean)]
      have hread (dla : Nat) := (State.MemOnly.devRead (s' := { s with est := { s.est with pend := s.est.pend.filter fun p => p.slot ≠ slot } })
        .hub dla 64).mpr (.refl _)
      refine ⟨_, rfl, fun q hq => ?_, ?_⟩
      · rw [(State.answersOnly_answer ..).pend, (hread _).est] at hq
        exact of_decide_eq_true (List.mem_filter.mp hq).2
      · rw [State.stat_answer, (hread _).est]
        rfl
    · rw [if_pos hdirty]
  · intro hmiss hcache
    dsimp only
    have hexec : exec (.streamTableFill n) s = execStreamTableFill n s := rfl
    have hline := (State.MemOnly.tableLine (s := { s with est := { s.est with misses := s.est.misses.filter (· ≠ n) } }) (s.entDla n) false true).mpr (.refl _)
    rw [hexec, execStreamTableFill, if_neg (by simp [hmiss]), State.bring, if_neg hcache]
    rw [show ({ s with est := { s.est with misses := s.est.misses.filter (· ≠ n) } } : State).entDla n = s.entDla n from rfl]
    generalize (State.tableLine (s.entDla n) false true _).2 = t at hline ⊢
    have hest : (State.fresh_ (.stream n) t).est = { s.est with misses := s.est.misses.filter (· ≠ n) } := hline.est
    dsimp only
    rw [hest]
    dsimp only
    refine ⟨fun hlen => ?_, fun hlen v hv => ?_⟩
    · rw [if_pos hlen]
      exact ⟨_, rfl, by rw [hline.est], rfl⟩
    · rw [if_neg (Nat.not_lt.mpr hlen)]
      have hent : (fun m => !((State.fresh_ (.stream n) t).ent m).st.pins) = fun m => !(s.ent m).st.pins := by
        funext m
        simp only [State.ent, hest]
      rw [hent]
      erw [hv]
      exact ⟨_, rfl, by rw [hline.est], rfl⟩
  · intro hst hdue
    have hexec : exec (.deferTimeout n) s = execDeferTimeout n s := rfl
    refine ⟨_, hexec.trans (congrArg Host.Outcome.next (if_pos ⟨hst, hdue⟩)), ?_⟩
    rw [State.ent_endRequest (by rw [hst]; decide)]
    exact ⟨rfl, rfl⟩
  · intro hen
    have hexec : exec .deferredReexamine s = execDeferredReexamine s := rfl
    rw [hexec, execDeferredReexamine, if_neg (by simp [hen])]

end Sys2Proof.Machine
end

section
/-! Enabling the intake, and the host's side of it (R254, R255, R260, R275, R276). -/

namespace Sys2Proof.Machine

/-! ### The stream table's start -/

/-- Writing the stream table counts lines and mends them: entries of the map and stored bytes stay. -/
theorem State.initTable_fields (n : Nat) (s : State) :
    (s.initTable n).est = s.est ∧ (s.initTable n).plm.mem = s.plm.mem ∧ (s.initTable n).plm.map = s.plm.map := by
  unfold State.initTable
  generalize List.range (ceilDiv n 512) = ks
  induction ks generalizing s with
  | nil => exact ⟨rfl, rfl, rfl⟩
  | cons k ks ih =>
    rw [List.foldl_cons]
    obtain ⟨hest, hmem, hmap⟩ := ih (_ : State)
    rw [hest, hmem, hmap]
    dsimp only
    split
    · exact ⟨rfl, rfl, rfl⟩
    · exact ⟨rfl, rfl, rfl⟩

/-- A table that is empty has every stream closed. -/
theorem State.closed_of_empty {s : State} (h : s.est.table = []) (n : Nat) : (s.ent n).st = .closed := by
  rw [State.ent, h]
  rfl

/-- The region of the intake window takes its words. -/
theorem Plm.regions_setIntake (valid : Bool) (base size : Nat) (m : Plm) :
    Tab.get {} (m.setIntake valid base size).regions 5 = if valid = true then ⟨true, base, size, 5, true⟩ else {} := Tab.get_set_self ..

/-- Settles O19: enable, the table's start, disable and the window's registers. -/
theorem estuaryEnable : Obligations.EstuaryEnable := by
  unfold Obligations.EstuaryEnable
  intro v s
  have henable : exec (.estEnable v) s = execEstEnable v s := rfl
  have hinit : exec .estInitDone s = execEstInitDone s := rfl
  have hdisable : exec (.estDisable v) s = execEstDisable v s := rfl
  have hwrite (off : Nat) : exec (.estWindowRegWrite off v) s = execEstWindowRegWrite off v s := rfl
  refine ⟨fun hv hen hok hmode => ?_, fun hv hen hbad => ?_, fun hen hready => ?_, fun h => ?_, fun hv hen => ?_, fun off hoff hlock => ?_,
    fun hen hlock => ⟨?_, ?_, ?_⟩⟩
  · have hok' : State.windowOk { s with est := s.est.ctrlFields v } = true := hok
    rw [henable, execEstEnable, if_neg (by simp [hv])]
    dsimp only
    rw [if_neg (by simp [Est.ctrlFields, hen]), if_neg (by simp [hok', hmode])]
    exact ⟨_, rfl, rfl, rfl, rfl, rfl, rfl, Plm.regions_setIntake .., rfl, rfl, rfl⟩
  · have hbad' : (!State.windowOk { s with est := s.est.ctrlFields v } || s.cxl.mode = 2) = true := by
      have hok : State.windowOk { s with est := s.est.ctrlFields v } = s.windowOk := rfl
      rw [hok]
      rcases hbad with h | h <;> simp [h]
    rw [henable, execEstEnable, if_neg (by simp [hv])]
    dsimp only
    rw [if_neg (by simp [Est.ctrlFields, hen]), if_pos hbad']
  · obtain ⟨hest, hmem, hmap⟩ := State.initTable_fields s.est.streams s
    refine ⟨_, hinit.trans (congrArg Host.Outcome.next (if_pos (by simp [hen, hready]))), ?_, hmem, hmap⟩
    dsimp only
    rw [hest]
  · rw [hinit, execEstInitDone, if_neg (by rcases h with h | h <;> simp [h])]
  · rw [hdisable, execEstDisable, if_neg (by rw [hv]; decide)]
    dsimp only
    rw [if_neg (by simp [Est.ctrlFields, hen])]
    exact ⟨_, rfl, rfl, rfl, fun n => State.closed_of_empty rfl n, Plm.regions_setIntake .., rfl⟩
  · rw [hwrite, execEstWindowRegWrite, if_neg (by omega), if_pos (by rcases hlock with h | h <;> simp [h])]
  · rw [hwrite, execEstWindowRegWrite, if_neg (by decide), if_neg (by simp [hen, hlock])]
    rfl
  · rw [hwrite, execEstWindowRegWrite, if_neg (by decide), if_neg (by simp [hen, hlock])]
    rfl
  · rw [hwrite, execEstWindowRegWrite, if_neg (by decide), if_neg (by simp [hen, hlock])]
    rfl

/-! ### The host's registers -/

theorem State.snoop_of_none {line : Nat} {s : State} (inv : Bool) (h : ∀ q ∈ s.cxl.snoops, q.1 ≠ line) :
    s.snoop line inv = { s with cxl := { s.cxl with snoops := s.cxl.snoops ++ [(line, inv)], bisnp := satInc s.cxl.bisnp } } := by
  rw [State.snoop, List.any_eq_false_of fun q hq => decide_eq_false (h q hq)]
  rfl

/-- A line that is called back has a snoop in flight. -/
theorem State.mem_snoops_snoop (line : Nat) (inv : Bool) (s : State) : ∃ inv', (line, inv') ∈ (s.snoop line inv).cxl.snoops := by
  by_cases h : ∀ q ∈ s.cxl.snoops, q.1 ≠ line
  · rw [State.snoop_of_none inv h]
    exact ⟨inv, List.mem_append_right _ List.mem_cons_self⟩
  · push Not at h
    obtain ⟨⟨l, i⟩, hmem, rfl⟩ := h
    refine ⟨i, ?_⟩
    rw [State.snoop, if_pos (List.any_eq_true.mpr ⟨_, hmem, decide_eq_true rfl⟩)]
    exact hmem

theorem length_leBytes (n v : Nat) : (leBytes n v).length = n := by
  induction n generalizing v with
  | zero => rfl
  | succ n ih => rw [leBytes, List.length_cons, ih]

/-- Settles O21: the head's slot, the notify write and the delayed snoop. -/
theorem estuaryHostRegisters : Obligations.EstuaryHostRegisters := by
  unfold Obligations.EstuaryHostRegisters
  intro s
  refine ⟨?_, fun hen hdue hcache hworks hgap => ?_, fun line since hfind => ⟨fun hdelay => ?_, fun hdelay => ?_⟩⟩
  · dsimp only
    intro hen hworks
    have hexec : exec .cqHeadWrite s = execCqHeadWrite s := rfl
    rw [hexec, execCqHeadWrite, if_neg (by simp [hen, hworks])]
    refine ⟨fun hclean hpoison => ?_, fun hdirty => ?_⟩
    · rw [if_neg (not_not.mpr hclean)]
      generalize s.devRead .hub (s.est.winBase + 0x3C0) 4 = r at hpoison ⊢
      obtain ⟨bs, p, u⟩ := r
      dsimp only at hpoison ⊢
      rw [hpoison]
      rfl
    · rw [if_pos hdirty]
  · have hexec : exec .notifyWrite s = execNotifyWrite s := rfl
    have hgo : (s.est.notifyEn && s.est.notifyDue && s.cxl.cacheOn && s.works cxlUnit &&
        (s.est.notifyLast = 0 || decide (s.est.notifyLast + s.est.notifyGap ≤ s.us + 1))) = true := by
      simp [hen, hdue, hcache, hworks, hgap]
    rw [hexec, execNotifyWrite]
    dsimp only
    rw [if_pos hgo]
    have hreq : d2hReq s.est.notifyAddr (leBytes 8 s.est.tail.toNat) = .woWrInv (lineOf s.est.notifyAddr) (0xFF#64 <<< (s.est.notifyAddr % 64)) := by
      rw [d2hReq, length_leBytes]
      rfl
    rw [State.hostWrite, hreq]
  · have hexec : exec (.biSnoopDelay line) s = execBiSnoopDelay line s := rfl
    rw [hexec, execBiSnoopDelay]
    erw [hfind]
    dsimp only
    rw [if_pos hdelay]
    refine ⟨_, rfl, fun w hw => ?_, State.mem_snoops_snoop .., fun hnone => ?_⟩
    · have hest (u : State) : (u.snoop line true).est = u.est := by rw [State.snoop]; split <;> rfl
      rw [hest] at hw
      exact of_decide_eq_true (List.mem_filter.mp hw).2
    · rw [State.snoop_of_none (s := { s with est := { s.est with biWait := s.est.biWait.filter fun w => w.1 ≠ line } }) true hnone]
      exact ⟨rfl, rfl⟩
  · have hexec : exec (.biSnoopDelay line) s = execBiSnoopDelay line s := rfl
    rw [hexec, execBiSnoopDelay]
    erw [hfind]
    dsimp only
    rw [if_neg (by omega)]

end Sys2Proof.Machine
end

section
/-! Steps of Estuary (R270 to R272, R276). -/

namespace Sys2Proof.Machine

/-- A change of a stream's entry as a step is formed over it. -/
def StreamEnt.joined (num : Nat) (x : StreamEnt) : StreamEnt :=
  { x with st := if x.st = .closing then .closing else .inStep, step := num }

/-- What forming a step changes before the step is kept: entries of the table alone. -/
theorem State.foldl_joined_eq (l : List (Nat × StreamEnt)) (num : Nat) (s : State) :
    l.foldl (fun (s : State) e => s.modEnt e.1 (StreamEnt.joined num)) s =
      { s with est := { s.est with table := (l.foldl (fun (s : State) e => s.modEnt e.1 (StreamEnt.joined num)) s).est.table } } := by
  induction l generalizing s with
  | nil => rfl
  | cons e l ih =>
    rw [List.foldl_cons, ih]
    rfl

/-- A step's entries hold its number. -/
theorem State.step_foldl_joined (l : List (Nat × StreamEnt)) (num n : Nat) (s : State) (h : (∃ e ∈ l, e.1 = n) ∨ (s.ent n).step = num) :
    ((l.foldl (fun (s : State) e => s.modEnt e.1 (StreamEnt.joined num)) s).ent n).step = num := by
  induction l generalizing s with
  | nil =>
    rcases h with ⟨e, he, _⟩ | h
    · cases he
    · exact h
  | cons e l ih =>
    rw [List.foldl_cons]
    apply ih
    by_cases hn : n = e.1
    · exact .inr (by rw [hn, State.ent_modEnt]; rfl)
    · rw [State.ent_modEnt_ne _ _ hn]
      rcases h with ⟨x, hx, rfl⟩ | h
      · exact .inl ⟨x, (List.mem_cons.mp hx).resolve_left fun hxe => hn (congrArg Prod.fst hxe), rfl⟩
      · exact .inr h

@[simp] theorem State.steps_endRequest (n answer reason : Nat) (s : State) : (s.endRequest n answer reason).est.steps = s.est.steps := by
  unfold State.endRequest
  dsimp only
  split <;> simp

@[simp] theorem State.steps_finish (n len : Nat) (s : State) : (s.finish n len).est.steps = s.est.steps := by
  unfold State.finish
  dsimp only
  split <;> simp

/-- A request that completes in an open stream leaves it idle and moves it on by its input. -/
theorem State.ent_finish {n : Nat} {s : State} (h : (s.ent n).st ≠ .closing) (len : Nat) :
    (s.finish n len).ent n = { s.ent n with st := .idle, op := 0, step := 0, pos := (s.ent n).pos + (s.ent n).inLen } := by
  simp [State.finish, h]

theorem takeStep_nil (k tok : Nat) : takeStep k tok [] = [] := by cases k <;> rfl

/-- A fold whose steps keep the step table keeps it. -/
theorem State.steps_foldl {α : Type} {f : State → α → State} (hf : ∀ s a, (f s a).est.steps = s.est.steps) (l : List α) (s : State) :
    (l.foldl f s).est.steps = s.est.steps := by
  induction l generalizing s with
  | nil => rfl
  | cons a l ih => rw [List.foldl_cons, ih, hf]

/-- The steps but one. -/
theorem EStep.num_ne_of_mem_filter {l : List EStep} {step : Nat} {f : EStep} (h : f ∈ l.filter fun f => decide (f.num ≠ step)) : f.num ≠ step :=
  of_decide_eq_true (List.mem_filter.mp h).2

/-- Settles O20: a step's forming, handing over, completion and failure by their conditions. -/
theorem estuarySteps : Obligations.EstuarySteps := by
  unfold Obligations.EstuarySteps
  intro h cls s
  refine ⟨?_, fun step cols e hstep hnew hup hcols => ?_, fun step lens e hstep hhanded hfail hclosed hup hout hkl => ?_,
    fun step e hstep hfail => ⟨fun hdown => ?_, fun hup => ?_⟩⟩
  · dsimp only
    intro hen hload hmine hready hflight hreads hshare hring hcache
    have hexec : exec (.stepForm h cls) s = execStepForm h cls s := rfl
    rw [hexec, execStepForm]
    dsimp only
    generalize (s.est.table.filter fun e => e.2.waits && decide (e.2.handle = h.val) && decide (e.2.cls = cls.val)).insertionSort (byTadm · ·) = pool
      at hmine hready ⊢
    obtain ⟨e0, es, rfl⟩ := List.exists_cons_of_ne_nil fun hp : pool = [] => hmine (by rw [hp, takeStep_nil])
    have hold : (decide ((s.estClass cls).batch ≤ (e0 :: es).length) || decide ((s.estClass cls).mtok ≤ ((e0 :: es).map fun e => e.2.inLen).sum) ||
        decide (e0.2.tadm + (s.estClass cls).wait ≤ s.us)) = true := by
      rcases hready with hb | ht | ⟨e, l, heq, hw⟩
      · rw [decide_eq_true hb]; rfl
      · rw [decide_eq_true ht, Bool.or_true]; rfl
      · cases heq
        rw [decide_eq_true hw, Bool.or_true]
    dsimp only
    rw [if_neg (by simp only [hold, hen, hload, decide_eq_false (Nat.not_le.mpr hflight), hreads, hshare, hring, hcache, List.cons_ne_nil]; decide), if_neg hmine]
    refine ⟨_, Config.free s.fresh % 2 ^ 20, rfl, rfl, ?_, fun e he => ?_⟩
    · erw [State.foldl_joined_eq]
      rfl
    · exact State.step_foldl_joined _ _ _ _ (.inl ⟨e, he, rfl⟩)
  · have hexec : exec (.stepHandoff step cols) s = execStepHandoff step cols s := rfl
    rw [hexec, execStepHandoff, hstep]
    dsimp only
    rw [if_neg (by simp [hnew, hup, hcols])]
  · have hexec : exec (.stepComplete step lens) s = execStepComplete step lens s := rfl
    rw [hexec, execStepComplete, hstep]
    dsimp only
    have hall : ((s.stepLayers e).all fun l => e.layerClosed l.index) = true := List.all_eq_true.mpr hclosed
    rw [if_neg (by simp only [hhanded, hfail, hup, hout, hall, hkl]; decide)]
    refine ⟨_, rfl, fun f hf => ?_, fun n hn => ?_⟩
    · rw [State.steps_foldl fun u x => ?_] at hf
      · exact EStep.num_ne_of_mem_filter hf
      · split
        · exact State.steps_answer ..
        · split
          · exact State.steps_finish ..
          · rfl
    · rw [hn]
      refine ⟨fun horphan hin hst => ?_, fun o horphan => ?_⟩
      · simp only [List.mapIdx_cons, List.mapIdx_nil, List.foldl_cons, List.foldl_nil, horphan]
        generalize ht : ({ s with est := { s.est with steps := s.est.steps.filter fun f => decide (f.num ≠ step) } } : State) = t
        have hent : t.ent n = s.ent n := by rw [← ht]; rfl
        rw [if_pos (by rw [hent, hin]), State.ent_finish (by rw [hent, hst]; decide), hent]
        exact ⟨rfl, rfl⟩
      · simp only [List.mapIdx_cons, List.mapIdx_nil, List.foldl_cons, List.foldl_nil, horphan]
  · have hexec : exec (.stepFailed step) s = execStepFailed step s := rfl
    rw [hexec, execStepFailed, hstep]
    dsimp only
    rw [if_pos (by simp [hdown])]
  · have hexec : exec (.stepFailed step) s = execStepFailed step s := rfl
    rw [hexec, execStepFailed, hstep]
    dsimp only
    rw [if_neg (by simp [hup, hfail])]
    refine ⟨_, rfl, fun f hf => ?_, fun n hn => ?_⟩
    · rw [State.steps_foldl fun u x => ?_] at hf
      · exact EStep.num_ne_of_mem_filter hf
      · split
        · exact State.steps_answer ..
        · split
          · exact State.steps_endRequest ..
          · rfl
    · rw [hn]
      refine ⟨fun horphan hin hst => ?_, fun o horphan => ?_⟩
      · simp only [List.foldl_cons, List.foldl_nil, horphan]
        generalize ht : ({ s with est := { s.est with steps := s.est.steps.filter fun f => decide (f.num ≠ step) } } : State) = t
        have hent : t.ent n = s.ent n := by rw [← ht]; rfl
        rw [if_pos (by rw [hent, hin]), State.ent_endRequest (by rw [hent, hst]; decide), hent]
        exact ⟨rfl, rfl⟩
      · simp only [List.foldl_cons, List.foldl_nil, horphan]

end Sys2Proof.Machine
end

section
/-! The loader's requests (R179 to R183, R214, R218, R257). -/

namespace Sys2Proof.Machine

/-- The request that ends leaves the loader and the queue of control records. -/
theorem State.endRequest_fields (n answer reason : Nat) (s : State) :
    (s.endRequest n answer reason).ldr = s.ldr ∧ (s.endRequest n answer reason).est.ctrlQueue = s.est.ctrlQueue := by
  have hans (a : Ans) (u : State) : (u.answer a).ldr = u.ldr ∧ (u.answer a).est.ctrlQueue = u.est.ctrlQueue :=
    ⟨(State.answersOnly_answer a u).ldr, by rw [(State.answersOnly_answer a u).est]⟩
  unfold State.endRequest
  dsimp only
  split
  · refine ⟨(hans ..).1.trans (hans ..).1, (hans ..).2.trans (hans ..).2⟩
  · exact hans ..

theorem State.foldl_endRequest_fields (answer reason : Nat) (l : List Nat) (s : State) :
    (l.foldl (fun (s : State) n => s.endRequest n answer reason) s).ldr = s.ldr ∧
      (l.foldl (fun (s : State) n => s.endRequest n answer reason) s).est.ctrlQueue = s.est.ctrlQueue := by
  induction l generalizing s with
  | nil => exact ⟨rfl, rfl⟩
  | cons n l ih =>
    obtain ⟨hldr, hq⟩ := State.endRequest_fields n answer reason s
    rw [List.foldl_cons]
    exact ⟨(ih _).1.trans hldr, (ih _).2.trans hq⟩

/-- The state in which a handle stands before the stage that works on its request. -/
def HandleSt.before (during : HandleSt) : HandleSt := if during = .loading then .empty else .loaded

/-- A request over a handle in another state is refused. -/
theorem State.ldrServe_wrong {slot op : Nat} {r : List Byte} {rest : List (Nat × List Byte)} {during : HandleSt} {s : State}
    (hop : (op, during) ∈ [(8, HandleSt.loading), (9, HandleSt.replacing)]) (hq : s.est.ctrlQueue = (slot, r) :: rest) (hr : ctrlOp r = op)
    (hup : s.hub.hubUp = true) (hcopy : (s.handle (bits (recField r 0 8) 5 4)).copying = false) (hbusy : s.ldrBusy = false)
    (hst : (s.handle (bits (recField r 0 8) 5 4)).st ≠ during.before) :
    s.ldrServe slot op = ({ s with est := { s.est with ctrlQueue := rest } } : State).ldrEnd slot r ⟨0x02, 0, 0xFFFFFFFF⟩ := by
  unfold State.ldrServe
  rw [hq]
  dsimp only
  rw [if_neg (by simp [hr, hup]), hcopy, hbusy]
  simp only [List.mem_cons, Prod.mk.injEq, List.not_mem_nil, or_false] at hop
  rcases hop with ⟨rfl, rfl⟩ | ⟨rfl, rfl⟩ <;> exact if_pos hst

/-- A request over a handle in its state starts, and its stream is copied. -/
theorem State.ldrServe_start {slot op : Nat} {r : List Byte} {rest : List (Nat × List Byte)} {during : HandleSt} {s : State}
    (hop : (op, during) ∈ [(8, HandleSt.loading), (9, HandleSt.replacing)]) (hq : s.est.ctrlQueue = (slot, r) :: rest) (hr : ctrlOp r = op)
    (hup : s.hub.hubUp = true) (hcopy : (s.handle (bits (recField r 0 8) 5 4)).copying = false) (hbusy : s.ldrBusy = false)
    (hst : (s.handle (bits (recField r 0 8) 5 4)).st = during.before) :
    s.ldrServe slot op = (s.ldrStart slot r during true).ldrCopy slot r during := by
  unfold State.ldrServe
  rw [hq]
  dsimp only
  rw [if_neg (by simp [hr, hup]), hcopy, hbusy]
  simp only [List.mem_cons, Prod.mk.injEq, List.not_mem_nil, or_false] at hop
  rcases hop with ⟨rfl, rfl⟩ | ⟨rfl, rfl⟩ <;> exact if_neg (not_not.mpr hst)

/-- The read of a stream whose lengths are right and whose lines carry no poison, and its checks. -/
theorem State.ldrCheck_read {slot : Nat} {r img : List Byte} {during : HandleSt} {s u : State}
    (halign : recField r 8 8 % 64 = 0) (hpos : 1 ≤ recField r 16 4) (hmax : recField r 16 4 ≤ 1048576)
    (hopen : s.openDla (recField r 8 8) (64 * recField r 16 4) = true)
    (hread : ({ s with est := { s.est with ctrlQueue := s.est.ctrlQueue.drop 1 } } : State).devRead .hub (recField r 8 8) (64 * recField r 16 4) = (img, false, u)) :
    let h := bits (recField r 0 8) 5 4
    let v := u.ownWrite hubSrc (u.stagingDla h) img
    (∀ st, v.checkStream h (recField r 16 4) img = .ok st →
      s.ldrCheck slot r during = v.modHandle h fun x => { x with next := some st, copying := false }) ∧
    ∀ f, v.checkStream h (recField r 16 4) img = .error f → f.code ≠ 0x04 →
      s.ldrCheck slot r during =
        let w := (v.ldrEnd slot r f).modHandle h fun x => { x with st := during.before }
        if during = .loading then w.refuseDeferred h 0x16 else w := by
  unfold State.ldrCheck
  dsimp only
  have hopen' : ({ s with est := { s.est with ctrlQueue := s.est.ctrlQueue.drop 1 } } : State).openDla (recField r 8 8) (64 * recField r 16 4) = true := hopen
  generalize ({ s with est := { s.est with ctrlQueue := s.est.ctrlQueue.drop 1 } } : State) = t at hopen' hread ⊢
  have hbad : ¬(recField r 8 8 % 64 ≠ 0 ∨ recField r 16 4 = 0 ∨ 1048576 < recField r 16 4 ∨
      (!t.openDla (recField r 8 8) (64 * recField r 16 4)) = true) := by
    rw [hopen']
    simp
    omega
  rw [if_neg hbad, hread]
  dsimp only
  refine ⟨fun st hst => ?_, fun f hf hcode => ?_⟩
  · rw [hst]
    rfl
  · rw [hf]
    dsimp only
    rw [if_neg (by decide), if_neg hcode]
    rfl

/-- A control record that passes no check of Estuary is answered. -/
theorem State.examineLive_ctrl {slot : Nat} {want : List Byte → Bool} {go : Exam → State → State} {s : State} {e : Exam} {es : List Exam}
    (hin : s.intake = true) (hnext : s.est.nextExam (.ctrl slot) = some (e, es)) (hlive : s.seqCase e = .live) (hwant : want e.rec_ = true) :
    s.examineLive (.ctrl slot) want go = go e (({ s with est := { s.est with examine := es } } : State).goLive e) :=
  State.examineLive_live hin hnext rfl hlive hwant

/-- Settles O22: a request by its handle's state and by the checks of its stream. -/
theorem loaderCommands : Obligations.LoaderCommands := by
  unfold Obligations.LoaderCommands
  intro slot h r rest s hh
  refine ⟨fun op i before during hmem => ?_, ?_, fun e es hin hnext hbad hlive => ?_⟩
  · have hop : (op, during) ∈ [(8, HandleSt.loading), (9, HandleSt.replacing)] ∧ during.before = before ∧
        exec i s = .next ((s.ctrlPass slot op).ldrServe slot op) ∧ (op = 8 ↔ during = .loading) := by
      simp only [List.mem_cons, Prod.mk.injEq, List.not_mem_nil, or_false] at hmem
      rcases hmem with ⟨rfl, rfl, rfl, rfl⟩ | ⟨rfl, rfl, rfl, rfl⟩
      · exact ⟨by simp, rfl, rfl, by simp⟩
      · exact ⟨by simp, rfl, rfl, by simp⟩
    obtain ⟨hop, rfl, hexec, hload⟩ := hop
    rw [hexec]
    dsimp only
    generalize s.ctrlPass slot op = s1
    intro hq hr hbusy hup hcopy
    rw [← hh] at hcopy ⊢
    refine ⟨fun hst => ?_, fun hst => ?_⟩
    · rw [State.ldrServe_wrong hop hq hr hup hcopy hbusy hst]
    · rw [State.ldrServe_start hop hq hr hup hcopy hbusy hst, State.ldrStart, hr]
      generalize hs2 : State.modHandle _ _ s1 = s2
      unfold State.ldrCopy
      refine ⟨fun l ls hdirty => ?_, fun hclean hworks => ?_, fun img s3 hclean hworks halign hpos hmax hopen hread => ?_⟩
      · rw [hdirty]
      · rw [hclean]
        dsimp only
        rw [if_neg (by rw [hworks]; decide)]
      · rw [hclean]
        dsimp only
        rw [if_pos hworks]
        have hdrop : s2.est.ctrlQueue.drop 1 = rest := by
          rw [← hs2]
          exact congrArg (List.drop 1) hq
        obtain ⟨hok, herr⟩ := State.ldrCheck_read (slot := slot) (during := during) halign hpos hmax hopen (by rw [hdrop]; exact hread)
        refine ⟨fun st hst => by rw [hok st hst], fun f hf hcode => ?_⟩
        rw [herr f hf hcode]
        simp only [hload]
  · dsimp only
    intro hq hr hbusy hup hcopy hst
    have hexec : exec (.loaderUnload slot) s = .next ((s.ctrlPass slot 0xA).ldrServe slot 0xA) := rfl
    rw [hexec]
    generalize s.ctrlPass slot 0xA = s1 at *
    rw [← hh] at hcopy hst ⊢
    unfold State.ldrServe
    rw [hq]
    dsimp only
    rw [if_neg (by simp [hr, hup]), hcopy, hbusy]
    simp only [Bool.false_eq_true, if_false]
    rw [if_neg (not_not.mpr hst)]
    refine ⟨_, rfl, ?_⟩
    generalize hstart : State.ldrStart slot r .unloading false _ = s2
    have hhandle : s2.handle (bits (recField r 0 8) 5 4) = { s1.handle (bits (recField r 0 8) 5 4) with
        st := .unloading, busy := true, op := ctrlOp r - 8, code := 0, section_ := 0, frame := 0xFFFFFFFF, copying := false, ctrlSlot := slot, ctrlRec := r } := by
      rw [← hstart]
      exact State.handle_modHandle ..
    have hqueue : s2.est.ctrlQueue = rest := by rw [← hstart]; rfl
    have hended {u v : State} (h : v.ldr = u.ldr ∧ v.est.ctrlQueue = u.est.ctrlQueue) (k : u.ldr = s2.ldr ∧ u.est.ctrlQueue = s2.est.ctrlQueue) :
        v.handle (bits (recField r 0 8) 5 4) = s2.handle (bits (recField r 0 8) 5 4) ∧ v.est.ctrlQueue = s2.est.ctrlQueue :=
      ⟨by rw [State.handle, State.handle, h.1, k.1], h.2.trans k.2⟩
    unfold State.refuseDeferred
    obtain ⟨hend, hrest⟩ := hended (State.foldl_endRequest_fields ..) (State.foldl_endRequest_fields ..)
    rw [hend, hrest, hhandle, hr]
    exact ⟨rfl, rfl, rfl, rfl, hqueue⟩
  · have hexec : exec (.ctrlRecordBad slot) s = execCtrlRecordBad slot s := rfl
    rw [hexec, execCtrlRecordBad, hnext]
    dsimp only
    rw [hbad]
    rw [if_neg (by decide), State.examineLive_ctrl hin hnext hlive rfl]

end Sys2Proof.Machine
end

section
/-! What an access of the scratchpads changes: the scratchpads and scoreboards of cores, the Tidemark queue, and the free values used (R102, R159,
R173 to R176). -/

namespace Sys2Proof.Machine

/-- `t` is `s` after accesses of scratchpads. -/
structure State.SpdOnly (s t : State) : Prop where
  rest : t = { s with cores := t.cores, tmk := t.tmk, fresh := t.fresh }
  tmk : s.tmk.Same t.tmk
  core : ∀ c, t.core c = { s.core c with spd := (t.core c).spd, sb := (t.core c).sb }

/-- A change of a core's scratchpad and scoreboard alone. -/
def Core.SpdKept (k l : Core) : Prop := l = { k with spd := l.spd, sb := l.sb }

theorem Core.SpdKept.trans {k l m : Core} (h : k.SpdKept l) (g : l.SpdKept m) : k.SpdKept m := by
  unfold Core.SpdKept at *
  rw [h] at g
  exact g

theorem Core.spdKept_landed (w : Nat) (k : Core) : k.SpdKept (k.landed w) := by
  unfold Core.landed
  generalize List.range 16 = ns
  induction ns generalizing k with
  | nil => rfl
  | cons n ns ih =>
    refine .trans ?_ (ih _)
    dsimp only
    split <;> rfl

/-- A word that is stored, and counts. -/
theorem Core.spdKept_store (w : Nat) (f : Spad → Spad) (k : Core) : k.SpdKept (Core.landed w (k.modSpd f)) :=
  .trans (l := k.modSpd f) rfl (Core.spdKept_landed ..)

namespace State.SpdOnly

variable {s t u : State}

theorem refl (s : State) : s.SpdOnly s := ⟨rfl, rfl, fun _ => rfl⟩

theorem trans (h : s.SpdOnly t) (k : t.SpdOnly u) : s.SpdOnly u where
  rest := k.rest.trans (by rw [h.rest])
  tmk := h.tmk.trans k.tmk
  core c := (k.core c).trans (by rw [h.core c])

/-- Accesses that go one after another. -/
theorem foldl {α : Type} {f : State → α → State} (h : ∀ (s : State) x, s.SpdOnly (f s x)) (l : List α) (s : State) : s.SpdOnly (l.foldl f s) := by
  induction l generalizing s with
  | nil => exact refl s
  | cons x l ih => exact (h s x).trans (ih _)

theorem modCore (c : Nat) {f : Core → Core} (hf : (s.core c).SpdKept (f (s.core c))) : s.SpdOnly (s.modCore c f) := by
  refine ⟨rfl, rfl, fun i => ?_⟩
  by_cases hi : i = c
  · rw [hi, State.core_modCore]
    exact hf
  · rw [State.core_modCore_ne _ _ hi]

theorem modSpd (c : Nat) (f : Spad → Spad) (s : State) : s.SpdOnly (s.modSpd c f) := modCore c rfl

theorem record (ty src : Nat) (pl : List Byte) (core unit : Nat) (s : State) : s.SpdOnly (s.record ty src pl core unit) :=
  ⟨rfl, Tmk.same_enqueue _ _, fun _ => rfl⟩

theorem spdCount (c w : Nat) (o : EccOut) (s : State) : s.SpdOnly (s.spdCount c w o) := by
  unfold State.spdCount
  cases o with
  | clean => exact refl s
  | ce1 => exact modSpd ..
  | ce2 => exact modSpd ..
  | ue => exact (modSpd ..).trans (record ..)

theorem spdReadOn (c w : Nat) (s : State) : s.SpdOnly (s.spdReadOn c w).2 := by
  unfold State.spdReadOn
  extract_lets m n v
  split
  · exact refl s
  · refine .trans ?_ (spdCount ..)
    exact iteInduction (motive := fun u : State => s.SpdOnly u) (fun _ => ⟨rfl, rfl, fun _ => rfl⟩) fun _ => refl s

theorem spdDiscard (c r w : Nat) (s : State) : s.SpdOnly (s.spdDiscard c r w) := by
  unfold State.spdDiscard
  extract_lets m b t
  have ht : s.SpdOnly t := modSpd ..
  split
  · exact ht
  · exact ht.trans (record ..)

theorem store (c w : Nat) (f : Spad → Spad) (s : State) : s.SpdOnly (s.modCore c fun k => Core.landed w (k.modSpd f)) :=
  modCore c (f := fun k => Core.landed w (k.modSpd f)) (Core.spdKept_store w f (s.core c))

theorem storeWord (c r w : Nat) (d : W256) (p : Bool) (s : State) : s.SpdOnly (s.storeWord c r w d p).1 := by
  unfold State.storeWord
  split
  · exact store c w (Spad.put w d p) s
  · exact spdDiscard ..

theorem storeMask (c r w : Nat) (d mask : W256) (p : Bool) (s : State) : s.SpdOnly (s.storeMask c r w d mask p).1 := by
  unfold State.storeMask
  split
  · refine (spdReadOn c w s).trans ?_
    exact store c w _ _
  · exact spdDiscard ..

theorem landWith {pre : Nat → Nat → State → State} (hpre : ∀ c w (u : State), u.SpdOnly (pre c w u)) (c : Nat) (l : Landing) (d : W256) (p : Bool) (s : State) :
    s.SpdOnly (s.landWith pre c l d p) := by
  unfold State.landWith
  cases l with
  | word dst => exact (hpre ..).trans (storeWord ..)
  | lane base ostr plane lane => exact foldl (fun _ _ => (hpre ..).trans (storeMask ..)) _ _

theorem serveWith {pre : Nat → Nat → State → State} (hpre : ∀ c w (u : State), u.SpdOnly (pre c w u)) (c : Nat) (q : QReq) (s : State) :
    s.SpdOnly (s.serveWith pre c q) := by
  unfold State.serveWith
  split
  · exact storeWord ..
  · exact (spdReadOn c q.word s).trans (landWith hpre ..)

theorem emptyBank (n c b : Nat) (s : State) : s.SpdOnly (s.emptyBank n c b) := by
  induction n generalizing c b s with
  | zero => exact refl s
  | succ n ih =>
    unfold State.emptyBank
    extract_lets x s1 s2
    have h1 : s.SpdOnly s1 := modSpd ..
    have h2 : s1.SpdOnly s2 := foldl (fun u q => serveWith (fun i w v => by
      split
      · exact ih ..
      · exact refl v) c q u) _ _
    split
    · exact refl s
    · exact (h1.trans h2).trans (modSpd ..)

theorem bankRetire (c b : Nat) (s : State) : s.SpdOnly (s.bankRetire c b) := emptyBank ..

theorem retireAt (c w : Nat) (s : State) : s.SpdOnly (s.retireAt c w) := by
  unfold State.retireAt
  split
  · exact bankRetire ..
  · exact refl s

theorem land (c : Nat) (l : Landing) (d : W256) (p : Bool) (s : State) : s.SpdOnly (s.land c l d p) := landWith (State.SpdOnly.retireAt) c l d p s
theorem bankServe (c : Nat) (q : QReq) (s : State) : s.SpdOnly (s.bankServe c q) := serveWith (State.SpdOnly.retireAt) c q s

theorem spdWrite (c r w : Nat) (d : W256) (p : Bool) (s : State) : s.SpdOnly (s.spdWrite c r w d p).1 := (retireAt c w s).trans (storeWord ..)

theorem spdWrites (c : Nat) (ws : List (Nat × W256)) (s : State) : s.SpdOnly (s.spdWrites c ws) := foldl (fun _ _ => spdWrite ..) _ _

end State.SpdOnly

end Sys2Proof.Machine
end

section
/-! What the revoking of leases changes: leases, counters, retries and their counts on dies, the steps of Estuary, and Tidemark (R233 to R236). -/

namespace Sys2Proof.Machine

/-- What revoking leases changes of a die. -/
def Die.Revoked (x y : Die) : Prop :=
  y = { x with ctrs := y.ctrs, leases := y.leases, retry := y.retry, handed := y.handed, statRevoked := y.statRevoked, statFailed := y.statFailed }

theorem Die.Revoked.trans {x y z : Die} (h : x.Revoked y) (k : y.Revoked z) : x.Revoked z := by
  unfold Die.Revoked at *
  rw [h] at k
  exact k

/-- `t` is `s` after leases have been revoked and tiles have failed. -/
structure State.RevokesOnly (s t : State) : Prop where
  rest : t = { s with dies := t.dies, est := t.est, tmk := t.tmk }
  est : t.est = { s.est with steps := t.est.steps }
  die : ∀ d, (s.die d).Revoked (t.die d)

namespace State.RevokesOnly

variable {s t u : State}

theorem refl (s : State) : s.RevokesOnly s := ⟨rfl, rfl, fun _ => rfl⟩

theorem trans (h : s.RevokesOnly t) (k : t.RevokesOnly u) : s.RevokesOnly u where
  rest := k.rest.trans (by rw [h.rest])
  est := k.est.trans (by rw [h.est])
  die d := (h.die d).trans (k.die d)

theorem foldl {α : Type} {f : State → α → State} (h : ∀ (s : State) x, s.RevokesOnly (f s x)) (l : List α) (s : State) : s.RevokesOnly (l.foldl f s) := by
  induction l generalizing s with
  | nil => exact refl s
  | cons x l ih => exact (h s x).trans (ih _)

theorem record (ty src : Nat) (pl : List Byte) (core unit : Nat) (s : State) : s.RevokesOnly (s.record ty src pl core unit) :=
  ⟨rfl, rfl, fun _ => rfl⟩

theorem pairError (k : Nat) (s : State) : s.RevokesOnly (s.pairError k) := by
  unfold State.pairError
  extract_lets t o u
  have hu : s.RevokesOnly u := ⟨rfl, rfl, fun _ => rfl⟩
  split
  · exact hu
  · exact hu.trans (record ..)

theorem modDie (d : Nat) {f : Die → Die} (hf : (s.die d).Revoked (f (s.die d))) : s.RevokesOnly (s.modDie d f) := by
  refine ⟨rfl, rfl, fun e => ?_⟩
  by_cases h : e = d
  · rw [h, State.die_modDie]
    exact hf
  · rw [State.die_modDie_ne _ _ h]
    rfl

theorem failStep (n code : Nat) (s : State) : s.RevokesOnly (s.failStep n code) :=
  ⟨rfl, rfl, fun d => by rw [State.die_failStep]; rfl⟩

theorem failTile (d ctr tile code : Nat) (s : State) : s.RevokesOnly (s.failTile d ctr tile code) := by
  unfold State.failTile
  refine .trans (.trans ?_ (record ..)) (failStep ..)
  exact modDie d rfl

theorem revokeLease (d e : Nat) (l : Lease) (code : Option Nat) (s : State) : s.RevokesOnly (s.revokeLease d e l code) := by
  unfold State.revokeLease
  dsimp only
  split
  · exact modDie d rfl
  · split
    · refine .trans ?_ (failTile ..)
      exact modDie d rfl
    · refine .trans ?_ (modDie d rfl)
      exact modDie d rfl

theorem leasePairFault (d e : Nat) (code : Option Nat) (s : State) : s.RevokesOnly (s.leasePairFault d e code) := by
  unfold State.leasePairFault
  refine .trans (.trans ?_ (pairError ..)) (record ..)
  split
  · exact revokeLease ..
  · exact modDie d rfl

theorem revoke (d e : Nat) (code : Option Nat) (s : State) : s.RevokesOnly (s.revoke d e code) := by
  unfold State.revoke
  dsimp only
  split
  · exact leasePairFault ..
  · split
    · exact refl s
    · exact revokeLease ..

theorem revokeCore (c : Nat) (s : State) : s.RevokesOnly (s.revokeCore c) := foldl (fun _ _ => revoke ..) _ _

end State.RevokesOnly

/-! ### Reads and writes of the dispatchers -/

namespace State.MemOnly

variable {s t u : State}

theorem foldl {α : Type} {f : State → α → State} (h : ∀ (s : State) x, s.MemOnly (f s x)) (l : List α) (s : State) : s.MemOnly (l.foldl f s) := by
  induction l generalizing s with
  | nil => exact refl s
  | cons x l ih => exact (h s x).trans (ih _)

/-- A fold that carries a result beside the state. -/
theorem foldl_snd {α β : Type} {f : β × State → α → β × State} (h : ∀ (p : β × State) x, p.2.MemOnly (f p x).2) (l : List α) (p : β × State) :
    p.2.MemOnly (l.foldl f p).2 := by
  induction l generalizing p with
  | nil => exact refl p.2
  | cons x l ih => exact (h p x).trans (ih _)

theorem tileRows (a : Agent) (dla w : Nat) (s : State) : s.MemOnly (s.tileRows a dla w).2 := by
  unfold State.tileRows
  refine foldl_snd (fun p i => ?_) _ ([], s)
  exact (State.MemOnly.devRead (s' := p.2) ..).mpr (refl p.2)

theorem ownWriteMarked (src dla : Nat) (bs : List Byte) (p : Bool) (s : State) : s.MemOnly (s.ownWriteMarked src dla bs p) :=
  foldl (fun u _ => (State.MemOnly.ownWriteLine (s' := u) ..).mpr (refl u)) _ _

end State.MemOnly

end Sys2Proof.Machine
end

section
/-! The loader's stages: commit, unload and rewrite (R216 to R219). -/

namespace Sys2Proof.Machine

/-! ### What keeps a core in reach of the configuration engine -/

/-- No die or core goes into or out of reset or isolation. -/
structure State.ReachKept (s t : State) : Prop where
  die : ∀ d, (t.die d).isolated = (s.die d).isolated ∧ (t.die d).inReset = (s.die d).inReset
  core : ∀ c, (t.core c).inReset = (s.core c).inReset

namespace State.ReachKept

variable {s t u : State}

theorem refl (s : State) : s.ReachKept s := ⟨fun _ => ⟨rfl, rfl⟩, fun _ => rfl⟩
theorem trans (h : s.ReachKept t) (k : t.ReachKept u) : s.ReachKept u :=
  ⟨fun d => ⟨(k.die d).1.trans (h.die d).1, (k.die d).2.trans (h.die d).2⟩, fun c => (k.core c).trans (h.core c)⟩

theorem foldl {α : Type} {f : State → α → State} (h : ∀ (s : State) x, s.ReachKept (f s x)) (l : List α) (s : State) : s.ReachKept (l.foldl f s) := by
  induction l generalizing s with
  | nil => exact refl s
  | cons x l ih => exact (h s x).trans (ih _)

theorem reachable (h : s.ReachKept t) (c : Nat) : t.reachable c = s.reachable c := by
  rw [State.reachable, State.reachable, (h.die _).1, (h.die _).2, h.core c]

theorem modCore (c : Nat) {f : Core → Core} (hf : (f (s.core c)).inReset = (s.core c).inReset) : s.ReachKept (s.modCore c f) := by
  refine ⟨fun _ => ⟨rfl, rfl⟩, fun i => ?_⟩
  by_cases hi : i = c
  · rw [hi, State.core_modCore, hf]
  · rw [State.core_modCore_ne _ _ hi]

theorem of_revokes (h : s.RevokesOnly t) : s.ReachKept t where
  die d := by
    have hd := h.die d
    unfold Die.Revoked at hd
    rw [hd]
    exact ⟨rfl, rfl⟩
  core c := by rw [h.rest]; rfl

theorem modSlot (c t : Nat) (f : TaskSlot → TaskSlot) (s : State) : s.ReachKept (s.modSlot c t f) := modCore c rfl

theorem modSpd (c : Nat) (f : Spad → Spad) (s : State) : s.ReachKept (s.modSpd c f) := modCore c (f := Core.modSpd f) rfl

theorem stopSlot (c t : Nat) (restart : Bool) (s : State) : s.ReachKept (s.stopSlot c t restart) := by
  unfold State.stopSlot
  extract_lets held u
  have hu : s.ReachKept u := modCore c (by
    rw [Core.abandon]
    split <;> rfl)
  split
  · exact hu.trans (of_revokes (.revoke ..))
  · exact hu

theorem tsStop (c t : Nat) (s : State) : s.ReachKept (s.tsStop c t) := by
  unfold State.tsStop
  extract_lets ts inUnit
  split
  · exact modSlot ..
  · split
    · exact (stopSlot ..).trans (modSlot ..)
    · exact modSlot ..

theorem stopCores (cs : List Nat) (s : State) : s.ReachKept (s.stopCores cs) := foldl (fun _ _ => foldl (fun _ _ => tsStop ..) _ _) _ _

theorem requestBanks (st : Stream) (r : ClassRec) (c : Nat) (s : State) : s.ReachKept (s.requestBanks st r c) := by
  unfold State.requestBanks
  split
  · exact refl s
  · exact modSpd ..

end State.ReachKept

/-! ### What the writing of cores and layers leaves -/

/-- The handles, the cores that await a rewrite and the weight ranges stay. -/
structure State.LdrKept (s t : State) : Prop where
  handles : t.ldr.handles = s.ldr.handles
  rewrite : t.ldr.rewrite = s.ldr.rewrite
  ranges : t.plm.ranges = s.plm.ranges

namespace State.LdrKept

variable {s t u : State}

theorem refl (s : State) : s.LdrKept s := ⟨rfl, rfl, rfl⟩
theorem trans (h : s.LdrKept t) (k : t.LdrKept u) : s.LdrKept u :=
  ⟨k.handles.trans h.handles, k.rewrite.trans h.rewrite, k.ranges.trans h.ranges⟩

theorem foldl {α : Type} {f : State → α → State} (h : ∀ (s : State) x, s.LdrKept (f s x)) (l : List α) (s : State) : s.LdrKept (l.foldl f s) := by
  induction l generalizing s with
  | nil => exact refl s
  | cons x l ih => exact (h s x).trans (ih _)

/-- A fold that carries results beside the state. -/
theorem foldl_of {α σ : Type} {f : σ → α → σ} (g : σ → State) (h : ∀ p x, (g p).LdrKept (g (f p x))) (l : List α) (p : σ) :
    (g p).LdrKept (g (l.foldl f p)) := by
  induction l generalizing p with
  | nil => exact refl (g p)
  | cons x l ih => exact (h p x).trans (ih _)

theorem of_mem (h : s.MemOnly t) : s.LdrKept t where
  handles := by rw [h.ldr]
  rewrite := by rw [h.ldr]
  ranges := by
    have hp := h.plm
    unfold Plm.Same at hp
    rw [hp]

theorem of_answers (h : s.AnswersOnly t) : s.LdrKept t where
  handles := by rw [h.ldr]
  rewrite := by rw [h.ldr]
  ranges := by
    have hp := h.plm
    unfold Plm.Same at hp
    rw [hp]

theorem of_spd (h : s.SpdOnly t) : s.LdrKept t := by
  constructor <;> rw [h.rest]

theorem of_revokes (h : s.RevokesOnly t) : s.LdrKept t := by
  constructor <;> rw [h.rest]

theorem preload (c : Nat) (s : State) (p : PartRec) : s.LdrKept (s.preload c p) := by
  unfold State.preload
  refine foldl (fun u i => ?_) _ _
  have hread := of_mem ((State.MemOnly.readLine (s' := u) .hub (p.preload + 32 * i) 32 (0 < i && decide ((p.preload + 32 * i) % 64 = 32))).mpr (.refl u))
  exact hread.trans (of_spd (State.SpdOnly.spdWrite ..))

theorem fillData (c : Nat) (q : CoreRecs) (pre : List PartRec) (s : State) : s.LdrKept (s.fillData c q pre) := by
  unfold State.fillData
  extract_lets s1 s2
  have h1 : s.LdrKept s1 := foldl (preload c) pre s
  have h2 : s1.LdrKept s2 := foldl (fun _ _ => of_spd (State.SpdOnly.spdWrites ..)) _ _
  refine (h1.trans h2).trans (.trans ?_ (of_spd (State.SpdOnly.modSpd ..)))
  exact foldl (fun _ _ => of_spd (State.SpdOnly.spdWrites ..)) _ _

theorem writeCore (st : Stream) (r : ClassRec) (c : Nat) (s : State) : s.LdrKept (s.writeCore st r c) := by
  unfold State.writeCore
  extract_lets q pre u
  have hu : s.LdrKept u := ⟨rfl, rfl, rfl⟩
  split
  · exact hu.trans (fillData ..)
  · exact hu.trans (of_spd (State.SpdOnly.modSpd ..))

theorem writeCores (st : Stream) (cs : List Nat) (s : State) :
    s.LdrKept (cs.foldl (fun (s : State) c => match st.classOf c with | some r => s.writeCore st r c | none => s) s) :=
  foldl (fun u c => by
    split
    · exact writeCore ..
    · exact refl u) _ _

theorem prepSlice (d : Nat) (l : LayerRec) (q : SlotCfg) (j i : Nat) (s : State) : s.LdrKept (s.prepSlice d l q j i).2 := by
  unfold State.prepSlice
  have h1 := of_mem (State.MemOnly.tileRows (.die d) (l.denseTile q j (2 * i)) q.bw s)
  generalize s.tileRows (.die d) (l.denseTile q j (2 * i)) q.bw = r at h1 ⊢
  obtain ⟨lo, s1⟩ := r
  extract_lets lim
  have hcopy (b : Bool) (rows : List (Nat × TileRow × TileRow)) (f : State → Nat × TileRow × TileRow → State) (v : State)
      (hf : ∀ u x, State.LdrKept u (f u x)) : v.LdrKept (if b = true then rows.foldl f v else v) := by
    split
    · exact foldl hf _ _
    · exact refl v
  by_cases hc : 512 * i + 256 < l.depth
  · simp only [if_pos hc]
    have h2 := of_mem (State.MemOnly.tileRows (.die d) (l.denseTile q j (2 * i + 1)) q.bw s1)
    exact (h1.trans h2).trans (hcopy _ _ _ _ fun _ _ => of_mem (State.MemOnly.ownWriteMarked ..))
  · simp only [if_neg hc]
    exact h1.trans (hcopy _ _ _ _ fun _ _ => of_mem (State.MemOnly.ownWriteMarked ..))

theorem takeCensus (h d : Nat) (l : LayerRec) (q : SlotCfg) (s : State) : s.LdrKept (s.takeCensus h d l q) := by
  unfold State.takeCensus
  refine .trans ?_ (foldl (fun v j => ?_) _ _)
  · exact ⟨rfl, rfl, rfl⟩
  · have h : v.LdrKept ((List.range (ceilDiv l.depth 512)).foldl (fun (a : (Nat × Nat × Bool) × State) i =>
        let ((z, p, ok), s) := a.2.prepSlice d l q j i
        ((a.1.1 + z, a.1.2.1 + p, a.1.2.2 && ok), s)) ((0, 0, true), v)).2 := by
      refine foldl_of (fun p : (Nat × Nat × Bool) × State => p.2) (fun p i => ?_) (List.range (ceilDiv l.depth 512)) ((0, 0, true), v)
      have hslice := prepSlice d l q j i p.2
      dsimp only
      generalize p.2.prepSlice d l q j i = r at hslice ⊢
      exact hslice
    exact h.trans ⟨rfl, rfl, rfl⟩

theorem writeTransposes (a : Agent) (src : Nat) (l : LayerRec) (q : SlotCfg) (packed bad : Bool) (s : State) :
    s.LdrKept (s.writeTransposes a src l q packed bad) := by
  unfold State.writeTransposes
  have h : s.LdrKept (s.heldWeights a l q).2.2 := by
    unfold State.heldWeights
    extract_lets w
    refine foldl_of (fun p : List (List Int) × Bool × State => p.2.2) (fun p n => ?_) (List.range l.nout) ([], false, s)
    refine foldl_of (fun p : List Int × Bool × State => p.2.2) (fun x i => ?_) (List.range (ceilDiv l.depth l.slicePos)) ([], p.2.1, p.2.2)
    exact of_mem ((State.MemOnly.devRead (s' := x.2.2) ..).mpr (.refl _))
  exact h.trans (of_mem (State.MemOnly.ownWriteMarked ..))

theorem testMask (h d : Nat) (l : LayerRec) (q : SlotCfg) (s : State) : s.LdrKept (s.testMask h d l q) := by
  unfold State.testMask
  have hread := of_mem ((State.MemOnly.devRead (s' := s) (.die d) l.mask (ceilDiv (l.nout * l.depth) 8)).mpr (.refl s))
  generalize s.devRead (.die d) l.mask (ceilDiv (l.nout * l.depth) 8) = r at hread ⊢
  obtain ⟨m, bad, u⟩ := r
  have hldr (x : Loader) (hx : x.handles = u.ldr.handles ∧ x.rewrite = u.ldr.rewrite) : s.LdrKept { u with ldr := x } := hread.trans ⟨hx.1, hx.2, rfl⟩
  dsimp only
  split
  · refine .trans ?_ (writeTransposes ..)
    exact hldr _ ⟨rfl, rfl⟩
  · exact hldr _ ⟨rfl, rfl⟩

theorem prepLayer (h : Nat) (st : Stream) (s : State) (l : LayerRec) : s.LdrKept (s.prepLayer h st l) := by
  unfold State.prepLayer
  split
  · exact refl s
  next r hr =>
    extract_lets q u
    have hu : s.LdrKept u := iteInduction (motive := fun u : State => s.LdrKept u) (fun _ => takeCensus ..) fun _ => refl s
    split
    · exact hu.trans (testMask ..)
    · exact hu

theorem releaseCores (cs : List Nat) (s : State) : s.LdrKept (s.releaseCores cs) := by
  unfold State.releaseCores
  refine foldl (fun u c => ?_) _ _
  split
  · exact refl u
  · exact of_spd (State.SpdOnly.modSpd ..)

theorem modCore (c : Nat) (f : Core → Core) (s : State) : s.LdrKept (s.modCore c f) := ⟨rfl, rfl, rfl⟩

theorem stopSlot (c t : Nat) (restart : Bool) (s : State) : s.LdrKept (s.stopSlot c t restart) := by
  unfold State.stopSlot
  extract_lets held u
  have hu : s.LdrKept u := modCore ..
  split
  · exact hu.trans (of_revokes (.revoke ..))
  · exact hu

theorem tsStop (c t : Nat) (s : State) : s.LdrKept (s.tsStop c t) := by
  unfold State.tsStop
  extract_lets ts inUnit
  split
  · exact modCore ..
  · split
    · exact (stopSlot ..).trans (modCore ..)
    · exact modCore ..

theorem stopCores (cs : List Nat) (s : State) : s.LdrKept (s.stopCores cs) := foldl (fun _ _ => foldl (fun _ _ => tsStop ..) _ _) _ _

theorem requestBanks (st : Stream) (r : ClassRec) (c : Nat) (s : State) : s.LdrKept (s.requestBanks st r c) := by
  unfold State.requestBanks
  split
  · exact refl s
  · exact modCore ..

end State.LdrKept

/-! ### The end of a request -/

/-- The end of a request leaves what each handle holds. -/
theorem State.handle_ldrEnd (slot : Nat) (r : List Byte) (f : LdrFail) (h : Nat) (s : State) :
    ((s.ldrEnd slot r f).handle h).st = (s.handle h).st ∧ ((s.ldrEnd slot r f).handle h).stream = (s.handle h).stream ∧
      ((s.ldrEnd slot r f).handle h).ident = (s.handle h).ident := by
  have hans (a : Ans) (u : State) : (u.answer a).handle h = u.handle h := by rw [State.handle, (State.answersOnly_answer a u).ldr, State.handle]
  unfold State.ldrEnd State.ctrlAnswer
  extract_lets k u x v
  rw [hans]
  have hv : v.handle h = u.handle h := by
    show Tab.get {} v.ldr.handles h = Tab.get {} u.ldr.handles h
    dsimp only [v]
    split <;> rfl
  rw [hv]
  by_cases hk : h = k
  · rw [hk]
    dsimp only [u]
    rw [State.handle_modHandle]
    exact ⟨rfl, rfl, rfl⟩
  · dsimp only [u]
    rw [State.handle, State.modHandle, Tab.get_insert_ne _ _ _ hk, ← State.handle]
    exact ⟨rfl, rfl, rfl⟩

theorem State.ldrEnd_fields (slot : Nat) (r : List Byte) (f : LdrFail) (s : State) :
    (s.ldrEnd slot r f).ldr.rewrite = s.ldr.rewrite ∧ (s.ldrEnd slot r f).plm.ranges = s.plm.ranges ∧ ∀ n, (s.ldrEnd slot r f).ent n = s.ent n := by
  unfold State.ldrEnd State.ctrlAnswer
  extract_lets k u x v
  obtain ⟨hrw, hra, hent⟩ : v.ldr.rewrite = s.ldr.rewrite ∧ v.plm.ranges = s.plm.ranges ∧ ∀ n, v.ent n = s.ent n := by
    dsimp only [v]
    split <;> exact ⟨rfl, rfl, fun _ => rfl⟩
  generalize Ans.mk .. = a
  have h := State.LdrKept.of_answers (State.answersOnly_answer a v)
  exact ⟨h.rewrite.trans hrw, h.ranges.trans hra, fun n => (State.ent_answer a n v).trans (hent n)⟩

/-! ### The stages -/

/-- The cores of the stream that a handle holds. -/
def State.heldCores (s : State) (h : Nat) : List Nat := match (s.handle h).stream with | some o => o.cores | none => []

/-- A commit gives the handle its stream, registers its weights, and leaves the cores out of reach to a rewrite. -/
theorem State.commitStream_fields (h : Nat) (st : Stream) (s : State) :
    ((s.commitStream h st).handle h).st = .loaded ∧ ((s.commitStream h st).handle h).stream = some st ∧
      ((s.commitStream h st).handle h).ident = st.ident ∧
      (s.commitStream h st).ldr.rewrite = ((s.ldr.rewrite.filter fun c => !(c ∈ st.cores ++ s.heldCores h)) ++
        st.cores.filter fun c => !(c ∈ st.cores.filter s.reachable)) ∧
      ∀ l ∈ st.layers, ∀ w, st.weightRange h l = some w → w ∈ (s.commitStream h st).plm.ranges := by
  unfold State.commitStream
  extract_lets old mine s1 ldr s2 s3 s4 x
  obtain ⟨hst, hstream, hident⟩ := State.handle_ldrEnd x.ctrlSlot x.ctrlRec ⟨0, 0, 0xFFFFFFFF⟩ h
    (s4.record 0x0040 4 (b8 h ++ b8 0 ++ b8 0 ++ b8 0 ++ leBytes 8 st.ident ++ leBytes 8 st.keyId) 0xFF 0x11)
  obtain ⟨hrw, hra, -⟩ := State.ldrEnd_fields x.ctrlSlot x.ctrlRec ⟨0, 0, 0xFFFFFFFF⟩
    (s4.record 0x0040 4 (b8 h ++ b8 0 ++ b8 0 ++ b8 0 ++ leBytes 8 st.ident ++ leBytes 8 st.keyId) 0xFF 0x11)
  have hhandle : (s4.record 0x0040 4 (b8 h ++ b8 0 ++ b8 0 ++ b8 0 ++ leBytes 8 st.ident ++ leBytes 8 st.keyId) 0xFF 0x11).handle h = s4.handle h := rfl
  have h4 : s4.handle h = { s3.handle h with
      st := .loaded, stream := some st, ident := st.ident, groups := st.groups, frames := st.frames, signed := st.signed, key := st.keyId } :=
    State.handle_modHandle ..
  have h1 : s.LdrKept s1 := .writeCores ..
  have h3 : ((s2.registerRanges h st).idleCtrs h).LdrKept s3 := .trans (.foldl (fun _ _ => .prepLayer ..) _ _) (.releaseCores ..)
  refine ⟨?_, ?_, ?_, ?_, fun l hl w hw => ?_⟩
  · rw [hst, hhandle, h4]
  · rw [hstream, hhandle, h4]
  · rw [hident, hhandle, h4]
  · refine hrw.trans (h3.rewrite.trans ?_)
    show List.filter _ s1.ldr.rewrite ++ _ = _
    rw [h1.rewrite]
    rfl
  · rw [hra]
    show w ∈ s3.plm.ranges
    rw [h3.ranges]
    exact List.mem_append_right _ (List.mem_filterMap.mpr ⟨l, hl, hw⟩)

/-- What a commit leaves, in the terms of the state in which its cores were stopped. -/
theorem State.commitStream_kept {s u : State} (hldr : s.LdrKept u) (hreach : s.ReachKept u) (h : Nat) (st : Stream) :
    ((u.commitStream h st).handle h).st = .loaded ∧ ((u.commitStream h st).handle h).stream = some st ∧
      ((u.commitStream h st).handle h).ident = st.ident ∧
      (∀ c, c ∈ (u.commitStream h st).ldr.rewrite ↔
        (c ∈ s.ldr.rewrite ∧ c ∉ st.cores ∧ c ∉ s.heldCores h) ∨ (c ∈ st.cores ∧ s.reachable c = false)) ∧
      ∀ l ∈ st.layers, ∀ w, st.weightRange h l = some w → w ∈ (u.commitStream h st).plm.ranges := by
  obtain ⟨hst, hstream, hident, hrw, hranges⟩ := State.commitStream_fields h st u
  have hheld : u.heldCores h = s.heldCores h := by rw [State.heldCores, State.heldCores, State.handle, hldr.handles, ← State.handle]
  refine ⟨hst, hstream, hident, fun c => ?_, hranges⟩
  rw [hrw, hheld, hldr.rewrite, List.mem_append, List.mem_filter, List.mem_filter]
  simp only [Bool.not_eq_true', decide_eq_false_iff_not, List.mem_append, not_or, List.mem_filter, hreach.reachable, not_and, Bool.not_eq_true]
  exact or_congr_right (and_congr_right fun hc => ⟨fun k => k hc, fun k _ => k⟩)

/-- A rewrite of one core asks for its banks. -/
theorem State.foldl_classOf_eq {st : Stream} {c : Nat} {r : ClassRec} (h : st.classOf c = some r) (f : ClassRec → Nat → State → State) (s : State) :
    [c].foldl (fun (s : State) c => match st.classOf c with | some r => f r c s | none => s) s = f r c s := by
  rw [List.foldl_cons, List.foldl_nil, h]

/-- A stream's entry once its handle is unloaded. -/
def StreamEnt.unloaded (h : Nat) (x : StreamEnt) : StreamEnt := if x.handle = h ∧ x.st ≠ .closed then { seq := x.seq } else x

theorem StreamEnt.st_unloaded {h : Nat} {x : StreamEnt} (hx : (x.unloaded h).handle = h) : (x.unloaded h).st = .closed := by
  unfold StreamEnt.unloaded at *
  split at hx
  next hc => rw [if_pos hc]
  next hc =>
    rw [if_neg hc]
    exact not_not.mp fun hst => hc ⟨hx, hst⟩

theorem State.ent_unloaded (h n : Nat) (s : State) : Tab.get {} (s.est.table.map fun (e : Nat × StreamEnt) =>
    if e.2.handle = h ∧ e.2.st ≠ StreamSt.closed then (e.1, ({ seq := e.2.seq } : StreamEnt)) else e) n = (s.ent n).unloaded h := by
  have hmap : (s.est.table.map fun (e : Nat × StreamEnt) =>
      if e.2.handle = h ∧ e.2.st ≠ StreamSt.closed then (e.1, ({ seq := e.2.seq } : StreamEnt)) else e) =
      s.est.table.map fun e => (e.1, e.2.unloaded h) := by
    refine List.map_congr_left fun e _ => ?_
    unfold StreamEnt.unloaded
    split <;> rfl
  have hnew : StreamEnt.unloaded h {} = {} := by
    unfold StreamEnt.unloaded
    split <;> rfl
  have hget := Tab.get_map (StreamEnt.unloaded h) {} s.est.table n
  rw [hnew] at hget
  rw [hmap, hget]
  rfl

/-- Settles O23: a commit, an unload and a rewrite of one core. -/
theorem loaderStages : Obligations.LoaderStages := by
  unfold Obligations.LoaderStages
  intro h s
  refine ⟨fun st hnext hsteps hup => ?_, fun st hst hunl hsteps hup => ?_, fun st c hst hc hreach hrw r hr => ?_, fun c hc => ?_⟩
  · have hexec : exec (.loaderCommit h) s = execLoaderCommit h s := rfl
    rw [hexec, execLoaderCommit, hnext]
    dsimp only
    intro hlines hready hranges hprep
    rw [if_neg (by rw [hsteps, hup]; decide)]
    erw [hlines]
    dsimp only
    erw [hready, hranges, hprep]
    rw [Bool.and_self, Bool.and_self, if_pos rfl]
    refine ⟨_, rfl, ?_⟩
    refine State.commitStream_kept (.trans (.stopCores ..) (.foldl (fun u c => ?_) _ _)) (.trans (.stopCores ..) (.foldl (fun u c => ?_) _ _)) h st
    · split
      · exact .requestBanks ..
      · exact .refl u
    · split
      · exact .requestBanks ..
      · exact .refl u
  · have hexec : exec (.unloadComplete h) s = execUnloadComplete h s := rfl
    rw [hexec, execUnloadComplete]
    dsimp only
    rw [hst]
    dsimp only
    rw [if_neg (by rw [hunl, hsteps, hup]; decide)]
    refine ⟨_, rfl, ?_⟩
    generalize State.idleCtrs _ _ = v
    generalize hw : State.modHandle _ _ _ = w
    obtain ⟨hend, hstream, -⟩ := State.handle_ldrEnd (s.handle h).ctrlSlot (s.handle h).ctrlRec ⟨0, 0, 0xFFFFFFFF⟩ h w
    obtain ⟨-, hranges, hent⟩ := State.ldrEnd_fields (s.handle h).ctrlSlot (s.handle h).ctrlRec ⟨0, 0, 0xFFFFFFFF⟩ w
    have hhandle : (w.handle h).st = .empty ∧ (w.handle h).stream = none := by
      rw [← hw, State.handle_modHandle]
      exact ⟨rfl, rfl⟩
    have hclosed (n : Nat) : w.ent n = (v.ent n).unloaded h := by
      rw [← hw]
      exact State.ent_unloaded ..
    refine ⟨hend.trans hhandle.1, hstream.trans hhandle.2, fun n hn => ?_, fun x hx => ?_⟩
    · rw [hent, hclosed] at hn ⊢
      exact StreamEnt.st_unloaded hn
    · rw [hranges, ← hw] at hx
      exact of_decide_eq_true (List.mem_filter.mp hx).2
  · have hexec : exec (.streamRewrite h (.core c)) s = execStreamRewrite h (.core c) s := rfl
    rw [hexec, execStreamRewrite, hst]
    dsimp only
    intro hlines hranges hready
    have hmine : [c.val].filter (fun c => decide (c ∈ st.cores) && decide (c ∈ s.ldr.rewrite) && s.reachable c) = [c.val] := by
      rw [List.filter_cons_of_pos (by simp [hc, hrw, hreach]), List.filter_nil]
    simp only [hmine, List.foldl_cons, List.foldl_nil, List.flatMap_cons, List.flatMap_nil, List.append_nil, hr, hlines]
    rw [if_neg (by simp [hready, hranges])]
    simp
  · have hexec : exec (.streamRewrite h (.core c)) s = execStreamRewrite h (.core c) s := rfl
    rw [hexec, execStreamRewrite]
    cases hst : (s.handle h).stream with
    | none => rfl
    | some st =>
      dsimp only
      have hmine : [c.val].filter (fun c => decide (c ∈ st.cores) && decide (c ∈ s.ldr.rewrite) && s.reachable c) = [] := by
        rw [List.filter_cons_of_neg (by simp [hc]), List.filter_nil]
      simp only [hmine]
      rfl

end Sys2Proof.Machine
end

section
/-! Host accesses of device memory (R283, R286, R347, R348, R351). -/

namespace Sys2Proof.Machine

/-! ### Pages and lines of an address -/

theorem lineOf_mul (l : Nat) : lineOf (64 * l) = l := by
  rw [lineOf, Nat.shiftRight_eq_div_pow]
  omega
theorem pageOf_mul_lineOf (a : Nat) : pageOf (64 * lineOf a) = pageOf a := by
  simp only [pageOf, lineOf, Nat.shiftRight_eq_div_pow]
  omega

/-- A page's entry and whether it is pinned go with the map. -/
theorem State.pinned_congr {s t : State} (h : s.plm.Same t.plm) (p : Nat) : t.pinned p = s.pinned p := by
  unfold Plm.Same at h
  rw [State.pinned, State.hdmPages, h]
  rfl

theorem State.page_of_lookup {s : State} {p : Nat} {e : PageEnt} (h : s.plm.map.lookup p = some e) : s.page p = e := by rw [State.page, h]

theorem Tab.get_eq_lookup {α : Type} (d : α) (t : Tab α) (k : Nat) : Tab.get d t k = (t.lookup k).getD d := by
  induction t with
  | nil => rfl
  | cons x t ih =>
    obtain ⟨j, v⟩ := x
    rw [Tab.get, List.lookup_cons]
    by_cases h : j = k
    · rw [if_pos h, h, beq_self_eq_true]
      rfl
    · rw [if_neg h, ih, beq_false_of_ne fun hk => h hk.symm]

/-- A page that is not pinned has the entry that the map lists, or none. -/
theorem State.page_of_not_pinned {s : State} {p : Nat} (h : s.pinned p = false) : s.page p = Tab.get {} s.plm.map p := by
  rw [Tab.get_eq_lookup]
  unfold State.page
  cases s.plm.map.lookup p with
  | some e => rfl
  | none => simp only [h, Bool.false_eq_true, if_false, Option.getD_none]

theorem State.page_congr {s t : State} {p : Nat} (hmap : t.plm.map = s.plm.map) (hpin : t.pinned p = false) (hs : s.pinned p = false) :
    t.page p = s.page p := by
  rw [State.page_of_not_pinned hpin, State.page_of_not_pinned hs, hmap]

/-! ### What leaves the map alone -/

@[simp] theorem State.countLine_map (s : State) (i : Nat) (w : Bool) : (s.countLine i w).plm.map = s.plm.map := rfl
@[simp] theorem State.mendLine_map (s : State) (i p l : Nat) : (s.mendLine i p l).plm.map = s.plm.map := rfl
@[simp] theorem State.meetLine_map (s : State) (i p l : Nat) : (s.meetLine i p l).2.plm.map = s.plm.map := by
  unfold State.meetLine
  split <;> rfl
@[simp] theorem State.tableLine_map (s : State) (dla : Nat) (w h : Bool) : (s.tableLine dla w h).2.plm.map = s.plm.map := by
  unfold State.tableLine
  dsimp only
  split
  · rfl
  · cases w <;> cases h <;> simp

/-- A page's new entry is in the map. -/
theorem State.get_map_putPage (s : State) (p : Nat) (e : PageEnt) (h : s.pinned p = false) : Tab.get {} (s.putPage p e).plm.map p = e := by
  unfold State.putPage State.writePageEntry
  split
  next heq => rw [← State.page_of_not_pinned h, heq]
  · rw [State.tableLine_map]
    exact Tab.get_set_self ..

/-! ### Look-ups -/

theorem State.mapDiscard_good {s : State} {p : Nat} (hgood : CacheUpset.map p ∉ s.tmk.cacheBad) : s.mapDiscard p = s := if_neg fun h => hgood h.1
theorem State.mapFetch_cached {s : State} {p : Nat} (hc : p ∈ s.plm.cache) : s.mapFetch p = s := if_pos hc

theorem State.hubLookup_cached {s : State} {p : Nat} (hc : p ∈ s.plm.cache) (hgood : CacheUpset.map p ∉ s.tmk.cacheBad) :
    s.hubLookup p = { s with plm := { s.plm with cache := cacheTouch 8192 p s.plm.cache } } := by
  rw [State.hubLookup, State.mapDiscard_good hgood, State.mapFetch_cached hc]

/-- A page that is lost stays so while its entry is read. -/
theorem State.lost_hubLookup {s : State} {p : Nat} (hpin : s.pinned p = false) (h : (s.page p).st = .lost) : ((s.hubLookup p).page p).st = .lost := by
  have hread (t : State) (ht : t.pinned p = false) (hl : (Tab.get {} t.plm.map p).st = .lost) : (Tab.get {} (t.readEntry p).plm.map p).st = .lost := by
    have hlose (u : State) (hu : u.pinned p = false) : (Tab.get {} (u.loseEntry p).plm.map p).st = .lost := by
      unfold State.loseEntry
      exact congrArg PageEnt.st (State.get_map_putPage u p _ hu)
    have htable := State.tableLine_map t (t.entryDla p) false false
    have hpinned : (t.tableLine (t.entryDla p) false false).2.pinned p = false := by
      rw [State.pinned_congr ((State.MemOnly.tableLine ..).mpr (.refl t)).plm, ht]
    unfold State.readEntry
    dsimp only
    split
    · split
      · exact hlose _ hpinned
      · rw [htable]
        exact hl
    · rw [if_pos (by rw [State.page_of_not_pinned ht]; exact hl)]
      exact hl
    · exact hl
  have hmem := (State.MemOnly.hubLookup p).mpr (.refl s)
  rw [State.page_of_not_pinned hpin] at h
  rw [State.page_of_not_pinned (by rw [State.pinned_congr hmem.plm, hpin])]
  have hdiscard : (s.mapDiscard p).plm.map = s.plm.map ∧ (s.mapDiscard p).pinned p = false := by
    unfold State.mapDiscard
    split
    · exact ⟨rfl, hpin⟩
    · exact ⟨rfl, hpin⟩
  unfold State.hubLookup
  dsimp only
  generalize s.mapDiscard p = t at hdiscard ⊢
  rw [← hdiscard.1] at h
  unfold State.mapFetch
  split
  · exact h
  · exact hread { t with plm := { t.plm with cacheMiss := satInc t.plm.cacheMiss } } hdiscard.2 h

/-! ### Reads -/

theorem State.meetLine_fst (s : State) (i p l : Nat) : (s.meetLine i p l).1 = decide (meets ((s.chanAt i).errAt p l) = .uncorrectable) := by
  unfold State.meetLine
  split
  next h => rw [h]; rfl
  next h => rw [h]; rfl
  next h => rw [h]; rfl

theorem State.errAt_countLine (s : State) (i j p l : Nat) (w : Bool) : ((s.countLine i w).chanAt j).errAt p l = (s.chanAt j).errAt p l := by
  rw [Chan.errAt, (State.countLine_same s i w).damage j, Chan.errAt]

/-- The pages that hold bytes. -/
def PageSt.home (x : PageSt) : Prop := x = .mapped ∨ x = .moving

/-- The host's read of a line of a page that has a home: its bytes, its mark and whether its line is uncorrectable. -/
theorem State.readLine_home {s t : State} {dla n : Nat} (ht : s.translate .host (pageOf dla) false = t) (h : (t.page (pageOf dla)).st.home) :
    (s.readLine .host dla n).1 = t.plm.bytes dla n ∧
    (s.readLine .host dla n).2.1 = (Tab.get false t.plm.poison (lineOf dla) ||
      decide (meets ((t.chanAt (4 * (t.page (pageOf dla)).die + (t.page (pageOf dla)).chan)).errAt (t.page (pageOf dla)).ppn (lineOf dla % 512)) =
        .uncorrectable)) := by
  unfold State.readLine
  simp only [Bool.false_eq_true, if_false, ht]
  split
  next hst => rcases h with h | h <;> rw [h] at hst <;> cases hst
  next hst => rcases h with h | h <;> rw [h] at hst <;> cases hst
  · refine ⟨rfl, ?_⟩
    rw [State.meetLine_fst, State.errAt_countLine]
    rfl

theorem State.readLine_lost {s t : State} {dla n : Nat} (ht : s.translate .host (pageOf dla) false = t) (h : (t.page (pageOf dla)).st = .lost) :
    s.readLine .host dla n = (List.replicate n 0, true, t) := by
  unfold State.readLine
  simp only [Bool.false_eq_true, if_false, ht, h]

theorem State.readLine_unmapped {s t : State} {dla n : Nat} (ht : s.translate .host (pageOf dla) false = t) (h : (t.page (pageOf dla)).st = .unmapped) :
    s.readLine .host dla n = (List.replicate n 0, false, t) := by
  unfold State.readLine
  simp only [Bool.false_eq_true, if_false, ht, h]

/-! ### Writes -/

/-- An index that a filter keeps reads as before. -/
theorem Tab.get_filter_of_kept {α : Type} (d : α) (t : Tab α) (p : Nat × α → Bool) {k : Nat} (h : ∀ v, p (k, v) = true) :
    Tab.get d (t.filter p) k = Tab.get d t k := by
  induction t with
  | nil => rfl
  | cons x t ih =>
    obtain ⟨j, v⟩ := x
    by_cases hj : j = k
    · rw [List.filter_cons_of_pos (by rw [hj]; exact h v), Tab.get, Tab.get, if_pos hj, if_pos hj]
    · by_cases hx : p (j, v) = true
      · rw [List.filter_cons_of_pos hx, Tab.get, Tab.get, if_neg hj, if_neg hj, ih]
      · rw [List.filter_cons_of_neg hx, ih, Tab.get, if_neg hj]

theorem Plm.byte_congr {m n : Plm} (h : n.mem = m.mem) (a : Nat) : n.byte a = m.byte a := by rw [Plm.byte, Plm.byte, h]

theorem Plm.byte_erasePage (m : Plm) {p a : Nat} (h : pageOf a ≠ p) : (m.erasePage p).byte a = m.byte a :=
  Tab.get_filter_of_kept 0 m.mem _ fun _ => decide_eq_true h

/-- Bytes of a line lie in one page. -/
theorem pageOf_in_line {dla a n : Nat} (hn : n ≤ 64 - dla % 64) (ha : dla ≤ a) (hlt : a < dla + n) : pageOf a = pageOf dla := by
  simp only [pageOf, Nat.shiftRight_eq_div_pow]
  omega

/-- A byte that lands in a line changes no other page. -/
theorem State.byte_landLine_ne (s : State) {dla a : Nat} {bs : List Byte} (p : Bool) (hn : bs.length ≤ 64 - dla % 64) (ha : pageOf a ≠ pageOf dla) :
    (s.landLine dla bs p).plm.byte a = s.plm.byte a := by
  rw [Plm.byte, State.landLine_mem, get_putMem, if_neg fun h => ha (pageOf_in_line hn h.1 h.2), Plm.byte]

/-- A write into one line changes no other page. -/
theorem State.byte_writeLine_ne (s : State) (g : Agent) {dla a : Nat} {bs : List Byte} (p : Bool) (hn : bs.length ≤ 64 - dla % 64)
    (ha : pageOf a ≠ pageOf dla) : (s.writeLine g dla bs p).plm.byte a = s.plm.byte a := by
  have hhome (u : State) (e : PageEnt) (hu : u.plm.byte a = s.plm.byte a) :
      (let v := (u.putPage (pageOf dla) e).landLine dla bs p
       v.meetReserve v.plm.replicas.length).plm.byte a = s.plm.byte a := by
    dsimp only
    rw [Plm.byte_congr (State.meetReserve_mem ..), State.byte_landLine_ne _ p hn ha, Plm.byte_congr (State.putPage_mem ..), hu]
  unfold State.writeLine
  extract_lets q t e home
  have ht : t.plm.byte a = s.plm.byte a := Plm.byte_congr (State.translate_mem ..) a
  split
  · exact (State.byte_landLine_ne t p hn ha).trans ht
  · exact (State.byte_landLine_ne t p hn ha).trans ht
  · split
    next i ppn u hu =>
      refine hhome { u with plm := u.plm.erasePage q } _ ?_
      exact (Plm.byte_erasePage u.plm ha).trans ((Plm.byte_congr (State.allocate_mem hu) a).trans ht)
    · exact (Plm.byte_congr (State.putPage_mem t q { st := .lost }) a).trans ht
  · split
    next i ppn u hu =>
      refine hhome { u with plm := (u.plm.erasePage q).poisonPage q } _ ?_
      refine (Plm.byte_congr (Plm.poisonPage_mem ..) a).trans ?_
      exact (Plm.byte_erasePage u.plm ha).trans ((Plm.byte_congr (State.allocate_mem hu) a).trans ht)
    · exact ht

/-- A write into a line of a page that has a home stores its bytes. -/
theorem State.mem_writeLine_home {s t : State} {g : Agent} {dla : Nat} (bs : List Byte) (p : Bool) (ht : s.translate g (pageOf dla) true = t)
    (h : (t.page (pageOf dla)).st.home) : (s.writeLine g dla bs p).plm.mem = putMem s.plm.mem dla bs := by
  have hland : (t.landLine dla bs p).plm.mem = putMem s.plm.mem dla bs := by rw [State.landLine_mem, ← ht, State.translate_mem]
  unfold State.writeLine
  dsimp only
  rw [ht]
  rcases h with h | h <;> rw [h] <;> exact hland

/-! ### Host requests -/

@[simp] theorem State.plm_touch (r : SlotRef) (s : State) : (s.touch r).plm = s.plm := by
  unfold State.touch
  split
  · rfl
  · dsimp only
    repeat' split
    all_goals rfl

@[simp] theorem State.plm_estSees (dla n : Nat) (s : State) : (s.estSees dla n).plm = s.plm := by
  unfold State.estSees
  split
  · rfl
  · split
    · rfl
    · dsimp only
      split
      · split <;> rfl
      · split
        · exact State.plm_touch ..
        · rfl

theorem State.owned_fields (dla : Nat) (copy : HostCopy) (s : State) :
    (s.owned dla copy).plm = s.plm ∧ (s.owned dla copy).tmk = s.tmk ∧ (s.owned dla copy).out = s.out := by
  unfold State.owned
  split <;> exact ⟨rfl, rfl, rfl⟩

/-- The errors that a host access brings into a line's home copy change nothing but that copy's errors. -/
theorem State.spoilLine_fields (dla : Nat) (err : DdrErr) (s : State) :
    s.plm.Same (s.spoilLine dla err).plm ∧ (s.spoilLine dla err).plm.mem = s.plm.mem ∧ (s.spoilLine dla err).plm.map = s.plm.map ∧
      (s.spoilLine dla err).plm.poison = s.plm.poison ∧ (s.spoilLine dla err).plm.cache = s.plm.cache ∧
      (s.spoilLine dla err).tmk = s.tmk := by
  unfold State.spoilLine
  dsimp only
  split <;> exact ⟨rfl, rfl, rfl, rfl, rfl, rfl⟩

theorem State.spoilLine_none (dla : Nat) (s : State) : s.spoilLine dla {} = s := by
  unfold State.spoilLine
  exact if_pos (Or.inl rfl)

theorem State.spoilLine_of_not_home {dla : Nat} {s : State} (h : ¬(s.page (pageOf dla)).st.home) (err : DdrErr) : s.spoilLine dla err = s :=
  if_pos (.inr ⟨fun hm => h (.inl hm), fun hm => h (.inr hm)⟩)

theorem DdrErr.join_none (e : DdrErr) : DdrErr.join {} e = e := by
  obtain ⟨a, b, c, d⟩ := e
  simp only [DdrErr.join, CwErr.join]

/-- The errors of a line after a host access of a calm state brought its own. -/
theorem State.errAt_spoilLine {s : State} {dla : Nat} (calm : s.Calm) (h : (s.page (pageOf dla)).st.home) (err : DdrErr) :
    ((s.spoilLine dla err).chanAt (4 * (s.page (pageOf dla)).die + (s.page (pageOf dla)).chan)).errAt (s.page (pageOf dla)).ppn (lineOf dla % 512) = err := by
  by_cases he : err = {}
  · rw [he, State.spoilLine_none, Chan.errAt, calm.sound]
    rfl
  · have hgo : ¬(err = {} ∨ ((s.page (pageOf dla)).st ≠ .mapped ∧ (s.page (pageOf dla)).st ≠ .moving)) := by
      rintro (h1 | ⟨h1, h2⟩)
      · exact he h1
      · exact h.elim h1 h2
    unfold State.spoilLine
    dsimp only
    rw [if_neg hgo, State.spoil]
    dsimp only
    rw [State.chanAt_setChan, Chan.errAt, Chan.errAt, calm.sound]
    exact (Tab.get_set_self ..).trans (DdrErr.join_none err)

/-- A request that lacks a grant, or comes behind one of its line, waits. -/
theorem State.hostServe_held {w : BiWait} {s : State}
    (h : s.works cxlUnit = false ∨ s.hubWorks w.addr 1 = false ∨ ∃ h ∈ s.cxl.held, h.line = lineOf w.addr) :
    s.hostServe w = { s with cxl := { s.cxl with held := s.cxl.held ++ [w] } } := by
  unfold State.hostServe
  dsimp only
  rw [if_pos]
  rcases h with h | h | ⟨x, hx, hl⟩
  · rw [h]; rfl
  · rw [h, Bool.not_false, Bool.or_true]; rfl
  · rw [List.any_eq_true.mpr ⟨x, hx, decide_eq_true hl⟩, Bool.or_true]

/-- A request that nothing holds is served. -/
theorem State.hostServe_go {w : BiWait} {s : State} (hcxl : s.works cxlUnit = true) (hhub : s.hubWorks w.addr 1 = true)
    (hheld : ∀ h ∈ s.cxl.held, h.line ≠ lineOf w.addr) (hset : CacheUpset.snoop (filterSet (lineOf w.addr)) ∉ s.tmk.cacheBad)
    (hsnoop : ∀ q ∈ s.cxl.snoops, q.1 ≠ lineOf w.addr) (hvictim : w.copy = .none ∨ s.cxl.victim (lineOf w.addr) = none) :
    s.hostServe w = if w.isRead then s.hostRead w else s.hostWriteMem w := by
  unfold State.hostServe
  dsimp only
  rw [hcxl, hhub, List.any_eq_false_of fun h hh => decide_eq_false (hheld h hh), if_neg (by decide),
    show s.filterLookup (lineOf w.addr) = s from if_neg hset, List.any_eq_false_of fun q hq => decide_eq_false (hsnoop q hq), if_neg (by decide)]
  have hnone : (if w.copy = .none then none else s.cxl.victim (lineOf w.addr)) = none := by
    rcases hvictim with h | h
    · rw [if_pos h]
    · rw [h, ite_self]
  rw [hnone]

/-- A host access as its page finds it: the state after its copy is granted, its line called back later, and its errors arisen. -/
theorem State.hostRead_pinned {w : BiWait} {s : State} (h : s.pinned (pageOf w.addr) = true) :
    (s.hostRead w).plm.mem = s.plm.mem ∧ (s.hostRead w).out.memData = List.replicate 64 0 ∧ (s.hostRead w).out.memPoison = false := by
  unfold State.hostRead
  extract_lets dla v
  have hplm : v.plm = s.plm := (State.owned_fields ..).1
  rw [if_pos (by rw [State.pinned_congr (s := s) (by rw [hplm]; rfl), pageOf_mul_lineOf]; exact h)]
  exact ⟨congrArg Plm.mem hplm, rfl, rfl⟩

/-- A read of a page outside the reserved regions is a read of its line. -/
theorem State.hostRead_line {w : BiWait} {s : State} (h : s.pinned (pageOf w.addr) = false) :
    ∃ v : State, v.plm = s.plm ∧ v.tmk = s.tmk ∧
      (s.hostRead w).plm.mem = s.plm.mem ∧
      (s.hostRead w).out.memData = ((v.spoilLine (64 * lineOf w.addr) w.err).readLine .host (64 * lineOf w.addr) 64).1 ∧
      (s.hostRead w).out.memPoison = ((v.spoilLine (64 * lineOf w.addr) w.err).readLine .host (64 * lineOf w.addr) 64).2.1 := by
  unfold State.hostRead
  extract_lets dla v
  obtain ⟨hplm, htmk, -⟩ := State.owned_fields dla w.copy { s with cxl := s.cxl.grant (lineOf w.addr) w.copy false }
  refine ⟨v, hplm, htmk, ?_⟩
  rw [if_neg (by rw [State.pinned_congr (s := s) (by rw [hplm]; rfl), pageOf_mul_lineOf, h]; decide)]
  refine ⟨?_, rfl, rfl⟩
  exact (State.readLine_mem ..).trans ((State.spoilLine_fields ..).2.1.trans (congrArg Plm.mem hplm))

/-- A host write is a store of its bytes. -/
theorem State.hostWriteMem_store (w : BiWait) (s : State) :
    ∃ v : State, v.plm = s.plm ∧ v.tmk = s.tmk ∧ s.hostWriteMem w = (v.spoilLine w.addr w.err).hostStore w.addr w.data w.poison := by
  unfold State.hostWriteMem
  extract_lets x u
  obtain ⟨hplm, htmk, -⟩ := State.owned_fields w.addr w.copy u
  exact ⟨_, hplm, htmk, rfl⟩

/-- The translation of a page that has a home, after the errors of an access: the data stay, and the line has those errors alone. -/
theorem State.lookup_spoiled {v : State} {dla : Nat} {err : DdrErr} (calm : v.Calm) (h : (v.page (pageOf dla)).st.home)
    (hsafe : err = {} ∨ pageOf dla ∈ v.plm.cache ∧ CacheUpset.map (pageOf dla) ∉ v.tmk.cacheBad) :
    ∃ t, (v.spoilLine dla err).hubLookup (pageOf dla) = t ∧ t.plm.map = v.plm.map ∧ t.plm.poison = v.plm.poison ∧ t.plm.mem = v.plm.mem ∧
      ((t.chanAt (4 * (v.page (pageOf dla)).die + (v.page (pageOf dla)).chan)).errAt (v.page (pageOf dla)).ppn (lineOf dla % 512)) = err ∧
      t.pinned (pageOf dla) = v.pinned (pageOf dla) := by
  obtain ⟨hsame, hmem, hmap, hpoison, hcache, htmk⟩ := State.spoilLine_fields dla err v
  have herr := State.errAt_spoilLine calm h err
  rcases hsafe with rfl | ⟨hc, hgood⟩
  · rw [State.spoilLine_none]
    have hd := State.hubLookup_same calm (pageOf dla)
    refine ⟨_, rfl, hd.map, hd.poison, hd.mem, ?_, State.pinned_congr ((State.MemOnly.hubLookup ..).mpr (.refl v)).plm _⟩
    rw [Chan.errAt, (hd.calm calm).sound]
    rfl
  · rw [State.hubLookup_cached (by rw [hcache]; exact hc) (by rw [htmk]; exact hgood)]
    exact ⟨_, rfl, hmap, hpoison, hmem, herr, State.pinned_congr hsame _⟩

section read

variable {w : BiWait} {s : State} (hpin : s.pinned (pageOf w.addr) = false)
include hpin

theorem State.page_read {v : State} (hv : v.plm = s.plm) : v.page (pageOf (64 * lineOf w.addr)) = s.page (pageOf w.addr) := by
  rw [pageOf_mul_lineOf]
  exact State.page_congr (by rw [hv]) (by rw [State.pinned_congr (s := s) (by rw [hv]; rfl), hpin]) hpin

theorem State.hostRead_lost (h : (s.page (pageOf w.addr)).st = .lost) :
    (s.hostRead w).out.memData = List.replicate 64 0 ∧ (s.hostRead w).out.memPoison = true := by
  obtain ⟨v, hplm, -, -, hdata, hpoison⟩ := State.hostRead_line hpin
  have hpage := State.page_read hpin hplm
  rw [← hpage] at h
  rw [State.spoilLine_of_not_home (by rw [h]; rintro (h | h) <;> cases h),
    State.readLine_lost rfl (State.lost_hubLookup (by rw [State.pinned_congr (s := s) (by rw [hplm]; rfl), pageOf_mul_lineOf, hpin]) h)] at hdata hpoison
  exact ⟨hdata, hpoison⟩

theorem State.hostRead_unmapped (calm : s.Calm) (h : (s.page (pageOf w.addr)).st = .unmapped) :
    (s.hostRead w).out.memData = List.replicate 64 0 ∧ (s.hostRead w).out.memPoison = false := by
  obtain ⟨v, hplm, -, -, hdata, hpoison⟩ := State.hostRead_line hpin
  have hpage := State.page_read hpin hplm
  have hcalm : v.Calm := (State.SameData.of_plm (by rw [hplm]) (by rw [hplm]) (by rw [hplm]) (by rw [hplm])).calm calm
  have hvpin : v.pinned (pageOf (64 * lineOf w.addr)) = false := by rw [State.pinned_congr (s := s) (by rw [hplm]; rfl), pageOf_mul_lineOf, hpin]
  have hlook := State.page_congr (State.translate_same hcalm .host (pageOf (64 * lineOf w.addr)) false).map
    (by rw [State.pinned_congr ((State.MemOnly.translate ..).mpr (.refl v)).plm, hvpin]) hvpin
  rw [← hpage, ← hlook] at h
  rw [hlook, hpage] at h
  rw [State.spoilLine_of_not_home (by rw [hpage, h]; rintro (h | h) <;> cases h),
    State.readLine_unmapped rfl (by rw [hlook, hpage, h])] at hdata hpoison
  exact ⟨hdata, hpoison⟩

theorem State.hostRead_home (calm : s.Calm) (h : (s.page (pageOf w.addr)).st.home)
    (hsafe : w.err = {} ∨ pageOf w.addr ∈ s.plm.cache ∧ CacheUpset.map (pageOf w.addr) ∉ s.tmk.cacheBad) :
    (s.hostRead w).out.memData = s.plm.bytes (64 * lineOf w.addr) 64 ∧
      (s.hostRead w).out.memPoison = (Tab.get false s.plm.poison (lineOf w.addr) || decide (meets w.err = .uncorrectable)) := by
  obtain ⟨v, hplm, htmk, -, hdata, hpoison⟩ := State.hostRead_line hpin
  have hpage := State.page_read hpin hplm
  have hcalm : v.Calm := (State.SameData.of_plm (by rw [hplm]) (by rw [hplm]) (by rw [hplm]) (by rw [hplm])).calm calm
  obtain ⟨t, ht, hmap, hmark, hmem, herr, htpin⟩ :=
    State.lookup_spoiled hcalm (by rw [hpage]; exact h) (hsafe.imp_right fun hc => by rw [pageOf_mul_lineOf, hplm, htmk]; exact hc)
  have htpage : t.page (pageOf (64 * lineOf w.addr)) = s.page (pageOf w.addr) := by
    rw [State.page_congr hmap (by rw [htpin, State.pinned_congr (s := s) (by rw [hplm]; rfl), pageOf_mul_lineOf, hpin])
      (by rw [State.pinned_congr (s := s) (by rw [hplm]; rfl), pageOf_mul_lineOf, hpin]), hpage]
  obtain ⟨h1, h2⟩ := State.readLine_home (n := 64) ht (by rw [htpage]; exact h)
  rw [hdata, h1, hpoison, h2, htpage, ← hpage, herr, hmark, hplm, lineOf_mul]
  refine ⟨?_, rfl⟩
  unfold Plm.bytes Plm.byte
  rw [hmem, hplm]

end read

/-- Settles O24: a host access by its grants, its page's state, and the errors of its line. -/
theorem hostMemoryAccess : Obligations.HostMemoryAccess := by
  unfold Obligations.HostMemoryAccess
  intro hpa dla copy err s hdla
  dsimp only
  have hread : exec (.cxlMemRead hpa copy err) s = .next (s.hostServe { line := lineOf dla, addr := dla, isRead := true, copy := copy, err := err }) := by
    have hexec : exec (.cxlMemRead hpa copy err) s = execCxlMemRead hpa copy err s := rfl
    rw [hexec, execCxlMemRead, hdla]
  have hwrite (data : List Byte) (poison : Bool) : exec (.cxlMemWrite hpa data poison copy err) s =
      .next (s.hostServe { line := lineOf dla, addr := dla, data := data.take (64 - dla % 64), poison := poison, copy := copy, err := err }) := by
    have hexec : exec (.cxlMemWrite hpa data poison copy err) s = execCxlMemWrite hpa data poison copy err s := rfl
    rw [hexec, execCxlMemWrite, hdla]
  rw [hread]
  simp only [hwrite]
  refine ⟨fun hheld => ?_, fun hcxl hhub hheld hset hsnoop hvictim => ?_⟩
  · have hwait (w : BiWait) (ha : w.addr = dla) : s.hostServe w = { s with cxl := { s.cxl with held := s.cxl.held ++ [w] } } :=
      State.hostServe_held (by rw [ha]; exact hheld)
    exact ⟨congrArg Host.Outcome.next (hwait _ rfl), fun data poison => congrArg Host.Outcome.next (hwait _ rfl)⟩
  have hgo (w : BiWait) (ha : w.addr = dla) (hc : w.copy = copy) : s.hostServe w = if w.isRead then s.hostRead w else s.hostWriteMem w := by
    subst ha hc
    exact State.hostServe_go hcxl hhub hheld hset hsnoop hvictim
  refine ⟨?_, fun data poison => ?_⟩
  · rw [hgo _ rfl rfl, if_pos rfl]
    generalize hw : ({ line := lineOf dla, addr := dla, isRead := true, copy := copy, err := err } : BiWait) = w
    have haddr : w.addr = dla := by rw [← hw]
    have herr : w.err = err := by rw [← hw]
    subst haddr herr
    refine ⟨_, rfl, ?_, fun hpin => (State.hostRead_pinned hpin).2, fun hpin hst => State.hostRead_lost hpin hst,
      fun hpin calm hst => State.hostRead_unmapped hpin calm hst, fun hpin calm he hst => ?_, fun hpin calm hc hgood hst => ?_⟩
    · cases hpin : s.pinned (pageOf w.addr) with
      | true => exact (State.hostRead_pinned hpin).1
      | false =>
        obtain ⟨v, -, -, hmem, -⟩ := State.hostRead_line hpin
        exact hmem
    · obtain ⟨h1, h2⟩ := State.hostRead_home hpin calm hst (.inl he)
      refine ⟨h1, h2.trans ?_⟩
      rw [he]
      exact Bool.or_false _
    · exact State.hostRead_home hpin calm hst (.inr ⟨hc, hgood⟩)
  · rw [hgo _ rfl rfl, if_neg Bool.false_ne_true]
    obtain ⟨v, hplm, htmk, hrun⟩ := State.hostWriteMem_store
      { line := lineOf dla, addr := dla, data := data.take (64 - dla % 64), poison := poison, copy := copy, err := err } s
    refine ⟨_, rfl, ?_⟩
    rw [hrun]
    dsimp only
    obtain ⟨hsame, hmem, hmap, -, -, -⟩ := State.spoilLine_fields dla err v
    have hpinned : (v.spoilLine dla err).pinned (pageOf dla) = s.pinned (pageOf dla) := by
      rw [State.pinned_congr hsame, State.pinned_congr (s := s) (by rw [hplm]; rfl)]
    have hbyte (a : Nat) : (v.spoilLine dla err).plm.byte a = s.plm.byte a := by rw [Plm.byte_congr hmem, hplm]
    have hlen : (data.take (64 - dla % 64)).length ≤ 64 - dla % 64 := List.length_take_le ..
    refine ⟨fun hpin => ?_, fun a ha => ?_, fun hpin calm hsafe hst a => ?_⟩
    · rw [State.hostStore, hpinned, if_pos hpin]
      refine ⟨by rw [← hplm]; exact hmem, ?_⟩
      unfold Plm.Same at hsame
      show satInc (v.spoilLine dla err).plm.statRsvWr = _
      rw [hsame, hplm]
    · rw [State.hostStore]
      split
      · exact hbyte a
      · rw [State.plm_estSees, State.byte_writeLine_ne _ _ _ hlen ha, hbyte]
    · have hcalm : v.Calm := (State.SameData.of_plm (by rw [hplm]) (by rw [hplm]) (by rw [hplm]) (by rw [hplm])).calm calm
      have hvpin : v.pinned (pageOf dla) = false := by rw [State.pinned_congr (s := s) (by rw [hplm]; rfl), hpin]
      have hvpage : v.page (pageOf dla) = s.page (pageOf dla) := State.page_congr (by rw [hplm]) hvpin hpin
      obtain ⟨t, ht, htmap, -, -, -, htpin⟩ := State.lookup_spoiled (err := err) hcalm (by rw [hvpage]; exact hst)
        (hsafe.imp_right fun hc => by rw [hplm, htmk]; exact hc)
      have hpage : ((v.spoilLine dla err).translate .host (pageOf dla) true).page (pageOf dla) = s.page (pageOf dla) := by
        rw [← hvpage]
        unfold State.translate
        dsimp only
        rw [ht]
        exact State.page_congr htmap (htpin.trans hvpin) hvpin
      rw [State.hostStore, hpinned, hpin, if_neg (by decide), State.plm_estSees, Plm.byte,
        State.mem_writeLine_home _ poison rfl (by rw [hpage]; exact hst), get_putMem, hmem, hplm]
      rfl

end Sys2Proof.Machine
end

section
/-! Snoop responses and snoops (R283, R350, R351, R353, R366). -/

namespace Sys2Proof.Machine

/-! ### What leaves the CXL port alone -/

@[simp] theorem State.meetLine_cxl (s : State) (i p l : Nat) : (s.meetLine i p l).2.cxl = s.cxl := by
  unfold State.meetLine
  split <;> rfl
@[simp] theorem State.countLine_cxl (s : State) (i : Nat) (w : Bool) : (s.countLine i w).cxl = s.cxl := rfl
@[simp] theorem State.mendLine_cxl (s : State) (i p l : Nat) : (s.mendLine i p l).cxl = s.cxl := rfl
@[simp] theorem State.tableLine_cxl (s : State) (dla : Nat) (w h : Bool) : (s.tableLine dla w h).2.cxl = s.cxl := by
  unfold State.tableLine
  dsimp only
  split
  · rfl
  · cases w <;> cases h <;> simp
@[simp] theorem State.putPage_cxl (s : State) (p : Nat) (e : PageEnt) : (s.putPage p e).cxl = s.cxl := by
  unfold State.putPage State.writePageEntry
  split
  · rfl
  · rw [State.tableLine_cxl]
    rfl
@[simp] theorem State.noteWrite_cxl (s : State) (p : Nat) : (s.noteWrite p).cxl = s.cxl := State.putPage_cxl s p _
theorem State.dropReplicaBit_cxl (s : State) (p d : Nat) : (s.dropReplicaBit p d).cxl = s.cxl := State.putPage_cxl s p _
@[simp] theorem State.retire_cxl (s : State) (r : CopyRec) : (s.retire r).cxl = s.cxl := State.dropReplicaBit_cxl s r.page r.die
@[simp] theorem State.endRetire_cxl (s : State) (r : CopyRec) : (s.endRetire r).cxl = s.cxl := rfl
@[simp] theorem State.startRetire_cxl (s : State) (r : CopyRec) : (s.startRetire r).cxl = s.cxl := State.dropReplicaBit_cxl s r.page r.die
@[simp] theorem State.loseEntry_cxl (s : State) (p : Nat) : (s.loseEntry p).cxl = s.cxl := State.putPage_cxl s p _
theorem State.meetReserve_cxl (n : Nat) (s : State) : (State.meetReserve n s).cxl = s.cxl := by
  induction n generalizing s with
  | zero => rfl
  | succ n ih =>
    unfold State.meetReserve
    split
    · rfl
    · split
      · rw [ih, State.startRetire_cxl]
      · rfl
@[simp] theorem State.readEntry_cxl (s : State) (p : Nat) : (s.readEntry p).cxl = s.cxl := by
  unfold State.readEntry
  dsimp only
  split
  · split <;> simp
  · split <;> simp
  · rfl
@[simp] theorem State.hubLookup_cxl (s : State) (p : Nat) : (s.hubLookup p).cxl = s.cxl := by
  have hdiscard : (s.mapDiscard p).cxl = s.cxl := by
    unfold State.mapDiscard
    split <;> rfl
  have hfetch (u : State) : (u.mapFetch p).cxl = u.cxl := by
    unfold State.mapFetch
    split
    · rfl
    · exact State.readEntry_cxl ..
  exact (hfetch _).trans hdiscard

theorem State.takePage_cxl {s s' : State} {i p : Nat} (h : s.takePage i = some (p, s')) : s'.cxl = s.cxl := by
  unfold State.takePage at h
  split at h
  · cases h
  · dsimp only at h
    split at h
    · cases h
      rfl
    · cases h

theorem State.takeFirst_cxl {is : List Nat} {s s' : State} {i p : Nat} (h : State.takeFirst is s = some (i, p, s')) : s'.cxl = s.cxl := by
  induction is with
  | nil => cases h
  | cons j js ih =>
    simp only [State.takeFirst] at h
    split at h
    next q t ht =>
      cases h
      exact State.takePage_cxl ht
    · exact ih h

theorem State.allocateN_cxl {n : Nat} {s s' : State} {a : Agent} {p i q : Nat} (h : s.allocateN a p n = some (i, q, s')) : s'.cxl = s.cxl := by
  induction n generalizing s with
  | zero => exact State.takeFirst_cxl h
  | succ n ih =>
    unfold State.allocateN at h
    split at h
    next x hx =>
      cases h
      exact State.takeFirst_cxl hx
    · split at h
      · rw [ih h, State.endRetire_cxl]
      · split at h
        · rw [ih h, State.retire_cxl]
        · cases h

@[simp] theorem State.landCopy_cxl (s : State) (i p l : Nat) (w h : Bool) : (s.landCopy i p l w h).2.cxl = s.cxl := by
  have h1 (t : State) (ht : t.cxl = s.cxl) (b : Bool) : (if b then t.countLine i true else (t.countLine i true).mendLine i p l).cxl = s.cxl := by
    cases b <;> exact ht
  unfold State.landCopy
  cases w <;> exact h1 _ (by simp) _

theorem State.landLine_cxl (s : State) (dla : Nat) (bs : List Byte) (p : Bool) : (s.landLine dla bs p).cxl = s.cxl := by
  have hcopies (l : Nat) (w : Bool) (rs : List CopyRec) (u : State) :
      (rs.foldl (fun (s : State) r => (s.landCopy (4 * r.die + r.chan) r.ppn l w false).2) u).cxl = u.cxl := by
    induction rs generalizing u with
    | nil => rfl
    | cons r rs ih => rw [List.foldl_cons, ih, State.landCopy_cxl]
  unfold State.landLine
  simp only [State.noteWrite_cxl, hcopies, State.landCopy_cxl]

/-- A write of a host or of a unit of the hub die to one line leaves the CXL port. -/
theorem State.writeLine_cxl (s : State) (dla : Nat) (bs : List Byte) (p : Bool) : (s.writeLine .host dla bs p).cxl = s.cxl := by
  have hhome (u : State) (e : PageEnt) (hu : u.cxl = s.cxl) :
      (let v := (u.putPage (pageOf dla) e).landLine dla bs p
       v.meetReserve v.plm.replicas.length).cxl = s.cxl := by
    dsimp only
    rw [State.meetReserve_cxl, State.landLine_cxl, State.putPage_cxl, hu]
  unfold State.writeLine
  extract_lets q t e home
  have ht : t.cxl = s.cxl := State.hubLookup_cxl s q
  split
  · exact (State.landLine_cxl ..).trans ht
  · exact (State.landLine_cxl ..).trans ht
  · split
    next i ppn u hu => exact hhome { u with plm := u.plm.erasePage q } _ ((State.allocateN_cxl hu).trans ht)
    · exact (State.putPage_cxl t q { st := .lost }).trans ht
  · split
    next i ppn u hu => exact hhome { u with plm := (u.plm.erasePage q).poisonPage q } _ ((State.allocateN_cxl hu).trans ht)
    · exact ht

@[simp] theorem State.cxl_touch (r : SlotRef) (s : State) : (s.touch r).cxl = s.cxl := by
  unfold State.touch
  split
  · rfl
  · dsimp only
    repeat' split
    all_goals rfl

@[simp] theorem State.cxl_estSees (dla n : Nat) (s : State) : (s.estSees dla n).cxl = s.cxl := by
  unfold State.estSees
  split
  · rfl
  · split
    · rfl
    · dsimp only
      split
      · split <;> rfl
      · split
        · exact State.cxl_touch ..
        · rfl

theorem State.hostStore_cxl (dla : Nat) (bs : List Byte) (p : Bool) (s : State) : (s.hostStore dla bs p).cxl = s.cxl := by
  unfold State.hostStore
  split
  · rfl
  · rw [State.cxl_estSees, State.writeLine_cxl]

/-- The completion ring's writes leave device memory, and the snoops and the filter of the port. -/
theorem State.drainCq_fields (s : State) :
    s.drainCq.plm = s.plm ∧ s.drainCq.cxl.snoops = s.cxl.snoops ∧ s.drainCq.cxl.filter = s.cxl.filter := by
  have h (n : Nat) (u : State) : (u.drainCqs n).plm = u.plm ∧ (u.drainCqs n).cxl.snoops = u.cxl.snoops ∧ (u.drainCqs n).cxl.filter = u.cxl.filter := by
    induction n generalizing u with
    | zero => exact ⟨rfl, rfl, rfl⟩
    | succ n ih =>
      unfold State.drainCqs
      split
      · exact ⟨rfl, rfl, rfl⟩
      next e es _ =>
        extract_lets r
        split
        · exact ⟨rfl, rfl, rfl⟩
        · refine (ih _).imp id fun k => ?_
          exact k
  unfold State.drainCq
  exact h _ s

/-! ### The end of a snoop -/

/-- The port after the answer to a back-invalidate of a line. -/
def Cxl.answered (line : Nat) (inv : Bool) (x : Cxl) : Cxl :=
  { x with snoops := x.snoops.filter fun q => q.1 ≠ line,
           filter := if inv then x.filter.filter fun q => q.1 ≠ line else x.filter.map fun q => if q.1 = line then (q.1, false) else q }

theorem Cxl.mayHoldModified_answered (line : Nat) (inv : Bool) (x : Cxl) : (x.answered line inv).mayHoldModified line = false := by
  refine List.any_eq_false_of fun q hq => ?_
  cases inv with
  | true =>
    have hne := of_decide_eq_true (List.mem_filter.mp hq).2
    rw [decide_eq_false hne, Bool.false_and]
  | false =>
    obtain ⟨y, -, rfl⟩ := List.mem_map.mp hq
    by_cases h : y.1 = line
    · rw [if_pos h, Bool.and_false]
    · rw [if_neg h, decide_eq_false h, Bool.false_and]

theorem Cxl.tracks_answered (line : Nat) (x : Cxl) : (x.answered line true).tracks line = false :=
  List.any_eq_false_of fun _ hq => decide_eq_false (of_decide_eq_true (List.mem_filter.mp hq).2)

theorem State.writeback_some {line : Nat} {bs : List Byte} (h : bs.length = 64) (s : State) :
    s.writeback line (some bs) = s.hostStore (64 * line) bs false := by
  unfold State.writeback
  dsimp only
  rw [List.take_append_of_le_length (by omega), List.take_of_length_le (by omega)]

/-- An answer for which nothing waits ends its snoop. -/
theorem State.birsp_eq {line : Nat} {inv : Bool} {s : State} (h : s.cxl.snoops.find? (fun q => decide (q.1 = line)) = some (line, inv))
    (hwait : ∀ w ∈ s.cxl.waiting, w.line ≠ line) (dirty : Option (List Byte)) :
    ∃ u v : State, exec (.birspReceived line dirty) s = .next u ∧ v.plm = s.plm ∧ u.plm = (v.writeback line dirty).plm ∧
      u.cxl.snoops = (s.cxl.answered line inv).snoops ∧ u.cxl.filter = (s.cxl.answered line inv).filter := by
  have hexec : exec (.birspReceived line dirty) s = execBirspReceived line dirty s := rfl
  rw [hexec, execBirspReceived, h]
  dsimp only
  generalize hv : ({ s with cxl := _ } : State) = v
  have hvcxl : v.cxl = s.cxl.answered line inv := by
    rw [← hv]
    rfl
  have hplm : v.plm = s.plm := by rw [← hv]
  have hcxl : (v.writeback line dirty).cxl = v.cxl := by
    cases dirty with
    | none => rfl
    | some bs => exact State.hostStore_cxl ..
  have hnone : (v.writeback line dirty).cxl.waiting.filter (fun w => decide (w.line = line)) = [] := by
    rw [hcxl, hvcxl]
    exact List.filter_eq_nil_iff.mpr fun w hw => by simpa using hwait w hw
  rw [hnone]
  obtain ⟨hm, hs, hf⟩ := State.drainCq_fields { v.writeback line dirty with
    cxl := { (v.writeback line dirty).cxl with waiting := (v.writeback line dirty).cxl.waiting.filter fun w => decide (w.line ≠ line) } }
  exact ⟨_, v, rfl, hplm, hm, hs.trans (by rw [hcxl, hvcxl]), hf.trans (by rw [hcxl, hvcxl])⟩

/-- Settles O25: an answer that ends a snoop, one that comes late, and a snoop of the K4. -/
theorem snoopResponses : Obligations.SnoopResponses := by
  unfold Obligations.SnoopResponses
  intro s
  refine ⟨fun line inv hfind hwait => ⟨?_, fun bs hbs => ?_⟩, fun line hnone => ⟨?_, fun bs hbs => ?_⟩, fun _ => rfl⟩
  · obtain ⟨u, v, hrun, hv, hplm, hsnoops, hfilter⟩ := State.birsp_eq hfind hwait none
    refine ⟨u, hrun, fun q hq => ?_, by rw [hplm, ← hv]; rfl, ?_, fun hinv => ?_⟩
    · rw [hsnoops] at hq
      exact of_decide_eq_true (List.mem_filter.mp hq).2
    · rw [Cxl.mayHoldModified, hfilter]
      exact Cxl.mayHoldModified_answered ..
    · rw [Cxl.tracks, hfilter, hinv]
      exact Cxl.tracks_answered ..
  · obtain ⟨u, v, hrun, hv, hplm, hsnoops, -⟩ := State.birsp_eq hfind hwait (some bs)
    rw [State.writeback_some hbs] at hplm
    have hpinned : v.pinned (pageOf (64 * line)) = s.pinned (pageOf (64 * line)) := State.pinned_congr (by rw [hv]; rfl) _
    refine ⟨u, hrun, fun q hq => ?_, fun hpin => ?_, fun hpin calm hst => ?_⟩
    · rw [hsnoops] at hq
      exact of_decide_eq_true (List.mem_filter.mp hq).2
    · rw [hplm, State.hostStore, hpinned, if_pos hpin, hv]
      exact ⟨rfl, rfl⟩
    · have hcalm : v.Calm := (State.SameData.of_plm (by rw [hv]) (by rw [hv]) (by rw [hv]) (by rw [hv])).calm calm
      have hvpage : v.page (pageOf (64 * line)) = s.page (pageOf (64 * line)) := State.page_congr (by rw [hv]) (hpinned.trans hpin) hpin
      have hpage : (v.translate .host (pageOf (64 * line)) true).page (pageOf (64 * line)) = s.page (pageOf (64 * line)) := by
        rw [← hvpage]
        refine State.page_congr (State.translate_same hcalm ..).map ?_ (hpinned.trans hpin)
        rw [State.pinned_congr ((State.MemOnly.translate ..).mpr (.refl v)).plm, hpinned, hpin]
      rw [hplm, State.hostStore, hpinned, hpin, if_neg (by decide), State.plm_estSees]
      have hbytes := Plm.bytes_of (v.writeLine .host (64 * line) bs false).plm (64 * line) bs fun i hi => ?_
      · rw [hbs] at hbytes
        exact hbytes
      · rw [Plm.byte, State.mem_writeLine_home _ false rfl (by rw [hpage]; exact hst), get_putMem, if_pos (by omega), Nat.add_sub_cancel_left]
  · have hexec : exec (.birspReceived line none) s = execBirspReceived line none s := rfl
    rw [hexec, execBirspReceived, List.find?_eq_none.mpr fun q hq => by simpa using hnone q hq]
    rfl
  · have hexec : exec (.birspReceived line (some bs)) s = execBirspReceived line (some bs) s := rfl
    rw [hexec, execBirspReceived, List.find?_eq_none.mpr fun q hq => by simpa using hnone q hq]
    dsimp only
    rw [State.writeback_some hbs]

end Sys2Proof.Machine
end

section
/-! The CXL port: the decoder, the controls of configuration space, the link, and accesses that the register space refuses (R342, R345 to R347, R353,
R361). -/

namespace Sys2Proof.Machine

/-- What the pending messages and held completions that a control lets go change: what is sent, and the counts of it. -/
structure State.CfgKept (s t : State) : Prop where
  plm : t.plm = s.plm
  sec : t.sec = s.sec
  cxl : t.cxl = { s.cxl with d2hWr := t.cxl.d2hWr, msixPend := t.cxl.msixPend }

namespace State.CfgKept

variable {s t u : State}

theorem refl (s : State) : s.CfgKept s := ⟨rfl, rfl, rfl⟩
theorem trans (h : s.CfgKept t) (k : t.CfgKept u) : s.CfgKept u :=
  ⟨k.plm.trans h.plm, k.sec.trans h.sec, k.cxl.trans (by rw [h.cxl])⟩

theorem cfgSpace (h : s.CfgKept t) : t.cfgSpace = s.cfgSpace := by
  unfold State.cfgSpace State.hdmBytes
  rw [h.plm, h.sec, h.cxl]

theorem foldl {α : Type} {f : State → α → State} (h : ∀ (s : State) x, s.CfgKept (f s x)) (l : List α) (s : State) : s.CfgKept (l.foldl f s) := by
  induction l generalizing s with
  | nil => exact refl s
  | cons x l ih => exact (h s x).trans (ih _)

theorem msiPending (n : Nat) (s : State) : s.CfgKept (s.msiPending n) := by
  unfold State.msiPending
  split
  · unfold State.msi
    split <;> exact ⟨rfl, rfl, rfl⟩
  · exact refl s

theorem drainCqs (n : Nat) (s : State) : s.CfgKept (s.drainCqs n) := by
  induction n generalizing s with
  | zero => exact refl s
  | succ n ih =>
    unfold State.drainCqs
    split
    · exact refl s
    next e es _ =>
      extract_lets r
      split
      · exact refl s
      · refine .trans ?_ (ih _)
        exact ⟨rfl, rfl, rfl⟩

theorem drainCq (s : State) : s.CfgKept s.drainCq := by
  unfold State.drainCq
  exact .trans (drainCqs ..) ⟨rfl, rfl, rfl⟩

end State.CfgKept

/-- The port after the link has come up, and the mode that R345 gives it. -/
theorem State.linkMode_cxl (rate width : Nat) (latOpt : Bool) (s : State) :
    (s.linkMode rate width latOpt).cxl.recovery = s.cxl.recovery ∧ (s.linkMode rate width latOpt).cxl.rate = rate ∧
      (s.linkMode rate width latOpt).cxl.width = width ∧
      (s.linkMode rate width latOpt).cxl.mode = if (decide (4 ≤ rate) && (width = 8 || width = 4)) = true then 1 else 2 := by
  unfold State.linkMode
  extract_lets full x u
  split
  next hfull =>
    rw [(State.CfgKept.drainCq u).cxl]
    exact ⟨rfl, rfl, rfl, if_pos hfull⟩
  next hfull => exact ⟨rfl, rfl, rfl, if_neg hfull⟩

theorem linkOk_of {rate width : Nat} (h1 : 1 ≤ rate) (h6 : rate ≤ 6) (hw : width = 1 ∨ width = 2 ∨ width = 4 ∨ width = 8) : linkOk rate width = true := by
  rcases hw with rfl | rfl | rfl | rfl <;> simp [linkOk, h1, h6]

/-- Settles O26: each write, training and access by its conditions. -/
theorem cxlPortAndDecoder : Obligations.CxlPortAndDecoder := by
  unfold Obligations.CxlPortAndDecoder
  intro s
  have hopen (h : s.cxl.committed = false ∨ s.cxl.locked = false) : ¬(s.cxl.committed && s.cxl.locked) = true := by
    rcases h with h | h <;> simp [h]
  refine ⟨fun base lock hfree hbase hmode => ?_, fun base size ways lock hfree hbad => ?_, fun ctl => rfl,
    fun rate width latOpt pbr biId h1 h6 hw => ⟨fun hr hwide => ?_, fun hsmall => ?_, fun hup => ?_⟩, rfl, rfl, ?_⟩
  · have hexec : exec (.hdmDecoderCommit base s.hdmBytes 1 lock) s = execHdmDecoderCommit base s.hdmBytes 1 lock s := rfl
    rw [hexec, execHdmDecoderCommit, if_neg (hopen hfree), if_pos ⟨rfl, rfl, hbase, hmode⟩]
  · have hexec : exec (.hdmDecoderCommit base size ways lock) s = execHdmDecoderCommit base size ways lock s := rfl
    rw [hexec, execHdmDecoderCommit, if_neg (hopen hfree), if_neg (by tauto)]
  · have hexec : exec (.cxlLinkTrain rate width latOpt pbr biId) s = execCxlLinkTrain rate width latOpt pbr biId s := rfl
    have hfull : (decide (4 ≤ rate) && (width = 8 || width = 4)) = true := by
      rcases hwide with rfl | rfl <;> simp [hr]
    rw [hexec, execCxlLinkTrain, if_pos (linkOk_of h1 h6 hw), State.linkMode]
    dsimp only
    simp only [hfull, if_true]
  · have hexec : exec (.cxlLinkTrain rate width latOpt pbr biId) s = execCxlLinkTrain rate width latOpt pbr biId s := rfl
    have hpart : (decide (4 ≤ rate) && (width = 8 || width = 4)) = false := by
      rcases hsmall with h | h
      · rw [decide_eq_false (by omega), Bool.false_and]
      · rw [decide_eq_false (show ¬width = 8 by omega), decide_eq_false (show ¬width = 4 by omega), Bool.or_false, Bool.and_false]
    rw [hexec, execCxlLinkTrain, if_pos (linkOk_of h1 h6 hw), State.linkMode]
    dsimp only
    simp only [hpart, Bool.false_eq_true, if_false]
  · have hexec : exec (.cxlLinkRecovery rate width latOpt) s = execCxlLinkRecovery rate width latOpt s := rfl
    rw [hexec, execCxlLinkRecovery, if_pos ⟨linkOk_of h1 h6 hw, hup⟩]
    obtain ⟨hrec, hrate, hwidth, hmode⟩ := State.linkMode_cxl rate width latOpt { s with cxl := { s.cxl with recovery := satInc s.cxl.recovery } }
    refine ⟨_, rfl, hrec, hrate, hwidth, hmode.trans ?_⟩
    simp only [Bool.and_eq_true, Bool.or_eq_true, decide_eq_true_eq]
  · intro g
    refine ⟨rfl, rfl, rfl, rfl, rfl, rfl, rfl, rfl, rfl, rfl, fun ctl => ⟨_, rfl, ?_⟩⟩
    refine (State.CfgKept.trans (.foldl (fun u n => .msiPending n u) _ _) (.drainCq _)).cfgSpace.trans ?_
    rfl

end Sys2Proof.Machine
end

section
/-! Where pages lie: zero fill, counting windows, copies, moves, releases and the loss of modules (R285, R289 to R298). -/

namespace Sys2Proof.Machine

/-! ### What placement leaves: every byte and mark -/

@[simp] theorem State.countLine_poison (s : State) (i : Nat) (w : Bool) : (s.countLine i w).plm.poison = s.plm.poison := rfl
@[simp] theorem State.mendLine_poison (s : State) (i p l : Nat) : (s.mendLine i p l).plm.poison = s.plm.poison := rfl
@[simp] theorem State.meetLine_poison (s : State) (i p l : Nat) : (s.meetLine i p l).2.plm.poison = s.plm.poison := by
  unfold State.meetLine
  split <;> rfl
@[simp] theorem State.tableLine_poison (s : State) (dla : Nat) (w h : Bool) : (s.tableLine dla w h).2.plm.poison = s.plm.poison := by
  unfold State.tableLine
  dsimp only
  split
  · rfl
  · cases w <;> cases h <;> simp

/-- `t` is `s` after work on the map: no byte and no mark of memory has changed. -/
structure State.PlaceOnly (s t : State) : Prop where
  only : s.MemOnly t
  mem : t.plm.mem = s.plm.mem
  poison : t.plm.poison = s.plm.poison

namespace State.PlaceOnly

variable {s t u : State}

theorem refl (s : State) : s.PlaceOnly s := ⟨.refl s, rfl, rfl⟩
theorem trans (h : s.PlaceOnly t) (k : t.PlaceOnly u) : s.PlaceOnly u :=
  ⟨h.only.trans k.only, k.mem.trans h.mem, k.poison.trans h.poison⟩

theorem foldl {α : Type} {f : State → α → State} (h : ∀ (s : State) x, s.PlaceOnly (f s x)) (l : List α) (s : State) : s.PlaceOnly (l.foldl f s) := by
  induction l generalizing s with
  | nil => exact refl s
  | cons x l ih => exact (h s x).trans (ih _)

theorem putPage (p : Nat) (e : PageEnt) (s : State) : s.PlaceOnly (s.putPage p e) := by
  refine ⟨(State.MemOnly.putPage ..).mpr (.refl s), State.putPage_mem .., ?_⟩
  unfold State.putPage
  split
  · rfl
  · exact State.tableLine_poison (s.setPage p e) ..

/-- A write of the parts of the map engine that placement changes. -/
theorem of_plm {x : Plm} (hp : s.plm.Same x) (hm : x.mem = s.plm.mem) (hq : x.poison = s.plm.poison) : s.PlaceOnly { s with plm := x } :=
  ⟨(State.MemOnly.write (t := s) (cxl := s.cxl) (tmk := s.tmk) (fresh := s.fresh) hp rfl rfl).mpr (.refl s), hm, hq⟩

theorem startRetire (r : CopyRec) (s : State) : s.PlaceOnly (s.startRetire r) :=
  ⟨(State.MemOnly.startRetire ..).mpr (.refl s), State.startRetire_mem .., (putPage ..).poison⟩

theorem meetReserve (n : Nat) (s : State) : s.PlaceOnly (State.meetReserve n s) := by
  induction n generalizing s with
  | zero => exact refl s
  | succ n ih =>
    unfold State.meetReserve
    split
    · exact refl s
    · split
      · exact (startRetire ..).trans (ih _)
      · exact refl s

theorem draw (s : State) : s.PlaceOnly s.draw.2 := ⟨(State.MemOnly.draw ..).mpr (.refl s), rfl, rfl⟩

theorem takePage {i p : Nat} (h : s.takePage i = some (p, t)) : s.PlaceOnly t := by
  refine ⟨(State.MemOnly.takePage h).mpr (.refl s), State.takePage_mem h, ?_⟩
  unfold State.takePage at h
  split at h
  · cases h
  · dsimp only at h
    split at h
    · cases h
      rfl
    · cases h

theorem pickOne {ls : List Nat} {i : Nat} (h : s.pickOne ls = some (i, t)) : s.PlaceOnly t := by
  unfold State.pickOne at h
  split at h
  · cases h
  · obtain ⟨x, hx, heq⟩ := Option.map_eq_some_iff.mp h
    cases heq
    exact draw s

theorem startCopy (p d : Nat) (s : State) : s.PlaceOnly (s.startCopy p d) := by
  unfold State.startCopy
  split
  · exact refl s
  · split
    · exact refl s
    next i u hu =>
      split
      · exact pickOne hu
      next ppn v hv =>
        refine ((pickOne hu).trans (takePage hv)).trans ?_
        exact of_plm rfl rfl rfl

theorem startMove (p : Nat) (ds : List Nat) (s : State) : s.PlaceOnly (s.startMove p ds) := by
  unfold State.startMove
  split
  · exact refl s
  · split
    · exact refl s
    next i u hu =>
      split
      · exact pickOne hu
      next ppn v hv =>
        refine ((pickOne hu).trans (takePage hv)).trans ?_
        refine .trans (putPage p { v.page p with st := .moving } v) ?_
        exact of_plm rfl rfl rfl

theorem replicate (p : Nat) (u : PageUse) (s : State) : s.PlaceOnly (s.replicate p u) := by
  unfold State.replicate
  refine foldl (fun v d => ?_) _ _
  dsimp only
  split
  · exact startCopy ..
  · exact refl v

theorem evaluate (p : Nat) (s : State) : s.PlaceOnly (s.evaluate p) := by
  unfold State.evaluate
  extract_lets e u age s1 mine s2
  have h1 : s.PlaceOnly s1 := iteInduction (motive := fun v : State => s.PlaceOnly v) (fun _ => putPage ..) fun _ => refl s
  have h2 : s1.PlaceOnly s2 := iteInduction (motive := fun v : State => s1.PlaceOnly v) (fun _ => replicate ..) fun _ => refl s1
  split
  · exact refl s
  · split
    · exact h1.trans (foldl (fun v r => startRetire r v) _ _)
    · split
      · exact h1.trans h2
      · split
        · exact h1.trans h2
        · split
          · exact (h1.trans h2).trans (startMove ..)
          · exact h1.trans h2

theorem idleReplicas (s : State) : s.PlaceOnly s.idleReplicas := by
  unfold State.idleReplicas
  extract_lets idle x u
  have hu : s.PlaceOnly u := of_plm rfl rfl rfl
  exact hu.trans (foldl (fun v r => startRetire r v) _ _)

/-- What the engine keeps of its window while it places pages. -/
theorem window (h : s.PlaceOnly t) : t.plm.window = s.plm.window ∧ t.plm.windowUs = s.plm.windowUs ∧ t.us = s.us := by
  have hp := h.only.plm
  unfold Plm.Same at hp
  rw [hp]
  exact ⟨rfl, rfl, h.only.us⟩

end State.PlaceOnly

/-! ### Copies -/

/-- `t` is `s` after lines were read and written by the engine: what each page holds and where it lies stay, no mark goes, and a line without errors
gets none. -/
structure State.LinesOnly (s t : State) : Prop where
  only : s.MemOnly t
  mem : t.plm.mem = s.plm.mem
  map : t.plm.map = s.plm.map
  replicas : t.plm.replicas = s.plm.replicas
  copying : t.plm.copying = s.plm.copying
  marks : ∀ l, Tab.get false s.plm.poison l = true → Tab.get false t.plm.poison l = true
  sound : ∀ i p l, (s.chanAt i).errAt p l = {} → (t.chanAt i).errAt p l = {}

namespace State.LinesOnly

variable {s t u : State}

theorem refl (s : State) : s.LinesOnly s := ⟨.refl s, rfl, rfl, rfl, rfl, fun _ h => h, fun _ _ _ h => h⟩
theorem trans (h : s.LinesOnly t) (k : t.LinesOnly u) : s.LinesOnly u where
  only := h.only.trans k.only
  mem := k.mem.trans h.mem
  map := k.map.trans h.map
  replicas := k.replicas.trans h.replicas
  copying := k.copying.trans h.copying
  marks l hl := k.marks l (h.marks l hl)
  sound i p l hl := k.sound i p l (h.sound i p l hl)

theorem foldl {α : Type} {f : State → α → State} (h : ∀ (s : State) x, s.LinesOnly (f s x)) (l : List α) (s : State) : s.LinesOnly (l.foldl f s) := by
  induction l generalizing s with
  | nil => exact refl s
  | cons x l ih => exact (h s x).trans (ih _)

theorem setChan (i : Nat) {x : Chan} (h : ∀ p l, (s.chanAt i).errAt p l = {} → x.errAt p l = {}) : s.LinesOnly (s.setChan i x) := by
  refine ⟨(State.MemOnly.setChan ..).mpr (.refl s), rfl, rfl, rfl, rfl, fun _ h => h, fun j p l hl => ?_⟩
  by_cases hj : j = i
  · subst hj
    rw [State.chanAt_setChan]
    exact h p l hl
  · rw [State.chanAt_setChan_ne _ _ hj]
    exact hl

theorem countLines (i n : Nat) (w : Bool) (s : State) : s.LinesOnly (s.countLines i w n) := by
  unfold State.countLines
  refine setChan i fun p l h => ?_
  split <;> exact h

theorem mendLine (i p l : Nat) (s : State) : s.LinesOnly (s.mendLine i p l) := by
  refine setChan i fun q k h => ?_
  rw [Chan.errAt]
  dsimp only
  rw [Tab.get_set]
  split
  · rfl
  · exact h

theorem record (ty src : Nat) (pl : List Byte) (core unit : Nat) (s : State) : s.LinesOnly (s.record ty src pl core unit) :=
  ⟨(State.MemOnly.record ..).mpr (.refl s), rfl, rfl, rfl, rfl, fun _ h => h, fun _ _ _ h => h⟩

theorem meetLine (i p l : Nat) (s : State) : s.LinesOnly (s.meetLine i p l).2 := by
  unfold State.meetLine
  split
  · exact refl s
  · refine .trans (.trans ?_ (countLines ..)) (mendLine ..)
    exact setChan i fun _ _ h => h
  · unfold State.ddrUe
    refine .trans ?_ (record ..)
    exact setChan i fun _ _ h => h

theorem tableLine (dla : Nat) (w h : Bool) (s : State) : s.LinesOnly (s.tableLine dla w h).2 := by
  unfold State.tableLine
  dsimp only
  split
  · exact refl s
  · have hmeet (i q l : Nat) : s.LinesOnly ((s.countLine i false).meetLine i q l).2 := (countLines ..).trans (meetLine ..)
    cases w with
    | false => exact hmeet ..
    | true => cases h with
      | false => exact ((hmeet ..).trans (countLines ..)).trans (mendLine ..)
      | true => exact (countLines ..).trans (mendLine ..)

theorem dropPtb (p : Nat) (s : State) : s.LinesOnly (s.dropPtb p) :=
  ⟨(State.MemOnly.dropPtb ..).mpr (.refl s), rfl, rfl, rfl, rfl, fun _ h => h, fun _ _ _ h => h⟩

theorem freePage (i p : Nat) (s : State) : s.LinesOnly (s.freePage i p) := setChan i fun _ _ h => h

/-- A mark is set. -/
theorem mark (l : Nat) (s : State) : s.LinesOnly { s with plm := { s.plm with poison := Tab.set false s.plm.poison l true } } := by
  have hp : s.plm.Same { s.plm with poison := Tab.set false s.plm.poison l true } := rfl
  refine ⟨(State.MemOnly.write (t := s) (cxl := s.cxl) (tmk := s.tmk) (fresh := s.fresh) hp rfl rfl).mpr (.refl s), rfl, rfl, rfl, rfl, fun k hk => ?_,
    fun _ _ _ h => h⟩
  dsimp only
  rw [Tab.get_set]
  split
  · rfl
  · exact hk

theorem countCopy (src dst ppn : Nat) (s : State) : s.LinesOnly (s.countCopy src dst ppn) := by
  unfold State.countCopy
  extract_lets u
  refine .trans ((countLines src 512 false s).trans (countLines dst 512 true _)) ?_
  refine setChan dst fun p l h => ?_
  by_cases hp : (512 * p + l) / 512 = ppn
  · exact Tab.get_filter_of_not _ _ _ fun _ => decide_eq_false (not_not.mpr hp)
  · exact (Tab.get_filter_of_kept _ _ _ fun _ => decide_eq_true hp).trans h

/-- The lines that a copy reads: every line that is uncorrectable at its old place is marked. -/
theorem hurt (p i ppn : Nat) (ls : List Nat) (s : State) :
    s.LinesOnly (ls.foldl (fun (s : State) l =>
      let (ue, s) := s.meetLine i ppn l
      if ue then { s with plm := { s.plm with poison := Tab.set false s.plm.poison (512 * p + l) true } } else s) s) := by
  refine foldl (fun u l => ?_) ls s
  have h := meetLine i ppn l u
  generalize u.meetLine i ppn l = r at h ⊢
  obtain ⟨ue, v⟩ := r
  cases ue with
  | false => exact h
  | true => exact h.trans (mark ..)

theorem copyLines (p i ppn : Nat) (s : State) : s.LinesOnly (s.copyLines p i ppn) := by
  unfold State.copyLines
  exact (hurt ..).trans (foldl (fun _ _ => record ..) _ _)

/-- A new entry of a page: the line of the map's table is written. -/
theorem putPage {p : Nat} {e : PageEnt} (h : e ≠ s.page p) : (s.setPage p e).LinesOnly (s.putPage p e) := by
  rw [State.putPage, if_neg h]
  exact tableLine ..

end State.LinesOnly

/-- An index that does not read as an unlisted one is listed. -/
theorem Tab.mem_of_get_ne {α : Type} {d : α} {t : Tab α} {k : Nat} (h : Tab.get d t k ≠ d) : ∃ v, (k, v) ∈ t := by
  induction t with
  | nil => exact absurd rfl h
  | cons x t ih =>
    obtain ⟨j, v⟩ := x
    rw [Tab.get] at h
    split at h
    next hj => exact ⟨v, hj ▸ List.mem_cons_self⟩
    next hj =>
      obtain ⟨w, hw⟩ := ih h
      exact ⟨w, List.mem_cons_of_mem _ hw⟩

/-! ### Marks of lines that a copy reads as uncorrectable -/

/-- A line that is uncorrectable at its place stays so while other lines are read. -/
theorem State.errAt_meetLine_ne {i p l k : Nat} (h : k ≠ l) (s : State) :
    ((s.meetLine i p l).2.chanAt i).errAt p k = (s.chanAt i).errAt p k := by
  have hmend (u : State) : ((u.mendLine i p l).chanAt i).errAt p k = (u.chanAt i).errAt p k := by
    rw [State.mendLine, State.chanAt_setChan, Chan.errAt]
    dsimp only
    rw [Tab.get_set, if_neg (by omega), Chan.errAt]
  unfold State.meetLine
  split
  · rfl
  · rw [hmend, State.errAt_countLine, State.ddrCe, State.chanAt_setChan]
    rfl
  · show ((State.setChan i _ s).chanAt i).errAt p k = _
    rw [State.chanAt_setChan]
    rfl

/-- Marks are not the channels'. -/
theorem State.chanAt_mark (x : Tab Bool) (i : Nat) (s : State) : State.chanAt { s with plm := { s.plm with poison := x } } i = s.chanAt i := rfl

theorem State.marked_hurt (p i ppn : Nat) {l : Nat} (ls : List Nat) (s : State)
    (h : Tab.get false s.plm.poison (512 * p + l) = true ∨ (l ∈ ls ∧ meets ((s.chanAt i).errAt ppn l) = .uncorrectable)) :
    Tab.get false (ls.foldl (fun (s : State) l =>
      let (ue, s) := s.meetLine i ppn l
      if ue then { s with plm := { s.plm with poison := Tab.set false s.plm.poison (512 * p + l) true } } else s) s).plm.poison (512 * p + l) = true := by
  induction ls generalizing s with
  | nil => exact h.elim id fun hm => absurd hm.1 List.not_mem_nil
  | cons k ls ih =>
    rw [List.foldl_cons]
    refine ih _ ?_
    have hmark : Tab.get false s.plm.poison (512 * p + l) = true → Tab.get false
        (State.plm (let (ue, s) := s.meetLine i ppn k
          if ue then { s with plm := { s.plm with poison := Tab.set false s.plm.poison (512 * p + k) true } } else s)).poison (512 * p + l) = true :=
      (State.LinesOnly.hurt p i ppn [k] s).marks _
    rcases h with h | ⟨hmem, hue⟩
    · exact .inl (hmark h)
    · by_cases hk : l = k
      · subst hk
        have hfst := State.meetLine_fst s i ppn l
        rw [decide_eq_true hue] at hfst
        generalize s.meetLine i ppn l = r at hfst ⊢
        obtain ⟨ue, v⟩ := r
        dsimp only at hfst ⊢
        rw [hfst, if_pos rfl]
        exact .inl (show Tab.get false (Tab.set false v.plm.poison (512 * p + l) true) _ = true from Tab.get_set_self ..)
      · refine .inr ⟨(List.mem_cons.mp hmem).resolve_left hk, ?_⟩
        have herr := State.errAt_meetLine_ne (i := i) (p := ppn) hk s
        generalize s.meetLine i ppn k = r at herr ⊢
        obtain ⟨ue, v⟩ := r
        dsimp only at herr
        rw [← herr] at hue
        cases ue with
        | false => exact hue
        | true =>
          dsimp only
          rw [if_pos rfl, State.chanAt_mark]
          exact hue

/-- A line that is marked, or uncorrectable at its old place, is marked once its page has been copied. -/
theorem State.marked_copyLines (p i ppn : Nat) {l : Nat} (hl : l < 512) (s : State)
    (h : Tab.get false s.plm.poison (512 * p + l) = true ∨ meets ((s.chanAt i).errAt ppn l) = .uncorrectable) :
    Tab.get false (s.copyLines p i ppn).plm.poison (512 * p + l) = true := by
  unfold State.copyLines
  extract_lets hurt marked u
  have hu : Tab.get false u.plm.poison (512 * p + l) = true := by
    refine State.marked_hurt p i ppn hurt s (h.imp_right fun hue => ⟨?_, hue⟩)
    have hne : (s.chanAt i).errAt ppn l ≠ {} := fun he => by rw [he] at hue; cases hue
    obtain ⟨v, hv⟩ := Tab.mem_of_get_ne hne
    exact List.mem_map.mpr ⟨_, List.mem_filter.mpr ⟨hv, decide_eq_true (by dsimp only; omega)⟩, by dsimp only; omega⟩
  exact (State.LinesOnly.foldl (fun _ _ => .record ..) marked u).marks _ hu

/-! ### Entries -/

theorem Tab.lookup_insert_self {α : Type} (t : Tab α) (k : Nat) (v : α) : (Tab.insert t k v).lookup k = some v := by
  induction t with
  | nil => rw [Tab.insert, List.lookup_cons, beq_self_eq_true]
  | cons x t ih =>
    obtain ⟨j, w⟩ := x
    rw [Tab.insert]
    split
    · rw [List.lookup_cons, beq_self_eq_true]
    · split
      · rw [List.lookup_cons, beq_self_eq_true]
      next hj => rw [List.lookup_cons, beq_false_of_ne fun h => hj h.symm, ih]

/-- A page has the entry that is written for it. -/
theorem State.page_putPage {p : Nat} {e : PageEnt} (h : e ≠ {}) (s : State) : (s.putPage p e).page p = e := by
  unfold State.putPage State.writePageEntry
  split
  next he => exact he.symm
  · refine State.page_of_lookup ?_
    rw [State.tableLine_map, State.setPage, Tab.set, if_neg h]
    exact Tab.lookup_insert_self ..

/-- A page that is freed leaves every entry. -/
theorem State.page_freePage (i p q : Nat) (s : State) : (s.freePage i p).page q = s.page q := by
  have hchan (j : Nat) : ((s.freePage i p).chanAt j).st = (s.chanAt j).st ∧ ((s.freePage i p).chanAt j).gib = (s.chanAt j).gib := by
    unfold State.freePage
    by_cases hj : j = i
    · rw [hj, State.chanAt_setChan]
      exact ⟨rfl, rfl⟩
    · rw [State.chanAt_setChan_ne _ _ hj]
      exact ⟨rfl, rfl⟩
  have hchans : (s.freePage i p).hdmChans = s.hdmChans := by
    unfold State.hdmChans
    refine List.filter_congr fun j _ => ?_
    rw [(hchan j).1]
  have hpin : (s.freePage i p).pinEntry q = s.pinEntry q := by
    unfold State.pinEntry
    dsimp only
    rw [hchans, (hchan _).2]
    rfl
  unfold State.page
  rw [hpin]
  rfl

theorem bit_or_self (m d : Nat) : bit (m ||| 2 ^ d) d = true := by rw [bit, Nat.testBit_or, Nat.testBit_two_pow_self, Bool.or_true]

/-- A page's entry at its new home. -/
def PageEnt.moved (e : PageEnt) (r : CopyRec) : PageEnt :=
  { e with st := .mapped, die := r.die, chan := r.chan, ppn := r.ppn, rmask := if bit e.rmask r.die then e.rmask - 2 ^ r.die else e.rmask }

/-- A page that a copy was written to has no errors. -/
theorem State.errAt_countCopy (src dst ppn : Nat) {l : Nat} (hl : l < 512) (s : State) :
    ((s.countCopy src dst ppn).chanAt dst).errAt ppn l = {} := by
  unfold State.countCopy
  dsimp only
  rw [State.chanAt_setChan, Chan.errAt]
  refine Tab.get_filter_of_not _ _ _ fun _ => decide_eq_false (not_not.mpr ?_)
  dsimp only
  omega

/-- The record of a move changes no entry. -/
theorem State.page_moved (ms : List CopyRec) (n : Nat) (rs : List (Nat × Nat)) (q : Nat) (s : State) :
    State.page { s with plm := { s.plm with moves := ms, statMove := n, recent := rs } } q = s.page q := rfl

/-- The end of a move: the page's new home, and the marks of its lines. -/
theorem State.endMove_fields (r : CopyRec) (s : State) :
    ((s.endMove r).page r.page).st = .mapped ∧ ((s.endMove r).page r.page).die = r.die ∧ ((s.endMove r).page r.page).chan = r.chan ∧
      ((s.endMove r).page r.page).ppn = r.ppn ∧ (s.endMove r).plm.mem = s.plm.mem ∧ (s.endMove r).plm.statMove = satInc s.plm.statMove ∧
      ∀ l < 512, Tab.get false s.plm.poison (512 * r.page + l) = true ∨
          meets ((s.chanAt (4 * (s.page r.page).die + (s.page r.page).chan)).errAt (s.page r.page).ppn l) = .uncorrectable →
        Tab.get false (s.endMove r).plm.poison (512 * r.page + l) = true := by
  unfold State.endMove
  dsimp only
  generalize s.page r.page = e
  generalize 4 * e.die + e.chan = old
  have hmarked (l : Nat) (hl : l < 512) := State.marked_copyLines r.page old e.ppn hl s
  have hlines := State.LinesOnly.copyLines r.page old e.ppn s
  generalize s.copyLines r.page old e.ppn = u at hmarked hlines ⊢
  have hcopy := State.LinesOnly.countCopy old (4 * r.die + r.chan) r.ppn u
  generalize u.countCopy old (4 * r.die + r.chan) r.ppn = c at hcopy ⊢
  have hput := State.PlaceOnly.putPage r.page (e.moved r) c
  have hpage : (c.putPage r.page (e.moved r)).page r.page = e.moved r := by
    refine State.page_putPage (fun h => ?_) c
    have hst : (e.moved r).st = .mapped := rfl
    rw [h] at hst
    cases hst
  change _ = PageSt.mapped ∧ _
  generalize hv : c.putPage r.page _ = v
  change c.putPage r.page (e.moved r) = v at hv
  rw [hv] at hput hpage
  have hfree : v.LinesOnly ((v.dropPtb r.page).freePage old e.ppn) := (State.LinesOnly.dropPtb ..).trans (.freePage ..)
  have hwpage : ((v.dropPtb r.page).freePage old e.ppn).page r.page = e.moved r := (State.page_freePage ..).trans hpage
  generalize (v.dropPtb r.page).freePage old e.ppn = w at hfree hwpage ⊢
  have hstat : w.plm.statMove = s.plm.statMove := by
    have hp := (((hlines.only.trans hcopy.only).trans hput.only).trans hfree.only).plm
    unfold Plm.Same at hp
    rw [hp]
  refine ⟨?_, ?_, ?_, ?_, hfree.mem.trans (hput.mem.trans (hcopy.mem.trans hlines.mem)), congrArg satInc hstat, fun l hl h => hfree.marks _ ?_⟩
  · rw [State.page_moved, hwpage]
    rfl
  · rw [State.page_moved, hwpage]
    rfl
  · rw [State.page_moved, hwpage]
    rfl
  · rw [State.page_moved, hwpage]
    rfl
  · rw [hput.poison]
    exact hcopy.marks _ (hmarked l hl h)

/-- Settles O27: each step of the map engine by its grant and by what waits for it. -/
theorem pagePlacement : Obligations.PagePlacement := by
  unfold Obligations.PagePlacement
  intro d ch page s
  dsimp only
  refine ⟨fun p rest hworks hzero => ?_, fun hready hdue => ?_, fun hearly => ?_, fun r hworks hfind hst => ?_, fun r hfind => ?_,
    fun r hworks hfind => ?_, fun hidle => ⟨?_, ?_⟩⟩
  · have hexec : exec (.zeroFillPage d ch) s = execZeroFillPage d ch s := rfl
    rw [hexec, execZeroFillPage]
    dsimp only
    rw [hworks, hzero, if_neg (by decide)]
  · have hexec : exec .countingWindowEnd s = execCountingWindowEnd s := rfl
    rw [hexec, execCountingWindowEnd, if_neg (by simp [hready]; omega)]
    dsimp only
    have h2 : s.PlaceOnly (s.reported.foldl (fun (s : State) p => s.evaluate p) s).idleReplicas :=
      .trans (.foldl (fun u p => .evaluate p u) _ _) (.idleReplicas _)
    generalize State.idleReplicas _ = s2 at h2 ⊢
    generalize hs3 : ({ s2 with plm := { s2.plm with lastReads := _ } } : State) = s3
    have h3 : s3.plm.window = s2.plm.window ∧ s3.us = s2.us ∧ s3.plm.mem = s2.plm.mem ∧ s3.plm.poison = s2.plm.poison := by
      rw [← hs3]
      exact ⟨rfl, rfl, rfl, rfl⟩
    obtain ⟨hw3, hu3, hm3, hp3⟩ := h3
    have h4 := State.PlaceOnly.meetReserve s2.plm.replicas.length s3
    generalize State.meetReserve s2.plm.replicas.length s3 = s4 at h4 ⊢
    obtain ⟨hw2, -, hu2⟩ := h2.window
    obtain ⟨hw4, -, hu4⟩ := h4.window
    refine ⟨_, rfl, ?_, ?_, rfl, fun e => ?_, ?_, ?_⟩
    · exact congrArg (· + 1) (hw4.trans (hw3.trans hw2))
    · exact hu4.trans (hu3.trans hu2)
    · exact (congrArg Die.counts (Tab.get_map (fun x : Die => { x with counts := [] }) {} s4.dies e)).trans rfl
    · exact h4.mem.trans (hm3.trans h2.mem)
    · exact h4.poison.trans (hp3.trans h2.poison)
  · have hexec : exec .countingWindowEnd s = execCountingWindowEnd s := rfl
    rw [hexec, execCountingWindowEnd, if_pos (by rw [decide_eq_true hearly, Bool.or_true])]
  · have hexec : exec (.replicaCopyDone page d) s = execReplicaCopyDone page d s := rfl
    rw [hexec, execReplicaCopyDone, hworks, if_neg (by decide)]
    erw [hfind]
    dsimp only
    have hmem := List.find?_some hfind
    simp only [Bool.and_eq_true, decide_eq_true_eq] at hmem
    obtain ⟨-, hd⟩ := hmem
    generalize hv : ({ s with plm := { s.plm with copying := s.plm.copying.filter (· ≠ r) } } : State) = v
    have hpage : v.page page = s.page page := by rw [← hv]; rfl
    have hcopying : r ∉ v.plm.copying := by
      rw [← hv]
      exact fun h => of_decide_eq_true (List.mem_filter.mp h).2 rfl
    have hmem : v.plm.mem = s.plm.mem ∧ v.plm.statRepl = s.plm.statRepl := by rw [← hv]; exact ⟨rfl, rfl⟩
    rw [if_neg (by rw [hpage, hst]; decide)]
    refine ⟨_, rfl, ?_⟩
    have hfree (x : PageEnt) (hx : bit x.rmask d = true) : x ≠ {} := fun h => by
      rw [h, bit, Nat.zero_testBit] at hx
      cases hx
    generalize hridx : (if (v.page page).rmask = 0 then _ else _ : Nat) = ridx
    have hbit : bit ((v.page page).rmask ||| 2 ^ r.die) d = true := by rw [hd, bit_or_self]
    generalize hx : ({ v.page page with rmask := (v.page page).rmask ||| 2 ^ r.die, ridx := ridx } : PageEnt) = x
    have hxbit : bit x.rmask d = true := by rw [← hx, hbit]
    have hcopy : v.draw.2.LinesOnly (((v.draw.2.copyLines page (4 * (v.page page).die + (v.page page).chan) (v.page page).ppn).countCopy
        (4 * (v.page page).die + (v.page page).chan) (4 * r.die + r.chan) r.ppn).dropPtb page) :=
      ((State.LinesOnly.copyLines ..).trans (.countCopy ..)).trans (.dropPtb ..)
    have hclean (l : Nat) (hl : l < 512) : ((((v.draw.2.copyLines page (4 * (v.page page).die + (v.page page).chan) (v.page page).ppn).countCopy
        (4 * (v.page page).die + (v.page page).chan) (4 * r.die + r.chan) r.ppn).dropPtb page).chanAt (4 * r.die + r.chan)).errAt r.ppn l = {} :=
      (State.LinesOnly.dropPtb page _).sound _ _ _ (State.errAt_countCopy _ _ _ hl _)
    generalize State.dropPtb page _ = w at hcopy hclean ⊢
    have hput := State.PlaceOnly.putPage page x w
    have hstat : w.plm.statRepl = s.plm.statRepl := by
      have hp := hcopy.only.plm
      unfold Plm.Same at hp
      rw [hp]
      exact hmem.2
    have hkept : (w.putPage page x).plm.copying = w.plm.copying ∧
        ∀ i p l, (w.chanAt i).errAt p l = {} → ((w.putPage page x).chanAt i).errAt p l = {} := by
      by_cases hxp : x = w.page page
      · rw [State.putPage, if_pos hxp]
        exact ⟨rfl, fun _ _ _ h => h⟩
      · have hl := State.LinesOnly.putPage hxp
        exact ⟨hl.copying, hl.sound⟩
    refine ⟨?_, List.mem_append_right _ (List.mem_singleton.mpr rfl), ?_, ?_, ?_, fun l hl => ?_⟩
    · show r ∉ (w.putPage page x).plm.copying
      rw [hkept.1, hcopy.copying]
      exact hcopying
    · show bit ((w.putPage page x).page page).rmask d = true
      rw [State.page_putPage (hfree x hxbit), hxbit]
    · have hp := hput.only.plm
      unfold Plm.Same at hp
      show satInc (w.putPage page x).plm.statRepl = _
      rw [hp, ← hstat]
    · exact hput.mem.trans (hcopy.mem.trans hmem.1)
    · exact hkept.2 _ _ _ (hclean l hl)
  · have hexec : exec (.replicaRetireDone page d) s = execReplicaRetireDone page d s := rfl
    rw [hexec, execReplicaRetireDone]
    erw [hfind]
    rfl
  · have hexec : exec (.moveComplete page) s = execMoveComplete page s := rfl
    rw [hexec, execMoveComplete, hworks, if_neg (by decide)]
    erw [hfind]
    have hpage : r.page = page := of_decide_eq_true (List.find?_some (p := fun r : CopyRec => decide (r.page = page)) hfind)
    refine ⟨_, rfl, ?_⟩
    rw [← hpage]
    exact State.endMove_fields r s
  · have hexec : exec (.moveComplete page) s = execMoveComplete page s := rfl
    rw [hexec, execMoveComplete, hidle, if_pos (by decide)]
  · have hexec : exec (.replicaCopyDone page d) s = execReplicaCopyDone page d s := rfl
    rw [hexec, execReplicaCopyDone, hidle, if_pos (by decide)]

end Sys2Proof.Machine
end

section
/-! The release of a range and the loss of modules (R17, R20, R297, R298). -/

namespace Sys2Proof.Machine

/-- A byte that reads zero stays zero when a page is forgotten. -/
theorem Plm.byte_erasePage_zero {m : Plm} {a : Nat} (p : Nat) (h : m.byte a = 0) : (m.erasePage p).byte a = 0 := by
  by_cases ha : pageOf a = p
  · exact Tab.get_filter_of_not _ _ _ fun _ => decide_eq_false (not_not.mpr ha)
  · rw [Plm.byte_erasePage m ha, h]

theorem Plm.byte_erasePage_self (m : Plm) {a p : Nat} (h : pageOf a = p) : (m.erasePage p).byte a = 0 :=
  Tab.get_filter_of_not _ _ _ fun _ => decide_eq_false (not_not.mpr h)

theorem State.map_putPage_ne (s : State) {p q : Nat} (e : PageEnt) (h : q ≠ p) : Tab.get {} (s.putPage p e).plm.map q = Tab.get {} s.plm.map q := by
  unfold State.putPage State.writePageEntry
  split
  · rfl
  · rw [State.tableLine_map, State.setPage, Tab.get_set, if_neg h]

/-- A page that is unmapped and holds no byte. -/
structure State.Released (s : State) (p : Nat) : Prop where
  pin : s.pinned p = false
  entry : Tab.get {} s.plm.map p = {}
  bytes : ∀ a, pageOf a = p → s.plm.byte a = 0

/-- What a release frees before the page's entry goes. -/
theorem State.foldl_freePage_fields (xs : List (Nat × Nat)) (s : State) :
    (xs.foldl (fun (s : State) x => s.freePage x.1 x.2) s).plm.map = s.plm.map ∧ (xs.foldl (fun (s : State) x => s.freePage x.1 x.2) s).plm.mem = s.plm.mem ∧
      s.MemOnly (xs.foldl (fun (s : State) x => s.freePage x.1 x.2) s) := by
  have h : s.LinesOnly (xs.foldl (fun (s : State) x => s.freePage x.1 x.2) s) := .foldl (fun u x => .freePage x.1 x.2 u) xs s
  exact ⟨h.map, h.mem, h.only⟩

/-- What the release of a page leaves. -/
theorem State.releasePage_fields (p : Nat) (s : State) :
    s.MemOnly (s.releasePage p) ∧ (s.pinned p = false → (s.releasePage p).Released p) ∧
      ∀ q, s.Released q → (s.releasePage p).Released q := by
  unfold State.releasePage
  dsimp only
  obtain ⟨hmap, hmem, honly⟩ := State.foldl_freePage_fields (s.pagesOf p) s
  generalize (s.pagesOf p).foldl (fun (s : State) x => s.freePage x.1 x.2) s = u at hmap hmem honly ⊢
  have hpin (q : Nat) : u.pinned q = s.pinned q := State.pinned_congr honly.plm q
  have hput := State.PlaceOnly.putPage p {} u
  have hpinv (q : Nat) : (u.putPage p {}).pinned q = s.pinned q := (State.pinned_congr hput.only.plm q).trans (hpin q)
  have hentry (h : s.pinned p = false) : Tab.get {} (u.putPage p {}).plm.map p = {} := State.get_map_putPage u p {} ((hpin p).trans h)
  have hother (q : Nat) (h : q ≠ p) : Tab.get {} (u.putPage p {}).plm.map q = Tab.get {} s.plm.map q := by
    rw [State.map_putPage_ne u {} h, hmap]
  have hbyte (a : Nat) : (u.putPage p {}).plm.byte a = s.plm.byte a := by rw [Plm.byte_congr hput.mem, Plm.byte_congr hmem]
  have honlyv := honly.trans hput.only
  generalize u.putPage p {} = v at hpinv hentry hother hbyte honlyv ⊢
  refine ⟨?_, fun h => ⟨hpinv p ▸ h, hentry h, fun a ha => Plm.byte_erasePage_self v.plm ha⟩, fun q hq => ⟨(hpinv q).trans hq.pin, ?_, fun a ha => ?_⟩⟩
  · refine honlyv.trans (.trans ((State.MemOnly.dropPtb p).mpr (.refl v)) ?_)
    generalize v.dropPtb p = w
    have hp : w.plm.Same { w.plm.erasePage p with
        replicas := w.plm.replicas.filter fun r => decide (r.page ≠ p), copying := w.plm.copying.filter fun r => decide (r.page ≠ p),
        moves := w.plm.moves.filter fun r => decide (r.page ≠ p) } := rfl
    exact (State.MemOnly.write (t := w) (cxl := w.cxl) (tmk := w.tmk) (fresh := w.fresh) hp rfl rfl).mpr (.refl w)
  · by_cases h : q = p
    · subst h
      exact hentry hq.pin
    · exact (hother q h).trans hq.entry
  · exact Plm.byte_erasePage_zero p ((hbyte a).trans (hq.bytes a ha))

theorem State.released_foldl (ps : List Nat) {p : Nat} (s : State) (hpin : s.pinned p = false) (h : s.Released p ∨ p ∈ ps) :
    (ps.foldl (fun (s : State) p => s.releasePage p) s).Released p := by
  induction ps generalizing s with
  | nil => exact h.elim id fun hm => absurd hm List.not_mem_nil
  | cons q ps ih =>
    obtain ⟨honly, hself, hkept⟩ := State.releasePage_fields q s
    refine ih _ ((State.pinned_congr honly.plm p).trans hpin) ?_
    rcases h with h | hm
    · exact .inl (hkept p h)
    · rcases List.mem_cons.mp hm with rfl | hm
      · exact .inl (hself hpin)
      · exact .inr hm

theorem dieEdge_of {d m : Nat} (hd : d < 4) (h2 : 2 ≤ m) (h4 : m < 4) :
    dieEdge d m = if d = 0 then 3 * (m - 2) else if d = 1 then m - 2 else if d = 2 then m else m - 1 := by
  have hall : ∀ d : Fin 4, ∀ m : Fin 4, 2 ≤ m.val → dieEdge d m = if d.val = 0 then 3 * (m.val - 2) else if d.val = 1 then m.val - 2 else if d.val = 2 then m.val else m.val - 1 := by
    decide
  exact hall ⟨d, hd⟩ ⟨m, h4⟩ h2

/-- Settles O28: each step of a release and of a loss by its conditions. -/
theorem releaseAndDieLoss : Obligations.ReleaseAndDieLoss := by
  unfold Obligations.ReleaseAndDieLoss
  intro d s
  refine ⟨?_, fun hbusy => ?_, fun n hfind => ?_, fun m hm hbit => ?_, fun m h2 h4 => ?_⟩
  · dsimp only
    intro hbusy
    have hexec : exec .plmRelGo s = execPlmRelGo s := rfl
    rw [hexec, execPlmRelGo, if_neg (by rw [hbusy]; decide)]
    dsimp only [Plm.relRange]
    generalize (s.plm.regions.any fun r => r.2.valid && decide (r.2.base < s.plm.relBase + 32768 * s.plm.relPages) &&
      decide (s.plm.relBase < r.2.base + r.2.size)) = clash
    by_cases h : s.plm.relBase % 32768 = 0 ∧ clash = false
    · rw [if_pos h, if_neg (by rw [h.1, h.2]; decide)]
    · rw [if_neg h, if_pos (by by_contra hn; exact h (by simpa using hn))]
  · have hexec : exec .releaseDone s = execReleaseDone s := rfl
    rw [hexec, execReleaseDone, hbusy, if_neg (by decide)]
    dsimp only
    refine ⟨_, rfl, rfl, fun p hp hlo hhi hpin => ?_⟩
    have h := State.released_foldl ((s.plm.map.map (·.1)).filter fun p => decide (s.plm.relRun.1 ≤ 32768 * p) &&
        decide (32768 * p < s.plm.relRun.1 + 32768 * s.plm.relRun.2)) s hpin
      (.inr (List.mem_filter.mpr ⟨hp, by rw [decide_eq_true hlo, decide_eq_true hhi]; rfl⟩))
    generalize List.foldl _ s _ = u at h ⊢
    refine ⟨?_, h.bytes⟩
    show (u.page p).st = .unmapped
    rw [State.page_of_not_pinned h.pin, h.entry]
  · have hexec : exec (.dieLostWalkDone d) s = execDieLostWalkDone d s := rfl
    rw [hexec, execDieLostWalkDone]
    erw [hfind]
  · have hexec : exec (.ucieRetryFail d m) s = execUcieRetryFail d m s := rfl
    rw [hexec, execUcieRetryFail, if_pos hm]
    dsimp only
    rw [hbit, if_neg (by decide), State.die_modDie]
    dsimp only
    have hmods : ∀ x : BitVec 2, ∀ m < 2, x.getLsbD m = true → (x = 3 → x &&& ~~~(1#2 <<< m) ≠ 0) ∧ (x ≠ 3 → x &&& ~~~(1#2 <<< m) = 0) := by decide
    obtain ⟨hboth, hone⟩ := hmods (s.die d).hubMods m hm hbit
    refine ⟨fun h => ?_, fun h => ?_⟩
    · rw [if_neg (hboth h)]
    · rw [if_pos (hone h)]
  · have hexec : exec (.ucieRetryFail d m) s = execUcieRetryFail d m s := rfl
    rw [hexec, execUcieRetryFail, if_neg (by omega), if_pos h4, dieEdge_of d.isLt h2 h4]

end Sys2Proof.Machine
end

section
/-! The DDR4 channels: evacuation, scrub, refresh, training, errors and addresses (R299, R302 to R308). -/

namespace Sys2Proof.Machine

/-! ### Codewords (R306) -/

theorem meets_uncorrectable_foldl (ws : List CwErr) : ws.foldl DdrMeet.next .uncorrectable = .uncorrectable := by
  induction ws with
  | nil => rfl
  | cons w ws ih => cases w <;> exact ih

/-- A line that needs lane `i` stays so while every further codeword is clean or names the same lane. -/
theorem meets_corrected_foldl (ws : List CwErr) (i lane : Fin 18) :
    ws.foldl DdrMeet.next (.corrected i) = .corrected lane ↔ i = lane ∧ ∀ w ∈ ws, w = .none ∨ w = .lane lane := by
  induction ws generalizing i with
  | nil => simp [Fin.ext_iff]
  | cons w ws ih =>
    cases w with
    | none => simpa [show (DdrMeet.corrected ↑i).next .none = .corrected ↑i from rfl] using ih i
    | lane j =>
      rw [List.foldl_cons, DdrMeet.next]
      by_cases hij : (i : Nat) = j
      · rw [if_pos hij, ih i, List.forall_mem_cons, CwErr.lane.injEq, Fin.ext hij]
        constructor
        · rintro ⟨rfl, hws⟩
          exact ⟨rfl, .inr rfl, hws⟩
        · rintro ⟨rfl, -, hws⟩
          exact ⟨rfl, hws⟩
      · rw [if_neg hij, meets_uncorrectable_foldl]
        refine ⟨fun h => (nomatch h), ?_⟩
        rintro ⟨rfl, hws⟩
        rcases hws _ (.head _) with h | h
        · cases h
        · cases h
          exact absurd rfl hij
    | beyond =>
      rw [List.foldl_cons, DdrMeet.next, meets_uncorrectable_foldl]
      · refine ⟨fun h => (nomatch h), fun h => ?_⟩
        rcases h.2 _ (.head _) with h | h <;> cases h
      all_goals simp

theorem meets_corrected_ne_clean (ws : List CwErr) (i : Nat) : ws.foldl DdrMeet.next (.corrected i) ≠ .clean := by
  induction ws generalizing i with
  | nil => simp
  | cons w ws ih =>
    cases w with
    | none => exact ih i
    | lane j =>
      rw [List.foldl_cons, DdrMeet.next]
      split
      · exact ih i
      · rw [meets_uncorrectable_foldl]
        simp
    | beyond => rw [show (CwErr.beyond :: ws).foldl DdrMeet.next (.corrected i) = ws.foldl DdrMeet.next .uncorrectable from rfl, meets_uncorrectable_foldl]; simp

theorem meets_clean_foldl (ws : List CwErr) : ws.foldl DdrMeet.next .clean = .clean ↔ ∀ w ∈ ws, w = .none := by
  induction ws with
  | nil => simp
  | cons w ws ih =>
    cases w with
    | none => simpa [show DdrMeet.clean.next .none = .clean from rfl] using ih
    | lane j => simpa [DdrMeet.next] using meets_corrected_ne_clean ws j
    | beyond =>
      rw [show (CwErr.beyond :: ws).foldl DdrMeet.next .clean = ws.foldl DdrMeet.next .uncorrectable from rfl, meets_uncorrectable_foldl]
      simp

theorem meets_lane_foldl (ws : List CwErr) (lane : Fin 18) :
    ws.foldl DdrMeet.next .clean = .corrected lane ↔ (∃ w ∈ ws, w ≠ .none) ∧ ∀ w ∈ ws, w = .none ∨ w = .lane lane := by
  induction ws with
  | nil => simp
  | cons w ws ih =>
    cases w with
    | none => simpa [show DdrMeet.clean.next .none = .clean from rfl] using ih
    | lane j =>
      rw [show (CwErr.lane j :: ws).foldl DdrMeet.next .clean = ws.foldl DdrMeet.next (.corrected j) from rfl, meets_corrected_foldl]
      simp
    | beyond =>
      rw [show (CwErr.beyond :: ws).foldl DdrMeet.next .clean = ws.foldl DdrMeet.next .uncorrectable from rfl, meets_uncorrectable_foldl]
      simp

/-! ### Where a line lies (R304) -/

/-- The parts of a word that a DRAM address keeps give the word back: it is put together of its low bits, its middle and its rest. -/
theorem eq_of_div_mod (a b : Nat) {p q : Nat} (h0 : p % a = q % a) (h1 : p / a % b = q / a % b) (h2 : p / (a * b) = q / (a * b)) : p = q := by
  have hdiv : p / a = q / a := by
    rw [← Nat.div_div_eq_div_mul, ← Nat.div_div_eq_div_mul] at h2
    rw [← Nat.div_add_mod (p / a) b, ← Nat.div_add_mod (q / a) b, h1, h2]
  rw [← Nat.div_add_mod p a, ← Nat.div_add_mod q a, h0, hdiv]

theorem Chan.dramAddr_injective (x : Chan) {p l q m : Nat} (hl : l < 512) (hm : m < 512) (h : x.dramAddr p l = x.dramAddr q m) :
    p = q ∧ l = m := by
  simp only [Chan.dramAddr, DramAddr.mk.injEq, bits, Nat.shiftRight_eq_div_pow] at h
  obtain ⟨hgroup, hbank, hcol, hrow, hrank, hchip⟩ := h
  have hhi : p / 2 ^ (x.rowBits + 2) = q / 2 ^ (x.rowBits + 2) := by
    rw [← Nat.div_add_mod (p / 2 ^ (x.rowBits + 2)) (x.pranks + 1), ← Nat.div_add_mod (q / 2 ^ (x.rowBits + 2)) (x.pranks + 1), hrank, hchip]
  norm_num at hgroup hbank hcol
  refine ⟨eq_of_div_mod 4 (2 ^ x.rowBits) (by omega) ?_ ?_, by omega⟩
  · rwa [show x.rowBits + 1 + 1 - 2 = x.rowBits by omega] at hrow
  · rwa [pow_add, Nat.mul_comm] at hhi

/-! ### Training (R303) -/

theorem State.chanAt_record (s : State) (a b : Nat) (c : List Byte) (i : Nat) : (s.record a b c).chanAt i = s.chanAt i := rfl

theorem State.chanAt_trainChan (s : State) (i n : Nat) (h : (s.chanAt i).st = .training) :
    ((s.trainChan (i, n)).chanAt i).st = if n = 0 then .ready else .failed := by
  rw [State.trainChan, if_neg (not_not.mpr h)]
  dsimp only
  split
  · rw [State.chanAt_setChan]
  · rw [State.chanAt_record, State.chanAt_setChan]

theorem State.chanAt_trainChan_ne (s : State) {i : Nat} (x : Nat × Nat) (h : i ≠ x.1) : (s.trainChan x).chanAt i = s.chanAt i := by
  rw [State.trainChan]
  split
  · rfl
  · split
    · rw [State.chanAt_setChan_ne _ _ h]
    · rw [State.chanAt_record, State.chanAt_setChan_ne _ _ h]

theorem State.chanAt_trainChans_ne (l : List Nat) (f : Nat → Nat) (s : State) {i : Nat} (h : i ∉ l) :
    ((l.map fun j => (j, f j)).foldl State.trainChan s).chanAt i = s.chanAt i := by
  induction l generalizing s with
  | nil => rfl
  | cons j l ih =>
    rw [List.mem_cons, not_or] at h
    rw [List.map_cons, List.foldl_cons, ih _ h.2, State.chanAt_trainChan_ne _ _ h.1]

/-- Each channel is trained once: a channel in TRAINING ends by its own failing step. -/
theorem State.chanAt_trainChans (l : List Nat) (hl : l.Nodup) (f : Nat → Nat) (s : State) {i : Nat} (h : i ∈ l) (hst : (s.chanAt i).st = .training) :
    (((l.map fun j => (j, f j)).foldl State.trainChan s).chanAt i).st = if f i = 0 then .ready else .failed := by
  induction l generalizing s with
  | nil => cases h
  | cons j l ih =>
    obtain ⟨hj, hl⟩ := List.nodup_cons.mp hl
    rw [List.map_cons, List.foldl_cons]
    by_cases hij : i = j
    · subst hij
      rw [State.chanAt_trainChans_ne l f _ hj, State.chanAt_trainChan _ _ _ hst]
    · exact ih hl _ ((List.mem_cons.mp h).resolve_left hij) (by rw [State.chanAt_trainChan_ne _ _ hij]; exact hst)

/-! ### Scrub (R307) -/

theorem State.setChan_setChan (s : State) (i : Nat) (x y : Chan) : (s.setChan i x).setChan i y = s.setChan i y := by
  simp only [State.setChan, Tab.insert_insert]

theorem State.chanAt_snoop (s : State) (i line : Nat) (inv : Bool) : (s.snoop line inv).chanAt i = s.chanAt i := by
  unfold State.snoop
  split <;> rfl

/-- A pass over a channel with one stored error meets that line once, and counts itself. -/
theorem ddrPatrolScrub_one (d : DieId) (ch : ChanId) (s : State) {ppn line : Nat} {e : DdrErr} (hst : (s.chanAt (4 * d.val + ch.val)).st = .ready)
    (hperiod : (s.chanAt (4 * d.val + ch.val)).scrubPeriod ≠ 0) (hworks : s.works (ddrUnit (4 * d.val + ch.val)) = true) (hline : line < 512)
    (hdamage : (s.chanAt (4 * d.val + ch.val)).damage = [(512 * ppn + line, e)]) :
    ∃ u, exec (.ddrPatrolScrub d ch) s = .next u ∧ u.chanAt (4 * d.val + ch.val) =
      let x := ((s.countLines (4 * d.val + ch.val) false (512 * gibPages * (s.chanAt (4 * d.val + ch.val)).gib)).meetLine
        (4 * d.val + ch.val) ppn line).2.chanAt (4 * d.val + ch.val)
      { x with scrubPass := satInc x.scrubPass } := by
  have hexec : exec (.ddrPatrolScrub d ch) s = execDdrPatrolScrub d ch s := rfl
  rw [hexec, execDdrPatrolScrub]
  dsimp only
  rw [if_neg (by simp [hst, hperiod, hworks]), hdamage, List.foldl_cons, List.foldl_nil]
  dsimp only
  rw [show (512 * ppn + line) / 512 = ppn by omega, show (512 * ppn + line) % 512 = line by omega]
  generalize (s.countLines _ _ _).meetLine _ ppn line = r
  refine ⟨_, rfl, ?_⟩
  rw [State.chanAt_setChan]
  split
  · split
    · rw [State.chanAt_snoop]
    · rfl
  · rfl

/-- Settles O29: each command is its own rule; a line's outcome is a fold over its codewords, and an address splits a line's number into fields that
give it back. -/
theorem ddrChannels : Obligations.DdrChannels := by
  intro d ch s
  dsimp only
  have hlt : 4 * d.val + ch.val ∈ List.range 16 := by
    have := d.isLt
    have := ch.isLt
    rw [List.mem_range]
    omega
  refine ⟨fun hst hway hworks => ?_, fun hst hperiod hworks => ⟨fun hdamage => ?_, fun ppn line e hline hdamage => ?_⟩, fun t hself => ?_, fun t hself hst => ?_,
    fun failed hready => ⟨fun hst => State.chanAt_trainChans _ List.nodup_range _ _ hlt hst, fun hgib => ?_, fun hgib => ?_⟩,
    fun e => ⟨meets_clean_foldl _, meets_lane_foldl _⟩, fun p l q m hl hm h => Chan.dramAddr_injective _ hl hm h⟩
  · have hexec : exec (.evacuationDone d ch) s = execEvacuationDone d ch s := rfl
    rw [hexec, execEvacuationDone]
    dsimp only
    rw [if_neg (by simp [hst, hway, hworks])]
    constructor <;> intro hleft
    · rw [if_pos hleft]
    · rw [if_neg hleft]
  · have hexec : exec (.ddrPatrolScrub d ch) s = execDdrPatrolScrub d ch s := rfl
    rw [hexec, execDdrPatrolScrub]
    dsimp only
    rw [if_neg (by simp [hst, hperiod, hworks]), hdamage, List.foldl_nil, State.countLines, State.chanAt_setChan]
    rw [if_neg Bool.false_ne_true, State.setChan_setChan, hdamage]
  · obtain ⟨u, hu, hchan⟩ := ddrPatrolScrub_one d ch s hst hperiod hworks hline hdamage
    have herr : ((s.countLines (4 * d.val + ch.val) false (512 * gibPages * (s.chanAt (4 * d.val + ch.val)).gib)).chanAt
        (4 * d.val + ch.val)).errAt ppn line = e := by
      rw [State.countLines, State.chanAt_setChan]
      simp [Chan.errAt, hdamage, Tab.get]
    rw [State.meetLine, herr] at hchan
    refine ⟨fun lane hmeets => ⟨u, hu, ?_⟩, fun hmeets => ⟨u, hu, ?_⟩⟩
    · rw [hmeets] at hchan
      rw [hchan]
      simp [State.mendLine, State.countLine, State.countLines, State.ddrCe, hdamage, Tab.set, Tab.erase]
    · rw [hmeets] at hchan
      rw [hchan]
      simp [State.ddrUe, State.chanAt_record, State.countLines]
  · have hexec : exec (.ddrRefresh d ch t) s = execDdrRefresh d ch t s := rfl
    rw [hexec, execDdrRefresh]
    simp [hself]
  · have hexec : exec (.ddrRefresh d ch t) s = execDdrRefresh d ch t s := rfl
    rw [hexec, execDdrRefresh]
    dsimp only
    rw [if_pos (by rcases hst with h | h | h <;> simp [hself, h])]
  · have hexec : exec (.ddrTrainDone failed) s = execDdrTrainDone failed s := rfl
    rw [hexec, execDdrTrainDone, if_neg (by rw [hready]; decide)]
    dsimp only
    rw [if_pos hgib]
  · have hexec : exec (.ddrTrainDone failed) s = execDdrTrainDone failed s := rfl
    rw [hexec, execDdrTrainDone, if_neg (by rw [hready]; decide)]
    dsimp only
    rw [if_neg hgib]

end Sys2Proof.Machine
end

section
/-! What sending over Korpor and aborting its operations leave of the ports and the ring (R317, R318, R332). -/

namespace Sys2Proof.Machine

variable {x y z : Port} {s t u : State}

/-! ### Sending -/

/-- A port after it has sent: its link and its receive buffers are as they were, and without a link it is unchanged. -/
structure Port.SendsTo (x y : Port) : Prop where
  only : y = { x with txq := y.txq, replayBuf := y.replayBuf, txSeq := y.txSeq, credits := y.credits, ackDue := y.ackDue, credDue := y.credDue,
                      wire := y.wire, sinceIdle := y.sinceIdle }
  down : x.linked = false → y = x

theorem Port.SendsTo.refl (x : Port) : x.SendsTo x := ⟨rfl, fun _ => rfl⟩

theorem Port.SendsTo.linked (h : x.SendsTo y) : y.linked = x.linked := by rw [h.only]; rfl

theorem Port.SendsTo.trans (h : x.SendsTo y) (g : y.SendsTo z) : x.SendsTo z where
  only := by rw [g.only, h.only]
  down hx := by rw [g.down (h.linked.trans hx), h.down hx]

/-- States that differ in what their ports have sent. -/
structure State.SendsOnly (s t : State) : Prop where
  only : t = { s with kl := { s.kl with ports := t.kl.ports }, fresh := t.fresh }
  port : ∀ q, (s.port q).SendsTo (t.port q)

namespace State.SendsOnly

theorem refl (s : State) : s.SendsOnly s := ⟨rfl, fun _ => .refl _⟩

theorem trans (h : s.SendsOnly t) (g : t.SendsOnly u) : s.SendsOnly u where
  only := by rw [g.only, h.only]
  port q := (h.port q).trans (g.port q)

theorem draw (s : State) : s.SendsOnly s.draw.2 := ⟨rfl, fun _ => .refl _⟩

theorem modPort {p : Nat} {f : Port → Port} (h : (s.port p).SendsTo (f (s.port p))) : s.SendsOnly (s.modPort p f) where
  only := rfl
  port q := by
    by_cases hq : q = p
    · rw [hq, State.port_modPort]
      exact h
    · rw [State.port_modPort_ne _ _ hq]
      exact .refl _

theorem foldl {α : Type} (l : List α) (f : State → α → State) (h : ∀ (s : State) a, s.SendsOnly (f s a)) (s : State) : s.SendsOnly (l.foldl f s) := by
  induction l generalizing s with
  | nil => exact .refl _
  | cons a l ih => exact (h s a).trans (ih _)

end State.SendsOnly

theorem Port.linked_of_up (h : x.st = .up) : x.linked = true := by rw [Port.linked, h]; rfl

/-- A flit on the wire frees the acknowledgement and the credits it carries. -/
theorem Port.transmit_only (f : Flit) (seq : Nat) (nak : Bool) (x : Port) :
    x.transmit f seq nak = { x with ackDue := (x.transmit f seq nak).ackDue, credDue := (x.transmit f seq nak).credDue,
                                    wire := (x.transmit f seq nak).wire, sinceIdle := (x.transmit f seq nak).sinceIdle } := by
  unfold Port.transmit
  dsimp only
  split
  · rfl
  · split <;> rfl

theorem Port.sendsTo_sendFlit (c v : Nat) (h : x.st = .up) : x.SendsTo (x.sendFlit c v) where
  only := by
    have h := Port.transmit_only (flitFrom (x.flitItems c v)) x.txSeq false x
    unfold Port.sendFlit
    dsimp only
    generalize x.transmit (flitFrom (x.flitItems c v)) x.txSeq false = y at h ⊢
    rw [h]
  down hx := by simp [Port.linked_of_up h] at hx

theorem State.sendsOnly_pumpN (p n : Nat) (s : State) : s.SendsOnly (s.pumpN p n) := by
  induction n generalizing s with
  | zero => exact .refl _
  | succ n ih =>
    rw [State.pumpN]
    dsimp only
    split
    · exact .refl _
    next hgo =>
      split
      · exact .refl _
      · exact ((State.SendsOnly.draw s).trans (.modPort (Port.sendsTo_sendFlit _ _ (not_not.mp (not_or.mp hgo).1)))).trans (ih _)

theorem State.sendsOnly_pump (p : Nat) (s : State) : s.SendsOnly (s.pump p) := State.sendsOnly_pumpN p _ s

theorem State.sendsOnly_sendOn (p : Nat) (i : TxItem) (s : State) : s.SendsOnly (s.sendOn p i) := by
  rw [State.sendOn]
  split
  next h => exact (State.SendsOnly.modPort ⟨rfl, fun hx => by simp [h] at hx⟩).trans (State.sendsOnly_pump p _)
  · exact .refl _

theorem State.sendsOnly_sendRing (ring b : Nat) (body : TxBody) (s : State) : s.SendsOnly (s.sendRing ring b body) := by
  rw [State.sendRing]
  split
  · exact .refl _
  · exact State.sendsOnly_sendOn _ _ _

theorem State.sendsOnly_sendBoth (m : RingMsg) (s : State) : s.SendsOnly (s.sendBoth m) :=
  (State.sendsOnly_sendRing 0 0 _ s).trans (State.sendsOnly_sendRing 1 0 _ _)

theorem State.sendsOnly_passOn (p ring b : Nat) (body : TxBody) (s : State) : s.SendsOnly (s.passOn p ring b body) := State.sendsOnly_sendOn _ _ _

/-! ### Aborting -/

/-- A port after its operations have been aborted: its link is as it was, and without one its replay buffer too. -/
structure Port.LinkKept (x y : Port) : Prop where
  only : y = { x with txq := y.txq, replayBuf := y.replayBuf, txSeq := y.txSeq, credits := y.credits, ackDue := y.ackDue, credDue := y.credDue,
                      wire := y.wire, sinceIdle := y.sinceIdle, rx := y.rx }
  down : x.linked = false → y.replayBuf = x.replayBuf

theorem Port.LinkKept.refl (x : Port) : x.LinkKept x := ⟨rfl, fun _ => rfl⟩

theorem Port.LinkKept.trans (h : x.LinkKept y) (g : y.LinkKept z) : x.LinkKept z where
  only := by rw [g.only, h.only]
  down hx := by rw [g.down (by rw [h.only]; exact hx), h.down hx]

theorem Port.SendsTo.linkKept (h : x.SendsTo y) : x.LinkKept y where
  only := by
    have hrx : y.rx = x.rx := by rw [h.only]
    rw [hrx]
    exact h.only
  down hx := by rw [h.down hx]

/-- States that differ in what ports have sent or discarded, whatever became of the ring. -/
def State.LinksKept (s t : State) : Prop := ∀ q, (s.port q).LinkKept (t.port q)

theorem State.LinksKept.trans (h : s.LinksKept t) (g : t.LinksKept u) : s.LinksKept u := fun q => (h q).trans (g q)

theorem State.SendsOnly.linksKept (h : s.SendsOnly t) : s.LinksKept t := fun q => (h.port q).linkKept

/-- Applying a function to every port leaves the rest of the state. -/
theorem State.allPorts_only (f : Port → Port) (s : State) : s.allPorts f = { s with kl := { s.kl with ports := (s.allPorts f).kl.ports } } := by
  have h (l : List Nat) (s : State) : l.foldl (fun (s : State) p => s.modPort p f) s =
      { s with kl := { s.kl with ports := (l.foldl (fun (s : State) p => s.modPort p f) s).kl.ports } } := by
    induction l generalizing s with
    | nil => rfl
    | cons p l ih => rw [List.foldl_cons, ih]; rfl
  exact h _ s

theorem State.port_allPorts (f : Port → Port) (s : State) {p : Nat} (h : p < 4) : (s.allPorts f).port p = f (s.port p) := by
  have hcase : p = 0 ∨ p = 1 ∨ p = 2 ∨ p = 3 := by omega
  have hfold : s.allPorts f = (((s.modPort 0 f).modPort 1 f).modPort 2 f).modPort 3 f := rfl
  rw [hfold]
  rcases hcase with rfl | rfl | rfl | rfl <;> simp [State.port_modPort_ne]

theorem State.port_allPorts_ge (f : Port → Port) (s : State) {p : Nat} (h : 4 ≤ p) : (s.allPorts f).port p = s.port p := by
  have hfold : s.allPorts f = (((s.modPort 0 f).modPort 1 f).modPort 2 f).modPort 3 f := rfl
  rw [hfold, State.port_modPort_ne _ _ (by omega), State.port_modPort_ne _ _ (by omega), State.port_modPort_ne _ _ (by omega),
    State.port_modPort_ne _ _ (by omega)]

theorem Port.linkKept_discard (gone : Nat → Bool) (x : Port) : x.LinkKept (x.discard gone) := ⟨rfl, fun _ => rfl⟩

theorem State.linksKept_allPorts {f : Port → Port} (h : ∀ x : Port, x.LinkKept (f x)) (s : State) : s.LinksKept (s.allPorts f) := fun p => by
  by_cases hp : p < 4
  · rw [State.port_allPorts _ _ hp]
    exact h _
  · rw [State.port_allPorts_ge _ _ (by omega)]
    exact .refl _

/-- The ring's own registers: what an abort of its operations leaves. -/
def State.RingKept (s t : State) : Prop :=
  t.kl = { s.kl with ports := t.kl.ports, ops := t.kl.ops, opCause := t.kl.opCause, statAbort := t.kl.statAbort, given := t.kl.given, queued := t.kl.queued }

theorem State.RingKept.refl (s : State) : s.RingKept s := rfl

theorem State.RingKept.trans (h : s.RingKept t) (g : t.RingKept u) : s.RingKept u := by
  unfold State.RingKept at *
  rw [g, h]

theorem State.SendsOnly.ringKept (h : s.SendsOnly t) : s.RingKept t := by
  rw [h.only]
  rfl

theorem State.records_kl (l : List RingOp) (f : RingOp → List Byte) (s : State) :
    (l.foldl (fun (s : State) o => s.record 0x0054 4 (f o)) s).kl = s.kl := by
  induction l generalizing s with
  | nil => rfl
  | cons o l ih => exact ih _

theorem State.abortOps_kept (which : RingOp → Bool) (cause : Nat) (s : State) :
    s.LinksKept (s.abortOps which cause) ∧ s.RingKept (s.abortOps which cause) := by
  rw [State.abortOps]
  dsimp only
  split
  · exact ⟨fun _ => .refl _, .refl _⟩
  · constructor
    · refine fun p => .trans (State.linksKept_allPorts (fun x => Port.linkKept_discard
        (fun i => (s.kl.ops.filter fun o : RingOp => !o.ended && decide (o.phase ≠ .aborted) && which o).any fun o => decide (o.opid = i)) x) s p) ?_
      unfold State.port
      dsimp only
      rw [State.records_kl]
      exact .refl _
    · unfold State.RingKept
      dsimp only
      rw [State.records_kl, State.allPorts_only]

theorem State.abortAll_kept (cause : Nat) (s : State) : s.LinksKept (s.abortAll cause) ∧ s.RingKept (s.abortAll cause) := by
  rw [State.abortAll]
  split
  · exact ⟨(State.abortOps_kept _ _ _).1.trans (State.sendsOnly_sendBoth _ _).linksKept,
      (State.abortOps_kept _ _ _).2.trans (State.sendsOnly_sendBoth _ _).ringKept⟩
  · exact ⟨fun _ => .refl _, .refl _⟩

theorem State.linksKept_breakRing (cause : Nat) (s : State) : s.LinksKept (s.breakRing cause) := by
  rw [State.breakRing]
  split
  · exact (State.abortAll_kept _ { s with kl := { s.kl with st := .broken } }).1
  · exact fun _ => .refl _

theorem State.linksKept_hopLost (r : Nat) (s : State) : s.LinksKept (s.hopLost r) := by
  rw [State.hopLost]
  split
  · exact (State.abortAll_kept 2 { s with kl := { s.kl with st := .wrapped, wrapRank := r } }).1
  · split
    · exact fun _ => .refl _
    · exact State.linksKept_breakRing _ _
  · exact fun _ => .refl _

/-- A port that has lost its link, as `portGone` leaves it. -/
def Port.unlinked (st : PortSt) (us : Nat) (x : Port) : Port :=
  { x with st := st, since := us, width := 0, gen := false, farOk := false, txq := [], replayBuf := [], rx := [], credDue := [0, 0, 0] }

/-- A port that loses its link keeps its own settings, and its transmitter is empty, whatever its hop and its operations do. -/
theorem State.port_portGone (p : Nat) {st : PortSt} (hup : st ≠ .up) (hre : st ≠ .retrain) (s : State) :
    ((s.portGone p st).port p).st = st ∧ ((s.portGone p st).port p).en = (s.port p).en ∧ ((s.portGone p st).port p).maxgen = (s.port p).maxgen ∧
      ((s.portGone p st).port p).replayBuf = [] := by
  generalize hv : s.modPort p (Port.unlinked st s.us) = v
  have hport : v.port p = (s.port p).unlinked st s.us := by rw [← hv, State.port_modPort]
  have hkept : v.LinksKept (s.portGone p st) := by
    rw [State.portGone, ← hv]
    split
    · exact fun _ => .refl _
    · split
      · split
        · exact (State.abortAll_kept _ _).1
        · exact fun _ => .refl _
      · exact State.linksKept_hopLost _ _
  have hlinked : (v.port p).linked = false := by
    rw [hport, Port.unlinked, Port.linked, decide_eq_false hup, decide_eq_false hre]
    rfl
  have hdown := (hkept p).down hlinked
  refine ⟨?_, ?_, ?_, by rw [hdown, hport]; rfl⟩ <;> rw [(hkept p).only, hport] <;> rfl

end Sys2Proof.Machine
end

section
/-! Enabling and training a Korpor port (R313, R314). -/

namespace Sys2Proof.Machine

theorem State.modPort_modPort (p : Nat) (f g : Port → Port) (s : State) : (s.modPort p f).modPort p g = s.modPort p (g ∘ f) := by
  rw [State.modPort, State.port_modPort, State.modPort, Tab.insert_insert]
  rfl

theorem State.trainPort_of_ne (p : Nat) {s : State} (h : (s.port p).st ≠ .down) : s.trainPort p = s := by rw [State.trainPort, if_neg h]

/-- The width of four locked lanes, the lanes read one by one. -/
theorem widthOf_eq (l : BitVec 4) : widthOf l = if ∀ i : Fin 4, l.getLsbD i = true then 3 else if l.getLsbD 0 = true ∧ l.getLsbD 1 = true then 1
    else if l.getLsbD 2 = true ∧ l.getLsbD 3 = true then 2 else 0 := by
  revert l
  decide

/-- Settles O30: each clause is the command's own branch; a disabled port keeps its state through what its loss sets off. -/
theorem korporPorts : Obligations.KorporPorts := by
  intro p s
  dsimp only
  refine ⟨fun v hv hst => ?_, fun v hv hst => ?_, fun hst => ?_, fun hst hus => ?_, fun r hst hwidth hus => ?_, fun r hst hbad => ?_, widthOf_eq,
    fun hst hus => ?_, fun hst hus => ?_⟩
  · have hexec : exec (.klPortEnWrite p v) s = execKlPortEnWrite p v s := rfl
    rw [hexec, execKlPortEnWrite]
    dsimp only
    rw [hv, Bool.not_false]
    simp only [if_true]
    generalize ht : (s.modPort p fun x => { x with en := false, maxgen := v.getLsbD 1 }) = t
    have hport : t.port p = { s.port p with en := false, maxgen := v.getLsbD 1 } := by rw [← ht, State.port_modPort]
    have hlive : ¬ (t.port p).st = .disabled := by
      rw [hport]
      exact hst
    simp only [if_neg hlive]
    obtain ⟨hdis, hen, hmax, hbuf⟩ := t.port_portGone p (st := .disabled) (by decide) (by decide)
    rw [State.trainPort_of_ne p (by rw [hdis]; decide), ite_self]
    refine ⟨_, rfl, hdis, ?_, ?_, hbuf⟩
    · rw [hen, hport]
    · rw [hmax, hport]
  · have hexec : exec (.klPortEnWrite p v) s = execKlPortEnWrite p v s := rfl
    rw [hexec, execKlPortEnWrite]
    dsimp only
    rw [hv, Bool.not_true]
    simp only [Bool.false_eq_true, if_false]
    simp only [State.port_modPort, hst, if_true]
    cases hbit : v.getLsbD 2
    · rw [if_neg Bool.false_ne_true, State.modPort_modPort]
      rfl
    · rw [if_pos rfl, State.modPort_modPort, State.trainPort, if_pos (by rw [State.port_modPort]; rfl), State.modPort_modPort]
      rfl
  · have hexec : exec (.klPortTrain p) s = execKlPortTrain p s := rfl
    rw [hexec, execKlPortTrain, State.trainPort, if_pos hst]
  · have hexec : exec (.portTrainRetry p) s = execPortTrainRetry p s := rfl
    rw [hexec, execPortTrainRetry, if_pos hus, State.trainPort, if_pos hst]
  · have hexec : exec (.portTrainDone p r) s = execPortTrainDone p r s := rfl
    rw [hexec, execPortTrainDone, if_neg (not_not.mpr hst), if_neg (by omega)]
    rfl
  · have hexec : exec (.portTrainDone p r) s = execPortTrainDone p r s := rfl
    rw [hexec, execPortTrainDone, if_neg (not_not.mpr hst), if_pos hbad]
  · have hexec : exec (.portTrainTimeout p) s = execPortTrainTimeout p s := rfl
    rw [hexec, execPortTrainTimeout, if_neg (by omega), hst]
  · have hexec : exec (.portTrainTimeout p) s = execPortTrainTimeout p s := rfl
    rw [hexec, execPortTrainTimeout, if_neg (by omega), hst]

end Sys2Proof.Machine
end

section
/-! Flits, blocks and codewords as bytes, written and read back (R315, R316, R324). -/

namespace Sys2Proof.Machine

/-! ### Bytes -/

theorem leNat_leBytes (n v : Nat) : leNat (leBytes n v) = v % 256 ^ n := by
  induction n generalizing v with
  | zero => simp [leBytes, leNat, Nat.mod_one]
  | succ n ih =>
    rw [leBytes, leNat, ih, BitVec.toNat_ofNat, Nat.pow_succ 256, Nat.mul_comm _ 256, Nat.mod_mul]

theorem length_padTo (n : Nat) (bs : List Byte) : (padTo n bs).length = n := by
  rw [padTo, List.length_append, List.length_take, List.length_replicate]
  omega

theorem padTo_of_length {n : Nat} {bs : List Byte} (h : bs.length = n) : padTo n bs = bs := by
  rw [padTo, List.take_of_length_le h.le, h, Nat.sub_self, List.replicate_zero, List.append_nil]

theorem List.drop_flatMap_chunks {α β : Type} {k : Nat} {f : α → List β} (hf : ∀ a, (f a).length = k) (l : List α) (j : Nat) :
    (l.flatMap f).drop (k * j) = (l.drop j).flatMap f := by
  induction j generalizing l with
  | zero => rfl
  | succ j ih =>
    cases l with
    | nil => simp
    | cons a l =>
      rw [List.flatMap_cons, Nat.mul_succ, Nat.add_comm, ← List.drop_drop, List.drop_left' (hf a), List.drop_succ_cons, ih]

/-- A chunk of a list written chunk by chunk. -/
theorem List.take_drop_flatMap_chunks {α β : Type} {k : Nat} {f : α → List β} (hf : ∀ a, (f a).length = k) {l : List α} {j : Nat} (hj : j < l.length) :
    ((l.flatMap f).drop (k * j)).take k = f l[j] := by
  rw [List.drop_flatMap_chunks hf, List.drop_eq_getElem_cons hj, List.flatMap_cons, List.take_left' (hf _)]

/-! ### Blocks (R324) -/

theorem bits_eq (w hi lo : Nat) : bits w hi lo = w / 2 ^ lo % 2 ^ (hi + 1 - lo) := by rw [bits, Nat.shiftRight_eq_div_pow]

theorem bit_eq_decide (w k : Nat) : bit w k = decide (w / 2 ^ k % 2 = 1) := by rw [bit, Nat.testBit_eq_decide_div_mod_eq]

theorem sext_mod_64 {v : Int} (hlo : -32 ≤ v) (hhi : v ≤ 31) : sext (v % 64).toNat 6 = v := by
  unfold sext
  norm_num
  split <;> omega

theorem length_blockBytes {b : Block} (h : b.wf = true) : (blockBytes b).length = 68 := by
  simp only [Block.wf, Bool.and_eq_true, decide_eq_true_eq] at h
  rw [blockBytes, List.length_append, length_leBytes, List.length_flatMap]
  simp [length_leBytes, h.2]

/-- A block's header gives back each of its fields. -/
theorem blockHeader_fields {b : Block} (h : b.wf = true) : blockHeader b < 2 ^ 32 ∧ sext (bits (blockHeader b) 5 0) 6 = b.exp ∧
    bits (blockHeader b) 8 6 = b.esc ∧ bit (blockHeader b) 9 = b.poison ∧ bits (blockHeader b) 16 10 = b.res ∧ bits (blockHeader b) 24 17 = b.bseq := by
  simp only [Block.wf, Bool.and_eq_true, decide_eq_true_eq] at h
  obtain ⟨⟨⟨⟨⟨hlo, hhi⟩, hesc⟩, hres⟩, hbseq⟩, -⟩ := h
  have hexp := sext_mod_64 hlo hhi
  have he : (b.exp % 64).toNat < 64 := by omega
  have hp : b2n b.poison = if b.poison = true then 1 else 0 := rfl
  have hp1 : b2n b.poison ≤ 1 := by rw [hp]; split <;> omega
  simp only [bits_eq, bit_eq_decide, blockHeader]
  generalize (b.exp % 64).toNat = e at *
  norm_num
  refine ⟨by omega, ?_, by omega, ?_, by omega, by omega⟩
  · rw [show (e + 64 * (b.esc % 8) + 512 * b2n b.poison + 1024 * (b.res % 128) + 131072 * (b.bseq % 256)) % 64 = e by omega]
    exact hexp
  · rw [show (e + 64 * (b.esc % 8) + 512 * b2n b.poison + 1024 * (b.res % 128) + 131072 * (b.bseq % 256)) / 512 % 2 = b2n b.poison by omega, hp]
    cases b.poison <;> rfl

theorem blockOf_blockBytes {b : Block} (h : b.wf = true) : blockOf (blockBytes b) = b := by
  obtain ⟨hlt, hexp, hesc, hpoison, hres, hbseq⟩ := blockHeader_fields h
  have hhead : leNat ((blockBytes b).take 4) = blockHeader b := by
    rw [blockBytes, List.take_left' (length_leBytes 4 _), leNat_leBytes, Nat.mod_eq_of_lt (by omega)]
  have hlen : b.elems.length = 32 := by
    simp only [Block.wf, Bool.and_eq_true, decide_eq_true_eq] at h
    exact h.2
  have helems : ((List.range 32).map fun j => BitVec.ofNat 16 (leNat (((blockBytes b).drop (4 + 2 * j)).take 2))) = b.elems := by
    refine List.ext_getElem (by simp [hlen]) fun j hj hj' => ?_
    rw [List.getElem_map, List.getElem_range, blockBytes, ← List.drop_drop, List.drop_left' (length_leBytes 4 _),
      List.take_drop_flatMap_chunks (fun e => length_leBytes 2 _) hj', leNat_leBytes]
    apply BitVec.eq_of_toNat_eq
    rw [BitVec.toNat_ofNat]
    have := b.elems[j].isLt
    omega
  rw [blockOf, hhead, hexp, hesc, hpoison, hres, hbseq, helems]

/-! ### Flits (R315, R316) -/

theorem crc64Bit_lt {c : Nat} (h : c < 2 ^ 64) : crc64Bit c < 2 ^ 64 := by
  unfold crc64Bit
  split
  · exact Nat.xor_lt_two_pow (by omega) (by norm_num)
  · omega

theorem crc64Byte_lt {c : Nat} (h : c < 2 ^ 64) (b : Byte) : crc64Byte c b < 2 ^ 64 := by
  have hb : c ^^^ 2 ^ 56 * b.toNat < 2 ^ 64 := Nat.xor_lt_two_pow h (by have := b.isLt; omega)
  exact crc64Bit_lt (crc64Bit_lt (crc64Bit_lt (crc64Bit_lt (crc64Bit_lt (crc64Bit_lt (crc64Bit_lt (crc64Bit_lt hb)))))))

theorem crc64_lt (bs : List Byte) : crc64 bs < 2 ^ 64 := by
  have h (c : Nat) (hc : c < 2 ^ 64) : bs.foldl crc64Byte c < 2 ^ 64 := by
    induction bs generalizing c with
    | nil => exact hc
    | cons b bs ih => exact ih _ (crc64Byte_lt hc b)
  exact Nat.xor_lt_two_pow (h _ (by norm_num)) (by norm_num)

theorem length_flitBody (f : Flit) : (flitBody f).length = 280 := by
  rw [flitBody, List.length_append, length_leBytes, length_padTo]

theorem length_flitChecked (f : Flit) : (flitChecked f).length = 288 := by
  rw [flitChecked, List.length_append, length_flitBody, length_leBytes]

/-- A flit's header gives back each of its fields. -/
theorem flitHeader_fields {f : Flit} (h : f.wf = true) : flitHeader f < 2 ^ 64 ∧ bits (flitHeader f) 3 0 = f.ftype ∧
    bits (flitHeader f) 13 4 = f.txseq ∧ bits (flitHeader f) 23 14 = f.ackseq ∧ bit (flitHeader f) 24 = f.nak ∧ bits (flitHeader f) 26 25 = f.cvc ∧
    bits (flitHeader f) 31 27 = f.cred ∧ bits (flitHeader f) 33 32 = f.ring ∧ bits (flitHeader f) 35 34 = f.nblk ∧ bits (flitHeader f) 51 36 = f.opid := by
  simp only [Flit.wf, Bool.and_eq_true, decide_eq_true_eq] at h
  obtain ⟨⟨⟨⟨⟨⟨⟨⟨hftype, htx⟩, hack⟩, hcvc⟩, hcred⟩, hring⟩, hnblk⟩, hopid⟩, -⟩ := h
  have hn : b2n f.nak = if f.nak = true then 1 else 0 := rfl
  have hn1 : b2n f.nak ≤ 1 := by rw [hn]; split <;> omega
  simp only [bits_eq, bit_eq_decide, flitHeader, Nat.mod_eq_of_lt hftype, Nat.mod_eq_of_lt htx, Nat.mod_eq_of_lt hack, Nat.mod_eq_of_lt hcvc,
    Nat.mod_eq_of_lt hcred, Nat.mod_eq_of_lt hring, Nat.mod_eq_of_lt hnblk, Nat.mod_eq_of_lt hopid]
  norm_num
  refine ⟨by omega, by omega, by omega, by omega, ?_, by omega, by omega, by omega, by omega, by omega⟩
  rw [show (f.ftype + 16 * f.txseq + 16384 * f.ackseq + 16777216 * b2n f.nak + 33554432 * f.cvc + 134217728 * f.cred + 4294967296 * f.ring +
    17179869184 * f.nblk + 68719476736 * f.opid) / 16777216 % 2 = b2n f.nak by omega, hn]
  cases f.nak <;> rfl

theorem flitOf_flitChecked {f : Flit} (h : f.wf = true) : flitOf (flitChecked f) = some f := by
  obtain ⟨hlt, hftype, htx, hack, hnak, hcvc, hcred, hring, hnblk, hopid⟩ := flitHeader_fields h
  have hlen : f.payload.length = 272 := by
    simp only [Flit.wf, Bool.and_eq_true, decide_eq_true_eq] at h
    exact h.2
  have hbody : (flitChecked f).take 280 = flitBody f := List.take_left' (length_flitBody f)
  have hcrc : leNat (((flitChecked f).drop 280).take 8) = crc64 (flitBody f) := by
    rw [flitChecked, List.drop_left' (length_flitBody f), List.take_of_length_le (length_leBytes 8 _).le, leNat_leBytes,
      Nat.mod_eq_of_lt (lt_of_lt_of_eq (crc64_lt _) (by norm_num))]
  have hhead : leNat ((flitChecked f).take 8) = flitHeader f := by
    rw [flitChecked, flitBody, List.append_assoc, List.take_left' (length_leBytes 8 _), leNat_leBytes,
      Nat.mod_eq_of_lt (lt_of_lt_of_eq hlt (by norm_num))]
  have hpay : (flitBody f).drop 8 = f.payload := by
    rw [flitBody, List.drop_left' (length_leBytes 8 _), padTo_of_length hlen]
  rw [flitOf, hcrc, hbody, if_neg (not_not.mpr rfl), hhead]
  dsimp only
  rw [hpay, hftype, htx, hack, hnak, hcvc, hcred, hring, hnblk, hopid]

/-! ### Parity (R315) -/

theorem length_parityOf (cw : List Byte) : (parityOf cw).length = 16 := length_padTo _ _

theorem length_codeword (odd : Nat) (bs : List Byte) : (codeword odd bs).length = 144 := by simp [codeword]

theorem length_withParity {bs : List Byte} (h : bs.length = 288) : (withParity bs).length = 320 := by
  rw [withParity, List.length_append, List.length_append, h, length_parityOf, length_parityOf]

theorem codeword_withParity {bs : List Byte} (h : bs.length = 288) {odd : Nat} (hodd : odd ≤ 1) : codeword odd (withParity bs) = codeword odd bs := by
  refine List.map_congr_left fun i hi => ?_
  have := List.mem_range.mp hi
  rw [withParity, List.append_assoc, List.getD_append _ _ _ _ (by omega)]

theorem fecFix_parityOf (cw : List Byte) : fecFix cw (parityOf cw) = (cw, 0) := by rw [fecFix, if_pos rfl]

theorem flitFixed_withParity {bs : List Byte} (h : bs.length = 288) : flitFixed (withParity bs) = (bs, 0) := by
  have heven : ((withParity bs).drop 288).take 16 = parityOf (codeword 0 bs) := by
    rw [withParity, List.append_assoc, List.drop_left' h, List.take_left' (length_parityOf _)]
  have hodd : ((withParity bs).drop 304).take 16 = parityOf (codeword 1 bs) := by
    rw [withParity, List.drop_left' (by rw [List.length_append, h, length_parityOf]), List.take_of_length_le (length_parityOf _).le]
  rw [flitFixed, heven, hodd, codeword_withParity h (by decide), codeword_withParity h (by decide), fecFix_parityOf, fecFix_parityOf]
  refine Prod.ext (List.ext_getElem (by simp [h]) fun i hi hi' => ?_) rfl
  have hmod := Nat.div_add_mod i 2
  have hlt : i < 288 := by rw [← h]; exact hi'
  rw [List.getElem_map, List.getElem_range]
  split
  next heq =>
    rw [codeword, List.getD_eq_getElem _ _ (by simp; omega), List.getElem_map, List.getElem_range, List.getD_eq_getElem _ _ (by omega)]
    congr 1
    omega
  next hne =>
    rw [codeword, List.getD_eq_getElem _ _ (by simp; omega), List.getElem_map, List.getElem_range, List.getD_eq_getElem _ _ (by omega)]
    congr 1
    omega

/-- Lists of one length that differ in no byte are one list. -/
theorem eq_of_byteErrors_eq_zero {a b : List Byte} (hlen : a.length = b.length) (h : byteErrors a b = 0) : a = b := by
  rw [byteErrors, List.length_eq_zero_iff, List.filter_eq_nil_iff] at h
  refine List.ext_getElem hlen fun i hi hi' => ?_
  have := h (a[i], b[i]) (List.mem_iff_getElem.mpr ⟨i, by simp [hi, hi'], by simp⟩)
  simpa using this

theorem fecFix_near {cw par : List Byte} (hcw : cw.length = 144) (hpar : par.length = 16) : (fecFix cw par).2 ≤ 8 ∧
    ((fecFix cw par).2 = 0 → (fecFix cw par).1 = cw) ∧
    ((fecFix cw par).2 ≠ 0 → byteErrors ((fecFix cw par).1 ++ parityOf (fecFix cw par).1) (cw ++ par) = (fecFix cw par).2) := by
  unfold fecFix
  split
  · exact ⟨Nat.zero_le _, fun _ => rfl, fun h => absurd rfl h⟩
  · split
    next m _ =>
      split
      next hm =>
        refine ⟨hm.2, fun h => ?_, fun _ => rfl⟩
        have heq := eq_of_byteErrors_eq_zero (by simp [hm.1, hcw, hpar, length_parityOf]) h
        exact (List.append_inj heq (by rw [hm.1, hcw])).1
      · exact ⟨Nat.zero_le _, fun _ => rfl, fun h => absurd rfl h⟩
    · exact ⟨Nat.zero_le _, fun _ => rfl, fun h => absurd rfl h⟩

end Sys2Proof.Machine
end

section
/-! Flits as a port takes and sends them (R314, R315, R317, R318). -/

namespace Sys2Proof.Machine

variable {s : State} {p : Nat}

/-- What a port keeps while it takes a header or sends: its buffers and its place in the sequence. -/
def Port.RxKept (x y : Port) : Prop := y.rxSeq = x.rxSeq ∧ y.rx = x.rx ∧ y.crcErr = x.crcErr ∧ y.fec = x.fec

theorem Port.RxKept.refl (x : Port) : x.RxKept x := ⟨rfl, rfl, rfl, rfl⟩

theorem Port.RxKept.trans {x y z : Port} (h : x.RxKept y) (g : y.RxKept z) : x.RxKept z :=
  ⟨g.1.trans h.1, g.2.1.trans h.2.1, g.2.2.1.trans h.2.2.1, g.2.2.2.trans h.2.2.2⟩

theorem Port.SendsTo.rxKept {x y : Port} (h : x.SendsTo y) : x.RxKept y := by rw [h.only]; exact .refl _

theorem Port.rxKept_transmit (f : Flit) (seq : Nat) (nak : Bool) (x : Port) : x.RxKept (x.transmit f seq nak) := by
  rw [Port.transmit_only]
  exact .refl _

theorem Port.st_transmit (f : Flit) (seq : Nat) (nak : Bool) (x : Port) : (x.transmit f seq nak).st = x.st := by
  rw [Port.transmit_only]

theorem Port.rxKept_acked (seq : Nat) (x : Port) : x.RxKept (x.acked seq) := by
  rw [Port.acked]
  split <;> exact .refl _

theorem State.rxKept_modPort {f : Port → Port} (h : (s.port p).RxKept (f (s.port p))) : (s.port p).RxKept ((s.modPort p f).port p) := by
  rw [State.port_modPort]
  exact h

theorem State.rxKept_startRetrain (p : Nat) (s : State) : (s.port p).RxKept ((s.startRetrain p).port p) := State.rxKept_modPort (.refl _)

theorem State.rxKept_noteNak (p : Nat) (s : State) : (s.port p).RxKept ((s.noteNak p).port p) := by
  rw [State.noteNak]
  split
  · exact (State.rxKept_modPort (by exact .refl _)).trans (State.rxKept_startRetrain _ _)
  · exact State.rxKept_modPort (by exact .refl _)

/-- Replaying puts flits on the wire. -/
theorem Port.foldl_transmit (es : List TxFlit) (x : Port) : let y := es.foldl (fun (x : Port) e => x.transmit (flitFrom e.items) e.seq false) x
    x.RxKept y ∧ y.st = x.st ∧ y.replayBuf = x.replayBuf ∧ y.width = x.width := by
  induction es generalizing x with
  | nil => exact ⟨.refl _, rfl, rfl, rfl⟩
  | cons e es ih =>
    obtain ⟨hrx, hst, hbuf, hwidth⟩ := ih (x.transmit (flitFrom e.items) e.seq false)
    refine ⟨(Port.rxKept_transmit _ _ _ x).trans hrx, hst.trans (Port.st_transmit _ _ _ _), hbuf.trans ?_, hwidth.trans ?_⟩ <;>
      rw [Port.transmit_only]

theorem State.rxKept_replayPort (p : Nat) (s : State) : (s.port p).RxKept ((s.replayPort p).port p) := by
  rw [State.replayPort]
  dsimp only
  generalize hv : (if (s.port p).replayBuf = [] then s else _) = v
  have hkept : (s.port p).RxKept (v.port p) := by
    rw [← hv]
    split
    · exact .refl _
    · exact State.rxKept_modPort (Port.foldl_transmit _ _).1
  split
  · exact hkept.trans (State.rxKept_startRetrain _ _)
  · exact hkept

/-- A port none of whose flits has been replayed seven times comes out of a replay as it went in. -/
theorem State.port_replayPort (h : ∀ e ∈ (s.port p).replayBuf, e.replays < 7) :
    ((s.replayPort p).port p).st = (s.port p).st ∧ ((s.replayPort p).port p).width = (s.port p).width := by
  rw [State.replayPort]
  dsimp only
  split
  next hnil =>
    rw [if_neg (by rw [hnil]; simp)]
    exact ⟨rfl, rfl⟩
  · obtain ⟨-, hst, hbuf, hwidth⟩ := Port.foldl_transmit (s.port p).replayBuf (s.port p)
    rw [State.port_modPort, if_neg, State.port_modPort]
    · exact ⟨hst, hwidth⟩
    · rintro ⟨hany, -⟩
      dsimp only at hany
      rw [hbuf, List.any_map] at hany
      obtain ⟨e, he, h8⟩ := List.any_eq_true.mp hany
      have := h e he
      simp only [Function.comp, decide_eq_true_eq] at h8
      omega

theorem State.rxKept_takeHeader (p : Nat) (f : Flit) (s : State) : (s.port p).RxKept ((s.takeHeader p f).port p) := by
  rw [State.takeHeader]
  dsimp only
  refine .trans ?_ ((State.sendsOnly_pump p _).port p).rxKept
  generalize hv : s.modPort p _ = v
  have h1 : (s.port p).RxKept (v.port p) := by
    rw [← hv]
    exact State.rxKept_modPort (Port.rxKept_acked _ _)
  generalize hw : (if f.nak = true then v.noteNak p else v) = w
  have h2 : (v.port p).RxKept (w.port p) := by
    rw [← hw]
    split
    · exact State.rxKept_noteNak _ _
    · exact .refl _
  split
  · exact (h1.trans h2).trans (State.rxKept_replayPort _ _)
  · exact h1.trans h2

/-- A flit's header is on the wire as a port sends it. -/
theorem Port.transmit_idle (seq : Nat) (nak : Bool) (x : Port) : ∃ g : Flit, (x.transmit (flitFrom []) seq nak).wire = x.wire ++ [g] ∧ g.ftype = 0 ∧
    g.nak = nak ∧ g.txseq = seq ∧ g.ackseq = (x.rxSeq + 1023) % 1024 ∧ (x.transmit (flitFrom []) seq nak).ackDue = 0 := by
  exact ⟨_, rfl, rfl, rfl, rfl, rfl, rfl⟩

/-- An UP port that sends NAK has put one IDLE flit on the wire, with the last good sequence. -/
theorem State.sendNak_wire (h : (s.port p).st = .up) : (s.port p).RxKept ((s.sendNak p).port p) ∧
    ∃ g : Flit, ((s.sendNak p).port p).wire = (s.port p).wire ++ [g] ∧ g.ftype = 0 ∧ g.nak = true ∧ g.ackseq = ((s.port p).rxSeq + 1023) % 1024 := by
  rw [State.sendNak]
  generalize hv : s.modPort p (Port.sendIdle true) = v
  have hport : v.port p = (s.port p).transmit (flitFrom []) (s.port p).txSeq true := by
    rw [← hv, State.port_modPort, Port.sendIdle, if_pos h]
  have hwire : ((v.noteNak p).port p).wire = (v.port p).wire := by
    rw [State.noteNak]
    split
    · rw [State.startRetrain, State.port_modPort, State.port_modPort]
    · rw [State.port_modPort]
  obtain ⟨g, hg, hftype, hnak, -, hack, -⟩ := Port.transmit_idle (s.port p).txSeq true (s.port p)
  refine ⟨?_, g, ?_, hftype, hnak, hack⟩
  · refine .trans ?_ (State.rxKept_noteNak p v)
    rw [hport]
    exact Port.rxKept_transmit _ _ _ _
  · rw [hwire, hport, hg]

theorem State.sendsTo_sendIdle (nak : Bool) (x : Port) : x.SendsTo (x.sendIdle nak) := by
  rw [Port.sendIdle]
  split
  next h => exact ⟨by rw [Port.transmit_only], fun hx => by simp [Port.linked_of_up h] at hx⟩
  · exact .refl _

theorem State.bypassed_noteNak (p : Nat) (s : State) : (s.noteNak p).bypassed = s.bypassed := by
  rw [State.noteNak]
  split <;> rfl

theorem State.bypassed_pump (p : Nat) (s : State) : (s.pump p).bypassed = s.bypassed := by
  rw [(State.sendsOnly_pump p s).only]
  rfl

theorem State.bypassed_takeHeader (p : Nat) (f : Flit) (s : State) : (s.takeHeader p f).bypassed = s.bypassed := by
  rw [State.takeHeader, State.bypassed_pump]
  generalize hv : s.modPort p _ = v
  have h1 : v.bypassed = s.bypassed := by rw [← hv]; rfl
  have hreplay (w : State) : (w.replayPort p).bypassed = w.bypassed := by
    rw [State.replayPort]
    dsimp only
    split <;> split <;> rfl
  generalize hw : (if f.nak = true then v.noteNak p else v) = w
  have h2 : w.bypassed = s.bypassed := by
    rw [← hw]
    split
    · rw [State.bypassed_noteNak, h1]
    · exact h1
  split
  · exact (hreplay _).trans h2
  · exact h2

/-- Settles O31: a received flit is corrected, then answered or delivered; a retrain and the ACK timer follow their branches; bytes written are read
back by the layer above. -/
theorem korporFlits : Obligations.KorporFlits := by
  intro p s
  dsimp only
  have hexec (y : List Byte) : exec (.flitReceive p y) s = execFlitReceive p y s := rfl
  have hretrain (r : Option PortResult) : exec (.retrainDone p r) s = execRetrainDone p r s := rfl
  have hdown : ((s.portDown p).port p).st = .down ∧ ((s.portDown p).port p).replayBuf = [] := by
    obtain ⟨hst, -, -, hbuf⟩ := s.port_portGone p (st := .down) (by decide) (by decide)
    exact ⟨hst, hbuf⟩
  refine ⟨fun y hst hnone => ?_, fun y f hst hf hftype hseq => ?_, fun y f hst hf hlo hhi hring hseq hbyp => ?_, fun y f hst hf hftype => ?_,
    fun r hst hwidth hlanes hcount hus hreplays => ?_, fun r hst hbad => ?_, fun hst hdue => ?_, fun hlinked => ?_,
    fun f hf => ⟨length_flitChecked f, flitOf_flitChecked hf⟩, fun bs hbs => ⟨length_withParity hbs, flitFixed_withParity hbs⟩,
    fun cw par hcw hpar => fecFix_near hcw hpar, fun b hb => ⟨length_blockBytes hb, blockOf_blockBytes hb⟩, fun f seq nak hftype => ?_⟩
  · rw [hexec, execFlitReceive, if_neg (not_not.mpr hst)]
    dsimp only
    rw [hnone]
    dsimp only
    rw [State.modPort_modPort]
    generalize hv : s.modPort p _ = v
    have hport : v.port p = { s.port p with fec := satAdd (s.port p).fec (flitFixed y).2, crcErr := satInc (s.port p).crcErr } := by
      rw [← hv, State.port_modPort]
      rfl
    obtain ⟨⟨hrxSeq, hrx, hcrc, hfec⟩, g, hwire, hg, hnak, hack⟩ := State.sendNak_wire (s := v) (p := p) (by rw [hport]; exact hst)
    rw [hport] at hrxSeq hrx hcrc hfec hwire hack
    exact ⟨_, rfl, hcrc, ⟨g, hwire, hg, hnak, hack⟩, hrxSeq, hrx, hfec⟩
  · rw [hexec, execFlitReceive, if_neg (not_not.mpr hst)]
    dsimp only
    generalize hv : s.modPort p _ = v
    have hport : v.port p = { s.port p with fec := satAdd (s.port p).fec (flitFixed y).2 } := by rw [← hv, State.port_modPort]
    rw [hf]
    dsimp only
    rw [if_neg hftype, if_pos (by rw [hport]; exact hseq)]
    obtain ⟨⟨hrxSeq, hrx, hcrc, -⟩, g, hwire, hg, hnak, hack⟩ := State.sendNak_wire (s := v) (p := p) (by rw [hport]; exact hst)
    rw [hport] at hrxSeq hrx hcrc hwire hack
    exact ⟨_, rfl, ⟨g, hwire, hg, hnak, hack⟩, hrxSeq, hrx, hcrc⟩
  · rw [hexec, execFlitReceive, if_neg (not_not.mpr hst)]
    dsimp only
    generalize hv : s.modPort p _ = v
    have hport : v.port p = { s.port p with fec := satAdd (s.port p).fec (flitFixed y).2 } := by rw [← hv, State.port_modPort]
    have hvbyp : v.bypassed = false := by rw [← hv]; exact hbyp
    rw [hf]
    dsimp only
    rw [if_neg (by omega), if_neg (by rw [hport]; exact not_not.mpr hseq)]
    refine ⟨_, rfl, ?_⟩
    obtain ⟨hrxSeq, hrx, -, -⟩ := State.rxKept_takeHeader p f v
    rw [hport] at hrxSeq hrx
    generalize hw : v.takeHeader p f = w at hrxSeq hrx
    have hwbyp : w.bypassed = false := by rw [← hw, State.bypassed_takeHeader, hvbyp]
    rw [State.deliver]
    have hbyp' (g : Port → Port) : (w.modPort p g).bypassed = false := hwbyp
    have hplain : ¬ 3 < f.ftype := by omega
    have hring' : ¬ 1 < f.ring := by omega
    simp only [hbyp', Bool.false_eq_true, if_false, if_neg hplain, if_neg hring']
    generalize hz : (w.modPort p _).modPort p _ = z
    have hzport : (z.port p).rxSeq = ((s.port p).rxSeq + 1) % 1024 ∧ (z.port p).rx = (s.port p).rx ++ [{ chan := f.ftype - 1, ring := f.ring, opid := if f.ftype < 3 then f.opid else 0, blocks := if f.ftype < 3 then flitBlocks f else [] }] := by
      rw [← hz, State.port_modPort, State.port_modPort]
      simp only [hrxSeq, hrx, show f.ftype - 1 < 2 ↔ f.ftype < 3 by omega]
      exact ⟨trivial, trivial⟩
    split
    · obtain ⟨hseq', hrx', -, -⟩ := (State.sendsTo_sendIdle false (z.port p)).rxKept
      rw [State.port_modPort, hseq', hrx']
      exact hzport
    · exact hzport
  · rw [hexec, execFlitReceive, if_neg (not_not.mpr hst)]
    dsimp only
    generalize hv : s.modPort p _ = v
    have hport : v.port p = { s.port p with fec := satAdd (s.port p).fec (flitFixed y).2 } := by rw [← hv, State.port_modPort]
    rw [hf]
    dsimp only
    rw [if_pos hftype]
    obtain ⟨hrxSeq, hrx, -, -⟩ := State.rxKept_takeHeader p f v
    rw [hport] at hrxSeq hrx
    refine ⟨_, rfl, hrxSeq, hrx, fun hnak htxq => ?_⟩
    have hacked (x : Port) (n : Nat) : (Port.acked n { x with fec := satAdd x.fec (flitFixed y).2 }) =
        { x.acked n with fec := satAdd x.fec (flitFixed y).2 } := by
      rw [Port.acked, Port.acked]
      dsimp only
      split <;> rfl
    have hack : (Port.acked f.ackseq (s.port p)).txq = [] := by
      rw [Port.acked]
      split <;> exact htxq
    rw [State.takeHeader, hnak]
    dsimp only
    rw [if_neg Bool.false_ne_true, Bool.false_and, if_neg Bool.false_ne_true, State.pump, State.port_modPort, hport, hacked]
    dsimp only
    rw [hack, List.length_nil, State.pumpN, State.port_modPort, hport, hacked]
    refine ⟨rfl, fun hcvc => ?_⟩
    dsimp only
    rw [if_pos (by omega), if_neg (by omega)]
  · rw [hretrain, execRetrainDone]
    dsimp only
    rw [if_neg (not_not.mpr hst), if_pos ⟨hwidth, hlanes, hcount, hus⟩]
    generalize hv : s.modPort p (Port.upWith r) = v
    have hport : v.port p = (s.port p).upWith r := by rw [← hv, State.port_modPort]
    obtain ⟨hup, hw⟩ := State.port_replayPort (s := v) (p := p) (by rw [hport]; exact hreplays)
    have hsend := (State.sendsOnly_pump p (v.replayPort p)).port p
    refine ⟨_, rfl, ?_, ?_, ?_⟩
    · rw [hsend.only]
      exact hup.trans (by rw [hport]; rfl)
    · rw [hsend.only]
      exact hw.trans (by rw [hport]; rfl)
    · rw [hsend.only]
      exact (State.rxKept_replayPort p v).1.trans (by rw [hport]; rfl)
  · rw [hretrain, execRetrainDone]
    dsimp only
    rw [if_neg (not_not.mpr hst)]
    refine ⟨_, congrArg _ ?_, hdown⟩
    cases r with
    | none => rfl
    | some r =>
      dsimp only
      rw [if_neg]
      rintro ⟨hwidth, hlanes, hcount, hus⟩
      rcases hbad r rfl with h | h | h | h <;> omega
  · have hack : exec (.ackTimer p) s = execAckTimer p s := rfl
    rw [hack, execAckTimer, if_pos hdue]
    obtain ⟨g, hwire, hftype, hnak, htx, hseq, hzero⟩ := Port.transmit_idle (s.port p).txSeq false (s.port p)
    refine ⟨_, g, rfl, ?_, ?_, hftype, hnak, htx, hseq⟩ <;> rw [State.port_modPort, Port.sendIdle, if_pos hst]
    · exact hzero
    · exact hwire
  · have hoff : exec (.memberSwitchedOff p) s = execMemberSwitchedOff p s := rfl
    rw [hoff, execMemberSwitchedOff, if_pos hlinked]
    exact ⟨_, rfl, hdown⟩
  · rw [Port.transmit]
    dsimp only
    rw [if_neg hftype]
    by_cases hidle : (s.port p).sinceIdle < 1022
    · rw [if_pos (by omega)]
      simp only [if_pos hidle]
      refine ⟨_, flitFrom [], ?_, ?_, ?_, ?_, rfl⟩ <;> rfl
    · rw [if_neg (by omega)]
      simp only [if_neg hidle]
      refine ⟨_, _, ?_, ?_, ?_, ?_, List.append_assoc _ [_] [_]⟩ <;> rfl

end Sys2Proof.Machine
end

section
/-! Forming the ring (R319 to R322). -/

namespace Sys2Proof.Machine

variable {s : State}

/-- A fold of port updates and sends leaves the ring's registers. -/
theorem State.RingKept.foldl {α : Type} (l : List α) (f : State → α → State) (h : ∀ (s : State) a, s.RingKept (f s a)) (s : State) :
    s.RingKept (l.foldl f s) := by
  induction l generalizing s with
  | nil => exact .refl _
  | cons a l ih => exact (h s a).trans (ih _)

theorem State.ringKept_modPort (p : Nat) (f : Port → Port) (s : State) : s.RingKept (s.modPort p f) := rfl

/-- A message on a visit that only passes goes on out of the opposite hop. -/
theorem State.ctrlVisit_pass {p : Nat} {m : RingMsg} {act : Nat → State → State} {r : RxBuf} (hfront : (s.port p).front 2 = some r)
    (hbyp : s.bypassed = false) (hadds : s.kl.addsAt r.ring p = false) :
    s.ctrlVisit p m act = (s.modPort p (Port.consume 2)).passOn p r.ring 0 (.msg m) := by
  have h : (s.modPort p (Port.consume 2)).kl.addsAt r.ring p = false := hadds
  rw [State.ctrlVisit, hfront]
  dsimp only
  rw [hbyp, if_neg Bool.false_ne_true, h]
  rfl

/-- A message on the device's own visit is acted on, its buffer freed. -/
theorem State.ctrlVisit_own {p : Nat} {m : RingMsg} {act : Nat → State → State} {r : RxBuf} (hfront : (s.port p).front 2 = some r)
    (hbyp : s.bypassed = false) (hadds : s.kl.addsAt r.ring p = true) : s.ctrlVisit p m act = act r.ring (s.modPort p (Port.consume 2)) := by
  have h : (s.modPort p (Port.consume 2)).kl.addsAt r.ring p = true := hadds
  rw [State.ctrlVisit, hfront]
  dsimp only
  rw [hbyp, if_neg Bool.false_ne_true, h]
  rfl

theorem State.breakRing_st (cause : Nat) (s : State) (h : s.kl.st = .formed ∨ s.kl.st = .wrapped) : (s.breakRing cause).kl.st = .broken := by
  rw [State.breakRing, if_pos h, (State.abortAll_kept _ _).2]

/-- Settles O32: each command is taken through its branches; sends and aborts leave the ring's own registers. -/
theorem ringFormation : Obligations.RingFormation := by
  intro s
  dsimp only
  refine ⟨fun hn => ?_, fun hn => ?_, fun p m hbyp hfront hst hfail => ?_, fun p m hbyp hfront hst hrank => ?_, fun p r hfront hbyp hst => ⟨fun hadds w => ?_,
    fun hadds hfail w => ?_, fun hadds hfail => ⟨fun hrank => ?_, fun hrank => ?_, fun w => ?_⟩⟩, fun missing hst hus => ?_, fun hst hus => ?_⟩
  · have hexec : exec .ringForm s = execRingForm s := rfl
    rw [hexec, execRingForm, if_neg hn]
    refine ⟨_, rfl, ?_⟩
    dsimp only
    generalize hv : ({ s with kl := { s.kl with st := RingSt.forming, formSince := s.us, formFail := 0, formWrap := none, tokens := 0, members := 0,
                                                wrapRank := 0, failcode := 0 } } : State) = v
    have hvkl : v.kl.st = .forming ∧ v.kl.formFail = 0 ∧ v.kl.tokens = 0 ∧ v.kl.formSince = s.us ∧ v.kl.n = s.kl.n := by
      rw [← hv]
      exact ⟨rfl, rfl, rfl, rfl, rfl⟩
    have hkept (u : State) (h : v.RingKept u) : u.kl.st = .forming ∧ u.kl.formFail = 0 ∧ u.kl.tokens = 0 ∧ u.kl.formSince = s.us ∧ u.kl.n = s.kl.n := by
      rw [h]
      exact hvkl
    have hports := State.RingKept.foldl (List.range 4) (fun (s : State) p => s.modPort p fun x => { x with hello := none, farOk := false })
      (fun u p => State.ringKept_modPort p _ u) v
    split
    · exact hkept _ hports
    · refine hkept _ (hports.trans (State.RingKept.foldl _ _ (fun u p => ?_) _))
      split
      · exact (State.sendsOnly_sendOn _ _ u).ringKept
      · exact .refl _
  · have hexec : exec .ringForm s = execRingForm s := rfl
    rw [hexec, execRingForm, if_pos hn]
  · have hexec : exec (.hello p m) s = execHello p m s := rfl
    obtain ⟨r, hr⟩ := Option.isSome_iff_exists.mp hfront
    rw [hexec, execHello, if_neg (by simp [hbyp, hr])]
    dsimp only
    generalize hv : (s.modPort p (Port.consume 2)).modPort p _ = v
    have hvst : v.kl.st = .forming := by rw [← hv]; exact hst
    have hvfail : v.kl.formFail = 0 := by rw [← hv]; exact hfail
    rw [hvst]
    dsimp only
    split
    · rfl
    next hno =>
      have hzero : s.kl.helloFail p m = 0 := by
        by_contra hne
        exact hno ⟨hvfail, hne⟩
      rw [hzero, ← hvfail, ← hvst]
  · have hexec : exec (.hello p m) s = execHello p m s := rfl
    obtain ⟨r, hr⟩ := Option.isSome_iff_exists.mp hfront
    rw [hexec, execHello, if_neg (by simp [hbyp, hr])]
    dsimp only
    generalize hv : (s.modPort p (Port.consume 2)).modPort p _ = v
    have hvst : v.kl.st = .formed ∨ v.kl.st = .wrapped := by rw [← hv]; exact hst
    have hvrank : m.rank ≠ (v.kl.partner p).1 := by rw [← hv]; exact hrank
    refine ⟨v.breakRing 3, congrArg _ ?_, State.breakRing_st 3 v hvst⟩
    rcases hvst with h | h <;> rw [h] <;> dsimp only <;> rw [if_pos hvrank]
  · have htoken : exec (.token p) s = execToken p s := rfl
    have hformed : exec (.formed p w) s = execFormed p w s := rfl
    rw [htoken, hformed, execToken, execFormed, State.ctrlVisit_pass hfront hbyp hadds, State.ctrlVisit_pass hfront hbyp hadds]
    exact ⟨rfl, rfl⟩
  · have htoken : exec (.token p) s = execToken p s := rfl
    have hformed : exec (.formed p w) s = execFormed p w s := rfl
    rw [htoken, hformed, execToken, execFormed, State.ctrlVisit_own hfront hbyp hadds, State.ctrlVisit_own hfront hbyp hadds]
    dsimp only
    rw [if_pos (.inr hfail), if_pos (.inl hfail)]
    exact ⟨rfl, rfl⟩
  · have htoken : exec (.token p) s = execToken p s := rfl
    rw [htoken, execToken, State.ctrlVisit_own hfront hbyp hadds]
    generalize hv : s.modPort p (Port.consume 2) = v
    have hvkl : v.kl.st = .forming ∧ v.kl.formFail = 0 ∧ v.kl.rank ≠ 0 := by rw [← hv]; exact ⟨hst, hfail, hrank⟩
    rw [if_neg (by simp [hvkl.1, hvkl.2.1]), if_pos hvkl.2.2]
    rfl
  · have htoken : exec (.token p) s = execToken p s := rfl
    rw [htoken, execToken, State.ctrlVisit_own hfront hbyp hadds]
    generalize hv : s.modPort p (Port.consume 2) = v
    have hvkl : v.kl.st = .forming ∧ v.kl.formFail = 0 ∧ v.kl.rank = 0 ∧ v.kl.tokens = s.kl.tokens := by rw [← hv]; exact ⟨hst, hfail, hrank, rfl⟩
    obtain ⟨hvst, hvfail, hvrank, hvtok⟩ := hvkl
    rw [if_neg (by simp [hvst, hvfail]), if_neg (by simp [hvrank])]
    refine ⟨_, rfl, ?_⟩
    rw [← hvtok]
    dsimp only
    split
    · rw [(State.sendsOnly_sendBoth _ _).ringKept]
      exact ⟨rfl, hvst⟩
    · exact ⟨rfl, hvst⟩
  · have hformed : exec (.formed p w) s = execFormed p w s := rfl
    rw [hformed, execFormed, State.ctrlVisit_own hfront hbyp hadds]
    generalize hv : s.modPort p (Port.consume 2) = v
    have hvkl : v.kl.st = .forming ∧ v.kl.formFail = 0 ∧ v.kl.rank = s.kl.rank := by rw [← hv]; exact ⟨hst, hfail, rfl⟩
    obtain ⟨hvst, hvfail, hvrank⟩ := hvkl
    rw [if_neg (by simp [hvst, hvfail]), if_pos]
    · rw [hvrank]
      rfl
    · split
      · exact hvst
      · rw [State.relay, (State.sendsOnly_sendRing _ _ _ _).ringKept]
        exact hvst
  · have hexec : exec (.hopCheckTimeout missing) s = execHopCheckTimeout missing s := rfl
    rw [hexec, execHopCheckTimeout]
    refine ⟨_, rfl, ?_⟩
    dsimp only
    have hgo : ¬ (s.kl.st ≠ .forming ∨ s.us < s.kl.formSince + 50000) := not_or.mpr ⟨not_not.mpr hst, by omega⟩
    simp only [if_neg hgo]
    generalize List.filter _ (List.range s.kl.n) = all
    constructor
    · intro hlen
      obtain _ | ⟨a, _ | ⟨b, l⟩⟩ := all
      · simp at hlen
      · simp at hlen
      · rfl
    · intro hlen
      have hwrap (v : State) (h : v.kl.formWrap = all.head?) (c : Prop) [Decidable c] :
          (if c then (v.sendRing 0 0 (.msg .token)).sendRing 1 0 (.msg .token) else v).kl.formWrap = all.head? := by
        split
        · rw [((State.sendsOnly_sendRing _ _ _ _).trans (State.sendsOnly_sendRing _ _ _ _)).ringKept]
          exact h
        · exact h
      obtain _ | ⟨a, _ | ⟨b, l⟩⟩ := all
      · exact hwrap _ rfl _
      · exact hwrap _ rfl _
      · simp at hlen
  · have hexec : exec .formTimeout s = execFormTimeout s := rfl
    rw [hexec, execFormTimeout]
    dsimp only
    rw [if_neg (not_or.mpr ⟨not_not.mpr hst, by omega⟩)]
    refine ⟨_, rfl, ?_⟩
    have hkl (ty src : Nat) (b : List Byte) (u : State) : (u.record ty src b).kl = u.kl := rfl
    rw [hkl, (State.abortAll_kept _ _).2]
    exact ⟨rfl, rfl⟩

end Sys2Proof.Machine
end

section
/-! Dissolving, bypassing, aborting and rerunning (R321 to R323, R332). -/

namespace Sys2Proof.Machine

variable {s : State}

/-- An abort by a cause after which a rerun may follow leaves no operation in progress that is not ended or aborted, and notes its cause. -/
theorem State.abortAll_ops {cause : Nat} (hcause : finalCause cause = false) (h : ∃ o ∈ s.kl.ops, o.ended = false ∧ o.phase ≠ .aborted) :
    (s.abortAll cause).kl.opCause = cause ∧ ∀ o ∈ (s.abortAll cause).kl.ops, o.ended = true ∨ o.phase = .aborted := by
  obtain ⟨x, hx, hended, hphase⟩ := h
  have hany : (s.kl.ops.any fun o => !o.ended && decide (o.phase ≠ .aborted)) = true := List.any_eq_true.mpr ⟨x, hx, by simp [hended, hphase]⟩
  have hhits : (s.kl.ops.filter fun o : RingOp => !o.ended && decide (o.phase ≠ .aborted) && (fun _ => true) o) ≠ [] :=
    List.ne_nil_of_mem (List.mem_filter.mpr ⟨hx, by simp [hended, hphase]⟩)
  rw [State.abortAll, if_pos hany, (State.sendsOnly_sendBoth _ _).only]
  dsimp only
  rw [State.abortOps]
  dsimp only
  rw [if_neg hhits]
  dsimp only
  rw [hcause]
  refine ⟨rfl, fun o ho => ?_⟩
  simp only [Bool.false_eq_true, if_false, List.mem_map] at ho
  obtain ⟨y, -, rfl⟩ := ho
  split
  · exact .inr rfl
  next hno =>
    by_cases hy : y.ended = true
    · exact .inl hy
    · exact .inr (by simpa [hy] using hno)

theorem State.bypassed_of_ringReady (h : s.ringReady = true) : s.bypassed = false := by
  simp only [State.ringReady, Bool.and_eq_true, Bool.not_eq_true'] at h
  exact h.2

/-- Settles O33: each command's branch; the ring's registers after an abort are those of `abortAll_kept`, its operations those of `abortAll_ops`. -/
theorem ringLossAndRerun : Obligations.RingLossAndRerun := by
  intro s
  have habort (c : RingLoss) : exec (.ringAbort c) s = execRingAbort c s := rfl
  refine ⟨⟨_, rfl, rfl, rfl⟩, ?_, rfl, fun p hlinked hready hops => ?_, fun r hbyp hr hst => ?_, fun hbyp hst => ?_,
    fun p r opid c hfront hbyp hadds h4 h5 h6 h7 hops => ?_, fun tid x e htensor hup hstep hqueued hops => ?_, fun tid htensor hup => ?_,
    fun hready hops => ?_, fun o x hready hops htensor hhanded => ?_⟩
  · have hexec : exec (.ringBypass true) s = execRingBypass true s := rfl
    rw [hexec, execRingBypass]
    refine ⟨_, rfl, ?_⟩
    rw [Bool.not_true, if_neg Bool.false_ne_true]
    dsimp only
    generalize hv : s.breakRing 3 = v
    have hvst : v.kl.st ≠ .formed ∧ v.kl.st ≠ .wrapped := by
      rw [← hv]
      by_cases h : s.kl.st = .formed ∨ s.kl.st = .wrapped
      · rw [State.breakRing_st 3 s h]
        decide
      · rw [State.breakRing, if_neg h]
        exact not_or.mp h
    have hrx (w : State) (p : Nat) (hp : p < 4) : ((w.allPorts Port.clearRx).port p).rx = [] := by
      rw [State.port_allPorts _ _ hp]
      rfl
    refine ⟨?_, ?_, ?_, ?_, fun p hp => hrx _ p hp⟩ <;> rw [State.allPorts_only] <;> dsimp only
    · split
      · decide
      · exact hvst.1
    · split
      · decide
      · exact hvst.2
    · split
      · decide
      next h => exact h
  · rw [habort, execRingAbort]
    rw [hlinked, hready, if_neg (by decide)]
    exact ⟨_, rfl, State.abortAll_ops rfl hops⟩
  · rw [habort, execRingAbort]
    rw [hbyp, decide_eq_false (by omega), if_neg (by decide), State.hopLost, hst]
    refine ⟨_, rfl, ?_⟩
    have hkl (ty src : Nat) (b : List Byte) (u : State) : (u.record ty src b).kl = u.kl := rfl
    dsimp only
    rw [hkl, (State.abortAll_kept _ _).2]
    exact ⟨rfl, rfl⟩
  · rw [habort, execRingAbort]
    rw [hbyp, if_neg Bool.false_ne_true]
    exact ⟨_, rfl, State.breakRing_st 3 s hst⟩
  · rw [habort, execRingAbort]
    dsimp only
    rw [State.ctrlVisit_own hfront hbyp hadds]
    rw [if_neg h6, if_neg h7, if_neg h5]
    obtain ⟨o, ho, hended, hphase, hopid⟩ := hops
    have hany : ((s.modPort p (Port.consume 2)).kl.ops.any fun o => !o.ended && decide (o.phase ≠ .aborted) && decide (o.opid = opid)) = true :=
      List.any_eq_true.mpr ⟨o, ho, by simp [hended, hphase, hopid]⟩
    rw [hany, if_neg (by decide)]
  · have hexec : exec (.tensorHandover tid) s = execTensorHandover tid s := rfl
    rw [hexec, execTensorHandover, htensor]
    dsimp only
    rw [hup, if_neg (by decide), hstep]
    dsimp only
    rw [if_neg]
    rw [Bool.or_eq_true, not_or]
    constructor
    · rw [List.any_eq_true]
      rintro ⟨q, hq, heq⟩
      exact hqueued q hq (of_decide_eq_true heq)
    · rw [List.any_eq_true]
      rintro ⟨o, ho, h⟩
      simp only [Bool.and_eq_true, decide_eq_true_eq, Bool.not_eq_true'] at h
      have := hops o ho h.1.1 h.1.2
      rw [h.2] at this
      cases this
  · have hexec : exec (.tensorHandover tid) s = execTensorHandover tid s := rfl
    obtain ⟨x, hx⟩ := Option.ne_none_iff_exists'.mp htensor
    rw [hexec, execTensorHandover, hx]
    dsimp only
    rw [hup]
    rfl
  · have hexec : exec .operationRerun s = execOperationRerun s := rfl
    have hnil : (s.kl.ops.filter fun o => !o.ended && decide (o.phase = .aborted) && decide (o.member = (s.kl.n, s.kl.rank))) = [] := by
      rw [List.filter_eq_nil_iff]
      intro o ho h
      simp only [Bool.and_eq_true, decide_eq_true_eq, Bool.not_eq_true'] at h
      obtain ⟨⟨hended, hphase⟩, hmember⟩ := h
      rcases hops o ho with h | h | h
      · rw [h] at hended
        cases hended
      · exact h hphase
      · exact h hmember
    rw [hexec, execOperationRerun, hready, if_neg (by decide)]
    dsimp only
    rw [hnil, List.foldl_nil]
  · have hexec : exec .operationRerun s = execOperationRerun s := rfl
    dsimp only
    rw [hexec, execOperationRerun, hready, if_neg (by decide)]
    dsimp only
    rw [hops, List.foldl_cons, List.foldl_nil, State.rerunOp, htensor]
    dsimp only
    rw [hhanded, if_pos rfl]

end Sys2Proof.Machine
end

section
/-! Early RDONEs of a rerun (R331, R332). -/

namespace Sys2Proof.Machine

/-- A state with two operations in progress under one OPID, of which the second alone has seen the RDONE of rank 0. -/
def twinOps : State := { kl := { ops := [{ opid := 0, tid := 0, rerun := true }, { opid := 0, tid := 0, early := [(0, false, false)] }] } }

/-- Refutes O34: `gotRdone` keeps an early RDONE once for each operation, by that operation's own list, while the statement appends it to every
operation of the OPID; two operations in progress under one OPID, which the statement's state is free to hold, tell the two apart. -/
theorem not_inLinkReduction : ¬ Obligations.InLinkReduction := by
  intro h
  obtain ⟨-, -, -, -, -, hearly, -⟩ := h twinOps
  have heq := congrArg (fun s : State => s.kl.ops.map fun o => o.early.length)
    (hearly { opid := 0, tid := 0, rerun := true } 0 0 false false (by decide) rfl (by decide))
  revert heq
  decide

end Sys2Proof.Machine
end

section
/-! The update of a shard, parameter blocks, PDONE and the write-back (R331, R334 to R338). -/

namespace Sys2Proof.Machine

variable {s : State}

/-- A skipped update sets STATUS 1 over a state whose memory is as it was, and counts the skip. -/
theorem State.applyUpdate_skipped {o : RingOp} (st : Stream) (l : LayerRec) (bs : List Nat) (s : State) (h : ∃ r ∈ o.rdones, r.2.2 = true) :
    ∃ u : State, s.applyUpdate o st l bs = u.setStatus o.tid 1 ∧ u.plm.mem = s.plm.mem ∧ u.kl.updSkip = satInc s.kl.updSkip ∧
      u.kl.updElems = s.kl.updElems := by
  obtain ⟨r, hr, hbad⟩ := h
  have hany : (o.rdones.any fun r => r.2.2) = true := List.any_eq_true.mpr ⟨r, hr, hbad⟩
  rw [State.applyUpdate]
  dsimp only
  rw [hany, Bool.or_true, if_pos rfl]
  refine ⟨_, rfl, ?_⟩
  split <;> exact ⟨rfl, rfl, rfl⟩

/-- Settles O35: each clause is a branch of its command, taken by its hypotheses. -/
theorem updateAndParameters : Obligations.UpdateAndParameters := by
  intro s
  refine ⟨fun o st l hfind htensor => ?_, fun o st l bs hbad => State.applyUpdate_skipped st l bs s hbad, fun p opid b u ring o st l hnext hop htensor hready hb => ?_,
    fun p r opid rank cand o hfront hbyp hadds hop hphase hrank hother hnew => ?_, fun tid o st l hfind hheld htensor hparams hreads hworks hunread hranges => ?_⟩
  · have hexec : exec .updateApply s = execUpdateApply s := rfl
    dsimp only
    rw [hexec, execUpdateApply]
    erw [hfind]
    dsimp only
    rw [htensor]
    dsimp only
    refine ⟨fun hphase => ?_, fun hphase happ => ?_, fun hphase happ hunread hworks hranges => ?_⟩
    · rw [if_pos hphase]
    · rw [if_neg (not_not.mpr hphase), if_pos happ]
    · rw [if_neg (not_not.mpr hphase), if_neg (by rw [happ]; decide), if_neg (not_not.mpr hunread), if_neg (by rw [hworks, hranges]; decide)]
  · have hexec : exec (.parBlockReceive p opid b u) s = execParBlockReceive p opid b u s := rfl
    have hbyp : s.bypassed = false := State.bypassed_of_ringReady hready
    have hop' : (s.modPort p (Port.consume 1)).paramOp? opid = some o := hop
    have htensor' : (s.modPort p (Port.consume 1)).tensor o.tid = some (st, l) := htensor
    have hready' : (s.modPort p (Port.consume 1)).ringReady = true := hready
    dsimp only
    rw [hexec, execParBlockReceive, hnext]
    dsimp only
    rw [hbyp, if_neg Bool.false_ne_true, hop']
    dsimp only
    rw [htensor']
    dsimp only
    rw [hready', decide_eq_false (by omega), if_neg (by decide)]
    refine ⟨fun hadds => ?_, fun hadds hsound hseq => ?_, fun hadds hbad => ?_⟩
    · have hadds' : (s.modPort p (Port.consume 1)).kl.addsAt ring p = false := hadds
      rw [hadds', if_pos (by decide)]
    · have hadds' : (s.modPort p (Port.consume 1)).kl.addsAt ring p = true := hadds
      rw [hadds', if_neg (by decide), if_neg (by simp [hsound, hseq])]
      simp only [Bool.not_eq_true', decide_eq_false_iff_not]
      rfl
    · have hadds' : (s.modPort p (Port.consume 1)).kl.addsAt ring p = true := hadds
      rw [hadds', if_neg (by decide), if_pos (by rcases hbad with h | h <;> simp [h])]
  · have hexec : exec (.pdone p opid rank cand) s = execPdone p opid rank cand s := rfl
    rw [hexec, execPdone, State.ctrlVisit_own hfront hbyp hadds]
    generalize hv : s.modPort p (Port.consume 2) = v
    have hvkl : v.kl.n = s.kl.n ∧ v.kl.rank = s.kl.rank ∧ v.op? opid = some o := by
      rw [← hv]
      exact ⟨rfl, rfl, hop⟩
    obtain ⟨hvn, hvrank, hvop⟩ := hvkl
    have hwop : (v.relay r.ring (.pdone opid rank cand)).op? opid = some o := by
      rw [State.relay, (State.sendsOnly_sendRing _ _ _ _).only]
      exact hvop
    rw [if_neg (by simp [hvn, hvrank, hother]; omega)]
    dsimp only
    rw [hwop]
    dsimp only
    rw [if_neg]
    · rfl
    · rw [Bool.or_eq_true, not_or, List.any_eq_true]
      refine ⟨by simpa using hphase, ?_⟩
      rintro ⟨x, hx, heq⟩
      exact hnew x hx (of_decide_eq_true heq)
  · have hexec : exec (.paramWrite tid) s = execParamWrite tid s := rfl
    have hall : ((List.range l.nb).all fun b => decide (b ∈ o.params)) = true := by
      rw [List.all_eq_true]
      exact fun b hb => decide_eq_true (hparams b (List.mem_range.mp hb))
    rw [hexec, execParamWrite]
    erw [hfind]
    dsimp only
    rw [decide_eq_true hheld, if_neg (by decide), htensor]
    dsimp only
    rw [hall, hreads, hworks, hranges, if_neg (by decide), if_neg (not_not.mpr hunread)]

end Sys2Proof.Machine
end

section
/-! Warm reset: how it begins, by what cause, and its end (R365, R395, R396, R398). -/

namespace Sys2Proof.Machine

variable {s t u : State}

/-! ### What the ring's loss leaves -/

/-- States that differ in the ring, in the queue of Tidemark and in the free values alone. -/
structure State.KlOnly (s t : State) : Prop where
  only : t = { s with kl := t.kl, tmk := t.tmk, fresh := t.fresh }
  tmk : s.tmk.Same t.tmk

namespace State.KlOnly

theorem refl (s : State) : s.KlOnly s := ⟨rfl, rfl⟩

theorem trans (h : s.KlOnly t) (g : t.KlOnly u) : s.KlOnly u where
  only := by rw [g.only, h.only]
  tmk := h.tmk.trans g.tmk

theorem kl (k : Kl) (s : State) : s.KlOnly { s with kl := k } := ⟨rfl, rfl⟩

theorem record (ty src : Nat) (b : List Byte) (s : State) : s.KlOnly (s.record ty src b) := ⟨rfl, Tmk.same_enqueue _ _⟩

theorem of_sends (h : s.SendsOnly t) : s.KlOnly t := by
  rw [h.only]
  exact ⟨rfl, rfl⟩

theorem foldl {α : Type} (l : List α) (f : State → α → State) (h : ∀ (s : State) a, s.KlOnly (f s a)) (s : State) : s.KlOnly (l.foldl f s) := by
  induction l generalizing s with
  | nil => exact .refl _
  | cons a l ih => exact (h s a).trans (ih _)

theorem abortOps (which : RingOp → Bool) (cause : Nat) (s : State) : s.KlOnly (s.abortOps which cause) := by
  rw [State.abortOps]
  dsimp only
  split
  · exact .refl _
  · refine .trans ?_ (.kl _ _)
    refine .trans ?_ (foldl _ _ (fun u o => record _ _ _ u) _)
    rw [State.allPorts_only]
    exact .kl _ _

theorem abortAll (cause : Nat) (s : State) : s.KlOnly (s.abortAll cause) := by
  rw [State.abortAll]
  split
  · exact (abortOps _ _ _).trans (of_sends (State.sendsOnly_sendBoth _ _))
  · exact .refl _

theorem breakRing (cause : Nat) (s : State) : s.KlOnly (s.breakRing cause) := by
  rw [State.breakRing]
  split
  · exact (kl _ _).trans (abortAll _ _)
  · exact .refl _

end State.KlOnly

/-! ### Tables written entry by entry -/

theorem Tab.get_foldl_insert {α : Type} {d : α} (f : Nat → α → α) {l : List Nat} (hl : l.Nodup) (t : Tab α) (k : Nat) :
    Tab.get d (l.foldl (fun (t : Tab α) c => Tab.insert t c (f c (Tab.get d t c))) t) k = if k ∈ l then f k (Tab.get d t k) else Tab.get d t k := by
  induction l generalizing t with
  | nil => rfl
  | cons c l ih =>
    obtain ⟨hc, hl⟩ := List.nodup_cons.mp hl
    rw [List.foldl_cons, ih hl]
    by_cases hk : k = c
    · subst hk
      rw [if_neg hc, if_pos List.mem_cons_self, Tab.get_insert_self]
    · rw [Tab.get_insert_ne _ _ _ hk]
      simp [hk]

theorem get_allCores (f : Core → Core) (t : Tab Core) {c : Nat} (hc : c < 144) : Tab.get {} (allCores f t) c = f (Tab.get {} t c) := by
  rw [allCores, Tab.get_foldl_insert (fun _ => f) List.nodup_range, if_pos (List.mem_range.mpr hc)]

theorem get_allDies (f : Die → Die) (t : Tab Die) {d : Nat} (hd : d < 4) : Tab.get {} (allDies f t) d = f (Tab.get {} t d) := by
  rw [allDies, Tab.get_foldl_insert (fun _ => f) List.nodup_range, if_pos (List.mem_range.mpr hd)]

/-! ### The logic domains of beached cores -/

/-- A core without work stays so when its logic domain is switched off. -/
structure Core.StaysIdle (x y : Core) : Prop where
  inReset : y.inReset = x.inReset
  inc : y.inc = x.inc
  slots : x.slots = [] → y.slots = []
  spd : x.spd = {} → y.spd = {}

theorem Core.StaysIdle.refl (x : Core) : x.StaysIdle x := ⟨rfl, rfl, id, id⟩

theorem Core.StaysIdle.trans {x y z : Core} (h : x.StaysIdle y) (g : y.StaysIdle z) : x.StaysIdle z :=
  ⟨g.inReset.trans h.inReset, g.inc.trans h.inc, g.slots ∘ h.slots, g.spd ∘ h.spd⟩

theorem Core.staysIdle_logicLost (x : Core) : x.StaysIdle x.logicLost := ⟨rfl, rfl, fun _ => rfl, fun h => by rw [Core.logicLost, h]⟩

theorem State.logicChecks_only (l : List Nat) (s : State) : let t := l.foldl (fun (s : State) c => s.logicCheck c) s
    t = { s with cores := t.cores } ∧ ∀ c, (s.core c).StaysIdle (t.core c) := by
  induction l generalizing s with
  | nil => exact ⟨rfl, fun _ => .refl _⟩
  | cons c l ih =>
    obtain ⟨honly, hcore⟩ := ih (s.logicCheck c)
    have hstep : s.logicCheck c = { s with cores := (s.logicCheck c).cores } ∧ ∀ x, (s.core x).StaysIdle ((s.logicCheck c).core x) := by
      rw [State.logicCheck]
      split
      · refine ⟨rfl, fun x => ?_⟩
        by_cases hx : x = c
        · rw [hx, State.core_modCore]
          exact Core.staysIdle_logicLost _
        · rw [State.core_modCore_ne _ _ hx]
          exact .refl _
      · exact ⟨rfl, fun _ => .refl _⟩
    refine ⟨?_, fun x => (hstep.2 x).trans (hcore x)⟩
    rw [List.foldl_cons, honly, hstep.1]

/-! ### Warm reset begins -/

/-- The host's accesses that a warm reset serves before it drops the rest. -/
def State.servedHost (s : State) (cause : Nat) : List BiWait :=
  if cause = 4 ∨ cause = 5 then (s.cxl.waiting ++ s.cxl.held).filter fun w => w.src = 0 else []

/-- Before a warm reset clears the units, the ring is broken and a session of the host ended. -/
def State.warmClosed (s : State) : State :=
  let s := s.breakRing 3
  if s.sec.holder = 1 && s.sec.sessionOpen then { s.abortSession 2 with sec := { (s.abortSession 2).sec with code := 0, comp := 0, bytes := 0 } } else s

theorem State.warmClosed_only (s : State) : s.warmClosed = { s with kl := s.warmClosed.kl, tmk := s.warmClosed.tmk, fresh := s.warmClosed.fresh, sec := s.warmClosed.sec } ∧
    s.tmk.Same s.warmClosed.tmk ∧ s.warmClosed.sec.flash0 = s.sec.flash0 ∧ s.warmClosed.sec.flash1 = s.sec.flash1 ∧
      s.warmClosed.sec.rollback = s.sec.rollback := by
  have hring := State.KlOnly.breakRing 3 s
  rw [State.warmClosed]
  generalize s.breakRing 3 = v at hring ⊢
  obtain ⟨honly, htmk⟩ := hring
  dsimp only
  split
  · refine ⟨?_, htmk.trans (Tmk.same_enqueue _ _), ?_, ?_, ?_⟩ <;> rw [honly] <;> rfl
  · refine ⟨?_, htmk, ?_, ?_, ?_⟩ <;> rw [honly]

/-- The units as a warm reset leaves them. -/
def State.warmUnits (cause : Nat) (s : State) : State :=
  { s with cores := allCores Core.warmReset s.cores, dies := allDies Die.warmReset s.dies,
           fabric := [], ldr := {}, est := {}, plm := s.plm.setIntake false 0 0, kl := s.kl.warmReset, cxl := s.cxl.warmReset,
           tmk := s.tmk.warmReset, bw := s.bw.warmReset,
           sec := { s.sec with cmds := s.sec.cmds.filter fun i => cmdSource i = .bmc },
           hub := { s.hub with lock := false, lockedWrite := false, hubUp := false, warm := true, warmCause := cause, selftest := [],
                               resetAfterFence := [], hbMissed := 0 } }

theorem State.warmReset_eq (cause : Nat) (hparked : s.bw.parked = false) : s.warmReset cause =
    (s.servedHost cause).foldl (fun (s : State) w => s.hostServe w)
      ((List.range 144).foldl (fun (s : State) c => s.logicCheck c) (s.warmClosed.warmUnits cause)) := by
  rw [State.warmReset, hparked]
  rfl

theorem State.warmReset_lock (cause : Nat) (hparked : s.bw.parked = false) : (s.warmReset cause).hub.lock = false := by
  rw [State.warmReset_eq cause hparked]
  generalize hv : (List.range 144).foldl (fun (s : State) c => s.logicCheck c) (s.warmClosed.warmUnits cause) = v
  have hlock : v.hub.lock = false := by
    rw [← hv, (State.logicChecks_only _ _).1]
    rfl
  have hserve : v.Keeps ((s.servedHost cause).foldl (fun (s : State) w => s.hostServe w) v) := State.Keeps.foldl (fun u w => by simp) (.refl _)
  rw [hserve.lock, hlock]

/-- A warm reset that serves no access of the host leaves the units at reset and keeps what stands behind them. -/
theorem State.warmReset_begun {cause : Nat} (hparked : s.bw.parked = false) (hhost : s.servedHost cause = []) :
    s.WarmBegun (s.warmReset cause) cause ∧ (s.warmReset cause).cxl = s.cxl.warmReset := by
  rw [State.warmReset_eq cause hparked, hhost, List.foldl_nil]
  obtain ⟨hclosed, htmk, hflash0, hflash1, hroll⟩ := s.warmClosed_only
  have htmk' : s.warmClosed.tmk.slots = s.tmk.slots ∧ s.warmClosed.tmk.head = s.tmk.head := by
    rw [htmk]
    exact ⟨rfl, rfl⟩
  generalize s.warmClosed = v at hclosed hflash0 hflash1 hroll htmk' ⊢
  have hvcores : v.cores = s.cores := by rw [hclosed]
  have hvdies : v.dies = s.dies := by rw [hclosed]
  have hvcxl : v.cxl = s.cxl := by rw [hclosed]
  have hvhub : v.hub = s.hub := by rw [hclosed]
  have hvplm : v.plm = s.plm := by rw [hclosed]
  have hvus : v.us = s.us := by rw [hclosed]
  clear hclosed htmk
  obtain ⟨honly, hcore⟩ := State.logicChecks_only (List.range 144) (v.warmUnits cause)
  have hcores (c : Nat) (hc : c < 144) : (v.warmUnits cause).core c = (s.core c).warmReset := by
    have h : (v.warmUnits cause).cores = allCores Core.warmReset s.cores := by rw [State.warmUnits, hvcores]
    rw [State.core, h]
    exact get_allCores _ _ hc
  have hdies (d : Nat) (hd : d < 4) : (v.warmUnits cause).die d = (s.die d).warmReset := by
    have h : (v.warmUnits cause).dies = allDies Die.warmReset s.dies := by rw [State.warmUnits, hvdies]
    rw [State.die, h]
    exact get_allDies _ _ hd
  have hst (st : RingSt) (hidle : st ≠ .idle) (hbroken : st ≠ .broken) : v.kl.warmReset.st ≠ st := by
    rw [Kl.warmReset]
    dsimp only
    split
    · exact hidle.symm
    · exact hbroken.symm
  have hstate : v.bw.warmReset.state = .slackWater := by simp [Bw.state, Bw.warmReset]
  generalize (List.range 144).foldl (fun (s : State) c => s.logicCheck c) (v.warmUnits cause) = w at honly hcore ⊢
  have hwdies : w.dies = (v.warmUnits cause).dies := by rw [honly]
  have hdie (d : Nat) : w.die d = (v.warmUnits cause).die d := by rw [State.die, State.die, hwdies]
  have hcxl : w.cxl = s.cxl.warmReset := by rw [honly, ← hvcxl]; rfl
  have hkl : w.kl = v.kl.warmReset := by rw [honly]; rfl
  have hbw : w.bw = v.bw.warmReset := by rw [honly]; rfl
  have hhub : w.hub = (v.warmUnits cause).hub := by rw [honly]
  have hplm : w.plm.mem = s.plm.mem := by rw [honly, ← hvplm]; rfl
  have htmk : w.tmk = v.tmk.warmReset := by rw [honly]; rfl
  have hsec : w.sec = (v.warmUnits cause).sec := by rw [honly]
  have hus : w.us = v.us := by rw [honly, State.warmUnits]
  have hempty : w.est = {} ∧ w.ldr = {} ∧ w.fabric = [] := by rw [honly]; exact ⟨rfl, rfl, rfl⟩
  refine ⟨⟨by rw [hhub]; rfl, by rw [hhub]; rfl, by rw [hhub]; rfl, by rw [hhub]; rfl, by rw [hhub, ← hvhub]; rfl, by rw [hbw, hstate], fun c hc => ?_,
    hempty.1, hempty.2.1, fun d hd => ?_, hempty.2.2, by rw [hcxl]; rfl, by rw [hcxl]; rfl, by rw [hkl]; rfl,
    by rw [hkl]; exact hst _ (by decide) (by decide), by rw [hkl]; exact hst _ (by decide) (by decide), by rw [hkl]; exact hst _ (by decide) (by decide),
    by rw [hkl]; rfl, by rw [hbw]; rfl, by rw [hbw]; rfl, by rw [hbw]; rfl, hplm, by rw [htmk]; exact htmk'.1, by rw [htmk]; exact htmk'.2,
    by rw [hsec]; exact hflash0, by rw [hsec]; exact hflash1, by rw [hsec]; exact hroll, by rw [hus, hvus]⟩, hcxl⟩
  · obtain ⟨hreset, hinc, hslots, hspd⟩ := hcore c
    rw [hcores c hc] at hreset hinc hslots hspd
    exact ⟨hreset, hslots rfl, hspd rfl, hinc⟩
  · rw [hdie, hdies d hd]
    exact ⟨rfl, rfl, rfl⟩

theorem State.servedHost_eq_nil {cause : Nat} (h : ∀ w ∈ s.cxl.waiting ++ s.cxl.held, w.src ≠ 0) : s.servedHost cause = [] := by
  rw [State.servedHost]
  split
  · rw [List.filter_eq_nil_iff]
    exact fun w hw => by simpa using h w hw
  · rfl

/-- Settles O36: the four causes are one warm reset, whose state is that of `warmReset_begun`; its end is one step over the units. -/
theorem warmReset : Obligations.WarmReset := by
  intro s
  refine ⟨fun hparked => ⟨?_, ?_, ?_, ?_⟩, fun hwarm => ?_⟩
  · have hbegun : s.WarmBegun (s.warmReset 2) 2 := (State.warmReset_begun hparked rfl).1
    exact ⟨_, rfl, hbegun, rfl, rfl, rfl⟩
  · obtain ⟨hbegun, hcxl⟩ := State.warmReset_begun (s := s) (cause := 3) hparked rfl
    refine ⟨_, rfl, hbegun, rfl, rfl, ?_⟩
    show satInc (s.warmReset 3).cxl.linkDown = _
    rw [hcxl]
    rfl
  · refine ⟨_, rfl, State.warmReset_lock 4 hparked, fun hhost => ?_⟩
    obtain ⟨hbegun, hcxl⟩ := State.warmReset_begun (s := s) (cause := 4) hparked (State.servedHost_eq_nil hhost)
    exact ⟨hbegun, by rw [hcxl]; rfl, by rw [hcxl]; rfl, by rw [hcxl]; rfl⟩
  · refine ⟨_, rfl, State.warmReset_lock 5 hparked, fun hhost => ?_⟩
    obtain ⟨hbegun, hcxl⟩ := State.warmReset_begun (s := s) (cause := 5) hparked (State.servedHost_eq_nil hhost)
    exact ⟨hbegun, by rw [hcxl]; rfl, by rw [hcxl]; rfl, by rw [hcxl]; rfl⟩
  · have hexec : exec .warmResetComplete s = execWarmResetComplete s := rfl
    rw [hexec, execWarmResetComplete, hwarm, if_neg (by decide)]
    dsimp only
    generalize hcores : List.foldl _ s.cores (List.range 144) = cores
    generalize hdies : allDies _ s.dies = dies
    refine ⟨_, rfl, rfl, rfl, rfl, rfl, rfl, rfl, fun c hc => ?_, fun d hd => ?_, rfl, rfl, rfl, rfl⟩
    · show (Tab.get {} cores c).inc = _ ∧ (Tab.get {} cores c).inReset = _
      rw [← hcores, Tab.get_foldl_insert (fun c (k : Core) => { k with inReset := (s.die (coreDie c)).inReset, inc := (k.inc + 1) % 16 })
        List.nodup_range, if_pos (List.mem_range.mpr hc)]
      exact ⟨rfl, rfl⟩
    · show (Tab.get {} dies d).headInc = _
      rw [← hdies, get_allDies _ _ hd]
      rfl

end Sys2Proof.Machine
end

section
/-! Register writes, the MSI-X table and RWC pairs (R10, R11, R178, R404, R405). -/

namespace Sys2Proof.Machine

variable {s : State}

/-- A pair error leaves the latches, the hub and Breakwater, and marks its bit. -/
theorem State.pairError_fields (k : Nat) (s : State) : (s.pairError k).tmk.rwc = s.tmk.rwc ∧ (s.pairError k).tmk.pair = s.tmk.pair ||| (1#9 <<< k) ∧
    (s.pairError k).hub = s.hub ∧ (s.pairError k).bw = s.bw ∧ (s.pairError k).us = s.us := by
  rw [State.pairError]
  split
  · exact ⟨rfl, rfl, rfl, rfl, rfl⟩
  · rw [State.record]
    dsimp only
    rw [Tmk.same_enqueue]
    exact ⟨rfl, rfl, rfl, rfl, rfl⟩

theorem State.pendingRwc_setRwc (k : Nat) (v : Option (W32 × Nat)) (s : State) : (s.setRwc k v).pendingRwc k = v := by
  rw [State.pendingRwc, State.setRwc, Tab.get_set_self]

theorem State.pendingRwc_pairError (i k : Nat) (s : State) : (s.pairError i).pendingRwc k = s.pendingRwc k := by
  rw [State.pendingRwc, (State.pairError_fields i s).1]
  rfl

theorem State.regWrite_eq {q : RegPath} {off v : Nat} {rwl : Bool} {f : State → State} (h : pathEffect q off v = some (rwl, f)) :
    s.regWrite q off v = if rwl && s.hub.lock then { s with hub := { s.hub with lockedWrite := true } } else f s := by
  rw [State.regWrite, h]

theorem State.regWrite_none {q : RegPath} {off v : Nat} (h : pathEffect q off v = none) : s.regWrite q off v = s := by
  rw [State.regWrite, h]

/-- The offset of a core's SPD_STATUS reaches that core. -/
theorem spdReg_status (d l v : Nat) (hl : l < 36) : spdReg d (0x1000000 * (d + 1) + 0x100000 + 0x10000 * l + 0x400C) v =
    some (false, fun s => if (s.core (36 * d + l)).inReset then s else s.modSpd (36 * d + l) (Spad.clearStatus v)) := by
  have hcore : ((0x1000000 * (d + 1) + 0x100000 + 0x10000 * l + 0x400C) % 0x1000000 - 0x100000) / 0x10000 = l := by omega
  rw [spdReg]
  rw [hcore, if_pos (by omega)]

/-- A pending vector that a write of its control word unmasks is sent. -/
theorem State.msixWrite_unmask {n v : Nat} (hv : bit v 0 = false) (hpend : s.cxl.msixPend.getLsbD n = true) (hbus : s.cxl.busMaster = true) :
    ∃ u, s.msixWrite n 3 v = u ∧ u.out.msix = s.out.msix ++ [n] ∧ u.cxl.msixPend = s.cxl.msixPend &&& ~~~(1#4 <<< n) ∧
      (Tab.get {} u.cxl.msixTable n).masked = false := by
  refine ⟨_, rfl, ?_⟩
  unfold State.msixWrite
  dsimp only
  generalize ht : Tab.set {} s.cxl.msixTable n { Tab.get {} s.cxl.msixTable n with masked := bit v 0 } = t
  have hmasked : (Tab.get {} t n).masked = false := by rw [← ht, Tab.get_set_self, hv]
  rw [State.msiPending]
  dsimp only
  rw [hmasked, hpend, hbus, if_pos (by decide), State.msi]
  dsimp only
  rw [hmasked, if_neg (by decide)]
  exact ⟨rfl, rfl, hmasked⟩

/-- The control word of entry `n` of the MSI-X table. -/
theorem regEffect_msixControl (n : Fin 4) (v : Nat) : regEffect (0x73000C + 16 * (n : Nat)) v = some (false, State.msixWrite n 3 v) := by
  have hn := n.isLt
  have hblock : (0x73000C + 16 * (n : Nat)) / 0x100000 = 7 := by omega
  have hlo : (0x73000C + 16 * (n : Nat)) % 0x100000 = 0x3000C + 16 * (n : Nat) := by omega
  rw [regEffect, hblock, hlo, if_pos (by omega)]
  show ite _ _ _ = _
  rw [if_neg (by omega), if_pos (by omega), show (0x3000C + 16 * (n : Nat) - 0x30000) / 16 = n by omega,
    show (0x3000C + 16 * (n : Nat)) % 16 / 4 = 3 by omega]

/-- Settles O37: a write is its effect on its path; a pair is its latch, and a refusal its pair error. -/
theorem registerWrites : Obligations.RegisterWrites := by
  intro p s
  have hwrite (q : RegPath) (off : Nat) (v : W32) : exec (.registerWrite q off v none) s = .next (s.regWrite q off v.toNat) := rfl
  have hvalue (r : RwcReg) (v : W32) : exec (.rwcValueWrite p r v) s = execRwcValueWrite p r v s := rfl
  have hcomp (r : RwcReg) (v : W32) : exec (.rwcComplementWrite p r v) s = execRwcComplementWrite p r v s := rfl
  refine ⟨fun q off v f h => ?_, fun q off v f h => ?_, fun q off v h => ?_, fun q off v w u h => ?_, fun d l v hl hreset => ?_,
    fun n v hv hpend hbus => ?_, fun n => ?_, fun r v hpend => ?_, fun r v x hpend => ?_, fun v t hpend => ?_, fun v t hpend => ?_,
    fun r v w t hpend hne => ?_, fun r v t hpend hus => ?_⟩
  · rw [hwrite, State.regWrite_eq h]
    rfl
  · rw [hwrite, State.regWrite_eq h, Bool.true_and]
  · rw [hwrite, State.regWrite_none h]
  · rw [hwrite] at h
    obtain rfl : s.regWrite q off v.toNat = u := by injection h
    rfl
  · have heff : pathEffect (.die d) (0x1000000 * ((d : Nat) + 1) + 0x100000 + 0x10000 * l + 0x400C) v.toNat = _ := spdReg_status d l v.toNat hl
    rw [hwrite, State.regWrite_eq heff, Bool.false_and, if_neg Bool.false_ne_true, hreset, if_neg Bool.false_ne_true]
    refine ⟨_, rfl, ?_, fun x hx => ?_⟩
    · rw [State.modSpd, State.core_modCore]
      rfl
    · rw [State.modSpd, State.core_modCore_ne _ _ hx]
  · obtain ⟨u, hu, hout, hpend', hmasked⟩ := State.msixWrite_unmask (s := s) (n := n) (v := v.toNat) hv hpend hbus
    have heff : pathEffect .host (0x73000C + 16 * (n : Nat)) v.toNat = _ := regEffect_msixControl n v.toNat
    rw [hwrite, State.regWrite_eq heff, Bool.false_and, if_neg Bool.false_ne_true]
    exact ⟨u, congrArg _ hu, hout, hpend', hmasked⟩
  · rw [State.msi]
    cases hbus : s.cxl.busMaster
    · rw [if_pos (.inl rfl), Bool.not_false, Bool.true_or, if_pos rfl]
    · cases hmasked : (Tab.get {} s.cxl.msixTable n).masked
      · rw [if_neg (by rintro (h | h) <;> cases h), if_neg (by decide)]
      · rw [if_pos (.inr rfl), if_pos (by decide)]
  · rw [hvalue, execRwcValueWrite]
    dsimp only
    rw [hpend, if_neg (by decide)]
  · rw [hvalue, execRwcValueWrite]
    dsimp only
    rw [hpend, Option.isSome_some, if_pos rfl]
    obtain ⟨-, hpair, hhub, hbw, -⟩ := State.pairError_fields 8 s
    exact ⟨_, rfl, State.pendingRwc_setRwc _ _ _, hpair, hhub, hbw⟩
  · rw [hcomp, execRwcComplementWrite]
    dsimp only
    rw [hpend]
    dsimp only
    rw [if_pos rfl, State.takeRwc]
    refine ⟨_, rfl, ?_⟩
    split
    next h => exact ⟨State.pendingRwc_setRwc _ _ s, by simp [h.1, h.2], rfl⟩
    next h =>
      refine ⟨State.pendingRwc_setRwc _ _ s, ?_, rfl⟩
      have hno : (decide (p = .host) && v.getLsbD 0) = false := by simpa using h
      rw [hno, Bool.or_false]
      rfl
  · rw [hcomp, execRwcComplementWrite]
    dsimp only
    rw [hpend]
    dsimp only
    have hw : bits v.toNat 8 0 = v.toNat % 512 := rfl
    rw [if_pos rfl, State.takeRwc, hw]
    refine ⟨_, rfl, ?_⟩
    split <;> exact ⟨State.pendingRwc_setRwc _ _ s, rfl, rfl⟩
  · rw [hcomp, execRwcComplementWrite]
    dsimp only
    rw [hpend]
    dsimp only
    rw [if_neg hne]
    obtain ⟨-, hpair, hhub, hbw, -⟩ := State.pairError_fields 8 (s.setRwc (rwcLatch p r) none)
    refine ⟨_, rfl, ?_, hpair, hhub, hbw⟩
    rw [State.pendingRwc_pairError, State.pendingRwc_setRwc]
  · have htime : exec (.rwcPendingTimeout p r) s = execRwcPendingTimeout p r s := rfl
    rw [htime, execRwcPendingTimeout]
    dsimp only
    rw [hpend]
    dsimp only
    rw [if_pos hus]
    obtain ⟨-, hpair, hhub, hbw, -⟩ := State.pairError_fields 8 (s.setRwc (rwcLatch p r) none)
    refine ⟨_, rfl, ?_, hpair, hhub, hbw⟩
    rw [State.pendingRwc_pairError, State.pendingRwc_setRwc]

end Sys2Proof.Machine
end

section
/-! The generic mailbox commands and DOE (R352, R356 to R358). -/

namespace Sys2Proof.Machine

variable {s : State}

theorem fitBytes_of_length {n : Nat} {v : List Byte} (h : v.length = n) : fitBytes n v = v := by
  simp [fitBytes, h]

theorem State.evLog_hostDone (rc : Nat) (reply : List Byte) (n : Nat) (s : State) : (s.hostDone rc reply).evLog n = s.evLog n := by
  rw [State.hostDone, State.msi]
  split <;> rfl

theorem State.takesFrom_bmc (h : s.takesFrom .host = true) : s.takesFrom .bmc = true := by
  simp only [State.takesFrom, Bool.and_eq_true] at h
  simp [State.takesFrom, h.1]

theorem State.takesFrom_hub (h : s.takesFrom .host = true) : s.takesFrom .hub = true := by
  simp only [State.takesFrom, Bool.and_eq_true] at h
  simp [State.takesFrom, h.1]

/-- Settles O38: each command is its reply; an opcode that is not the source's is answered through the command's own path. -/
theorem mailboxGeneric : Obligations.MailboxGeneric := by
  intro s htakes
  dsimp only
  refine ⟨fun hrec => ⟨fun log => ?_, fun log handles all => ?_, ?_, fun v hv => ?_, ?_, fun v hv => ?_, ?_, fun log => ?_⟩, fun op l hop hlt => ?_,
    fun src op l hsrc hop hhost => ?_, fun op l hop hserving hup hcmd hreply hnew => ?_⟩
  · have hexec : exec (.getEventRecords log) s = execGetEventRecords log s := rfl
    rw [hexec, execGetEventRecords, State.mailbox_served htakes (.inl hrec)]
    refine ⟨_, rfl, ?_⟩
    have hlen : ((s.evLog log).recs.take evPerReply).length = min 31 (s.evLog log).recs.length := List.length_take
    have hmore : 2 * b2n (decide (evPerReply < (s.evLog log).recs.length)) = if 31 < (s.evLog log).recs.length then 2 else 0 := by
      rw [b2n, evPerReply]
      by_cases h : 31 < (s.evLog log).recs.length <;> simp [h]
    have hover : b2n (decide ((s.evLog log).overflow ≠ 0)) = if (s.evLog log).overflow ≠ 0 then 1 else 0 := by
      rw [b2n]
      by_cases h : (s.evLog log).overflow ≠ 0 <;> simp [h]
    dsimp only
    rw [hlen, hmore, hover]
    rfl
  · have hexec : exec (.clearEventRecords log handles all) s = execClearEventRecords log handles all s := rfl
    rw [hexec, execClearEventRecords, State.mailbox_served htakes (.inl hrec)]
    dsimp only
    refine ⟨_, rfl, State.hostDone_status _ _ _, by rw [State.rc]; simp, fun n hn => ?_, fun hall => ?_, fun hall => ?_⟩ <;> rw [State.rc, State.evLog_hostDone]
    · exact Tab.get_insert_ne _ _ _ hn
    · rw [if_pos hall]
      exact Tab.get_insert_self _ _ _ _
    · rw [if_neg (by rw [hall]; decide), State.evLog]
      dsimp only
      rw [Tab.get_insert_self]
      exact ⟨rfl, fun r => by simp⟩
  · have hexec : exec .getEventInterruptPolicy s = execGetEventInterruptPolicy s := rfl
    rw [hexec, execGetEventInterruptPolicy, State.mailbox_served htakes (.inl hrec)]
    exact ⟨_, rfl, rfl⟩
  · have hexec : exec (.setEventInterruptPolicy v) s = execSetEventInterruptPolicy v s := rfl
    rw [hexec, execSetEventInterruptPolicy, State.mailbox_served htakes (.inl hrec), fitBytes_of_length hv]
    exact ⟨_, rfl, rfl⟩
  · have hexec : exec .getTimestamp s = execGetTimestamp s := rfl
    rw [hexec, execGetTimestamp, State.mailbox_served htakes (.inl hrec)]
    exact ⟨_, rfl, rfl⟩
  · have hexec : exec (.setTimestamp v) s = execSetTimestamp v s := rfl
    rw [hexec, execSetTimestamp, State.mailbox_served htakes (.inl hrec), Nat.mod_eq_of_lt hv]
    refine ⟨_, rfl, rfl, ?_⟩
    rw [State.rc, State.wall]
    simp
  · have hexec : exec .getSupportedLogs s = execGetSupportedLogs s := rfl
    rw [hexec, execGetSupportedLogs, State.mailbox_served htakes (.inl hrec)]
    exact ⟨_, rfl, rfl⟩
  · have hexec : exec (.getLog log) s = execGetLog log s := rfl
    rw [hexec, execGetLog, State.mailbox_served htakes (.inl hrec)]
    exact ⟨_, rfl, rfl⟩
  · have hexec : exec (.mailboxUnsupported .host op l) s = execMailboxUnsupported .host op l s := rfl
    rw [hexec, execMailboxUnsupported, if_neg hop, if_neg (by omega), State.mailbox_served htakes (.inr rfl)]
    rfl
  · have hexec : exec (.mailboxUnsupported src op l) s = execMailboxUnsupported src op l s := rfl
    have hnone : src ∉ ([] : List Source) := List.not_mem_nil
    rw [hexec]
    unfold execMailboxUnsupported
    dsimp only
    rw [if_neg hop]
    cases src with
    | host =>
      dsimp only
      rw [if_pos (hhost rfl)]
      exact ⟨fun h => by rw [State.cmd_unsupported htakes hnone h], fun h => by rw [State.cmd_waits htakes h]⟩
    | bmc =>
      have hbmc := State.takesFrom_bmc htakes
      exact ⟨fun h => congrArg _ (State.cmd_unsupported hbmc hnone h), fun h => congrArg _ (State.cmd_waits hbmc h)⟩
    | hub => exact absurd rfl hsrc
  · have hexec : exec (.mailboxUnsupported .hub op l) s = execMailboxUnsupported .hub op l s := rfl
    have hhub := State.takesFrom_hub htakes
    rw [hexec, execMailboxUnsupported, if_neg hop, State.hubCmd, hhub, hup, if_neg (by decide), State.inTurn_of_idle hserving,
      State.cmd_unsupported hhub List.not_mem_nil hserving, hcmd, hreply, if_pos rfl]
    simp only [Bool.not_true, Bool.false_eq_true, if_false]
    split
    · rw [if_neg (by simp [hnew])]
      rfl
    · rfl

end Sys2Proof.Machine
end

section
/-! DOE Discovery, CDAT, attestation and Get FW Info (R352, R358, R439, R447). -/

namespace Sys2Proof.Machine

variable {s : State}

/-- Settles O39: the DOE answers are lists of bytes; an attestation request and Get FW Info are served in RECOVERY too. -/
theorem doeAttestationAndFwInfo : Obligations.DoeAttestationAndFwInfo := by
  intro s
  refine ⟨fun htakes hrec => ⟨fun i hi => ?_, fun i hi => ?_, fun i hlo hhi => ?_⟩, fun htakes nonce hnonce => ?_, fun hmgmt nonce hnonce => ?_, fun htakes => ?_⟩
  · have hexec : exec (.doeDiscovery i) s = execDoeDiscovery i s := rfl
    rw [hexec]
    unfold execDoeDiscovery
    rw [State.doe_served htakes (.inl hrec)]
    obtain _ | _ | _ | i := i
    · omega
    · omega
    · omega
    · rfl
  · have hexec : exec (.doeDiscovery i) s = execDoeDiscovery i s := rfl
    rw [hexec]
    unfold execDoeDiscovery
    rw [State.doe_served htakes (.inl hrec)]
    refine ⟨_, rfl, ?_⟩
    have hcase : i = 0 ∨ i = 1 ∨ i = 2 := by omega
    rcases hcase with rfl | rfl | rfl <;> exact ⟨rfl, rfl⟩
  · have hexec : exec (.doeCdat i) s = execDoeCdat i s := rfl
    rw [hexec, execDoeCdat, State.doe_served htakes (.inl hrec)]
    refine ⟨_, rfl, ?_⟩
    have hcase : i = 2 ∨ i = 3 ∨ i = 4 ∨ i = 5 := by omega
    have hentry : s.cdat.getD i [] = if i = 2 then dslbis 1 1000 200 else if i = 3 then dslbis 2 1000 200 else if i = 4 then dslbis 4 1 32000
        else dslbis 5 1 32000 := by
      rcases hcase with rfl | rfl | rfl | rfl <;> rfl
    rw [hentry]
    clear hentry
    rcases hcase with rfl | rfl | rfl | rfl <;> decide
  · have hreport : exec (.attestReport .host nonce) s = .next (s.attest .host nonce fun s => s.report nonce) := rfl
    have hcert : exec (.attestCert .host nonce) s = .next (s.attest .host nonce State.certReply) := rfl
    have hgo (go : State → List Byte) : s.attest .host nonce go = { s with out := { s.out with doe := go s } } := by
      rw [State.attest, if_neg (not_not.mpr hnonce)]
      exact State.doe_served htakes (.inr rfl)
    rw [hreport, hcert, hgo, hgo]
    exact ⟨rfl, rfl⟩
  · have hreport : exec (.attestReport .bmc nonce) s = .next (s.attest .bmc nonce fun s => s.report nonce) := rfl
    have hcert : exec (.attestCert .bmc nonce) s = .next (s.attest .bmc nonce State.certReply) := rfl
    have hgo (go : State → List Byte) : s.attest .bmc nonce go = { s with out := { s.out with bmcStatus := 0, bmcReply := go s } } := by
      rw [State.attest, if_neg (not_not.mpr hnonce)]
      exact if_pos hmgmt
    rw [hreport, hcert, hgo, hgo]
    exact ⟨rfl, rfl⟩
  · have hexec : exec .getFwInfo s = execGetFwInfo s := rfl
    rw [hexec, execGetFwInfo, State.mailbox_served htakes (.inr rfl)]
    refine ⟨_, rfl, State.hostDone_status _ _ _, by rw [State.rc]; simp, ?_⟩
    rw [State.rc, State.hostDone_reply]
    rfl

end Sys2Proof.Machine
end

section
/-! The host's firmware commands and the session commands (R439 to R445, R448). -/

namespace Sys2Proof.Machine

variable {s : State}

/-! ### Queued bank writes -/

/-- Queueing a bank write changes the jobs and the bank that it makes invalid, and appends the job. -/
theorem State.queueJob_only (job : BankJob) (s : State) : s.queueJob job = { s with tmk := (s.queueJob job).tmk } ∧
    (s.queueJob job).tmk.jobs.map (·.job) = s.tmk.jobs.map (·.job) ++ [job] := by
  rw [State.queueJob, State.startJob]
  dsimp only
  cases s.tmk.jobs with
  | nil => exact ⟨rfl, rfl⟩
  | cons j rest =>
    rw [List.cons_append]
    dsimp only
    split
    · exact ⟨rfl, by simp⟩
    · exact ⟨rfl, by simp⟩

theorem State.queueJob_sec (job : BankJob) (s : State) : (s.queueJob job).sec = s.sec := by rw [(State.queueJob_only job s).1]

theorem State.tmk_jobs_record (ty src : Nat) (b : List Byte) (s : State) : (s.record ty src b).tmk.jobs = s.tmk.jobs := by
  rw [State.record]
  dsimp only
  rw [Tmk.same_enqueue]

/-- The bank write of a confirmation, where none is in progress, starts with the items in force and the trial slot active. -/
theorem State.queueJob_confirm (src : Source) (h : s.tmk.jobs = []) : (s.queueJob (.confirm src)).tmk.jobs =
    [{ job := .confirm src, started := true, payload := (s.payload (.confirm src)).1, format := (s.payload (.confirm src)).2 }] := by
  rw [State.queueJob, h, State.startJob]
  rfl

/-! ### Flash slots -/

theorem Sec.flash_setFlash (slot : Nat) (bs : List Byte) (x : Sec) : (x.setFlash slot bs).flash slot = bs := by
  rw [Sec.setFlash, Sec.flash]
  split <;> rfl

/-- The two slots are two. -/
theorem Sec.flash_setFlash_ne {slot k : Nat} (bs : List Byte) (x : Sec) (h : k ≠ slot) (hslot : slot < 2) (hk : k < 2) :
    (x.setFlash slot bs).flash k = x.flash k := by
  have hcase : (slot = 0 ∧ k = 1) ∨ (slot = 1 ∧ k = 0) := by omega
  rcases hcase with ⟨rfl, rfl⟩ | ⟨rfl, rfl⟩ <;> rfl

theorem Sec.setFlash_only (slot : Nat) (bs : List Byte) (x : Sec) :
    x.setFlash slot bs = { x with flash0 := (x.setFlash slot bs).flash0, flash1 := (x.setFlash slot bs).flash1 } := by
  rw [Sec.setFlash]
  split <;> rfl

/-! ### Data that arrives -/

/-- What a piece in sequence first leaves of the session: its length counted and its bytes taken into the header while that is not whole. -/
def Sec.takePiece (data : List Byte) (us : Nat) (x : Sec) : Sec :=
  { x with bytes := satAdd x.bytes data.length, lastTraffic := us, header := x.header ++ data.take (hdrLen - x.header.length) }

theorem State.receive_short {off : Nat} {data : List Byte} (hoff : s.sec.bytes = off) (hst : s.sec.stage = .download)
    (hshort : s.sec.header.length + data.length < hdrLen) : s.receive off data false = { s with sec := s.sec.takePiece data s.us } := by
  have hlen : (s.sec.header ++ data.take (hdrLen - s.sec.header.length)).length ≠ hdrLen := by
    rw [List.length_append, List.length_take]
    omega
  rw [State.receive, if_neg (not_not.mpr hoff.symm)]
  have hheader : ¬ ((s.sec.header ++ data.take (hdrLen - s.sec.header.length)).length = hdrLen ∧ hdrLen - s.sec.header.length ≠ 0) := fun h => hlen h.1
  dsimp only
  simp only [if_neg hheader, if_neg (not_not.mpr hst), decide_eq_false hlen, Bool.not_false, if_true, Bool.false_eq_true, if_false]
  rfl

/-- A piece behind a whole header is held while its slot waits to be erased. -/
theorem State.receive_held {off : Nat} {data : List Byte} {last : Bool} (hoff : s.sec.bytes = off) (hst : s.sec.stage = .download)
    (hwhole : s.sec.header.length = hdrLen) (herasing : s.sec.erasing = true) : s.receive off data last =
      { s with sec := { s.sec with bytes := satAdd off data.length, lastTraffic := s.us, held := s.sec.held ++ data, heldLast := last } } := by
  rw [State.receive, if_neg (not_not.mpr hoff.symm)]
  dsimp only
  simp only [hwhole, Nat.sub_self, List.take_zero, List.append_nil, List.drop_zero, ne_eq, not_true_eq_false, and_false, if_false, hst, decide_true,
    Bool.not_true, Bool.false_eq_true, hoff, herasing, if_true]

/-- A piece for an erased slot is written. -/
theorem State.receive_written {off : Nat} {data : List Byte} {last : Bool} (hoff : s.sec.bytes = off) (hst : s.sec.stage = .download)
    (hwhole : s.sec.header.length = hdrLen) (herasing : s.sec.erasing = false) : s.receive off data last =
      ({ s with sec := { s.sec with bytes := satAdd off data.length, lastTraffic := s.us } } : State).writeData data last := by
  rw [State.receive, if_neg (not_not.mpr hoff.symm)]
  dsimp only
  simp only [hwhole, Nat.sub_self, List.take_zero, List.append_nil, List.drop_zero, ne_eq, not_true_eq_false, and_false, if_false, hst, decide_true,
    Bool.not_true, Bool.false_eq_true, hoff, herasing]

/-- The piece that makes the header whole is checked: an image that passes asks for its slot's erasure, and the rest of the piece is held. -/
theorem State.receive_header {off : Nat} {data : List Byte} {last : Bool} (hoff : s.sec.bytes = off) (hst : s.sec.stage = .download)
    (hnil : s.sec.header = []) (hlen : hdrLen ≤ data.length) (hok : s.sec.headerCode (data.take hdrLen) = none) :
    ∃ u, s.receive off data last = u ∧ u.sec.stage = .download ∧ u.sec.holder = s.sec.holder ∧ u.sec.erasing = true ∧
      u.sec.held = s.sec.held ++ data.drop hdrLen ∧ u.sec.flash0 = s.sec.flash0 ∧ u.sec.flash1 = s.sec.flash1 ∧
      u.tmk.jobs.map (·.job) = s.tmk.jobs.map (·.job) ++ [.erase] := by
  have hwhole : (data.take hdrLen).length = hdrLen := by
    rw [List.length_take]
    omega
  refine ⟨_, rfl, ?_⟩
  rw [State.receive, if_neg (not_not.mpr hoff.symm)]
  dsimp only
  have hwhole' : (data.take hdrLen).length = hdrLen ∧ hdrLen ≠ 0 := ⟨hwhole, by decide⟩
  rw [hnil, List.length_nil, List.nil_append, Nat.sub_zero]
  simp only [if_pos hwhole', decide_eq_true hwhole, Bool.not_true, Bool.false_eq_true, if_false]
  generalize hv : ({ s with sec := { s.sec with bytes := satAdd s.sec.bytes data.length, lastTraffic := s.us, header := data.take hdrLen } } : State) = v
  have hcode : v.sec.headerCode v.sec.header = none := by
    rw [← hv]
    exact hok
  have hvsec : v.sec.stage = .download ∧ v.sec.holder = s.sec.holder ∧ v.sec.held = s.sec.held ∧ v.sec.flash0 = s.sec.flash0 ∧ v.sec.flash1 = s.sec.flash1 ∧
      v.tmk = s.tmk := by
    rw [← hv]
    exact ⟨hst, rfl, rfl, rfl, rfl, rfl⟩
  obtain ⟨hvst, hvholder, hvheld, hvflash0, hvflash1, hvtmk⟩ := hvsec
  have haccept : v.acceptHeader.sec = { v.sec with total := hdrField v.sec.header 20 4, erasing := true } ∧
      v.acceptHeader.tmk.jobs.map (·.job) = s.tmk.jobs.map (·.job) ++ [.erase] := by
    rw [State.acceptHeader, hcode]
    dsimp only
    refine ⟨State.queueJob_sec _ _, ?_⟩
    rw [(State.queueJob_only _ _).2, State.tmk_jobs_record, ← hvtmk]
  generalize v.acceptHeader = w at haccept
  obtain ⟨hwsec, hwjobs⟩ := haccept
  have hwst : ¬ w.sec.stage ≠ .download := by
    rw [hwsec]
    exact not_not.mpr hvst
  have hwerasing : w.sec.erasing = true := by rw [hwsec]
  rw [if_neg hwst, if_pos hwerasing]
  refine ⟨?_, ?_, hwerasing, ?_, ?_, ?_, hwjobs⟩ <;> dsimp only <;> rw [hwsec]
  · exact hvst
  · exact hvholder
  · exact congrArg (· ++ _) hvheld
  · exact hvflash0
  · exact hvflash1

/-- A piece out of sequence ends the session with code 9. -/
theorem State.receive_out {off : Nat} {data : List Byte} {last : Bool} (hoff : s.sec.bytes ≠ off) :
    (s.receive off data last).sec = s.sec.endSession 9 := by
  rw [State.receive, if_pos hoff.symm]
  rfl

/-- Settles O40: each command is its branch; a piece is `receive` by the state of its header. -/
theorem hostFirmwareCommands : Obligations.HostFirmwareCommands := by
  intro s
  dsimp only
  refine ⟨fun htakes => ?_, fun src hsrc htakes hserving => ?_, fun src hsrc htakes hidle => ?_⟩
  · have htransfer (slot off : Nat) (data : List Byte) (last : Bool) : exec (.transferFw slot off data last) s = execTransferFw slot off data last s := rfl
    have hactivate (slot : Nat) (cold : Bool) : exec (.activateFw slot cold) s = execActivateFw slot cold s := rfl
    have hslot {slot : Nat} (h0 : 0 < slot) (h2 : slot ≤ 2) (hactive : slot ≠ s.sec.active + 1) (htrial : slot ≠ s.sec.trial + 1) :
        ¬ (slot = 0 ∨ 2 < slot ∨ slot = s.sec.active + 1 ∨ slot = s.sec.trial + 1) := by omega
    -- A piece for a slot that may take it is received under the session of the host.
    have hpiece {slot off : Nat} {data : List Byte} {last : Bool} (h : ¬ (slot = 0 ∨ 2 < slot ∨ slot = s.sec.active + 1 ∨ slot = s.sec.trial + 1))
        (hhost : s.sec.holder = 1) (hst : s.sec.stage = .download) (htarget : s.sec.target + 1 = slot) : exec (.transferFw slot off data last) s =
          .next (let t := s.receive off data last; if t.sec.holder = 1 then t.rc .success [] else t.rcOpen t.sec.code) := by
      rw [htransfer, execTransferFw, State.mailbox_served htakes (.inr rfl)]
      dsimp only
      rw [if_neg h, if_neg (by omega), if_neg (by omega), if_neg (by simp [hst]), if_neg (by omega)]
      simp [hhost]
    have hopen {slot : Nat} {data : List Byte} (h : ¬ (slot = 0 ∨ 2 < slot ∨ slot = s.sec.active + 1 ∨ slot = s.sec.trial + 1))
        (hnone : s.sec.holder = 0) (hno : s.sec.noSession = false) : exec (.transferFw slot 0 data false) s =
          .next (let t := ({ s with sec := s.sec.openSession 1 (slot - 1) } : State).receive 0 data false
            if t.sec.holder = 1 then t.rc .success [] else t.rcOpen t.sec.code) := by
      rw [htransfer, execTransferFw, State.mailbox_served htakes (.inr rfl)]
      dsimp only
      rw [if_neg h, if_neg (by omega), if_neg (by simp [hno]), if_neg (by omega), if_neg (by omega)]
      simp [hnone]
    refine ⟨fun slot off data last h => ?_, fun slot off data last h0 h2 hactive htrial hbmc => ?_, fun slot data h0 h2 hactive htrial hnone hno hlen => ?_,
      fun slot data h0 h2 hactive htrial hnone hno hlen hok => ?_, fun slot off data last h0 h2 hactive htrial hhost hst htarget hwhole hoff herasing => ?_,
      fun slot off data h0 h2 hactive htrial hhost hst htarget hwhole hoff herasing => ?_, fun slot off data last h0 h2 hactive htrial hhost hst htarget hoff => ?_,
      fun slot => ?_, fun slot hhost hst htarget => ?_⟩
    · rw [htransfer, execTransferFw, State.mailbox_served htakes (.inr rfl)]
      dsimp only
      rw [if_pos (by omega)]
    · rw [htransfer, execTransferFw, State.mailbox_served htakes (.inr rfl)]
      dsimp only
      rw [if_neg (hslot h0 h2 hactive htrial), if_pos hbmc]
    · have hshort := State.receive_short (s := { s with sec := s.sec.openSession 1 (slot - 1) }) (off := 0) (data := data) rfl rfl
        (by simpa [Sec.openSession] using hlen)
      have hdata : data.take (hdrLen - 0) = data := List.take_of_length_le (by omega)
      rw [hopen (hslot h0 h2 hactive htrial) hnone hno, hshort]
      have hone : ((s.sec.openSession 1 (slot - 1)).takePiece data s.us).holder = 1 := rfl
      dsimp only
      rw [if_pos hone, State.rc]
      refine ⟨_, rfl, State.hostDone_status _ _ _, ?_⟩
      simp only [State.hostDone_fields]
      exact ⟨rfl, rfl, rfl, rfl, hdata, rfl, rfl, rfl⟩
    · obtain ⟨t, ht, hst, hholder, herasing, hheld, hflash0, hflash1, hjobs⟩ := State.receive_header
        (s := { s with sec := s.sec.openSession 1 (slot - 1) }) (off := 0) (data := data) (last := false) rfl rfl rfl hlen hok
      rw [hopen (hslot h0 h2 hactive htrial) hnone hno, ht]
      have hone : t.sec.holder = 1 := hholder
      dsimp only
      rw [if_pos hone, State.rc]
      refine ⟨_, rfl, State.hostDone_status _ _ _, ?_⟩
      simp only [State.hostDone_fields]
      exact ⟨hst, hone, herasing, hheld, hflash0, hflash1, hjobs⟩
    · rw [hpiece (hslot h0 h2 hactive htrial) hhost hst htarget, State.receive_held hoff hst hwhole herasing]
      dsimp only
      rw [if_pos hhost, State.rc]
      refine ⟨_, rfl, State.hostDone_status _ _ _, ?_⟩
      simp only [State.hostDone_fields]
      exact ⟨trivial, trivial, hst, trivial, trivial⟩
    · have hslot' : slot - 1 = s.sec.target := by omega
      generalize hy : ({ s.sec with bytes := satAdd off data.length, lastTraffic := s.us } : Sec) = y
      have hyfields : y.holder = 1 ∧ y.stage = .download ∧ y.bytes = satAdd off data.length ∧ y.target = s.sec.target ∧ ∀ k, y.flash k = s.sec.flash k := by
        rw [← hy]
        exact ⟨hhost, hst, rfl, rfl, fun _ => rfl⟩
      obtain ⟨hyholder, hyst, hybytes, hytarget, hyflash⟩ := hyfields
      have hwrite : ({ s with sec := y } : State).writeData data false = { s with sec := y.append data } := rfl
      have honly := Sec.setFlash_only y.target ((y.flash y.target ++ data).take slotLen) y
      have hone : (y.append data).holder = 1 := by rw [Sec.append, honly, hyholder]
      rw [hpiece (hslot h0 h2 hactive htrial) hhost hst htarget, State.receive_written hoff hst hwhole herasing, hy, hwrite]
      dsimp only
      rw [if_pos hone, State.rc]
      refine ⟨_, rfl, State.hostDone_status _ _ _, ?_⟩
      simp only [State.hostDone_fields]
      refine ⟨by rw [Sec.append, honly, hyst], by rw [Sec.append, honly, hybytes], ?_, fun k hk hne => ?_⟩
      · rw [hslot', ← hytarget, Sec.append, Sec.flash_setFlash, hyflash]
      · rw [Sec.append, Sec.flash_setFlash_ne _ _ (by omega) (by omega) hk, hyflash]
    · rw [hpiece (hslot h0 h2 hactive htrial) hhost hst htarget]
      have hsec := State.receive_out (data := data) (last := last) hoff
      generalize s.receive off data last = t at hsec ⊢
      dsimp only
      rw [if_neg (by rw [hsec]; exact Nat.zero_ne_one), State.rcOpen]
      refine ⟨_, rfl, ?_⟩
      dsimp only
      simp only [State.hostDone_fields]
      rw [State.draw, hsec]
      exact ⟨rfl, rfl, rfl, rfl, rfl⟩
    · rw [hactivate, execActivateFw, State.mailbox_served htakes (.inr rfl)]
      rfl
    · rw [hactivate, execActivateFw, State.mailbox_served htakes (.inr rfl)]
      dsimp only
      rw [if_neg (by decide), if_neg (by omega), if_neg (by simp [hhost, hst]), if_neg (by omega)]
      rfl
  · have hmem := Source.mem_hostBmc hsrc
    have hstate : exec (.updState src) s = execUpdState src s := rfl
    have hcancel : exec (.updCancel src) s = execUpdCancel src s := rfl
    have hconfirm : exec (.fwConfirm src) s = execFwConfirm src s := rfl
    rw [hstate, hcancel, hconfirm, execUpdState, execUpdCancel, execFwConfirm, State.cmd_waits htakes hserving, State.cmd_waits htakes hserving,
      State.cmd_waits htakes hserving]
    exact ⟨rfl, rfl, rfl⟩
  · have hmem := Source.mem_hostBmc hsrc
    have hstate : exec (.updState src) s = execUpdState src s := rfl
    have hcancel : exec (.updCancel src) s = execUpdCancel src s := rfl
    have hconfirm : exec (.fwConfirm src) s = execFwConfirm src s := rfl
    refine ⟨?_, fun hrec hopen hholder => ?_, fun hrec hopen hholder => ?_, fun hrec hopen => ?_, fun htrial hno => ?_, fun hmay hjobs hpfail => ?_⟩
    · rw [hstate, execUpdState, State.cmd_inTurn htakes hmem (.inr rfl) hidle]
    · rw [hcancel, execUpdCancel, State.cmd_inTurn htakes hmem (.inl hrec) hidle]
      rw [hopen, if_neg (by decide), if_neg (not_not.mpr hholder)]
      refine ⟨_, rfl, ?_⟩
      rw [State.abortSession, hholder]
      cases src with
      | host => simp [State.answerCmd, Sec.endSession, Status.code, State.record]; rfl
      | bmc => simp [State.answerCmd, Sec.endSession, Status.code, State.record]; rfl
      | hub => exact absurd rfl hsrc
    · rw [hcancel, execUpdCancel, State.cmd_inTurn htakes hmem (.inl hrec) hidle]
      rw [hopen, if_neg (by decide), if_pos hholder]
    · rw [hcancel, execUpdCancel, State.cmd_inTurn htakes hmem (.inl hrec) hidle]
      rw [hopen, if_pos (by decide)]
    · rw [hconfirm, execFwConfirm, State.cmd_inTurn htakes hmem (.inr rfl) hidle]
      dsimp only
      rw [htrial, if_pos]
      rcases hno with h | h <;> simp [h]
    · rw [hconfirm, execFwConfirm, State.cmd_inTurn htakes hmem (.inr rfl) hidle]
      dsimp only
      rw [hpfail, if_neg (by rcases hmay with h | ⟨h, h'⟩ <;> simp [*])]
      refine ⟨_, rfl, State.queueJob_sec _ _, ?_⟩
      rw [State.queueJob_confirm src hjobs]
      unfold State.payload
      dsimp only
      by_cases hkeep : s.sec.recovery = false ∧ s.otherFormat = false
      · rw [if_pos hkeep, if_neg (by simp [hkeep.1, hkeep.2])]
        rfl
      · have hold : (s.sec.recovery || s.otherFormat) = true := by
          cases h : s.sec.recovery <;> cases h' : s.otherFormat <;> simp_all
        rw [if_neg hkeep, if_pos hold]
        cases s.tmk.selected <;> rfl

end Sys2Proof.Machine
end

section
/-! The PLDM update path, the session timeout and verification (R439, R441 to R443). -/

namespace Sys2Proof.Machine

variable {s : State}

theorem State.fromBmc_up (h : s.hub.mgmtUp = true) (go : State → State) : s.fromBmc go = go s := by rw [State.fromBmc, if_pos h]

theorem State.pldmIn_go {at_ : PldmSt} (hup : s.hub.mgmtUp = true) (hholder : s.sec.holder = 2) (hat : s.sec.pldm = at_) (go : State → State) :
    s.pldmIn at_ go = go { s with sec := { s.sec with lastTraffic := s.us } } := by
  rw [State.pldmIn, State.fromBmc_up hup, if_neg (not_not.mpr hholder), if_neg (not_not.mpr hat)]

theorem State.queueJob_out (job : BankJob) (s : State) : (s.queueJob job).out = s.out := by rw [(State.queueJob_only job s).1]

theorem Sec.slotSt_setSlotSt (slot v : Nat) (x : Sec) : (x.setSlotSt slot v).slotSt slot = v := by
  rw [Sec.setSlotSt, Sec.slotSt]
  split <;> rfl

theorem Sec.setSlotSt_only (slot v : Nat) (x : Sec) :
    x.setSlotSt slot v = { x with slotst0 := (x.setSlotSt slot v).slotst0, slotst1 := (x.setSlotSt slot v).slotst1 } := by
  rw [Sec.setSlotSt]
  split <;> rfl

theorem Sec.append_only (data : List Byte) (x : Sec) :
    x.append data = { x with flash0 := (x.append data).flash0, flash1 := (x.append data).flash1 } := Sec.setFlash_only _ _ x

/-- Telling the BMC changes the requests alone. -/
theorem State.tellBmc_only (holder : Nat) (r : PldmReq) (s : State) :
    s.tellBmc holder r = { s with out := { s.out with pldmReq := if holder = 2 then s.out.pldmReq ++ [r] else s.out.pldmReq } } := by
  rw [State.tellBmc]
  split <;> rfl

/-- The last piece of the image ends the transfer. -/
theorem State.writeData_last (data : List Byte) (hholder : s.sec.holder = 2) : (s.writeData data true).sec.stage = .verify ∧
    (s.writeData data true).sec.pldm = .verify ∧ (s.writeData data true).sec.holder = 2 ∧
    (s.writeData data true).out.pldmReq = s.out.pldmReq ++ [.transferComplete 0] := by
  have hone : (s.sec.append data).holder = 2 := by rw [Sec.append_only, hholder]
  rw [State.writeData, if_neg (by decide), State.draw]
  dsimp only
  rw [hone, State.tellBmc_only, if_pos rfl]
  dsimp only
  rw [if_pos rfl, Sec.setFlash_only, hone]
  exact ⟨rfl, rfl, rfl, rfl⟩

/-- Settles O41: each request is its branch of the session's state; the ends of a session are its outcome of verification, its cancel or its timeout. -/
theorem pldmFirmwareUpdate : Obligations.PldmFirmwareUpdate := by
  intro s
  dsimp only
  refine ⟨fun hup => ⟨fun hholder hno hpfail => ?_, fun hholder => ?_, fun d hholder hat => ⟨fun hcls => ?_, fun hcls => ?_⟩, fun hholder hat => ?_,
    fun off data hholder hat hst hlen hpfail hwhole hoff herasing => ?_, fun off data hholder hat hst hlen hpfail hwhole hoff herasing => ?_,
    fun hholder hat hst hpfail => ?_, fun hholder hat hpfail => ?_, fun hholder hat => ?_, ?_, fun hholder hopen => ?_⟩, fun hopen hus => ?_,
    fun hst hup hpfail => ⟨?_, fun hok => ?_, fun c hbad => ?_⟩⟩
  · have hexec : exec .requestUpdate s = execRequestUpdate s := rfl
    rw [hexec, execRequestUpdate, State.fromBmc_up hup, if_neg (not_not.mpr hholder), if_neg (by simp [hno, hpfail])]
    rfl
  · have hexec : exec .requestUpdate s = execRequestUpdate s := rfl
    rw [hexec, execRequestUpdate, State.fromBmc_up hup, if_pos hholder]
    exact ⟨_, rfl, rfl⟩
  · have hexec : exec (.passComponentTable d) s = execPassComponentTable d s := rfl
    rw [hexec, execPassComponentTable, State.pldmIn_go hup hholder hat, if_pos hcls]
    rfl
  · have hexec : exec (.passComponentTable d) s = execPassComponentTable d s := rfl
    rw [hexec, execPassComponentTable, State.pldmIn_go hup hholder hat, if_neg hcls]
    rfl
  · have hexec : exec .updateComponent s = execUpdateComponent s := rfl
    rw [hexec, execUpdateComponent, State.pldmIn_go hup hholder hat]
    rfl
  · have hexec : exec (.firmwareDataReceived off data false) s = execFirmwareDataReceived off data false s := rfl
    rw [hexec, execFirmwareDataReceived, State.fromBmc_up hup, if_neg (by simp [hholder, hat, hpfail, pieceLen, hlen]),
      State.receive_written hoff hst hwhole herasing]
    generalize hy : ({ s.sec with bytes := satAdd off data.length, lastTraffic := s.us } : Sec) = y
    have hyfields : y.holder = 2 ∧ y.stage = .download ∧ y.bytes = satAdd off data.length ∧ y.target = s.sec.target ∧ y.lastTraffic = s.us ∧
        y.total = s.sec.total ∧ y.flash y.target = s.sec.flash s.sec.target := by
      rw [← hy]
      exact ⟨hholder, hst, rfl, rfl, rfl, rfl, rfl⟩
    obtain ⟨hyholder, hyst, hybytes, hytarget, hyus, hytotal, hyflash⟩ := hyfields
    have hwrite : ({ s with sec := y } : State).writeData data false = { s with sec := y.append data } := rfl
    have htwo : ¬ (y.append data).holder ≠ 2 := by rw [Sec.append_only, hyholder]; decide
    rw [hwrite]
    dsimp only
    rw [if_neg htwo, if_neg Bool.false_ne_true]
    refine ⟨_, rfl, ?_, ?_, ?_, ?_, ?_⟩
    · exact (congrArg Sec.stage (Sec.append_only data y)).trans hyst
    · exact (congrArg Sec.bytes (Sec.append_only data y)).trans hybytes
    · exact (congrArg Sec.lastTraffic (Sec.append_only data y)).trans hyus
    · rw [← hytarget, State.askPiece, State.askBmc]
      dsimp only
      rw [Sec.append, Sec.flash_setFlash, hyflash, hytarget]
    · have htot : (y.append data).total = s.sec.total := (congrArg Sec.total (Sec.append_only data y)).trans hytotal
      rw [State.askPiece, State.askBmc]
      dsimp only
      rw [htot]
      rfl
  · have hexec : exec (.firmwareDataReceived off data true) s = execFirmwareDataReceived off data true s := rfl
    rw [hexec, execFirmwareDataReceived, State.fromBmc_up hup, if_neg (by simp [hholder, hat, hpfail, pieceLen, hlen]),
      State.receive_written hoff hst hwhole herasing]
    obtain ⟨hstage, hpldm, htwo, hreq⟩ := State.writeData_last (s := { s with sec := { s.sec with bytes := satAdd off data.length, lastTraffic := s.us } }) data hholder
    dsimp only
    rw [if_neg (not_not.mpr htwo), if_pos rfl]
    exact ⟨_, rfl, hstage, hpldm, hreq⟩
  · have hexec : exec (.activateFirmware false) s = execActivateFirmware false s := rfl
    rw [hexec, execActivateFirmware, State.pldmIn_go hup hholder hat, if_neg Bool.false_ne_true, if_neg (by rw [hpfail]; decide), if_neg (not_not.mpr hst)]
    generalize hv : ({ s with sec := { s.sec with lastTraffic := s.us, pldm := .activate } } : State) = v
    have hvfields : v.sec.pldm = .activate ∧ v.sec.stage = .ready ∧ v.tmk = s.tmk ∧ v.sec.target = s.sec.target := by
      rw [← hv]
      exact ⟨rfl, hst, rfl, rfl⟩
    obtain ⟨hvpldm, hvst, hvtmk, hvtarget⟩ := hvfields
    refine ⟨_, rfl, ?_, ?_, rfl, ?_⟩
    · exact (congrArg Sec.pldm (State.queueJob_sec _ v)).trans hvpldm
    · exact (congrArg Sec.stage (State.queueJob_sec _ v)).trans hvst
    · exact ((State.queueJob_only (.activate v.sec.target) v).2).trans (by rw [hvtmk, hvtarget])
  · have hexec : exec (.activateFirmware false) s = execActivateFirmware false s := rfl
    rw [hexec, execActivateFirmware, State.pldmIn_go hup hholder hat, if_neg Bool.false_ne_true, if_pos hpfail]
    rfl
  · have hexec : exec (.activateFirmware true) s = execActivateFirmware true s := rfl
    rw [hexec, execActivateFirmware, State.pldmIn_go hup hholder hat, if_pos rfl]
    exact ⟨_, rfl, rfl, rfl⟩
  · have hexec : exec .pldmGetStatus s = execPldmGetStatus s := rfl
    rw [hexec, execPldmGetStatus, State.fromBmc_up hup]
    rfl
  · have hexec : exec .cancelUpdate s = execCancelUpdate s := rfl
    rw [hexec, execCancelUpdate, State.fromBmc_up hup, if_pos ⟨hholder, hopen⟩, State.abortSession, hholder]
    exact ⟨_, rfl, rfl, rfl, rfl, rfl, rfl⟩
  · have hexec : exec .updateSessionTimeout s = execUpdateSessionTimeout s := rfl
    rw [hexec, execUpdateSessionTimeout, hopen, decide_eq_true hus, if_pos (by decide)]
    exact ⟨_, rfl, rfl, rfl, rfl⟩
  · have hexec : exec (.imageVerifyDone true) s = execImageVerifyDone true s := rfl
    rw [hexec, execImageVerifyDone, if_neg (by simp [hst, hup, hpfail]), if_pos rfl, State.tellBmc_only]
    exact ⟨_, rfl, rfl, rfl, rfl, rfl⟩
  · have hexec : exec (.imageVerifyDone false) s = execImageVerifyDone false s := rfl
    rw [hexec, execImageVerifyDone, if_neg (by simp [hst, hup, hpfail]), if_neg Bool.false_ne_true]
    dsimp only
    rw [hok]
    dsimp only
    have honly := Sec.setSlotSt_only s.sec.target 2 s.sec
    have hslot := Sec.slotSt_setSlotSt s.sec.target 2 s.sec
    generalize s.sec.setSlotSt s.sec.target 2 = y at honly hslot ⊢
    have hyholder : y.holder = s.sec.holder := by rw [honly]
    refine ⟨_, rfl, ?_, ?_, ?_, fun htwo => ?_, ?_⟩
    · rw [State.queueJob_sec]
    · rw [State.queueJob_sec]
      exact hslot
    · rw [State.queueJob_sec]
      exact hyholder
    · rw [State.queueJob_out, State.tellBmc_only, State.tellBmc_only, hyholder, htwo]
      exact List.append_assoc _ _ _
    · rw [(State.queueJob_only _ _).2, State.tellBmc_only, State.tellBmc_only]
  · have hexec : exec (.imageVerifyDone false) s = execImageVerifyDone false s := rfl
    rw [hexec, execImageVerifyDone, if_neg (by simp [hst, hup, hpfail]), if_neg Bool.false_ne_true]
    dsimp only
    rw [hbad]
    dsimp only
    rw [State.tellBmc_only]
    exact ⟨_, rfl, rfl, rfl, rfl, rfl, rfl⟩

end Sys2Proof.Machine
end

section
/-! Slack water and neap (R383, R448). -/

namespace Sys2Proof.Machine

/-- A write of BW_CTRL.SLACK changes that bit and the count of entries into neap. -/
theorem State.setSlack_eq (on : Bool) (s : State) : s.setSlack on = { s with bw := { s.bw with slackReg := on, statNeap := (s.setSlack on).bw.statNeap } } := by
  rw [State.setSlack, State.pkg]
  split <;> rfl

/-- A write of BW_CTRL.NEAP changes that bit and the count of entries into neap. -/
theorem State.setNeap_eq (on : Bool) (s : State) : s.setNeap on = { s with bw := { s.bw with neapReg := on, statNeap := (s.setNeap on).bw.statNeap } } := by
  rw [State.setNeap, State.pkg]
  split <;> rfl

/-- The package's state does not depend on the count of entries into neap. -/
theorem Bw.state_statNeap (n : Nat) (b : Bw) : Bw.state { b with statNeap := n } = b.state := rfl

/-- A change of what the package's state depends on counts an entry into neap, and no other. -/
theorem State.pkg_statNeap {f : Bw → Bw} {s : State} (hf : (f s.bw).statNeap = s.bw.statNeap) : (s.pkg f).bw.statNeap =
    if s.bw.state ≠ .neap ∧ (s.pkg f).bw.state = .neap then satInc s.bw.statNeap else s.bw.statNeap := by
  rw [State.pkg]
  by_cases h : s.bw.state ≠ .neap ∧ (f s.bw).state = .neap
  · simp only [if_pos h, hf, Bw.state_statNeap]
  · simp only [if_neg h, hf]

theorem State.pkg_state (f : Bw → Bw) (s : State) : (s.pkg f).bw.state = (f s.bw).state := by
  rw [State.pkg]
  dsimp only
  split <;> rfl

/-- Settles O44: slack water comes before neap whichever bit is written, and only an entry into neap counts. -/
theorem slackAndNeap : Obligations.SlackAndNeap := by
  unfold Obligations.SlackAndNeap
  intro on s
  dsimp only
  refine ⟨⟨s.setSlack on, rfl, ?_, fun hon => ?_, State.pkg_statNeap rfl, State.setSlack_eq on s, fun src hsrc ht hrec hidle => ?_⟩,
    s.setNeap on, rfl, ?_, fun hon hslack => ?_, fun hslack => ?_, State.pkg_statNeap rfl, State.setNeap_eq on s, fun src hsrc ht hrec hidle => ?_⟩
  · rw [State.setSlack_eq]
  · rw [State.setSlack, State.pkg_state, hon]
    rfl
  · exact congrArg _ (State.cmd_inTurn ht (Source.mem_hostBmc hsrc) (.inl hrec) hidle)
  · rw [State.setNeap_eq]
  · rw [State.setNeap, State.pkg_state]
    simp only [Bw.state, hon] at hslack ⊢
    split at hslack
    · exact absurd rfl hslack
    · simp_all
  · rw [State.setNeap, State.pkg_state]
    simp only [Bw.state] at hslack ⊢
    split at hslack
    · simp_all
    · split at hslack <;> cases hslack
  · exact congrArg _ (State.cmd_inTurn ht (Source.mem_hostBmc hsrc) (.inl hrec) hidle)

end Sys2Proof.Machine
end

section
/-! Settings and the writes of their banks (R421 to R425, R448). -/

namespace Sys2Proof.Machine

/-! ### The items of a payload -/

/-- A value padded to a multiple of 4 gives itself and zeros back. -/
theorem fitBytes_pad (v : List Byte) : (fitBytes (4 * ceilDiv v.length 4) v).length = 4 * ceilDiv v.length 4 ∧
    (fitBytes (4 * ceilDiv v.length 4) v).take v.length = v ∧ ((fitBytes (4 * ceilDiv v.length 4) v).drop v.length).any (· ≠ 0) = false := by
  have hroom : v.length ≤ 4 * ceilDiv v.length 4 := by
    rw [ceilDiv]
    omega
  have hfit : fitBytes (4 * ceilDiv v.length 4) v = v ++ List.replicate (4 * ceilDiv v.length 4 - v.length) 0 := by
    rw [fitBytes, List.take_of_length_le]
    rw [List.length_append, List.length_replicate]
    omega
  rw [hfit]
  refine ⟨?_, List.take_left, ?_⟩
  · rw [List.length_append, List.length_replicate]
    omega
  · rw [List.drop_left]
    simp

/-- Reading as many items as a payload has gives them back. -/
theorem readItems_itemBytes (items : Items) (h : ∀ i ∈ items, i.1 < 65536 ∧ i.2.length < 65536) :
    ∀ n, items.length ≤ n → readItems n (itemBytes items) = some items := by
  induction items with
  | nil =>
    intro n _
    cases n <;> rfl
  | cons i rest ih =>
    intro n hn
    obtain ⟨id, v⟩ := i
    obtain ⟨hid, hlen⟩ : id < 256 ^ 2 ∧ v.length < 256 ^ 2 := h (id, v) List.mem_cons_self
    obtain ⟨hpadlen, hpadtake, hpaddrop⟩ := fitBytes_pad v
    obtain ⟨m, rfl⟩ : ∃ m, n = m + 1 := ⟨n - 1, by rw [List.length_cons] at hn; omega⟩
    have hrest := ih (fun j hj => h j (List.mem_cons_of_mem _ hj)) m (by rw [List.length_cons] at hn; omega)
    have hbytes : itemBytes ((id, v) :: rest) = leBytes 2 id ++ (leBytes 2 v.length ++ (fitBytes (4 * ceilDiv v.length 4) v ++ itemBytes rest)) := by
      simp [itemBytes]
    have hdrop2 : (itemBytes ((id, v) :: rest)).drop 2 = leBytes 2 v.length ++ (fitBytes (4 * ceilDiv v.length 4) v ++ itemBytes rest) := by
      rw [hbytes, List.drop_left' (length_leBytes 2 id)]
    have hdrop4 : (itemBytes ((id, v) :: rest)).drop 4 = fitBytes (4 * ceilDiv v.length 4) v ++ itemBytes rest := by
      have := congrArg (List.drop 2) hdrop2
      rwa [List.drop_drop, List.drop_left' (length_leBytes 2 v.length)] at this
    have hlenRead : leNat (((itemBytes ((id, v) :: rest)).drop 2).take 2) = v.length := by
      rw [hdrop2, List.take_left' (length_leBytes 2 v.length), leNat_leBytes, Nat.mod_eq_of_lt hlen]
    have hidRead : leNat ((itemBytes ((id, v) :: rest)).take 2) = id := by
      rw [hbytes, List.take_left' (length_leBytes 2 id), leNat_leBytes, Nat.mod_eq_of_lt hid]
    have hvalue : ((itemBytes ((id, v) :: rest)).drop 4).take (4 * ceilDiv v.length 4) = fitBytes (4 * ceilDiv v.length 4) v := by
      rw [hdrop4, List.take_left' hpadlen]
    have hnext : (itemBytes ((id, v) :: rest)).drop (4 + 4 * ceilDiv v.length 4) = itemBytes rest := by
      rw [← List.drop_drop, hdrop4, List.drop_left' hpadlen]
    have htotal : (itemBytes ((id, v) :: rest)).length = 4 + 4 * ceilDiv v.length 4 + (itemBytes rest).length := by
      rw [hbytes]
      simp only [List.length_append, length_leBytes, hpadlen]
      omega
    have hnil : itemBytes ((id, v) :: rest) ≠ [] := fun he => by
      rw [he, List.length_nil] at htotal
      omega
    rw [readItems, if_neg hnil]
    dsimp only
    rw [hlenRead, hvalue, hpaddrop, hpadtake, hnext, hidRead, hrest, htotal, if_neg (by simp)]
    rfl

theorem length_le_itemBytes (items : Items) : 4 * items.length ≤ (itemBytes items).length := by
  induction items with
  | nil => simp
  | cons i rest ih =>
    have : itemBytes (i :: rest) = leBytes 2 i.1 ++ leBytes 2 i.2.length ++ fitBytes (4 * ceilDiv i.2.length 4) i.2 ++ itemBytes rest := by
      simp [itemBytes]
    rw [this, List.length_cons]
    simp only [List.length_append, length_leBytes]
    omega

/-- A payload gives back the items that it was made of. -/
theorem parseItems_itemBytes {items : Items} (hrise : itemsRise items = true) (h : ∀ i ∈ items, i.1 < 65536 ∧ i.2.length < 65536) :
    parseItems (itemBytes items) = some items := by
  have hcount := length_le_itemBytes items
  rw [parseItems, readItems_itemBytes items h _ (by omega)]
  exact if_pos hrise

/-! ### Bank writes -/

variable {s : State}

/-- Queueing a bank write leaves the values in force. -/
theorem State.queueJob_inForce (job : BankJob) (s : State) : (s.queueJob job).tmk.inForce = s.tmk.inForce := by
  rw [State.queueJob, State.startJob]
  dsimp only
  cases s.tmk.jobs with
  | nil =>
    simp only [List.nil_append, Bool.false_eq_true, if_false, Tmk.setBank]
    split <;> rfl
  | cons j rest =>
    rw [List.cons_append]
    dsimp only
    split
    · rfl
    · simp only [Tmk.setBank]
      split <;> rfl

theorem Tmk.bank_setBank (isB : Bool) (b : SetBank) (t : Tmk) : (t.setBank isB b).bank isB = b := by cases isB <;> rfl

/-- A bank write changes the bank that is not selected, so the selection stays. -/
theorem Tmk.selected_setBank_target (b : SetBank) (t : Tmk) : (t.setBank t.target b).selected = t.selected := by
  rw [Tmk.selected, Tmk.selected, Tmk.target, Tmk.setBank]
  rcases t.anySel with _ | _ <;> rcases t.selB with _ | _ <;> rfl

theorem Tmk.setBank_only (isB : Bool) (b : SetBank) (t : Tmk) :
    t.setBank isB b = { t with bankA := (t.setBank isB b).bankA, bankB := (t.setBank isB b).bankB } := by cases isB <;> rfl

/-- An entry changes the Tidemark queue and not the banks. -/
theorem State.record_banks (ty src : Nat) (b : List Byte) (s : State) : (s.record ty src b).tmk.bank = s.tmk.bank ∧
    (s.record ty src b).tmk.selected = s.tmk.selected ∧ (s.record ty src b).tmk.inForce = s.tmk.inForce ∧ (s.record ty src b).tmk.jobs = s.tmk.jobs ∧
    (s.record ty src b).tmk.writes = s.tmk.writes ∧ (s.record ty src b).tmk.writeFail = s.tmk.writeFail := by
  rw [State.record]
  dsimp only
  rw [Tmk.same_enqueue]
  exact ⟨rfl, rfl, rfl, rfl, rfl, rfl⟩

/-- A setting that comes into force changes the budget's registers or the limits of the security unit. -/
theorem State.applySetting_only (id : Nat) (v : List Byte) (s : State) : s.applySetting id v =
    { s with bw := (s.applySetting id v).bw, sec := (s.applySetting id v).sec } ∧ (s.applySetting id v).sec.cmds = s.sec.cmds := by
  unfold State.applySetting
  split <;> exact ⟨rfl, rfl⟩

theorem State.serveWaiting_none (h : s.sec.cmds = []) : s.serveWaiting = s := by
  rw [State.serveWaiting, h]
  rfl

theorem State.startJob_none (h : s.tmk.jobs = []) : s.startJob = s := by rw [State.startJob, h]

/-- The answer of a command changes the record of the last command and its source's reply. -/
theorem State.answerCmd_fields (src : Source) (op : Nat) (st : Status) (data : List Byte) (s : State) :
    (s.answerCmd src op st data).tmk = s.tmk ∧ (s.answerCmd src op st data).bw = s.bw ∧ (s.answerCmd src op st data).hub = s.hub ∧
      (s.answerCmd src op st data).sec.cmds = s.sec.cmds ∧ (s.answerCmd src op st data).sec.cmdStatus = st.code := by
  cases src <;> simp [State.answerCmd]

/-- The one bank write of a command that passes its read-back: its bank is selected, its value in force, its command answered. -/
theorem State.bankWrite_passes {src : Source} {id : Nat} {v : List Byte} {w : BankWrite} (hjobs : s.tmk.jobs = [w]) (hjob : w.job = .setting src id v)
    (hquiet : w.quiet = false) (hstuck : (s.tmk.bank s.tmk.target).stuck = false) : ∃ u, s.bankWrite true = u ∧
      u.tmk.selected = some ((s.tmk.bank s.tmk.target).written w.format s.tmk.nextSeq w.payload) ∧ u.tmk.inForce = putItem id v s.tmk.inForce ∧
      u.tmk.jobs = [] ∧ u.tmk.writes = satInc s.tmk.writes ∧ u.sec.cmdStatus = 0 ∧ u.sec.cmds = s.sec.cmds ∧ (id = 1 → u.bw.ceil = leNat v) := by
  rw [State.bankWrite, hjobs]
  dsimp only
  rw [if_pos (by simp [hstuck]), hjob, State.jobDone, State.answerJob, hjob]
  dsimp only [sourceOf]
  simp only [hquiet, Bool.false_eq_true, if_false]
  generalize b8 (b2n s.tmk.target) ++ leBytes 3 0 ++
    leBytes 4 ((s.tmk.bank s.tmk.target).written w.format s.tmk.nextSeq w.payload).seq.toNat = bytes
  generalize hb : ({ (s.tmk.bank s.tmk.target).written w.format s.tmk.nextSeq w.payload with bad := !true } : SetBank) = b
  have hwritten : b = (s.tmk.bank s.tmk.target).written w.format s.tmk.nextSeq w.payload := hb.symm
  generalize hx : ({ s with tmk := { s.tmk.setBank s.tmk.target b with
    writes := satInc s.tmk.writes, selB := s.tmk.target, anySel := true, jobs := [] } } : State) = x
  have hxsel : x.tmk.selected = some b := by
    rw [← hx, Tmk.selected]
    exact congrArg some (Tmk.bank_setBank _ _ _)
  have hxfields : x.tmk.inForce = s.tmk.inForce ∧ x.tmk.jobs = [] ∧ x.tmk.writes = satInc s.tmk.writes ∧ x.sec = s.sec := by
    rw [← hx]
    refine ⟨?_, rfl, rfl, rfl⟩
    dsimp only
    rw [Tmk.setBank_only]
  obtain ⟨hxforce, hxjobs, hxwrites, hxsec⟩ := hxfields
  obtain ⟨-, hysel, hyforce, hyjobs, hywrites, -⟩ := x.record_banks 0x0061 4 bytes
  have hysec : (x.record 0x0061 4 bytes).sec = s.sec := hxsec
  generalize x.record 0x0061 4 bytes = y at hysel hyforce hyjobs hywrites hysec ⊢
  generalize hz : ({ y with tmk := { y.tmk with inForce := putItem id v y.tmk.inForce } } : State) = z
  have hzsel : z.tmk.selected = some b := by
    rw [← hz, ← hxsel, ← hysel]
    rfl
  have hzfields : z.tmk.inForce = putItem id v s.tmk.inForce ∧ z.tmk.jobs = [] ∧ z.tmk.writes = satInc s.tmk.writes ∧ z.sec = s.sec := by
    rw [← hz, ← hxforce, ← hyforce, ← hxjobs, ← hyjobs, ← hxwrites, ← hywrites, ← hysec]
    exact ⟨rfl, rfl, rfl, rfl⟩
  obtain ⟨hzforce, hzjobs, hzwrites, hzsec⟩ := hzfields
  obtain ⟨happly, hcmds⟩ := State.applySetting_only id v z
  have htmk : (z.applySetting id v).tmk = z.tmk := by rw [happly]
  obtain ⟨hatmk, habw, -, hacmds, hastatus⟩ := State.answerCmd_fields src 0xC030 .success [] (z.applySetting id v)
  rw [htmk] at hatmk
  refine ⟨_, rfl, ?_⟩
  rw [show opOfJob (.setting src id v) = 0xC030 from rfl, State.startJob_none (by rw [hatmk, hzjobs])]
  refine ⟨?_, ?_, ?_, ?_, hastatus, ?_, fun hone => ?_⟩
  · rw [hatmk, hzsel, hwritten]
  · rw [hatmk, hzforce]
  · rw [hatmk, hzjobs]
  · rw [hatmk, hzwrites]
  · rw [hacmds, hcmds, hzsec]
  · rw [habw, hone]
    rfl

/-- A bank write that fails its read-back for the first time is repeated. -/
theorem State.bankWrite_repeats {w : BankWrite} (hjobs : s.tmk.jobs = [w]) (hrepeated : w.repeated = false) : ∃ u, s.bankWrite false = u ∧
    u.tmk.jobs = [{ w with repeated := true }] ∧ u.tmk.selected = s.tmk.selected ∧ u.tmk.inForce = s.tmk.inForce ∧ u.out = s.out ∧ u.sec = s.sec := by
  rw [State.bankWrite, hjobs]
  dsimp only
  rw [if_neg (by simp), if_pos (by simp [hrepeated])]
  refine ⟨_, rfl, rfl, ?_, ?_, rfl, rfl⟩
  · exact Tmk.selected_setBank_target _ _
  · dsimp only
    rw [Tmk.setBank_only]

/-- A bank write of a command that fails twice leaves the selected bank and answers the command. -/
theorem State.bankWrite_fails {src : Source} {id : Nat} {v : List Byte} {w : BankWrite} (hjobs : s.tmk.jobs = [w]) (hjob : w.job = .setting src id v)
    (hquiet : w.quiet = false) (hrepeated : w.repeated = true) : ∃ u, s.bankWrite false = u ∧ u.tmk.jobs = [] ∧ u.tmk.selected = s.tmk.selected ∧
      u.tmk.writeFail = true ∧ u.tmk.inForce = s.tmk.inForce ∧ u.sec.cmdStatus = 0xA ∧ u.bw = s.bw ∧ u.sec.cmds = s.sec.cmds := by
  rw [State.bankWrite, hjobs]
  dsimp only
  rw [if_neg (by simp), if_neg (by simp [hrepeated]), hjob, if_neg (by simp), State.answerJob, hjob]
  dsimp only [sourceOf]
  simp only [hquiet, Bool.false_eq_true, if_false]
  generalize ({ (s.tmk.bank s.tmk.target).written w.format s.tmk.nextSeq w.payload with bad := !false } : SetBank) = b
  generalize hx : ({ s with tmk := { s.tmk.setBank s.tmk.target b with writes := satInc s.tmk.writes, writeFail := true, jobs := [] } } : State) = x
  have hxsel : x.tmk.selected = s.tmk.selected := by
    rw [← hx, ← Tmk.selected_setBank_target b s.tmk]
    rfl
  have hxfields : x.tmk.inForce = s.tmk.inForce ∧ x.tmk.jobs = [] ∧ x.tmk.writeFail = true ∧ x.sec = s.sec ∧ x.bw = s.bw := by
    rw [← hx]
    refine ⟨?_, rfl, rfl, rfl, rfl⟩
    dsimp only
    rw [Tmk.setBank_only]
  obtain ⟨hxforce, hxjobs, hxfail, hxsec, hxbw⟩ := hxfields
  obtain ⟨-, hysel, hyforce, hyjobs, -, hyfail⟩ := x.record_banks 0x0062 4 (b8 (b2n s.tmk.target))
  obtain ⟨hatmk, habw, -, hacmds, hastatus⟩ := State.answerCmd_fields src (opOfJob (.setting src id v)) .writeFail []
    (x.record 0x0062 4 (b8 (b2n s.tmk.target)))
  refine ⟨_, rfl, ?_⟩
  rw [State.startJob_none (by rw [hatmk, hyjobs, hxjobs]), hatmk, habw, hacmds]
  exact ⟨hyjobs.trans hxjobs, hysel.trans hxsel, hyfail.trans hxfail, hyforce.trans hxforce, hastatus, hxbw, congrArg Sec.cmds hxsec⟩

/-- Settles O45: each command by its branch of service, the three ends of a bank write, and the parser over a list of items. -/
theorem settingsAndBanks : Obligations.SettingsAndBanks := by
  unfold Obligations.SettingsAndBanks
  intro s
  refine ⟨fun src id v hsrc ht hserving => ?_, fun src hsrc ht hrec hidle => ?_, fun src id v w hsrc hup hpfail hjobs hjob hquiet hcmds => ?_,
    fun items hrise h => parseItems_itemBytes hrise h⟩
  · exact congrArg _ (State.cmd_waits ht hserving)
  · have hmem := Source.mem_hostBmc hsrc
    refine ⟨fun id v it hit hlen hrange hheld => ?_, fun id v hbad => ?_, fun id it hit => ?_, ?_, fun hheld hlock => ?_, fun hhost hlock => ?_⟩
    · have hexec : exec (.settingSet src id v) s = execSettingSet src id v s := rfl
      rw [hexec, execSettingSet, State.cmd_inTurn ht hmem (.inl hrec) hidle, hit]
      dsimp only
      rw [if_neg (by simp [hlen, hrange]), if_neg (by simp [hheld])]
      obtain ⟨honly, hmap⟩ := State.queueJob_only (.setting src id v) s
      refine ⟨_, rfl, hmap, State.queueJob_inForce _ _, ?_, ?_, ?_⟩ <;> rw [honly]
    · have hexec : exec (.settingSet src id v) s = execSettingSet src id v s := rfl
      rw [hexec, execSettingSet, State.cmd_inTurn ht hmem (.inl hrec) hidle]
      cases hit : settingItem id with
      | none => rfl
      | some it =>
        have hrefused : v.length ≠ it.len ∨ (!it.inRange v) = true := (hbad it hit).imp_right (by simp)
        exact congrArg _ (if_pos hrefused)
    · have hexec : exec (.settingGet src id) s = execSettingGet src id s := rfl
      have hid : id ≠ bootId := by
        rintro rfl
        cases hit
      rw [hexec, execSettingGet, State.cmd_inTurn ht hmem (.inl hrec) hidle, if_neg hid, hit]
      rfl
    · have hexec : exec (.settingGet src bootId) s = execSettingGet src bootId s := rfl
      rw [hexec, execSettingGet, State.cmd_inTurn ht hmem (.inl hrec) hidle, if_pos rfl]
    · have hexec : exec (.factoryReset src) s = execFactoryReset src s := rfl
      have hopen : ¬ ((decide (src = .host) && s.hub.lock) = true) := by
        rw [Bool.and_eq_true, decide_eq_true_eq]
        rintro ⟨hhost, hset⟩
        rw [hlock hhost] at hset
        cases hset
      rw [hexec, execFactoryReset, State.cmd_inTurn ht hmem (.inl hrec) hidle, if_neg hopen, if_neg (by simp [hheld])]
      obtain ⟨honly, hmap⟩ := State.queueJob_only (.factory src) s
      exact ⟨_, rfl, hmap, State.queueJob_inForce _ _, State.queueJob_sec _ _⟩
    · have hexec : exec (.factoryReset src) s = execFactoryReset src s := rfl
      rw [hexec, execFactoryReset, State.cmd_inTurn ht hmem (.inl hrec) hidle, if_pos (by simp [hhost, hlock])]
  · have hexec : ∀ ok, exec (.settingsBankWrite ok) s = .next (s.bankWrite ok).serveWaiting := fun ok => by
      have hexec : exec (.settingsBankWrite ok) s = execSettingsBankWrite ok s := rfl
      rw [hexec, execSettingsBankWrite, if_pos (by simp [hup, hpfail])]
    refine ⟨fun hstuck => ?_, fun hrepeated => ?_, fun hrepeated => ?_⟩
    · obtain ⟨u, hu, hsel, hforce, hnone, hwrites, hstatus, hucmds, hceil⟩ := State.bankWrite_passes hjobs hjob hquiet hstuck
      exact ⟨u, by rw [hexec, hu, State.serveWaiting_none (hucmds.trans hcmds)], hsel, hforce, hnone, hwrites, hstatus, hceil⟩
    · obtain ⟨u, hu, hagain, hsel, hforce, hout, husec⟩ := State.bankWrite_repeats hjobs hrepeated
      exact ⟨u, by rw [hexec, hu, State.serveWaiting_none (by rw [husec, hcmds])], hagain, hsel, hforce, hout⟩
    · obtain ⟨u, hu, hnone, hsel, hfail, hforce, hstatus, hbw, hucmds⟩ := State.bankWrite_fails hjobs hjob hquiet hrepeated
      exact ⟨u, by rw [hexec, hu, State.serveWaiting_none (hucmds.trans hcmds)], hnone, hsel, hfail, hforce, hstatus, hbw⟩

end Sys2Proof.Machine
end

section
/-! Heartbeats of the hub Headland, Tidemark snapshots and the ends of episodes (R28, R403, R412 to R419). -/

namespace Sys2Proof.Machine

variable {s : State}

/-! ### Commands of the hub Headland -/

/-- A whole command of the hub Headland that is not reissued is carried out; its reply is whole. -/
theorem State.hubCmd_whole {i : Instr} {op : Nat} {l : MboxLink} {go : State → State} (hup : s.hub.mgmtUp = true) (hhub : s.hub.hubUp = true)
    (hidle : s.serving = false) (hnew : s.hub.mbxReissue ≠ some l.seq) (hcmd : l.cmdOk = true) (hreply : l.replyOk = true) :
    s.hubCmd i op l go = { go s with hub := { (go s).hub with mbxLast := some (l.seq, (go s).out.hubStatus), mbxReissue := none } } := by
  have htakes : (!s.takesFrom .hub || !s.hub.hubUp) ≠ true := by simp [State.takesFrom, hup, hhub]
  rw [State.hubCmd, if_neg htakes, State.inTurn_of_idle hidle]
  dsimp only
  rw [if_pos hreply, if_neg (by simp [hcmd])]
  have hfresh : ∀ n, ¬ ((decide (s.hub.mbxReissue = some l.seq) && decide (n = l.seq)) = true) := fun n => by simp [hnew]
  cases s.hub.mbxLast with
  | none => rfl
  | some p =>
    dsimp only
    rw [if_neg (hfresh _)]

/-- A whole command whose reply does not arrive whole is carried out and asked for again; the pair's mismatch is marked. -/
theorem State.hubCmd_lost {i : Instr} {op : Nat} {l : MboxLink} {go : State → State} (hup : s.hub.mgmtUp = true) (hhub : s.hub.hubUp = true)
    (hidle : s.serving = false) (hnew : s.hub.mbxReissue ≠ some l.seq) (hcmd : l.cmdOk = true) (hreply : l.replyOk = false) :
    s.hubCmd i op l go = ({ go s with out := { (go s).out with hubStatus := s.out.hubStatus },
                                      hub := { (go s).hub with mbxLast := some (l.seq, (go s).out.hubStatus), mbxReissue := some l.seq } } : State).pairError 4 := by
  have htakes : (!s.takesFrom .hub || !s.hub.hubUp) ≠ true := by simp [State.takesFrom, hup, hhub]
  rw [State.hubCmd, if_neg htakes, State.inTurn_of_idle hidle]
  dsimp only
  rw [if_neg (by simp [hreply]), if_neg (by simp [hcmd])]
  have hfresh : ∀ n, ¬ ((decide (s.hub.mbxReissue = some l.seq) && decide (n = l.seq)) = true) := fun n => by simp [hnew]
  cases s.hub.mbxLast with
  | none => rfl
  | some p =>
    dsimp only
    rw [if_neg (hfresh _)]

/-- A command of the hub Headland with a bad pair is answered so and counted. -/
theorem State.hubCmd_bad {i : Instr} {op : Nat} {l : MboxLink} {go : State → State} (hup : s.hub.mgmtUp = true) (hhub : s.hub.hubUp = true)
    (hidle : s.serving = false) (hcmd : l.cmdOk = false) (hreply : l.replyOk = true) : s.hubCmd i op l go =
      (let t := (s.pairError 3).answerCmd .hub op .pairError []; { t with hub := { t.hub with mbxReissue := none } }) := by
  have htakes : (!s.takesFrom .hub || !s.hub.hubUp) ≠ true := by simp [State.takesFrom, hup, hhub]
  rw [State.hubCmd, if_neg htakes, State.inTurn_of_idle hidle]
  dsimp only
  rw [if_pos hreply, if_pos (by simp [hcmd])]

/-- The last command, reissued, is answered from its record. -/
theorem State.hubCmd_reissued {i : Instr} {op st : Nat} {l : MboxLink} {go : State → State} (hup : s.hub.mgmtUp = true) (hhub : s.hub.hubUp = true)
    (hidle : s.serving = false) (hagain : s.hub.mbxReissue = some l.seq) (hlast : s.hub.mbxLast = some (l.seq, st)) (hcmd : l.cmdOk = true)
    (hreply : l.replyOk = true) : s.hubCmd i op l go =
      { s with out := { s.out with hubStatus := st }, hub := { s.hub with mbxReissue := none } } := by
  have htakes : (!s.takesFrom .hub || !s.hub.hubUp) ≠ true := by simp [State.takesFrom, hup, hhub]
  rw [State.hubCmd, if_neg htakes, State.inTurn_of_idle hidle]
  dsimp only
  rw [if_pos hreply, if_neg (by simp [hcmd])]
  split
  next n st' hmatch =>
    obtain ⟨rfl, rfl⟩ := Prod.mk.inj (Option.some.inj (hlast.symm.trans hmatch))
    rw [if_pos (by simp [hagain])]
  next hmatch => cases hlast.symm.trans hmatch

/-- A mismatch of a pair answers no command. -/
theorem State.pairError_out (k : Nat) (s : State) : (s.pairError k).out = s.out := by
  rw [State.pairError]
  split <;> rfl

/-! ### Slots -/

theorem Tmk.slot_put_self (e : TmkEntry) (whole : Bool) (t : Tmk) : (t.put e whole).slot (t.head % 16384) =
    { entry := some e, seq := t.head, complete := whole, bad := false, stuck := (t.slot (t.head % 16384)).stuck } := Tab.get_insert_self _ _ _ _

theorem Tmk.slot_put_ne (e : TmkEntry) (whole : Bool) (t : Tmk) {n : Nat} (h : n ≠ t.head % 16384) : (t.put e whole).slot n = t.slot n :=
  Tab.get_insert_ne _ _ _ h

/-- The overflow entry goes behind the queue, of which it drops nothing. -/
theorem State.overflowCheck_tmk (s : State) : s.overflowCheck.tmk.head = s.tmk.head ∧ s.overflowCheck.tmk.slots = s.tmk.slots ∧
    s.overflowCheck.tmk.queue.take s.tmk.queue.length = s.tmk.queue := by
  rw [State.overflowCheck]
  split
  next h =>
    have hroom : s.tmk.queue.length < tmkDepth := Nat.lt_of_le_of_lt h.1 (by decide)
    rw [State.record, Tmk.enqueue, if_pos hroom]
    exact ⟨rfl, rfl, List.take_left⟩
  next => exact ⟨rfl, rfl, List.take_length⟩

/-- A snapshot that is VALID reads the entry's bytes. -/
theorem State.snapshot_valid {x : Snap} (h : s.tmk.result x.seq = 0) : ∃ e, (s.tmk.slot (x.seq % 16384)).entry = some e ∧
    (s.snapshot x).1.data = e.bytes x.seq := by
  have hvalid : (s.tmk.slot (x.seq % tmkSlots)).valid (x.seq % tmkSlots) = true ∧ (s.tmk.slot (x.seq % tmkSlots)).seq = x.seq := by
    rw [Tmk.result] at h
    split at h
    · cases h
    · split at h
      · cases h
      · split at h
        next hv => simpa using hv
        next => cases h
  obtain ⟨hslot, hseq⟩ := hvalid
  rw [TmkSlot.valid] at hslot
  simp only [Bool.and_eq_true, Bool.not_eq_true', decide_eq_true_eq] at hslot
  obtain ⟨⟨⟨⟨hsome, hcomplete⟩, hbad⟩, hstuck⟩, -⟩ := hslot
  obtain ⟨e, he⟩ := Option.isSome_iff_exists.mp hsome
  refine ⟨e, he, ?_⟩
  rw [State.snapshot, State.slotBytes, he]
  simp [hcomplete, hbad, hstuck, hseq]

/-- A snapshot may draw a free value and changes nothing else. -/
theorem State.snapshot_only (x : Snap) (s : State) : (s.snapshot x).2 = { s with fresh := (s.snapshot x).2.fresh } ∧ (s.snapshot x).1.busy = false ∧
    (s.snapshot x).1.seq = x.seq ∧ (s.snapshot x).1.result = s.tmk.result x.seq := by
  refine ⟨?_, rfl, rfl, rfl⟩
  rw [State.snapshot, State.slotBytes]
  dsimp only
  split
  · rfl
  · split <;> rfl

/-! ### The statement -/

/-- Settles O47: the four ends of a command of the hub Headland, the slot that an entry is written into, and the bytes of a snapshot. -/
theorem heartbeatsAndTidemarkReads : Obligations.HeartbeatsAndTidemarkReads := by
  unfold Obligations.HeartbeatsAndTidemarkReads
  intro s
  refine ⟨fun l hup hhub hrec hidle hnew => ⟨fun hcmd hreply => ?_, fun hcmd hreply => ?_, fun hcmd hreply => ?_⟩,
    fun l st hup hhub hidle hagain hlast hcmd hreply => ?_, fun hup hsilent hparked hus => ?_, fun v => rfl,
    fun src seq hseq ht hidle hsrc => ?_, fun seq ht hidle hrec => ?_, fun hup hbusy hcmds => ?_, fun hup hbusy hcmds hsrc hquiet => ?_,
    fun e rest hup hqueue => ?_, fun e rest hup hqueue => ?_, fun k hopen hus => ?_⟩
  · have hgo : s.cmd (.heartbeat l) .hub 0xC0FF [.hub] false (fun s =>
        ({ s with hub := { s.hub with hbLast := s.us, hbMissed := 0, silent := false } }).answerCmd .hub 0xC0FF .success []) =
        ({ s with hub := { s.hub with hbLast := s.us, hbMissed := 0, silent := false } } : State).answerCmd .hub 0xC0FF .success [] :=
      State.cmd_inTurn (by simp [State.takesFrom, hup]) (by simp) (.inl hrec) hidle
    have hexec : exec (.heartbeat l) s = execHeartbeat l s := rfl
    rw [hexec, execHeartbeat, State.hubCmd_whole hup hhub hidle hnew hcmd hreply, hgo]
    exact ⟨_, rfl, rfl, rfl, rfl⟩
  · have hgo : s.cmd (.heartbeat l) .hub 0xC0FF [.hub] false (fun s =>
        ({ s with hub := { s.hub with hbLast := s.us, hbMissed := 0, silent := false } }).answerCmd .hub 0xC0FF .success []) =
        ({ s with hub := { s.hub with hbLast := s.us, hbMissed := 0, silent := false } } : State).answerCmd .hub 0xC0FF .success [] :=
      State.cmd_inTurn (by simp [State.takesFrom, hup]) (by simp) (.inl hrec) hidle
    have hexec : exec (.heartbeat l) s = execHeartbeat l s := rfl
    rw [hexec, execHeartbeat, State.hubCmd_lost hup hhub hidle hnew hcmd hreply, hgo]
    refine ⟨_, rfl, ?_⟩
    rw [(State.pairError_fields 4 _).2.1, (State.pairError_fields 4 _).2.2.1, State.pairError_out]
    exact ⟨rfl, rfl, rfl, rfl⟩
  · have hexec : exec (.heartbeat l) s = execHeartbeat l s := rfl
    rw [hexec, execHeartbeat, State.hubCmd_bad hup hhub hidle hcmd hreply]
  · have hexec : exec (.heartbeat l) s = execHeartbeat l s := rfl
    rw [hexec, execHeartbeat, State.hubCmd_reissued hup hhub hidle hagain hlast hcmd hreply]
  · have hexec : exec .heartbeatMiss s = execHeartbeatMiss s := rfl
    rw [hexec, execHeartbeatMiss, if_neg (by simp [hup, hsilent, hparked, hus])]
    exact ⟨_, rfl, rfl, rfl, rfl, rfl, rfl⟩
  · have hexec : exec (.tmkRead src seq) s = execTmkRead src seq s := rfl
    have hmem : src ∈ if s.sec.recovery = true then [Source.host, .bmc] else [.bmc] := by
      rcases hsrc with rfl | ⟨rfl, hrec⟩
      · split <;> simp
      · simp [hrec]
    rw [hexec, execTmkRead, State.cmd_inTurn ht hmem (.inr rfl) hidle, Nat.mod_eq_of_lt hseq]
  · have hexec : exec (.tmkRead .host seq) s = execTmkRead .host seq s := rfl
    rw [hexec, execTmkRead, State.cmd_unsupported ht (by simp [hrec]) hidle]
  · have hexec : exec (.tmkSnapshotDone .host) s = execTmkSnapshotDone .host s := rfl
    obtain ⟨honly, hdone, hseq, hresult⟩ := State.snapshot_only s.tmk.host s
    have hdata := State.snapshot_valid (s := s) (x := s.tmk.host)
    rw [hexec, execTmkSnapshotDone, if_pos hup, State.snapshotDone, if_neg (by simp [hbusy])]
    dsimp only
    rw [State.serveWaiting_none (by rw [honly]; exact hcmds)]
    refine ⟨_, rfl, hdone, hseq, hresult, ?_, hdata⟩
    rw [honly]
  · have hexec : exec (.tmkSnapshotDone .bmc) s = execTmkSnapshotDone .bmc s := rfl
    obtain ⟨honly, hdone, hseq, hresult⟩ := State.snapshot_only s.tmk.bmc s
    have hdata := State.snapshot_valid (s := s) (x := s.tmk.bmc)
    rw [hexec, execTmkSnapshotDone, if_pos hup, State.snapshotDone, if_neg (by simp [hbusy])]
    dsimp only
    generalize s.snapshot s.tmk.bmc = p at honly hdone hseq hresult hdata ⊢
    obtain ⟨x, v⟩ := p
    dsimp only at honly hdone hseq hresult hdata ⊢
    have hvsrc : ¬ (v.tmk.readQuiet || decide (v.tmk.readSrc = .host) && v.bw.pfail) = true := by
      rw [honly]
      simp [hsrc, hquiet]
    have hvread : v.tmk.readSrc = .bmc := by rw [honly, ← hsrc]
    have hvcmds : v.sec.cmds = [] := by rw [honly, ← hcmds]
    rw [State.readReply]
    dsimp only
    rw [if_neg hvsrc, hvread, hresult]
    by_cases hzero : s.tmk.result s.tmk.bmc.seq = 0
    · obtain ⟨e, hentry, hbytes⟩ := hdata hzero
      rw [if_pos hzero, if_pos hzero, State.serveWaiting_none]
      · exact ⟨_, rfl, hdone, rfl, fun _ => ⟨e, hentry, congrArg (fun d => b8 0 ++ (b8 0 ++ d)) hbytes⟩⟩
      · exact hvcmds
    · rw [if_neg hzero, if_neg hzero, State.serveWaiting_none]
      · exact ⟨_, rfl, hdone, rfl, fun h => absurd h hzero⟩
      · exact hvcmds
  · have hexec : exec (.tidemarkEntryWrite true) s = execTidemarkEntryWrite true s := rfl
    rw [hexec, execTidemarkEntryWrite, if_neg (by simp [hup]), hqueue]
    dsimp only
    rw [if_pos rfl, State.writeEntry]
    generalize hv : ({ s with tmk := { s.tmk.put (e.atWrite rest.length) true with head := s.tmk.head + 1, queue := rest, writing := false } } : State) = v
    have hvtmk : v.tmk.head = s.tmk.head + 1 ∧ v.tmk.slots = (s.tmk.put (e.atWrite rest.length) true).slots ∧ v.tmk.queue = rest := by
      rw [← hv]
      exact ⟨rfl, rfl, rfl⟩
    obtain ⟨hvhead, hvslots, hvqueue⟩ := hvtmk
    obtain ⟨hhead, hslots, htake⟩ := State.overflowCheck_tmk (v.eventRecord (e.atWrite rest.length) s.tmk.head)
    rw [State.eventRecord_tmk] at hhead hslots htake
    refine ⟨_, rfl, hhead.trans hvhead, ?_, fun n hn => ?_, ?_⟩
    · rw [Tmk.slot, hslots, hvslots]
      exact Tmk.slot_put_self _ _ _
    · rw [Tmk.slot, hslots, hvslots]
      exact Tmk.slot_put_ne _ _ _ hn
    · rwa [hvqueue] at htake
  · have hexec : exec (.tidemarkEntryWrite false) s = execTidemarkEntryWrite false s := rfl
    rw [hexec, execTidemarkEntryWrite, if_neg (by simp [hup]), hqueue]
    refine ⟨_, rfl, hqueue, ?_, fun n hn => Tmk.slot_put_ne _ _ _ hn⟩
    have hslot : Tmk.slot { s.tmk.put (e.atWrite rest.length) false with writing := true } (s.tmk.head % 16384) =
        (s.tmk.put (e.atWrite rest.length) false).slot (s.tmk.head % 16384) := rfl
    simp only [Bool.false_eq_true, if_false]
    rw [hslot, Tmk.slot_put_self, TmkSlot.valid]
    simp
  · have hexec : exec (.pairEpisodeEnd k) s = execPairEpisodeEnd k s := rfl
    rw [hexec, execPairEpisodeEnd, if_pos (by simp [hopen, hus])]
    exact ⟨_, rfl, rfl, rfl, rfl⟩

end Sys2Proof.Machine
end

section
/-! The sideband and boundary scan (R463, R466, R467). -/

namespace Sys2Proof.Machine

variable {s : State}

theorem State.sideband_up (h : s.hub.mgmtUp = true) (go : State → State) : s.sideband go = go s := by rw [State.sideband, if_pos h]

/-- The bit of an alert's cause is its own alone. -/
theorem getLsbD_alertBit (k : Fin 4) (j : Nat) : (1#4 <<< (k : Nat)).getLsbD j = decide (j = k) := by
  have hk := k.isLt
  rw [BitVec.getLsbD_shiftLeft, BitVec.getLsbD_one]
  by_cases hj : j = (k : Nat)
  · simp [hj]
  · simp only [hj, decide_false, Bool.and_eq_false_imp, Bool.and_eq_true, Bool.not_eq_true', decide_eq_false_iff_not, decide_eq_true_eq]
    omega

/-- Settles O48: each message by its branch, the sideband being up. -/
theorem sideband : Obligations.Sideband := by
  unfold Obligations.Sideband
  intro s
  refine ⟨fun v => rfl, fun hup => ?_, fun op => ⟨_, rfl, rfl, fun hid => ?_, fun hdrives hperst => ?_, fun hperst => ?_⟩⟩
  · have hsensor : ∀ x, exec (.pldmGetSensorReading x) s = execPldmGetSensorReading x s := fun _ => rfl
    have hmctp : ∀ b m, exec (.mctpControl b m) s = execMctpControl b m s := fun _ _ => rfl
    have hccc : ∀ c, exec (.i3cCcc c) s = execI3cCcc c s := fun _ => rfl
    refine ⟨fun d t ht => ?_, ?_, fun n => ?_, fun e he => ?_, fun e he => ?_, ?_, fun b t ht => ?_, fun b => ?_, ?_, fun halert => ?_, fun k hk => ?_,
      fun a ha => ?_, fun a ha => ?_, fun a b ha => ?_, ?_, ?_, ?_, fun c n hcn => ?_⟩
    · rw [hsensor, execPldmGetSensorReading, State.sideband_up hup]
      dsimp only
      rw [ht]
      rfl
    · rw [hsensor, execPldmGetSensorReading, State.sideband_up hup]
    · rw [hsensor, execPldmGetSensorReading, State.sideband_up hup]
    · rw [hmctp, execMctpControl, State.sideband_up hup]
      exact ⟨_, rfl, congrArg (fun x => ({ s.hub with eidSmb := x } : Hub)) (Nat.mod_eq_of_lt he)⟩
    · rw [hmctp, execMctpControl, State.sideband_up hup]
      exact ⟨_, rfl, congrArg (fun x => ({ s.hub with eidI3c := x } : Hub)) (Nat.mod_eq_of_lt he)⟩
    · rw [hmctp, execMctpControl, State.sideband_up hup]
    · rw [hmctp, execMctpControl, State.sideband_up hup]
      exact ⟨_, rfl, congrArg (fun x => ({ s.hub with pldmTid := x } : Hub)) (Nat.mod_eq_of_lt ht), rfl⟩
    · rw [hmctp, execMctpControl, State.sideband_up hup]
    · rw [hmctp, execMctpControl, State.sideband_up hup]
    · have hexec : exec .smbusAlertResponse s = execSmbusAlertResponse s := rfl
      rw [hexec, execSmbusAlertResponse, State.sideband_up hup, if_neg halert]
      exact ⟨_, rfl, rfl, BitVec.and_not_self _⟩
    · have hexec : exec (.ibiAck k) s = execIbiAck k s := rfl
      rw [hexec, execIbiAck, State.sideband_up hup, if_pos hk]
      refine ⟨_, rfl, rfl, rfl, List.filter_congr fun j _ => ?_⟩
      rw [getLsbD_alertBit]
      simp
    · rw [hccc, execI3cCcc, State.sideband_up hup]
      exact congrArg _ (if_pos (by rw [ha]; rfl))
    · rw [hccc, execI3cCcc, State.sideband_up hup]
      exact congrArg _ (if_pos ⟨rfl, by rw [ha]; rfl⟩)
    · rw [hccc, execI3cCcc, State.sideband_up hup]
      exact congrArg _ (if_pos (by rw [ha]; rfl))
    · rw [hccc, execI3cCcc, State.sideband_up hup]
    · rw [hccc, execI3cCcc, State.sideband_up hup]
      rfl
    · rw [hccc, execI3cCcc, State.sideband_up hup]
      rfl
    · rw [hccc, execI3cCcc, State.sideband_up hup]
      simp only [List.mem_cons, Prod.mk.injEq, List.not_mem_nil, or_false] at hcn
      rcases hcn with ⟨rfl, rfl⟩ | ⟨rfl, rfl⟩ | ⟨rfl, rfl⟩ | ⟨rfl, rfl⟩ | ⟨rfl, rfl⟩ <;> rfl
  · have hacts : ({ s.hub with jtag := op } : Hub).jtagActs = .idcode := by
      rw [hid]
      rfl
    exact if_pos hacts
  · have hacts : ({ s.hub with jtag := op } : Hub).jtagActs = .bypass := if_pos (by simp [hdrives, hperst])
    refine ⟨hacts, ?_⟩
    dsimp only
    rw [hacts]
    rfl
  · exact if_neg (by simp [hperst])

end Sys2Proof.Machine
end

section
/-! The allocation of an epoch keeps within the budget and within the requests (R376 to R381). -/

namespace Sys2Proof.Machine

/-! ### waterfill -/

theorem bestLevel_fits (xs : List (Nat × Nat)) (amount top : Nat) : levelSum (bestLevel xs amount top) xs ≤ amount := by
  induction top with
  | zero => simp [bestLevel, levelSum]
  | succ l ih =>
    rw [bestLevel]
    split
    · assumption
    · exact ih

/-- No unit is given more than it asked for: one of those left over goes to units below their request. -/
theorem level_lucky_le {xs : List (Nat × Nat)} (hnodup : (xs.map (·.1)).Nodup) (l n : Nat) {x : Nat × Nat} (hx : x ∈ xs) :
    min x.2 l + (if x.1 ∈ ((xs.filter fun x => l < x.2).map (·.1)).take n then 1 else 0) ≤ x.2 := by
  split
  next hlucky =>
    obtain ⟨z, hz, hzx⟩ := List.mem_map.mp (List.mem_of_mem_take hlucky)
    rw [List.mem_filter, decide_eq_true_eq] at hz
    have hsame : z = x := List.inj_on_of_nodup_map hnodup hz.1 hx hzx
    have hbelow := hsame ▸ hz.2
    omega
  next => exact Nat.min_le_left _ _

/-- A share of `waterfill` goes to a unit that asked for as much. -/
theorem waterfill_le {xs : List (Nat × Nat)} (hnodup : (xs.map (·.1)).Nodup) (amount : Nat) {y : Nat × Nat} (hy : y ∈ waterfill xs amount) :
    ∃ r, (y.1, r) ∈ xs ∧ y.2 ≤ r := by
  rw [waterfill] at hy
  obtain ⟨x, hx, rfl⟩ := List.mem_map.mp hy
  exact ⟨x.2, hx, level_lucky_le hnodup _ _ hx⟩

/-- The units left over add one each to those that they go to. -/
theorem sum_lucky_le {xs : List (Nat × Nat)} (l : Nat) (lucky : List Nat) (hnodup : (xs.map (·.1)).Nodup) :
    (xs.map fun x => min x.2 l + if x.1 ∈ lucky then 1 else 0).sum ≤ levelSum l xs + lucky.length := by
  rw [List.sum_map_add, levelSum]
  refine Nat.add_le_add_left ?_ _
  have hcount : (xs.map fun x => if x.1 ∈ lucky then 1 else 0).sum = ((xs.map (·.1)).filter fun u => u ∈ lucky).length := by
    induction xs with
    | nil => rfl
    | cons x xs ih =>
      rw [List.map_cons, List.nodup_cons] at hnodup
      rw [List.map_cons, List.map_cons, List.sum_cons, ih hnodup.2, List.filter_cons]
      split
      · simp_all [Nat.add_comm]
      · simp_all
  rw [hcount]
  have hsub : (xs.map (·.1)).filter (fun u => u ∈ lucky) ⊆ lucky := fun u hu => by simpa using (List.mem_filter.mp hu).2
  exact (List.subperm_of_subset (hnodup.filter _) hsub).length_le

theorem waterfill_sum_le {xs : List (Nat × Nat)} (hnodup : (xs.map (·.1)).Nodup) (amount : Nat) : ((waterfill xs amount).map (·.2)).sum ≤ amount := by
  rw [waterfill, List.map_map]
  have hlevel := bestLevel_fits xs amount ((xs.map (·.2)).foldl max 0)
  refine (sum_lucky_le _ _ hnodup).trans ?_
  have := List.length_take_le (amount - levelSum (bestLevel xs amount ((xs.map (·.2)).foldl max 0)) xs)
    ((xs.filter fun x => decide (bestLevel xs amount ((xs.map (·.2)).foldl max 0) < x.2)).map (·.1))
  omega

theorem waterfill_units (xs : List (Nat × Nat)) (amount : Nat) : (waterfill xs amount).map (·.1) = xs.map (·.1) := by
  rw [waterfill, List.map_map]
  rfl

/-- `waterfill` gives no more than is asked for in all. -/
theorem waterfill_sum_le_requests {xs : List (Nat × Nat)} (hnodup : (xs.map (·.1)).Nodup) (amount : Nat) :
    ((waterfill xs amount).map (·.2)).sum ≤ (xs.map (·.2)).sum := by
  rw [waterfill, List.map_map]
  exact List.sum_le_sum fun x hx => level_lucky_le hnodup _ _ hx

/-! ### A tier's grants -/

/-- The parts of a list by a test add up to the whole. -/
theorem sum_filter_parts {α : Type} (p : α → Bool) (f : α → Nat) (gs : List α) :
    ((gs.filter fun g => !p g).map f).sum + ((gs.filter p).map f).sum = (gs.map f).sum := by
  induction gs with
  | nil => rfl
  | cons g gs ih =>
    simp only [List.filter_cons, List.map_cons, List.sum_cons]
    cases p g <;> simp only [Bool.not_true, Bool.not_false, Bool.false_eq_true, if_true, if_false, List.map_cons, List.sum_cons] <;> omega

theorem nodup_filter_units {gs : List (Nat × Nat)} (hnodup : (gs.map (·.1)).Nodup) (p : Nat × Nat → Bool) : ((gs.filter p).map (·.1)).Nodup :=
  hnodup.sublist ((List.filter_sublist).map _)

/-- The units that are no cores. -/
theorem filter_uncore (gs : List (Nat × Nat)) : (gs.filter fun g => decide (144 ≤ g.1)) = gs.filter fun g => !decide (g.1 < 144) :=
  List.filter_congr fun g _ => by
    rw [← decide_not]
    exact decide_eq_decide.mpr Nat.not_lt.symm

/-- The cores' cut leaves each unit at most what it had. -/
theorem coreCut_le {gs : List (Nat × Nat)} (hnodup : (gs.map (·.1)).Nodup) (cap : Nat) {y : Nat × Nat} (hy : y ∈ coreCut cap gs) :
    ∃ r, (y.1, r) ∈ gs ∧ y.2 ≤ r := by
  rw [coreCut, List.mem_append] at hy
  rcases hy with hy | hy
  · exact ⟨y.2, (List.mem_filter.mp hy).1, Nat.le_refl _⟩
  · obtain ⟨r, hr, hle⟩ := waterfill_le (nodup_filter_units hnodup _) cap hy
    exact ⟨r, (List.mem_filter.mp hr).1, hle⟩

theorem coreCut_sum_le {gs : List (Nat × Nat)} (hnodup : (gs.map (·.1)).Nodup) (cap : Nat) :
    ((coreCut cap gs).map (·.2)).sum ≤ (gs.map (·.2)).sum := by
  rw [coreCut, List.map_append, List.sum_append, ← sum_filter_parts (fun g : Nat × Nat => decide (g.1 < 144)) (·.2) gs]
  rw [filter_uncore]
  exact Nat.add_le_add_left (waterfill_sum_le_requests (nodup_filter_units hnodup _) cap) _

/-- What units of different numbers find in a list of grants adds up to no more than the list. -/
theorem sum_lookup_le (gs : List (Nat × Nat)) {us : List Nat} (hnodup : us.Nodup) : (us.map fun u => (gs.lookup u).getD 0).sum ≤ (gs.map (·.2)).sum := by
  induction gs generalizing us with
  | nil => simp
  | cons g gs ih =>
    obtain ⟨k, v⟩ := g
    have hothers := ih (hnodup.filter fun u => !decide (u = k))
    rw [List.map_cons, List.sum_cons, ← sum_filter_parts (fun u : Nat => decide (u = k)) _ us, Nat.add_comm]
    refine Nat.add_le_add ?_ ?_
    · have hone : (us.filter fun u => decide (u = k)).length ≤ 1 := by
        have hsub : us.filter (fun u => decide (u = k)) ⊆ [k] := fun u hu => by simpa using (List.mem_filter.mp hu).2
        exact (List.subperm_of_subset (hnodup.filter _) hsub).length_le
      have hval : ((us.filter fun u => decide (u = k)).map fun u => (List.lookup u ((k, v) :: gs)).getD 0) =
          (us.filter fun u => decide (u = k)).map fun _ => v := List.map_congr_left fun u hu => by
        have : u = k := by simpa using (List.mem_filter.mp hu).2
        simp [this]
      rw [hval, List.map_const', List.sum_replicate, smul_eq_mul]
      exact (Nat.mul_le_mul_right v hone).trans_eq (Nat.one_mul v)
    · refine Nat.le_trans (Nat.le_of_eq ?_) hothers
      refine congrArg List.sum (List.map_congr_left fun u hu => ?_)
      have hne : u ≠ k := by simpa using (List.mem_filter.mp hu).2
      rw [List.lookup_cons, beq_false_of_ne hne]

/-! ### The tiers in order -/

/-- A share is of a unit that asked, no larger than its request, and its answer says how much of it is met. -/
structure Share.Sound (asks : List Ask) (x : Share) : Prop where
  le : x.grant ≤ x.ask.req
  mem : x.ask ∈ asks
  refused : x.answer = 3 → x.grant = 0
  granted : x.answer = 0 ↔ x.ask.req ≤ x.grant ∧ x.answer ≠ 3

/-- What is available and what is granted are within the budget, and the shares are sound. -/
structure Alloc.Within (budget : Nat) (asks : List Ask) (a : Alloc) : Prop where
  sum : a.avail + (a.shares.map (·.grant)).sum ≤ budget
  sound : ∀ x ∈ a.shares, x.Sound asks

theorem answerOf_sound {asks : List Ask} {x : Ask} (hx : x ∈ asks) {g : Nat} (hg : g ≤ x.req) (reason : Nat) :
    Share.Sound asks ⟨x, g, (answerOf x.req g reason).1, (answerOf x.req g reason).2⟩ := by
  rw [answerOf]
  split
  next h => exact ⟨hg, hx, by simp, by simp [h]⟩
  next h =>
    split
    · exact ⟨hg, hx, by simp, by simp; omega⟩
    · exact ⟨hg, hx, by simp, by simp; omega⟩

theorem refused_sound {asks : List Ask} {x : Ask} (hx : x ∈ asks) (reason : Nat) : Share.Sound asks ⟨x, 0, 3, reason⟩ :=
  ⟨Nat.zero_le _, hx, fun _ => rfl, by simp⟩

variable {b : Bw} {asks sorted : List Ask} {a : Alloc} {budget : Nat}

/-- The requests of a tier that fit, by unit. -/
theorem nodup_requests (hnodup : (sorted.map (·.unit)).Nodup) (p : Ask → Bool) : (((sorted.filter p).map fun x => (x.unit, x.req)).map (·.1)).Nodup := by
  rw [List.map_map]
  exact hnodup.sublist ((List.filter_sublist).map _)

/-- A tier is served within what is available. -/
theorem serveTier_within (hnodup : (sorted.map (·.unit)).Nodup) (hsorted : ∀ x ∈ sorted, x ∈ asks) (limit tier : Nat) (h : a.Within budget asks) :
    (b.serveTier limit sorted a tier).Within budget asks := by
  rw [Bw.serveTier]
  dsimp only
  generalize hmine : (sorted.filter fun x => decide (x.tier = tier)) = mine
  have hmineNodup : (mine.map (·.unit)).Nodup := hmine ▸ hnodup.sublist ((List.filter_sublist).map _)
  have hmineMem : ∀ x ∈ mine, x ∈ asks := fun x hx => hsorted x (List.mem_filter.mp (hmine ▸ hx)).1
  split
  next rs _ =>
    refine ⟨?_, fun x hx => ?_⟩
    · rw [List.map_append, List.sum_append, List.map_map]
      have hzero : (mine.map ((fun x : Share => x.grant) ∘ fun x => (⟨x, 0, 3, rs⟩ : Share))).sum = 0 := by simp [Function.comp_def]
      rw [hzero]
      exact h.sum
    · rcases List.mem_append.mp hx with hx | hx
      · exact h.sound x hx
      · obtain ⟨y, hy, rfl⟩ := List.mem_map.mp hx
        exact refused_sound (hmineMem y hy) rs
  next =>
    generalize (if tier ≤ 1 then b.uncoreDraw + uncoreSlew - a.uncore else b.coreDraw + b.coreSlew - a.core) = cap
    generalize (if cap < a.avail then 2 else limitReason limit) = reason
    have hreqs := nodup_requests hmineNodup fun x => decide (x.req ≤ x.rated)
    have hfill : ((waterfill ((mine.filter fun x => decide (x.req ≤ x.rated)).map fun x => (x.unit, x.req)) (min a.avail cap)).map (·.1)).Nodup := by
      rw [waterfill_units]
      exact hreqs
    have hcutSum := (coreCut_sum_le hfill (b.coreDraw + b.coreSlew - a.core)).trans (waterfill_sum_le hreqs (min a.avail cap))
    have hcut : ∀ y ∈ coreCut (b.coreDraw + b.coreSlew - a.core)
        (waterfill ((mine.filter fun x => decide (x.req ≤ x.rated)).map fun x => (x.unit, x.req)) (min a.avail cap)),
        ∃ x ∈ mine, x.unit = y.1 ∧ y.2 ≤ x.req := fun y hy => by
      obtain ⟨r, hr, hle⟩ := coreCut_le hfill _ hy
      obtain ⟨q, hq, hle'⟩ := waterfill_le hreqs _ hr
      obtain ⟨x, hx, hxq⟩ := List.mem_map.mp hq
      obtain ⟨hunit, hreq⟩ := Prod.mk.inj hxq
      exact ⟨x, (List.mem_filter.mp hx).1, hunit, hreq ▸ hle.trans hle'⟩
    generalize coreCut (b.coreDraw + b.coreSlew - a.core)
      (waterfill ((mine.filter fun x => decide (x.req ≤ x.rated)).map fun x => (x.unit, x.req)) (min a.avail cap)) = gs at hcutSum hcut ⊢
    have htotal : ((gs.filter fun g => decide (decide (g.1 < 144) = false)).map (·.2)).sum +
        ((gs.filter fun g => decide (decide (g.1 < 144) = true)).map (·.2)).sum = (gs.map (·.2)).sum := by
      rw [← sum_filter_parts (fun g : Nat × Nat => decide (g.1 < 144)) (·.2) gs]
      simp only [decide_eq_false_iff_not, decide_not, Bool.decide_eq_true]
    have hfound : ∀ x ∈ mine, (gs.lookup x.unit).getD 0 ≤ x.req := fun x hx => by
      cases hlook : gs.lookup x.unit with
      | none => exact Nat.zero_le _
      | some g =>
        obtain ⟨before, after, hgs, -⟩ := List.lookup_eq_some_iff.mp hlook
        obtain ⟨z, hz, hunit, hle⟩ := hcut (x.unit, g) (by rw [hgs]; simp)
        have hsame : z = x := List.inj_on_of_nodup_map hmineNodup hz hx hunit
        exact hsame ▸ hle
    refine ⟨?_, fun x hx => ?_⟩
    · rw [htotal, List.map_append, List.sum_append, List.map_map]
      have hshares := sum_lookup_le gs hmineNodup
      rw [List.map_map] at hshares
      have hgrants : ∀ x ∈ mine, ((fun x : Share => x.grant) ∘ fun x : Ask => if decide (x.req ≤ x.rated) = true then
          (⟨x, (gs.lookup x.unit).getD 0, (answerOf x.req ((gs.lookup x.unit).getD 0) reason).1,
            (answerOf x.req ((gs.lookup x.unit).getD 0) reason).2⟩ : Share) else ⟨x, 0, 3, 9⟩) x ≤ (gs.lookup x.unit).getD 0 := fun x hx => by
        dsimp only [Function.comp]
        split
        · exact Nat.le_refl _
        · exact Nat.zero_le _
      have hsum := List.sum_le_sum hgrants
      have havail := h.sum
      have hmin : min a.avail cap ≤ a.avail := Nat.min_le_left _ _
      dsimp only [Function.comp_def] at hsum hshares ⊢
      omega
    · rcases List.mem_append.mp hx with hx | hx
      · exact h.sound x hx
      · obtain ⟨y, hy, rfl⟩ := List.mem_map.mp hx
        split
        · exact answerOf_sound (hmineMem y hy) (hfound y hy) reason
        · exact refused_sound (hmineMem y hy) 9

/-- Settles O50, tier by tier: each keeps within what the tiers before it leave of B. -/
theorem allocationWithinBudget : Obligations.AllocationWithinBudget := by
  unfold Obligations.AllocationWithinBudget
  intro b asks el hnodup haside
  have hperm := List.perm_insertionSort (fun x y : Ask => x.unit ≤ y.unit) asks
  have hsortedNodup := (hperm.map (·.unit)).nodup_iff.mpr hnodup
  have hstart : Alloc.Within b.budget.2 asks { avail := b.budget.2 } := ⟨by simp, by simp⟩
  have hall : ∀ (tiers : List Nat) (a : Alloc), a.Within b.budget.2 asks →
      (tiers.foldl (b.serveTier b.budget.1 (asks.insertionSort fun x y => x.unit ≤ y.unit)) a).Within b.budget.2 asks := fun tiers => by
    induction tiers with
    | nil => exact fun a h => h
    | cons t tiers ih => exact fun a h => ih _ (serveTier_within hsortedNodup (fun x hx => hperm.mem_iff.mp hx) _ _ h)
  have hwithin := hall (List.range 6) _ hstart
  have hallocate : b.allocate asks el = ((List.range 6).foldl (b.serveTier b.budget.1 (asks.insertionSort fun x y => x.unit ≤ y.unit))
      { avail := b.budget.2 }).shares := by
    rw [Bw.allocate]
    exact if_pos haside
  rw [hallocate]
  refine ⟨Nat.le_trans (Nat.le_add_left _ _) hwithin.sum, fun x hx => ?_⟩
  obtain ⟨hle, hmem, hrefused, hgranted⟩ := hwithin.sound x hx
  exact ⟨hle, hmem, hrefused, hgranted⟩

end Sys2Proof.Machine
end

section
/-! Temperatures, the acoustic limit, the fans, hold-up energy and THERMTRIP (R376, R388 to R393, R464). -/

namespace Sys2Proof.Machine

variable {s : State}

/-- The budget is no more than any of its terms. -/
theorem Bw.budget_le {b : Bw} {t : Nat × Nat} (h : t ∈ b.terms) : b.budget.2 ≤ t.2 := by
  have hfold : ∀ (ts : List (Nat × Nat)) (m : Nat × Nat), (ts.foldl (fun (m : Nat × Nat) t => if t.2 < m.2 then t else m) m).2 ≤ m.2 ∧
      ∀ t ∈ ts, (ts.foldl (fun (m : Nat × Nat) t => if t.2 < m.2 then t else m) m).2 ≤ t.2 := fun ts => by
    induction ts with
    | nil => exact fun m => ⟨Nat.le_refl _, by simp⟩
    | cons x ts ih =>
      intro m
      obtain ⟨hstart, hrest⟩ := ih (if x.2 < m.2 then x else m)
      have hmin : (if x.2 < m.2 then x else m).2 ≤ m.2 ∧ (if x.2 < m.2 then x else m).2 ≤ x.2 := by split <;> omega
      refine ⟨hstart.trans hmin.1, fun t ht => ?_⟩
      rcases List.mem_cons.mp ht with rfl | ht
      · exact hstart.trans hmin.2
      · exact hrest t ht
  exact (hfold b.terms _).2 t h

theorem Bw.budget_le_thermal (b : Bw) : b.budget.2 ≤ b.spring * b.fT.1 / b.fT.2 :=
  Bw.budget_le (t := (1, b.spring * b.fT.1 / b.fT.2)) (by simp [Bw.terms])

/-- A change of what the package's state depends on counts an entry into neap beside it. -/
theorem State.pkg_eq (f : Bw → Bw) (s : State) : s.pkg f = { s with bw := { f s.bw with statNeap := (s.pkg f).bw.statNeap } } := by
  rw [State.pkg]
  dsimp only
  split <;> rfl

/-- The thermal factor between the target and 100 degrees. -/
theorem thermalFactor_between {target : Nat} {t : Int} (hlow : (target : Int) < t) (hhigh : t < 100) :
    ((thermalFactor target t).1 : Int) = 4 * (100 - target) - 3 * (t - target) ∧ ((thermalFactor target t).2 : Int) = 4 * (100 - target) := by
  rw [thermalFactor, if_neg (by omega), if_neg (by omega)]
  omega

/-- An entry put into a table is found among its entries. -/
theorem Tab.any_insert {α : Type} (t : Tab α) (k : Nat) (v : α) {p : Nat × α → Bool} (hp : p (k, v) = true) : (Tab.insert t k v).any p = true := by
  induction t with
  | nil => simp [Tab.insert, hp]
  | cons x t ih =>
    obtain ⟨j, w⟩ := x
    rw [Tab.insert]
    split
    · simp [hp]
    · split
      · simp [hp]
      · simp [ih]

theorem Fan.measure_rpm (now pulses : Nat) (f : Fan) : (f.measure now pulses).rpm = min (30 * pulses) 65535 := by
  rw [Fan.measure]
  split <;> rfl

/-- What a temperature update leaves before slack water is looked at: the readings, the hottest, and its thermal factor. -/
def State.heated (temps : List TempReading) (m : TempReading) (s : State) : State :=
  { s with bw := { s.bw with tmax := m.temp, fT := thermalFactor s.bw.target m.temp,
                             temps := temps.foldl (fun (t : Tab (Option Int)) r => Tab.insert t r.die (some r.temp)) s.bw.temps } }

theorem execThermalUpdate_eq {temps : List TempReading} {m : TempReading} (hup : s.hub.mgmtUp = true) (hm : hottest temps = some m) :
    execThermalUpdate temps s = .next (if 105 ≤ m.temp ∧ !(s.heated temps m).bw.slack105 then
        ((s.heated temps m).pkg fun b => { b with slack105 := true }).record 0x0014 (min m.die 4) (tempByte m.temp ++ b8 m.sensor)
      else if m.temp < 97 then (s.heated temps m).pkg fun b => { b with slack105 := false } else s.heated temps m) := by
  rw [execThermalUpdate, hm]
  exact congrArg _ (if_neg (by simp [hup]))

/-- Settles O51: each reading by the branch that its thresholds choose. -/
theorem thermalAcousticFansHoldup : Obligations.ThermalAcousticFansHoldup := by
  unfold Obligations.ThermalAcousticFansHoldup
  intro s hup
  refine ⟨fun temps m hm => ?_, ?_, fun p q => ?_, fun n t => ?_, fun mv hmv => ?_, fun t d ht htrip hperst => ?_⟩
  · have hexec : exec (.thermalUpdate temps) s = execThermalUpdate temps s := rfl
    rw [hexec, execThermalUpdate_eq hup hm]
    generalize hv : s.heated temps m = v
    have hvbw : v.bw.tmax = m.temp ∧ v.bw.fT = thermalFactor s.bw.target m.temp ∧ v.bw.slack105 = s.bw.slack105 ∧ v.tmk = s.tmk ∧
        (∀ ty src b, v.entry ty src b = s.entry ty src b) := by
      rw [← hv]
      exact ⟨rfl, rfl, rfl, rfl, fun _ _ _ => rfl⟩
    obtain ⟨hvmax, hvfT, hvslack, hvtmk, hventry⟩ := hvbw
    have hfactor : (m.temp ≤ s.bw.target → v.bw.fT = (1, 1)) ∧ (s.bw.target < m.temp → 100 ≤ m.temp → v.bw.fT = (1, 4)) ∧
        (s.bw.target < m.temp → m.temp < 100 →
          (v.bw.fT.1 : Int) = 4 * (100 - s.bw.target) - 3 * (m.temp - s.bw.target) ∧ (v.bw.fT.2 : Int) = 4 * (100 - s.bw.target)) := by
      rw [hvfT]
      refine ⟨fun h => if_pos h, fun h hhot => ?_, thermalFactor_between⟩
      rw [thermalFactor, if_neg (by omega), if_pos hhot]
    obtain ⟨hcold, hhot, hbetween⟩ := hfactor
    by_cases hfirst : 105 ≤ m.temp ∧ (!v.bw.slack105) = true
    · rw [if_pos hfirst]
      have hnew : s.bw.slack105 = false := by simpa [hvslack] using hfirst.2
      have hpkg := State.pkg_eq (fun b => { b with slack105 := true }) v
      have hstate := State.pkg_state (fun b => { b with slack105 := true }) v
      generalize v.pkg (fun b => { b with slack105 := true }) = w at hpkg hstate ⊢
      have hwbw : w.bw.tmax = v.bw.tmax ∧ w.bw.fT = v.bw.fT ∧ w.bw.slack105 = true ∧ w.tmk = v.tmk ∧ (∀ ty src b, w.entry ty src b = v.entry ty src b) := by
        rw [hpkg]
        exact ⟨rfl, rfl, rfl, rfl, fun _ _ _ => rfl⟩
      obtain ⟨hwmax, hwfT, hwslack, hwtmk, hwentry⟩ := hwbw
      refine ⟨_, rfl, hwmax.trans hvmax, fun h => hwfT.trans (hcold h), fun h h' => hwfT.trans (hhot h h'), fun h h' => ?_,
        Bw.budget_le_thermal _, fun _ => ⟨hwslack, ?_⟩, fun h => by omega, fun _ h => by omega, ?_⟩
      · have := hbetween h h'
        rwa [← hwfT] at this
      · exact hstate.trans (if_pos (by simp))
      · rw [if_pos ⟨hfirst.1, hnew⟩, ← hventry, ← hwentry, ← hvtmk, ← hwtmk]
        rfl
    · rw [if_neg hfirst]
      have hold : ¬ (105 ≤ m.temp ∧ s.bw.slack105 = false) := fun h => hfirst ⟨h.1, by rw [hvslack, h.2]; rfl⟩
      by_cases hcool : m.temp < 97
      · rw [if_pos hcool, if_neg hold, State.pkg_eq]
        exact ⟨_, rfl, hvmax, hcold, hhot, hbetween, Bw.budget_le_thermal _, fun h => by omega, fun _ => rfl, fun h => by omega, hvtmk⟩
      · rw [if_neg hcool, if_neg hold]
        refine ⟨_, rfl, hvmax, hcold, hhot, hbetween, Bw.budget_le_thermal _, fun h => ?_, fun h => absurd h hcool, fun _ _ => hvslack, hvtmk⟩
        have hslack : v.bw.slack105 = true := by
          rcases hb : v.bw.slack105 with _ | _
          · exact absurd ⟨h, by rw [hb]; rfl⟩ hfirst
          · rfl
        exact ⟨hslack, if_pos (by simp [hslack])⟩
  · refine ⟨rfl, ?_⟩
    have hexec : exec .acousticUpdate s = execAcousticUpdate s := rfl
    rw [hexec, execAcousticUpdate]
    dsimp only
    rw [if_neg (by simp [hup])]
    by_cases hmax : 100 * s.bw.fanMax ≤ s.bw.duty
    · by_cases hnear : (s.bw.target : Int) - 5 ≤ s.bw.tmax
      · rw [if_pos (by simp [hmax]; omega)]
        exact ⟨_, rfl, rfl, fun _ _ => rfl, fun h => absurd hmax h, fun h => by omega, fun _ _ h => by omega⟩
      · rw [if_neg (by simp [hmax]; omega)]
        by_cases hbelow : s.bw.tmax < (s.bw.target : Int) - 7
        · rw [if_pos (by simp [hbelow])]
          exact ⟨_, rfl, rfl, fun _ h => absurd h hnear, fun h => absurd hmax h, fun _ => rfl, fun _ h => by omega⟩
        · rw [if_neg (by simp [hmax]; omega)]
          exact ⟨_, rfl, rfl, fun _ h => absurd h hnear, fun h => absurd hmax h, fun h => absurd h hbelow, fun _ _ _ => rfl⟩
    · rw [if_neg (by simp [hmax]), if_pos (by simp [hmax])]
      exact ⟨_, rfl, rfl, fun h => absurd h hmax, fun _ => rfl, fun _ => rfl, fun h => absurd h hmax⟩
  · have hexec : exec (.fanUpdate p q) s = execFanUpdate p q s := rfl
    rw [hexec, execFanUpdate, if_neg (by simp [hup])]
    dsimp only
    generalize hd : (if 100 ≤ s.bw.tmax then 10000 else if s.bw.duty < s.bw.fanDemand then min (s.bw.duty + 2) s.bw.fanDemand
      else max (s.bw.duty - 2) s.bw.fanDemand) = d
    refine ⟨_, rfl, ?_⟩
    simp only [Bw.duty, Tab.get_insert_self, Tab.get_insert_ne _ _ _ (show (0 : Nat) ≠ 1 by decide),
      Tab.get_insert_ne _ _ _ (show (1 : Nat) ≠ 0 by decide), Fan.measure_rpm, true_and]
    refine ⟨fun h => ?_, fun h h' => ?_, fun h h' => ?_⟩
    · rw [← hd, if_pos h]
    · rw [← hd, if_neg (by omega)]
      exact if_pos h'
    · rw [← hd, if_neg (by omega)]
      exact if_neg (Nat.not_lt.mpr h')
  · dsimp only
    intro hstall hslow hus
    have hexec : exec (.fanStall n) s = execFanStall n s := rfl
    rw [hexec, execFanStall]
    dsimp only
    rw [hslow, if_neg (by simp [hup, hstall, hus])]
    refine ⟨_, rfl, rfl, ?_, ?_, rfl, rfl⟩
    · exact congrArg Fan.stall (Tab.get_insert_self _ _ _ _)
    · exact if_pos (Tab.any_insert _ _ _ rfl)
  · dsimp only
    have hexec : exec (.holdupSample mv) s = execHoldupSample mv s := rfl
    rw [hexec, execHoldupSample, if_neg (by simp [hup]), Nat.min_eq_left hmv]
    dsimp only
    generalize he : holdupScaled s.bw.holdCap s.bw.holdVmin mv = e
    have henergy : s.bw.holdCap * (mv * mv - s.bw.holdVmin * s.bw.holdVmin) = e := he
    rw [henergy]
    by_cases hlow : (decide (s.bw.holdCap ≠ 0) && decide (e < 2500 * 20000000)) = true
    · have hiff : s.bw.holdCap ≠ 0 ∧ e < 50000000000 := by simpa using hlow
      by_cases hfirst : s.bw.holdupLow = false
      · rw [hlow, if_pos (by simp [hfirst])]
        exact ⟨_, rfl, rfl, rfl, iff_of_true rfl hiff, by rw [if_pos ⟨rfl, hfirst⟩]; rfl⟩
      · rw [hlow, if_neg (by simp [hfirst])]
        exact ⟨_, rfl, rfl, rfl, iff_of_true rfl hiff, by rw [if_neg fun h => hfirst h.2]⟩
    · have hiff : ¬ (s.bw.holdCap ≠ 0 ∧ e < 50000000000) := by simpa using hlow
      rw [Bool.not_eq_true] at hlow
      rw [hlow, if_neg (by simp)]
      exact ⟨_, rfl, rfl, rfl, iff_of_false (by simp) hiff, by rw [if_neg (by simp)]⟩
  · have hexec : exec (.thermtrip t d) s = execThermtrip t d s := rfl
    rw [hexec, execThermtrip, if_neg (by simp [htrip, hperst]; omega)]
    dsimp only
    rw [if_pos hup]
    exact ⟨_, rfl, rfl, rfl⟩

end Sys2Proof.Machine
end

section
/-! A core's outstanding reads, and what a core reset does to the words on their way (R173, R394 to R396). -/

namespace Sys2Proof.Machine

variable {s t u : State} {c : Nat}

/-! ### Requests that banks hold -/

/-- Whether some bank of a scratchpad has accepted a request. -/
def Spad.Queued (m : Spad) (q : QReq) : Prop := ∃ b ∈ m.banks, q ∈ b.2.queue

theorem Tab.mem_of_mem_insert {α : Type} {t : Tab α} {k : Nat} {v : α} {x : Nat × α} (h : x ∈ Tab.insert t k v) : x = (k, v) ∨ x ∈ t := by
  induction t with
  | nil => exact .inl (by simpa [Tab.insert] using h)
  | cons y t ih =>
    obtain ⟨j, w⟩ := y
    rw [Tab.insert] at h
    split at h
    · exact List.mem_cons.mp h
    · split at h
      · exact (List.mem_cons.mp h).imp_right (List.mem_cons_of_mem _)
      · rcases List.mem_cons.mp h with rfl | h
        · exact .inr List.mem_cons_self
        · exact (ih h).imp_right (List.mem_cons_of_mem _)

/-- What is read of a table is an entry of it, or the default. -/
theorem Tab.get_mem {α : Type} (d : α) (t : Tab α) (k : Nat) : Tab.get d t k = d ∨ (k, Tab.get d t k) ∈ t := by
  induction t with
  | nil => exact .inl rfl
  | cons y t ih =>
    obtain ⟨j, w⟩ := y
    rw [Tab.get]
    split
    next h => exact .inr (by subst h; exact List.mem_cons_self)
    next => exact ih.imp_right (List.mem_cons_of_mem _)

theorem Spad.queued_of_bank {m : Spad} {b : Nat} {q : QReq} (h : q ∈ (m.bank b).queue) : m.Queued q := by
  rcases Tab.get_mem ({} : Bank) m.banks b with hd | hmem
  · rw [Spad.bank, hd] at h
    exact absurd h List.not_mem_nil
  · exact ⟨_, hmem, h⟩

/-- A change of a bank that accepts nothing adds no request. -/
theorem Spad.queued_of_modBank {m : Spad} {b : Nat} {f : Bank → Bank} {q : QReq} (hf : ∀ x, (f x).queue ⊆ x.queue) (h : (m.modBank b f).Queued q) :
    m.Queued q := by
  obtain ⟨x, hx, hq⟩ := h
  rcases Tab.mem_of_mem_insert hx with rfl | hx
  · exact Spad.queued_of_bank (hf _ hq)
  · exact ⟨x, hx, hq⟩

/-! ### Cores that nothing lands at -/

/-- No bank holds a read of core `c`. -/
def State.Aloof (c : Nat) (s : State) : Prop := ∀ x q, (s.core x).spd.Queued q → q.src / 4 = c → ∃ d p, q.body = .write d p

/-- Work that, where no bank holds a read of core `c`, leaves it so and leaves the core as it was. -/
structure State.Spares (c : Nat) (s t : State) : Prop where
  core : s.Aloof c → t.core c = s.core c
  aloof : s.Aloof c → t.Aloof c

namespace State.Spares

theorem refl (s : State) : s.Spares c s := ⟨fun _ => rfl, id⟩

theorem trans (h : s.Spares c t) (k : t.Spares c u) : s.Spares c u :=
  ⟨fun ha => (k.core (h.aloof ha)).trans (h.core ha), fun ha => k.aloof (h.aloof ha)⟩

theorem foldl {α : Type} {f : State → α → State} (l : List α) (s : State) (h : ∀ (s : State), ∀ x ∈ l, s.Spares c (f s x)) : s.Spares c (l.foldl f s) := by
  induction l generalizing s with
  | nil => exact refl s
  | cons x l ih => exact (h s x List.mem_cons_self).trans (ih _ fun s y hy => h s y (List.mem_cons_of_mem _ hy))

theorem of_aloof (h : s.Aloof c → s.Spares c t) : s.Spares c t := ⟨fun ha => (h ha).core ha, fun ha => (h ha).aloof ha⟩

theorem of_cores (h : t.cores = s.cores) : s.Spares c t := by
  have hcore : ∀ x, t.core x = s.core x := fun x => by rw [State.core, h, State.core]
  exact ⟨fun _ => hcore c, fun ha x q => by rw [hcore]; exact ha x q⟩

/-- Work on another core's scratchpad that accepts no request. -/
theorem modCore {y : Nat} {f : Core → Core} (hy : y ≠ c) (hf : ∀ q, (f (s.core y)).spd.Queued q → (s.core y).spd.Queued q) :
    s.Spares c (s.modCore y f) := by
  refine ⟨fun _ => State.core_modCore_ne _ _ hy.symm, fun ha x q hq => ?_⟩
  by_cases hx : x = y
  · rw [hx, State.core_modCore] at hq
    exact ha y q (hf q hq)
  · rw [State.core_modCore_ne _ _ hx] at hq
    exact ha x q hq

variable {y : Nat}

theorem modSpd {f : Spad → Spad} (hy : y ≠ c) (hf : ∀ q, (f (s.core y).spd).Queued q → (s.core y).spd.Queued q) : s.Spares c (s.modSpd y f) :=
  modCore hy hf

theorem record (ty src : Nat) (pl : List Byte) (core unit : Nat) (s : State) : s.Spares c (s.record ty src pl core unit) := of_cores rfl

theorem spdCount (hy : y ≠ c) (w : Nat) (o : EccOut) (s : State) : s.Spares c (s.spdCount y w o) := by
  unfold State.spdCount
  cases o with
  | clean => exact refl s
  | ce1 => exact modSpd hy fun q h => h
  | ce2 => exact modSpd hy fun q h => h
  | ue => exact (modSpd hy fun q h => h).trans (record ..)

theorem spdReadOn (hy : y ≠ c) (w : Nat) (s : State) : s.Spares c (s.spdReadOn y w).2 := by
  unfold State.spdReadOn
  extract_lets m n v
  split
  · exact refl s
  · refine trans (t := v) ?_ (spdCount hy ..)
    exact of_cores (by dsimp only [v]; split <;> rfl)

theorem spdDiscard (hy : y ≠ c) (r w : Nat) (s : State) : s.Spares c (s.spdDiscard y r w) := by
  unfold State.spdDiscard
  extract_lets m b v
  have hv : s.Spares c v := modSpd hy fun q h => Spad.queued_of_modBank (b := b) (f := fun x => { x with episode := true }) (fun _ _ h => h) h
  split
  · exact hv
  · exact hv.trans (record ..)

theorem store (hy : y ≠ c) (w : Nat) (f : Spad → Spad) (hf : ∀ m, (f m).banks = m.banks) (s : State) :
    s.Spares c (s.modCore y fun k => Core.landed w (k.modSpd f)) := modCore hy fun q h => by
  rw [Core.spd_landed] at h
  obtain ⟨b, hb, hq⟩ := h
  exact ⟨b, (hf _) ▸ hb, hq⟩

theorem storeWord (hy : y ≠ c) (r w : Nat) (d : W256) (p : Bool) (s : State) : s.Spares c (s.storeWord y r w d p).1 := by
  unfold State.storeWord
  split
  · exact store hy w (Spad.put w d p) (fun _ => rfl) s
  · exact spdDiscard hy ..

theorem storeMask (hy : y ≠ c) (r w : Nat) (d mask : W256) (p : Bool) (s : State) : s.Spares c (s.storeMask y r w d mask p).1 := by
  unfold State.storeMask
  split
  · refine (spdReadOn hy w s).trans ?_
    refine store hy w _ (fun m => ?_) _
    rfl
  · exact spdDiscard hy ..

theorem landWith {pre : Nat → Nat → State → State} (hpre : ∀ w (u : State), u.Spares c (pre y w u)) (hy : y ≠ c) (l : Landing) (d : W256) (p : Bool)
    (s : State) : s.Spares c (s.landWith pre y l d p) := by
  unfold State.landWith
  cases l with
  | word dst => exact (hpre ..).trans (storeWord hy ..)
  | lane base ostr plane lane => exact foldl _ _ fun _ _ _ => (hpre ..).trans (storeMask hy ..)

/-- A served request lands where its requester waits for it, and a read of core `c` is none of them. -/
theorem serveWith {pre : Nat → Nat → State → State} (hpre : ∀ x w (u : State), x ≠ c → u.Spares c (pre x w u)) (hy : y ≠ c) {q : QReq}
    (hq : q.src / 4 = c → ∃ d p, q.body = .write d p) (s : State) : s.Spares c (s.serveWith pre y q) := by
  unfold State.serveWith
  split
  · exact storeWord hy ..
  next l hbody =>
    have hsrc : q.src / 4 ≠ c := fun h => by
      obtain ⟨d, p, hw⟩ := hq h
      rw [hbody] at hw
      cases hw
    exact (spdReadOn hy q.word s).trans (landWith (fun w u => hpre _ w u hsrc) hsrc ..)

theorem emptyBank (n b : Nat) (hy : y ≠ c) (s : State) : s.Spares c (s.emptyBank n y b) := by
  induction n generalizing y b s with
  | zero => exact refl s
  | succ n ih =>
    refine of_aloof fun ha => ?_
    have hqueue : ∀ q ∈ ((s.core y).spd.bank b).queue, q.src / 4 = c → ∃ d p, q.body = .write d p := fun q hq => ha y q (Spad.queued_of_bank hq)
    unfold State.emptyBank
    extract_lets x s1 s2
    have h1 : s.Spares c s1 := modSpd hy fun q h => Spad.queued_of_modBank (fun x q h => absurd h List.not_mem_nil) h
    have h2 : s1.Spares c s2 := by
      refine foldl _ _ fun u q hq => ?_
      refine serveWith (fun x w v hx => ?_) hy (hqueue q hq) u
      split
      · exact ih _ hx v
      · exact refl v
    split
    · exact refl s
    · exact (h1.trans h2).trans (modSpd hy fun q h => Spad.queued_of_modBank (f := fun y => { y with st := x.st }) (fun _ _ h => h) h)

theorem retireAt (hy : y ≠ c) (w : Nat) (s : State) : s.Spares c (s.retireAt y w) := by
  unfold State.retireAt
  split
  · exact emptyBank _ _ hy s
  · exact refl s

/-- What lands at another core spares core `c`. -/
theorem land (hy : y ≠ c) (l : Landing) (d : W256) (p : Bool) (s : State) : s.Spares c (s.land y l d p) := landWith (fun w u => retireAt hy w u) hy l d p s

end State.Spares

end Sys2Proof.Machine
end

section
/-! What a reset of a core does to the words on their way to it and from it (R395). -/

namespace Sys2Proof.Machine

variable {s t u : State} {c x : Nat}

/-! ### What is dropped and what is lost -/

/-- A request that is core `c`'s read. -/
def QReq.readOf (c : Nat) (q : QReq) : Bool := decide (q.src / 4 = c) && match q.body with | .read _ => true | .write .. => false
/-- A flight that is core `c`'s read. -/
def Flight.readOf (c : Nat) : Flight → Bool
  | .read src _ _ _ _ _ => decide (src = c)
  | _ => false
/-- A flight whose target is core `c`. -/
def Flight.goesTo (c : Nat) : Flight → Bool
  | .write _ _ target _ _ _ _ => decide (target = c)
  | .read _ _ target _ _ _ => decide (target = c)
  | .sig .. => false
/-- A scratchpad without the reads of core `c` in its queues. -/
def Spad.dropReads (c : Nat) (m : Spad) : Spad :=
  { m with banks := m.banks.map fun b => (b.1, { b.2 with queue := b.2.queue.filter fun q => !q.readOf c }) }
/-- A scratchpad with empty queues. -/
def Spad.emptied (m : Spad) : Spad := { m with banks := m.banks.map fun b => (b.1, { b.2 with queue := [] }) }

theorem State.dropReads_eq (c : Nat) (s : State) : s.dropReads c =
    { s with fabric := s.fabric.filter fun f => !f.readOf c, cores := s.cores.map fun k => (k.1, k.2.modSpd (Spad.dropReads c)) } := rfl

theorem State.core_dropReads (c x : Nat) (s : State) : (s.dropReads c).core x = (s.core x).modSpd (Spad.dropReads c) :=
  Tab.get_map (Core.modSpd (Spad.dropReads c)) {} s.cores x

theorem Spad.queued_dropReads {m : Spad} {q : QReq} (h : (m.dropReads c).Queued q) : m.Queued q ∧ q.readOf c = false := by
  obtain ⟨b, hb, hq⟩ := h
  obtain ⟨y, hy, rfl⟩ := List.mem_map.mp hb
  obtain ⟨hq, hread⟩ := List.mem_filter.mp hq
  exact ⟨⟨y, hy, hq⟩, by simpa using hread⟩

theorem Spad.not_queued_emptied {m : Spad} {q : QReq} : ¬ m.emptied.Queued q := by
  rintro ⟨b, hb, hq⟩
  obtain ⟨y, hy, rfl⟩ := List.mem_map.mp hb
  exact absurd hq List.not_mem_nil

theorem QReq.write_of_not_readOf {q : QReq} (h : q.readOf c = false) (hsrc : q.src / 4 = c) : ∃ d p, q.body = .write d p := by
  cases hbody : q.body with
  | write d p => exact ⟨d, p, rfl⟩
  | read l => simp [QReq.readOf, hsrc, hbody] at h

/-- A core that has dropped its reads waits for none. -/
theorem State.aloof_dropReads (c : Nat) (s : State) : (s.dropReads c).Aloof c := fun x q hq hsrc => by
  rw [State.core_dropReads] at hq
  exact QReq.write_of_not_readOf (Spad.queued_dropReads hq).2 hsrc

theorem State.Aloof.dropReads (h : s.Aloof x) (c : Nat) : (s.dropReads c).Aloof x := fun y q hq hsrc => by
  rw [State.core_dropReads] at hq
  exact h y q (Spad.queued_dropReads hq).1 hsrc

/-! ### What a reset of one core changes elsewhere -/

/-- Changes of the scratchpads, the scoreboards, the fabric, and the counts that a core's reset touches. -/
structure State.DropsOnly (s t : State) : Prop where
  rest : t = { s with cores := t.cores, fabric := t.fabric, tmk := t.tmk, fresh := t.fresh, bw := t.bw }
  tmk : s.tmk.Same t.tmk
  bw : t.bw = { s.bw with statStale := t.bw.statStale, ce2Prev := t.bw.ce2Prev, ce2Cur := t.bw.ce2Cur, ce2Last := t.bw.ce2Last }
  core : ∀ c, (s.core c).SpdKept (t.core c)

namespace State.DropsOnly

theorem refl (s : State) : s.DropsOnly s := ⟨rfl, rfl, rfl, fun _ => rfl⟩

theorem trans (h : s.DropsOnly t) (k : t.DropsOnly u) : s.DropsOnly u where
  rest := k.rest.trans (by rw [h.rest])
  tmk := h.tmk.trans k.tmk
  bw := k.bw.trans (by rw [h.bw])
  core c := (h.core c).trans (k.core c)

theorem of_spd (h : s.SpdOnly t) : s.DropsOnly t where
  rest := h.rest.trans (by rw [h.rest])
  tmk := h.tmk
  bw := by rw [h.rest]
  core := h.core

theorem dropReads (c : Nat) (s : State) : s.DropsOnly (s.dropReads c) := ⟨rfl, rfl, rfl, fun x => by rw [State.core_dropReads]; rfl⟩

theorem clearCe2 (c : Nat) (s : State) : s.DropsOnly (s.clearCe2 c) := ⟨rfl, rfl, rfl, fun _ => rfl⟩

end State.DropsOnly

/-! ### What is lost -/

/-- The lost words of reads land poisoned at their requesters. -/
def State.landLost (out : List Flight) (held : List QReq) (s : State) : State :=
  held.foldl (fun (s : State) q => match q.body with | .read l => s.land (q.src / 4) l 0 true | .write .. => s)
    (out.foldl (fun (s : State) f => match f with | .read src _ _ _ l _ => s.land src l 0 true | _ => s) s)

/-- The requests that the banks of core `c` hold. -/
def State.heldAt (c : Nat) (s : State) : List QReq := (s.core c).spd.banks.flatMap fun b => b.2.queue
/-- Some of the replies that were on their way are stale. -/
def State.countStale (n : Nat) (s : State) : State :=
  if n = 0 then s else { s.draw.2 with bw := { s.bw with statStale := satAdd s.bw.statStale (s.draw.1 % (n + 1)) } }

theorem State.resetLost_eq (c : Nat) (s : State) : s.resetLost c =
    (((({ s with fabric := s.fabric.filter fun f => !f.goesTo c } : State).modSpd c Spad.emptied).landLost (s.fabric.filter (Flight.goesTo c)) (s.heldAt c)).countStale
      ((s.fabric.filter (Flight.goesTo c)).length + (s.heldAt c).length)) := rfl

theorem State.countStale_cores (n : Nat) (s : State) : (s.countStale n).cores = s.cores ∧ (s.countStale n).fabric = s.fabric := by
  rw [State.countStale]
  split <;> exact ⟨rfl, rfl⟩

theorem State.DropsOnly.countStale (n : Nat) (s : State) : s.DropsOnly (s.countStale n) := by
  rw [State.countStale]
  split
  · exact .refl s
  · exact ⟨rfl, rfl, rfl, fun _ => rfl⟩

theorem State.SpdOnly.landLost (out : List Flight) (held : List QReq) (s : State) : s.SpdOnly (s.landLost out held) := by
  refine .trans (.foldl (fun u f => ?_) out s) (.foldl (fun u q => ?_) held _)
  · split
    · exact .land ..
    · exact .refl u
  · split
    · exact .land ..
    · exact .refl u

/-- Nothing lands at a core that waits for none of the lost words. -/
theorem State.Spares.landLost {out : List Flight} {held : List QReq} (hout : ∀ f ∈ out, f.readOf x = false) (hheld : ∀ q ∈ held, q.readOf x = false)
    (s : State) : s.Spares x (s.landLost out held) := by
  refine .trans (.foldl out s fun u f hf => ?_) (.foldl held _ fun u q hq => ?_)
  · split
    · exact .land (by simpa [Flight.readOf] using hout _ hf) ..
    · exact .refl u
  · split
    next l hbody => exact .land (by simpa [QReq.readOf, hbody] using hheld _ hq) ..
    · exact .refl u

theorem State.heldAt_queued {q : QReq} (h : q ∈ s.heldAt c) : (s.core c).spd.Queued q := by
  obtain ⟨b, hb, hq⟩ := List.mem_flatMap.mp h
  exact ⟨b, hb, hq⟩

theorem State.Aloof.not_readOf (h : s.Aloof x) {y : Nat} {q : QReq} (hq : (s.core y).spd.Queued q) : q.readOf x = false := by
  by_cases hsrc : q.src / 4 = x
  · obtain ⟨d, p, hw⟩ := h y q hq hsrc
    simp [QReq.readOf, hw]
  · simp [QReq.readOf, hsrc]

theorem State.Aloof.emptied (h : s.Aloof x) (c : Nat) (fs : List Flight) : (({ s with fabric := fs } : State).modSpd c Spad.emptied).Aloof x := fun y q hq hsrc => by
  by_cases hy : y = c
  · rw [hy, State.spd_modSpd] at hq
    exact absurd hq Spad.not_queued_emptied
  · rw [State.modSpd, State.core_modCore_ne _ _ hy] at hq
    exact h y q hq hsrc

theorem State.DropsOnly.resetLost (c : Nat) (s : State) : s.DropsOnly (s.resetLost c) := by
  rw [State.resetLost_eq]
  refine .trans (.trans ?_ (.of_spd (.landLost ..))) (.countStale ..)
  exact .trans (t := { s with fabric := s.fabric.filter fun f => !f.goesTo c }) ⟨rfl, rfl, rfl, fun _ => rfl⟩ (.of_spd (.modSpd ..))

/-- A core that waits for no word keeps what it holds when another core's requests are lost, and loses its own queues. -/
theorem State.core_resetLost (c : Nat) (ha : s.Aloof x) (hf : ∀ f ∈ s.fabric, f.readOf x = false) :
    (s.resetLost c).core x = (s.modSpd c Spad.emptied).core x ∧ (s.resetLost c).Aloof x := by
  have hspares := State.Spares.landLost (x := x) (out := s.fabric.filter (Flight.goesTo c)) (held := s.heldAt c)
    (fun f h => hf f (List.mem_filter.mp h).1) (fun q h => ha.not_readOf (State.heldAt_queued h))
    (({ s with fabric := s.fabric.filter fun f => !f.goesTo c } : State).modSpd c Spad.emptied)
  have hempty := ha.emptied c (s.fabric.filter fun f => !f.goesTo c)
  have hcount := State.Spares.of_cores (c := x) (State.countStale_cores ((s.fabric.filter (Flight.goesTo c)).length + (s.heldAt c).length)
    ((({ s with fabric := s.fabric.filter fun f => !f.goesTo c } : State).modSpd c Spad.emptied).landLost (s.fabric.filter (Flight.goesTo c)) (s.heldAt c))).1
  have hall := hspares.trans hcount
  rw [State.resetLost_eq]
  exact ⟨hall.core hempty, hall.aloof hempty⟩

theorem State.fabric_resetLost (c : Nat) (s : State) : (s.resetLost c).fabric = s.fabric.filter fun f => !f.goesTo c := by
  rw [State.resetLost_eq, (State.countStale_cores _ _).2, (State.SpdOnly.landLost _ _ _).rest]
  rfl

/-! ### A core without traffic -/

/-- With no word on its way to or from a core, its reset loses none and no other core changes. -/
theorem State.NoTraffic.parts (h : s.NoTraffic c) : (∀ f ∈ s.fabric, f.readOf c = false ∧ f.goesTo c = false) ∧
    (∀ y, ∀ q, (s.core y).spd.Queued q → q.src / 4 ≠ c) ∧ ∀ q, ¬ (s.core c).spd.Queued q := by
  obtain ⟨hfabric, hqueues, hown⟩ := h
  refine ⟨fun f hf => ?_, fun y q ⟨b, hb, hq⟩ => hqueues y b hb q hq, fun q ⟨b, hb, hq⟩ => ?_⟩
  · have := hfabric f hf
    cases f <;> simp_all [Flight.readOf, Flight.goesTo]
  · rw [hown b hb] at hq
    exact absurd hq List.not_mem_nil

theorem Spad.dropReads_of_none {m : Spad} (h : ∀ q, m.Queued q → q.src / 4 ≠ c) : m.dropReads c = m := by
  have hbanks : (m.banks.map fun b => (b.1, { b.2 with queue := b.2.queue.filter fun q => !q.readOf c })) = m.banks := by
    refine (List.map_congr_left fun b hb => ?_).trans (List.map_id m.banks)
    have hqueue : b.2.queue.filter (fun q => !q.readOf c) = b.2.queue := List.filter_eq_self.mpr fun q hq => by
      simp [QReq.readOf, h q ⟨b, hb, hq⟩]
    rw [hqueue]
    rfl
  rw [Spad.dropReads, hbanks]

theorem State.core_dropReads_of_quiet (h : s.NoTraffic c) (x : Nat) : (s.dropReads c).core x = s.core x := by
  rw [State.core_dropReads, Core.modSpd, Spad.dropReads_of_none fun q hq => h.parts.2.1 x q hq]

theorem State.NoTraffic.fabric (h : s.NoTraffic c) : (s.dropReads c).fabric = s.fabric ∧ s.fabric.filter (Flight.goesTo c) = [] := by
  refine ⟨?_, List.filter_eq_nil_iff.mpr fun f hf => by rw [(h.parts.1 f hf).2]; exact Bool.false_ne_true⟩
  rw [State.dropReads_eq]
  exact List.filter_eq_self.mpr fun f hf => by rw [(h.parts.1 f hf).1]; rfl

/-- Without traffic, only the core's own queues are emptied. -/
theorem State.core_lost_of_quiet (h : s.NoTraffic c) (hx : x ≠ c) : ((s.dropReads c).resetLost c).core x = s.core x := by
  obtain ⟨hfabric, hnone⟩ := h.fabric
  have hheld : (s.dropReads c).heldAt c = [] := List.eq_nil_iff_forall_not_mem.mpr fun q hq => by
    have hqueued := State.heldAt_queued hq
    rw [State.core_dropReads_of_quiet h] at hqueued
    exact h.parts.2.2 q hqueued
  rw [State.resetLost_eq, hfabric, hnone, hheld]
  exact (State.core_modCore_ne _ _ hx).trans (State.core_dropReads_of_quiet h x)

end Sys2Proof.Machine
end

section
/-! Core reset and the beaching of one core (R27, R246, R394 to R396). -/

namespace Sys2Proof.Machine

variable {s t u : State} {c x : Nat}

/-! ### Core reset -/

/-- A reset core's registers do not depend on what its banks' queues held. -/
theorem Core.reset_of_queues (now : Nat) {f : Bank → Bank} (hf : ∀ b, f b = { b with queue := (f b).queue }) (hd : f {} = {}) (k : Core) :
    Core.reset now (k.modSpd fun m => { m with banks := m.banks.map fun b => (b.1, f b.2) }) = Core.reset now k := by
  have hst : ∀ b, (f b).st = b.st := fun b => by rw [hf]
  have hbank : ∀ b, (Tab.get ({} : Bank) (k.spd.banks.map fun b => (b.1, f b.2)) b).st = (k.spd.bank b).st := fun b => by
    have hmap := Tab.get_map f {} k.spd.banks b
    rw [hd] at hmap
    rw [hmap, hst]
    rfl
  have hbanks : (k.spd.banks.map fun b => (b.1, f b.2)).map (fun b => (b.1, if b.2.st = .on then ({ b.2 with st := .waking, since := now, queue := [] } : Bank)
      else { b.2 with queue := [] })) = k.spd.banks.map fun b => (b.1, if b.2.st = .on then ({ b.2 with st := .waking, since := now, queue := [] } : Bank)
      else { b.2 with queue := [] }) := by
    rw [List.map_map]
    refine List.map_congr_left fun b _ => ?_
    simp only [Function.comp]
    rw [hst, hf]
  have hkeep : ∀ w, Spad.bank { k.spd with banks := k.spd.banks.map fun b => (b.1, f b.2) }
      (Spad.bankOf { k.spd with banks := k.spd.banks.map fun b => (b.1, f b.2) } w) =
      Tab.get ({} : Bank) (k.spd.banks.map fun b => (b.1, f b.2)) (k.spd.bankOf w) := fun w => rfl
  rw [Core.reset, Core.reset]
  simp only [Core.modSpd, hkeep, hbank, hbanks]

theorem Core.reset_lost (now c : Nat) (k : Core) : Core.reset now ((k.modSpd (Spad.dropReads c)).modSpd Spad.emptied) = Core.reset now k :=
  (Core.reset_of_queues now (f := fun b => { b with queue := [] }) (fun _ => rfl) rfl _).trans
    (Core.reset_of_queues now (f := fun b => { b with queue := b.queue.filter fun q => !q.readOf c }) (fun _ => rfl) rfl k)

/-- A core in reset is left with its own queues emptied, whatever lands at the cores that waited for it. -/
theorem State.core_lost_self (c : Nat) (s : State) :
    ((s.dropReads c).resetLost c).core c = ((s.core c).modSpd (Spad.dropReads c)).modSpd Spad.emptied := by
  have hfabric : ∀ f ∈ (s.dropReads c).fabric, f.readOf c = false := fun f hf => by
    rw [State.dropReads_eq] at hf
    simpa using (List.mem_filter.mp hf).2
  rw [(State.core_resetLost c (State.aloof_dropReads c s) hfabric).1, State.modSpd, State.core_modCore, State.core_dropReads]

/-- The state in which the core's registers are reset: its leases revoked, its words dropped. -/
def State.resetReady (c : Nat) (s : State) : State := (((s.revokeCore c).dropReads c).resetLost c).clearCe2 c

/-- What a core's reset changes of the state. -/
structure State.ResetsOnly (s t : State) : Prop where
  rest : t = { s with cores := t.cores, fabric := t.fabric, dies := t.dies, est := t.est, ldr := t.ldr, tmk := t.tmk, fresh := t.fresh, bw := t.bw }

theorem State.resetsOnly_ready (c : Nat) (s : State) : s.ResetsOnly (s.resetReady c) := by
  have hdrops : (s.revokeCore c).DropsOnly (s.resetReady c) := ((State.DropsOnly.dropReads ..).trans (.resetLost ..)).trans (.clearCe2 ..)
  have hrest := hdrops.rest
  have hrevokes := (State.RevokesOnly.revokeCore c s).rest
  generalize s.resetReady c = w at hrest ⊢
  generalize s.revokeCore c = v at hrest hrevokes
  constructor
  rw [hrest, hrevokes]

theorem State.core_revokeCore (c x : Nat) (s : State) : (s.revokeCore c).core x = s.core x := by
  have hrevokes := (State.RevokesOnly.revokeCore c s).rest
  generalize s.revokeCore c = v at hrevokes ⊢
  rw [hrevokes]
  rfl

theorem State.NoTraffic.revokeCore (h : s.NoTraffic x) (c : Nat) : (s.revokeCore c).NoTraffic x := by
  have hrevokes := (State.RevokesOnly.revokeCore c s).rest
  generalize s.revokeCore c = v at hrevokes ⊢
  rw [hrevokes]
  exact h

theorem State.core_clearCe2 (c x : Nat) (s : State) : (s.clearCe2 c).core x = s.core x := rfl

/-- The registers' reset, with its records. -/
def State.finishReset (c : Nat) (w : State) : State :=
  let v := ((w.modCore c (Core.reset w.us)).watch [c]).awaitRewrite (if (w.claimOf c).isSome then [c] else [])
  v.draw.2.record 0x0003 (coreDie c) (b8 v.draw.1 ++ b8 (v.draw.2.core c).inc) c 1

theorem State.coreReset_eq (c : Nat) (s : State) : s.coreReset c = (s.resetReady c).finishReset c := rfl

theorem State.finishReset_only (c : Nat) (w : State) : w.ResetsOnly (w.finishReset c) ∧ (w.finishReset c).bw = { w.bw with hbeatSeen := (w.finishReset c).bw.hbeatSeen } ∧
    ∀ x, (w.finishReset c).core x = (w.modCore c (Core.reset w.us)).core x := ⟨⟨rfl⟩, rfl, fun _ => rfl⟩

theorem State.ResetsOnly.trans (h : s.ResetsOnly t) (k : t.ResetsOnly u) : s.ResetsOnly u := by
  have hrest := h.rest
  constructor
  refine k.rest.trans ?_
  rw [hrest]

theorem State.resetsOnly_coreReset (c : Nat) (s : State) : s.ResetsOnly (s.coreReset c) := by
  rw [State.coreReset_eq]
  exact (s.resetsOnly_ready c).trans ((s.resetReady c).finishReset_only c).1

theorem State.core_coreReset_eq (c x : Nat) (s : State) : (s.coreReset c).core x = ((s.resetReady c).modCore c (Core.reset s.us)).core x := by
  have hus : (s.resetReady c).us = s.us := by rw [(s.resetsOnly_ready c).rest]
  rw [State.coreReset_eq, ((s.resetReady c).finishReset_only c).2.2, hus]

/-- A reset core has its registers at reset, whatever was on its way to it. -/
theorem State.core_coreReset (c : Nat) (s : State) : (s.coreReset c).core c = Core.reset s.us (s.core c) := by
  rw [State.core_coreReset_eq, State.core_modCore]
  have hcore : (s.resetReady c).core c = ((s.core c).modSpd (Spad.dropReads c)).modSpd Spad.emptied := by
    rw [← State.core_revokeCore c c s, ← State.core_lost_self, State.resetReady, State.core_clearCe2]
  rw [hcore, Core.reset_lost]

/-- Without traffic, a core reset leaves the other cores. -/
theorem State.core_coreReset_ne (h : s.NoTraffic c) (hx : x ≠ c) : (s.coreReset c).core x = s.core x := by
  rw [State.core_coreReset_eq, State.core_modCore_ne _ _ hx, State.resetReady, State.core_clearCe2, State.core_lost_of_quiet (h.revokeCore c) hx,
    State.core_revokeCore]

/-! ### One core is beached -/

theorem State.beach_single (cause : Nat) (hf : s.fenced c = false) : ∃ v fall, s.beach (coreDie c) [coreLocal c] cause =
    (({ s with hub := { s.hub with fenceSeq := (s.hub.fenceSeq + 1) % 65536 }, bw := { s.bw with fallCores := fall } } : State).modCore c
      fun k => { k with gated := true }).modDie (coreDie c) fun x => { x with evts := x.evts ++ [v] } := by
  have hls : ([coreLocal c].filter fun l => !s.fenced (36 * coreDie c + l)) = [coreLocal c] := s.unfenced_single hf
  rw [State.beach]
  dsimp only
  rw [hls, if_neg (by simp), List.foldl_cons, List.foldl_nil, core_of_die_local]
  exact ⟨_, _, rfl⟩

/-- Beaching a core that is not on its way gates it and queues its event; no other core changes. -/
theorem State.beach_single_fields (cause : Nat) (hf : s.fenced c = false) : let u := s.beach (coreDie c) [coreLocal c] cause
    u.core c = { s.core c with gated := true } ∧ (∀ x, x ≠ c → u.core x = s.core x) ∧ u.hub = { s.hub with fenceSeq := (s.hub.fenceSeq + 1) % 65536 } ∧
      u.plm = s.plm ∧ u.tmk = s.tmk ∧ u.sec = s.sec := by
  obtain ⟨v, fall, hbeach⟩ := State.beach_single cause hf
  rw [hbeach]
  refine ⟨?_, fun x hx => ?_, rfl, rfl, rfl, rfl⟩
  · rw [State.core_modDie, State.core_modCore]
    rfl
  · rw [State.core_modDie, State.core_modCore_ne _ _ hx]
    rfl

end Sys2Proof.Machine
end

section
/-! The commands that name a core: FENCE_CORE, UNBEACH and CORE_RESET (R27, R251, R394, R448). -/

namespace Sys2Proof.Machine

variable {s t u : State} {c x : Nat} {src : Source}

/-- The answer of a command changes no unit. -/
theorem State.answerCmd_units (src : Source) (op : Nat) (st : Status) (data : List Byte) (s : State) :
    (s.answerCmd src op st data).cores = s.cores ∧ (s.answerCmd src op st data).roles = s.roles ∧ (s.answerCmd src op st data).dies = s.dies ∧
      (s.answerCmd src op st data).plm = s.plm ∧ (s.answerCmd src op st data).est = s.est := by
  cases src <;> simp [State.answerCmd]

theorem State.core_answerCmd (src : Source) (op : Nat) (st : Status) (data : List Byte) (s : State) (x : Nat) :
    (s.answerCmd src op st data).core x = s.core x := by
  rw [State.core, (s.answerCmd_units src op st data).1, State.core]

theorem State.die_answerCmd (src : Source) (op : Nat) (st : Status) (data : List Byte) (s : State) (d : Nat) :
    (s.answerCmd src op st data).die d = s.die d := by
  rw [State.die, (s.answerCmd_units src op st data).2.2.1, State.die]

theorem State.role_answerCmd (src : Source) (op : Nat) (st : Status) (data : List Byte) (s : State) (x : Nat) :
    (s.answerCmd src op st data).role x = s.role x := by
  rw [State.role, (s.answerCmd_units src op st data).2.1, State.role]

theorem State.fenced_answerCmd (src : Source) (op : Nat) (st : Status) (data : List Byte) (s : State) (x : Nat) :
    (s.answerCmd src op st data).fenced x = s.fenced x := by
  rw [State.fenced, State.role_answerCmd, State.die_answerCmd, State.fenced]

theorem Source.mem_all (src : Source) : src ∈ [Source.host, .bmc, .hub] := by cases src <;> simp

/-- A command that names a working core is carried out in its turn. -/
theorem State.coreCmd_served {i : Instr} {op : Nat} {from_ : List Source} {go : State → State} (ht : s.takesFrom src = true) (hsrc : src ∈ from_)
    (hrec : s.sec.recovery = false) (hidle : s.serving = false) (hc : c < 144) (hrole : s.role c ≠ .disabled) : s.coreCmd i src op from_ c go = go s := by
  rw [State.coreCmd, State.cmd_inTurn ht hsrc (.inl hrec) hidle, if_neg]
  rintro (h | h)
  · omega
  · exact hrole h

/-- The one outstanding read of a core in reset lands poisoned at its requester. -/
theorem State.resetLost_single {src' slot w l n : Nat} (hfabric : s.fabric = [.read src' slot c w (.word l) n]) (hne : src' ≠ c)
    (hon : (s.core src').spd.isOn l = true) (hqueues : ∀ x, ∀ y ∈ (s.core x).spd.banks, y.2.queue = []) :
    (s.resetLost c).fabric = [] ∧ Tab.get false ((s.resetLost c).core src').spd.poison l = true ∧
      ∀ x, x ≠ src' → ∀ b, (((s.resetLost c).core x).spd.bank b).queue = [] ∧ (x ≠ c → (s.resetLost c).core x = s.core x) := by
  have hnone (m : Spad) (hm : ∀ y ∈ m.banks, y.2.queue = []) (b : Nat) : (m.bank b).queue = [] := List.eq_nil_iff_forall_not_mem.mpr fun q hq => by
    obtain ⟨y, hy, hq⟩ := Spad.queued_of_bank hq
    rw [hm y hy] at hq
    exact absurd hq List.not_mem_nil
  have hto : s.fabric.filter (Flight.goesTo c) = [.read src' slot c w (.word l) n] := by simp [hfabric, Flight.goesTo]
  have hrest : (s.fabric.filter fun f => !f.goesTo c) = [] := by simp [hfabric, Flight.goesTo]
  have hheld : s.heldAt c = [] := List.eq_nil_iff_forall_not_mem.mpr fun q hq => by
    obtain ⟨b, hb, hq⟩ := List.mem_flatMap.mp hq
    rw [hqueues c b hb] at hq
    exact absurd hq List.not_mem_nil
  refine ⟨by rw [State.fabric_resetLost, hrest], ?_⟩
  generalize hv : ({ s with fabric := [] } : State).modSpd c Spad.emptied = v
  have hland : s.resetLost c = (v.land src' (.word l) 0 true).countStale 1 := by
    rw [State.resetLost_eq, hto, hheld, hrest, hv]
    rfl
  have hvsrc : v.core src' = s.core src' := by
    rw [← hv, State.modSpd, State.core_modCore_ne _ _ hne]
    rfl
  have hstored : v.land src' (.word l) 0 true = v.modCore src' fun k => Core.landed l (k.modSpd (Spad.put l 0 true)) := by
    have hretire : v.retireAt src' l = v := by
      rw [State.retireAt, hvsrc, if_pos hon, State.bankRetire_of_empty]
      rw [hvsrc]
      exact hnone _ (hqueues src') _
    have hvon : (v.core src').spd.isOn l = true := by rw [hvsrc, hon]
    rw [State.land, State.landWith]
    rw [hretire, State.storeWord, if_pos hvon]
  have hcore (x : Nat) : (s.resetLost c).core x = (v.modCore src' fun k => Core.landed l (k.modSpd (Spad.put l 0 true))).core x := by
    rw [hland, hstored, State.core, (State.countStale_cores _ _).1, State.core]
  refine ⟨?_, fun x hx b => ⟨?_, fun hxc => ?_⟩⟩
  · rw [hcore, State.core_modCore, Core.spd_landed]
    exact Tab.get_set_self false (v.core src').spd.poison l true
  · rw [hcore, State.core_modCore_ne _ _ hx]
    by_cases hxc : x = c
    · rw [← hv, hxc, State.spd_modSpd]
      refine hnone _ (fun y hy => ?_) b
      obtain ⟨z, -, rfl⟩ := List.mem_map.mp hy
      rfl
    · rw [← hv, State.modSpd, State.core_modCore_ne _ _ hxc]
      exact hnone _ (hqueues x) b
  · rw [hcore, State.core_modCore_ne _ _ hx, ← hv, State.modSpd, State.core_modCore_ne _ _ hxc]
    rfl

/-- Settles O42: each command by its branch, over what a beaching and a core reset change. -/
theorem coreCommands : Obligations.CoreCommands := by
  unfold Obligations.CoreCommands
  intro src c s ht hrec hidle
  refine ⟨fun l hhub hreply hnew hsrc => ?_, fun l hsrc => ?_, fun hbad i => ?_, fun hc hrole => ?_, fun b w l src' slot n _ hfabric _ hne hon hqueues => ?_⟩
  · have hup : s.hub.mgmtUp = true := by
      rw [State.takesFrom, Bool.and_eq_true] at ht
      exact ht.1
    have hexec : exec (.fenceCore .hub c l) s = execFenceCore .hub c l s := rfl
    rw [hexec, execFenceCore]
    dsimp only
    by_cases hcmd : l.cmdOk = true
    · rw [if_pos hcmd, State.hubCmd_whole hup hhub hidle hnew hcmd hreply]
    · rw [if_neg hcmd, State.hubCmd_bad hup hhub hidle (Bool.eq_false_of_not_eq_true hcmd) hreply]
  · cases src with
    | host => rfl
    | bmc => rfl
    | hub => exact absurd rfl hsrc
  · rw [State.fenceCore, State.coreCmd, State.cmd_inTurn ht (Source.mem_all src) (.inl hrec) hidle, if_pos hbad]
  · refine ⟨fun hf i => ?_, fun hf l hsrc => ?_, fun hsrc hbeached htest hiso hcause => ?_, fun hsrc hbeached => ?_, fun hsrc hfree => ?_, fun hsrc hin hclaim => ?_⟩
    · rw [State.fenceCore, State.coreCmd_served ht (Source.mem_all src) hrec hidle hc hrole, if_pos hf]
    · have hexec : exec (.fenceCore src c l) s = .next (s.fenceCore (.fenceCore src c l) src c) := by
        cases src with
        | host => rfl
        | bmc => rfl
        | hub => exact absurd rfl hsrc
      rw [hexec, State.fenceCore, State.coreCmd_served ht (Source.mem_all src) hrec hidle hc hrole, if_neg (by simp [hf])]
      have hfenced := State.fenced_beach 5 s (c := c) (locals := [coreLocal c]) (List.pairwise_singleton _ _) List.mem_cons_self
      obtain ⟨hcore, hothers, hhub, hplm, htmk, hsec⟩ := State.beach_single_fields 5 hf
      generalize s.beach (coreDie c) [coreLocal c] 5 = v at hfenced hcore hothers hhub hplm htmk hsec ⊢
      obtain ⟨hatmk, -, hahub, -, hastatus⟩ := State.answerCmd_fields src 0xC010 .success [] v
      refine ⟨_, rfl, ?_, ?_, fun x hx => ?_, ?_, hastatus, ?_, hatmk.trans htmk⟩
      · rw [State.fenced_answerCmd, hfenced]
      · rw [State.core_answerCmd, hcore]
      · rw [State.core_answerCmd, hothers x hx]
      · rw [hahub, hhub]
      · rw [(State.answerCmd_units ..).2.2.2.1, hplm]
    · have hexec : exec (.unbeach src c) s = execUnbeach src c s := rfl
      rw [hexec, execUnbeach, State.coreCmd_served ht (Source.mem_hostBmc hsrc) hrec hidle hc hrole]
      dsimp only
      rw [if_neg (by simp [hbeached, htest, hiso, hcause])]
      have hself := s.core_coreReset c
      have hothers (h : s.NoTraffic c) (x : Nat) (hx : x ≠ c) := State.core_coreReset_ne h hx
      have hrest := (s.resetsOnly_coreReset c).rest
      generalize s.coreReset c = v at hself hothers hrest ⊢
      obtain ⟨-, -, hahub, -, hastatus⟩ := State.answerCmd_fields src 0xC011 .success [] { v with hub := { v.hub with selftest := v.hub.selftest ++ [c] } }
      refine ⟨_, rfl, ?_, ?_, ?_, fun h x hx => ?_, hastatus, ?_⟩
      · rw [hahub, hrest]
      · rw [State.role_answerCmd, ← hbeached, hrest]
        rfl
      · rw [State.core_answerCmd, ← hself]
        rfl
      · rw [State.core_answerCmd, ← hothers h x hx]
        rfl
      · rw [(State.answerCmd_units ..).2.2.2.1, hrest]
    · have hexec : exec (.unbeach src c) s = execUnbeach src c s := rfl
      rw [hexec, execUnbeach, State.coreCmd_served ht (Source.mem_hostBmc hsrc) hrec hidle hc hrole]
      dsimp only
      rw [if_pos (by simp [hbeached])]
    · have hexec : exec (.coreReset src c) s = execCoreReset src c s := rfl
      have hnow : ¬ ((decide (s.role c = .inService) && (s.claimOf c).isSome) = true) := by
        rcases hfree with h | h <;> simp [h]
      rw [hexec, execCoreReset, State.coreCmd_served ht (Source.mem_hostBmc hsrc) hrec hidle hc hrole]
      dsimp only
      rw [if_neg hnow]
      have hself := s.core_coreReset c
      have hothers (h : s.NoTraffic c) (x : Nat) (hx : x ≠ c) := State.core_coreReset_ne h hx
      have hrest := (s.resetsOnly_coreReset c).rest
      generalize s.coreReset c = v at hself hothers hrest ⊢
      refine ⟨_, rfl, ?_, fun h x hx => ?_, ?_, (State.answerCmd_fields ..).2.2.2.2, ?_⟩
      · rw [State.core_answerCmd, hself]
      · rw [State.core_answerCmd, hothers h x hx]
      · rw [(State.answerCmd_units ..).2.1, hrest]
      · rw [(State.answerCmd_units ..).2.2.2.1, hrest]
    · have hexec : exec (.coreReset src c) s = execCoreReset src c s := rfl
      rw [hexec, execCoreReset, State.coreCmd_served ht (Source.mem_hostBmc hsrc) hrec hidle hc hrole]
      dsimp only
      rw [if_pos (by simp [hin, hclaim])]
      have hfenced := State.fenced_beach 5 s (c := c) (locals := [coreLocal c]) (List.pairwise_singleton _ _) List.mem_cons_self
      have hwait : (s.beach (coreDie c) [coreLocal c] 5).hub.resetAfterFence = s.hub.resetAfterFence := by
        by_cases hf : s.fenced c = true
        · have hls : s.unfenced (coreDie c) [coreLocal c] = [] := by
            rw [State.unfenced, List.filter_cons, core_of_die_local, hf]
            rfl
          rw [State.beach_nil 5 hls]
        · rw [(State.beach_single_fields 5 (Bool.eq_false_of_not_eq_true hf)).2.2.1]
      generalize s.beach (coreDie c) [coreLocal c] 5 = v at hfenced hwait ⊢
      obtain ⟨-, -, hahub, -, hastatus⟩ := State.answerCmd_fields src 0xC012 .success [] { v with hub := { v.hub with resetAfterFence := v.hub.resetAfterFence ++ [c] } }
      refine ⟨_, rfl, ?_, ?_, hastatus⟩
      · rw [State.fenced_answerCmd]
        exact hfenced
      · rw [hahub, hwait]
  · obtain ⟨hnone, hpoison, hothers⟩ := State.resetLost_single hfabric hne hon hqueues
    exact ⟨_, rfl, hnone, hpoison, fun x hx => hothers x hx b⟩

end Sys2Proof.Machine
end

section
/-! What a die reset changes of its cores, and of the postings of the steps that it fails (R277, R395, R399). -/

namespace Sys2Proof.Machine

variable {s t u : State} {c x : Nat}

/-! ### One core of a die in reset -/

/-- A core of a die in reset: its words dropped, its registers at reset. -/
def State.resetCoreOf (c : Nat) (s : State) : State := (((s.dropReads c).resetLost c).clearCe2 c).modCore c Core.dieReset

/-- Core `x` stands in reset: nothing lands at it any more. -/
structure State.AtReset (x : Nat) (k : Core) (s : State) : Prop where
  core : s.core x = k.dieReset
  aloof : s.Aloof x
  fabric : ∀ f ∈ s.fabric, f.readOf x = false

theorem Core.dieReset_of_kept {k l : Core} (h : k.SpdKept l) : l.dieReset = k.dieReset := by
  unfold Core.SpdKept at h
  rw [h]
  rfl

theorem Core.dieReset_none (k : Core) (c : Nat) : (k.dieReset.modSpd (Spad.dropReads c)) = k.dieReset ∧ k.dieReset.modSpd Spad.emptied = k.dieReset :=
  ⟨rfl, rfl⟩

theorem Core.not_queued_dieReset (k : Core) (q : QReq) : ¬ k.dieReset.spd.Queued q := by
  rintro ⟨b, hb, -⟩
  exact absurd hb List.not_mem_nil

theorem State.fabric_resetCoreOf (c : Nat) (s : State) : (s.resetCoreOf c).fabric = (s.dropReads c).fabric.filter fun f => !f.goesTo c :=
  State.fabric_resetLost c (s.dropReads c)

theorem State.mem_fabric_resetCoreOf {f : Flight} (h : f ∈ (s.resetCoreOf c).fabric) : f ∈ s.fabric ∧ f.readOf c = false := by
  rw [State.fabric_resetCoreOf, State.dropReads_eq] at h
  obtain ⟨hf, hread⟩ := List.mem_filter.mp (List.mem_filter.mp h).1
  exact ⟨hf, by simpa using hread⟩

theorem State.dropsOnly_lost (c : Nat) (s : State) : s.DropsOnly ((s.dropReads c).resetLost c) := (State.DropsOnly.dropReads ..).trans (.resetLost ..)

theorem State.Aloof.of_core (h : s.Aloof x) (hx : ∀ y q, (t.core y).spd.Queued q → (s.core y).spd.Queued q) : t.Aloof x := fun y q hq hsrc => h y q (hx y q hq) hsrc

theorem State.Aloof.resetCore (h : s.Aloof x) (c : Nat) : (s.modCore c Core.dieReset).Aloof x := h.of_core fun y q hq => by
  by_cases hy : y = c
  · rw [hy, State.core_modCore] at hq
    exact absurd hq (Core.not_queued_dieReset _ q)
  · rwa [State.core_modCore_ne _ _ hy] at hq

/-- A core's own reset brings it to reset. -/
theorem State.atReset_self (c : Nat) (s : State) : (s.resetCoreOf c).AtReset c (s.core c) := by
  have hfabric : ∀ f ∈ (s.dropReads c).fabric, f.readOf c = false := fun f hf => by
    rw [State.dropReads_eq] at hf
    simpa using (List.mem_filter.mp hf).2
  have hkept := (s.dropsOnly_lost c).core c
  have haloof := (State.core_resetLost c (State.aloof_dropReads c s) hfabric).2
  refine ⟨?_, ?_, fun f hf => (State.mem_fabric_resetCoreOf hf).2⟩
  · rw [State.resetCoreOf, State.core_modCore, State.core_clearCe2, Core.dieReset_of_kept hkept]
  · rw [State.resetCoreOf]
    exact State.Aloof.resetCore (s := ((s.dropReads c).resetLost c).clearCe2 c) haloof c

/-- A core in reset stays so while another one enters it. -/
theorem State.AtReset.resetCoreOf {k : Core} (h : s.AtReset x k) (hne : x ≠ c) : (s.resetCoreOf c).AtReset x k := by
  have hfabric : ∀ f ∈ (s.dropReads c).fabric, f.readOf x = false := fun f hf => by
    rw [State.dropReads_eq] at hf
    exact h.fabric f (List.mem_filter.mp hf).1
  obtain ⟨hcore, haloof⟩ := State.core_resetLost c (h.aloof.dropReads c) hfabric
  refine ⟨?_, ?_, fun f hf => h.fabric f (State.mem_fabric_resetCoreOf hf).1⟩
  · rw [State.resetCoreOf, State.core_modCore_ne _ _ hne, State.core_clearCe2, hcore, State.modSpd, State.core_modCore_ne _ _ hne,
      State.core_dropReads, h.core, (Core.dieReset_none k c).1]
  · rw [State.resetCoreOf]
    exact State.Aloof.resetCore (s := ((s.dropReads c).resetLost c).clearCe2 c) haloof c

/-- A core that is still to be reset keeps what its reset keeps. -/
theorem State.dieReset_resetCoreOf (hne : x ≠ c) (s : State) : ((s.resetCoreOf c).core x).dieReset = (s.core x).dieReset := by
  rw [State.resetCoreOf, State.core_modCore_ne _ _ hne, State.core_clearCe2, Core.dieReset_of_kept ((s.dropsOnly_lost c).core x)]

theorem State.NoTraffic.core_resetCoreOf (h : s.NoTraffic c) (hne : x ≠ c) : (s.resetCoreOf c).core x = s.core x := by
  rw [State.resetCoreOf, State.core_modCore_ne _ _ hne, State.core_clearCe2, State.core_lost_of_quiet h hne]

theorem State.NoTraffic.resetCoreOf (h : s.NoTraffic c) (hx : s.NoTraffic x) : (s.resetCoreOf c).NoTraffic x := by
  have hcore : ∀ y, (s.resetCoreOf c).core y = if y = c then (s.core c).dieReset else s.core y := fun y => by
    split
    next hy => rw [hy, (s.atReset_self c).core]
    next hy => exact h.core_resetCoreOf hy
  obtain ⟨hfabric, hqueues, hown⟩ := hx
  refine ⟨fun f hf => hfabric f (State.mem_fabric_resetCoreOf hf).1, fun y b hb q hq => ?_, fun b hb => ?_⟩
  · rw [hcore] at hb
    split at hb
    · exact absurd hb List.not_mem_nil
    · exact hqueues y b hb q hq
  · rw [hcore] at hb
    split at hb
    · exact absurd hb List.not_mem_nil
    · exact hown b hb

/-! ### The cores of a die -/

theorem State.AtReset.foldl {k : Core} (cs : List Nat) (hx : x ∉ cs) (h : s.AtReset x k) : (cs.foldl (fun (s : State) c => s.resetCoreOf c) s).AtReset x k := by
  induction cs generalizing s with
  | nil => exact h
  | cons c cs ih =>
    rw [List.mem_cons, not_or] at hx
    exact ih hx.2 (h.resetCoreOf hx.1)

/-- Each core of a list comes to reset from what it was. -/
theorem State.atReset_foldl (cs : List Nat) (hnodup : cs.Nodup) (hx : x ∈ cs) (s : State) {k : Core} (hk : (s.core x).dieReset = k.dieReset) :
    (cs.foldl (fun (s : State) c => s.resetCoreOf c) s).AtReset x k := by
  induction cs generalizing s with
  | nil => exact absurd hx List.not_mem_nil
  | cons c cs ih =>
    rw [List.nodup_cons] at hnodup
    by_cases hc : x = c
    · subst hc
      have hself := s.atReset_self x
      exact State.AtReset.foldl cs hnodup.1 ⟨hself.core.trans hk, hself.aloof, hself.fabric⟩
    · exact ih hnodup.2 ((List.mem_cons.mp hx).resolve_left hc) _ ((State.dieReset_resetCoreOf hc s).trans hk)

theorem State.core_foldl_resetCoreOf (cs : List Nat) (hx : x ∉ cs) (s : State) (h : ∀ c ∈ cs, s.NoTraffic c) :
    (cs.foldl (fun (s : State) c => s.resetCoreOf c) s).core x = s.core x := by
  induction cs generalizing s with
  | nil => rfl
  | cons c cs ih =>
    rw [List.mem_cons, not_or] at hx
    have hc := h c List.mem_cons_self
    exact (ih hx.2 _ fun y hy => hc.resetCoreOf (h y (List.mem_cons_of_mem _ hy))).trans (hc.core_resetCoreOf hx.1)

/-- What the resets of a die's cores change of the state beside the cores. -/
structure State.CoresOnly (s t : State) : Prop where
  rest : t = { s with cores := t.cores, fabric := t.fabric, tmk := t.tmk, fresh := t.fresh, bw := t.bw }
  tmk : s.tmk.Same t.tmk
  bw : t.bw = { s.bw with statStale := t.bw.statStale, ce2Prev := t.bw.ce2Prev, ce2Cur := t.bw.ce2Cur, ce2Last := t.bw.ce2Last }

namespace State.CoresOnly

theorem refl (s : State) : s.CoresOnly s := ⟨rfl, rfl, rfl⟩

theorem trans (h : s.CoresOnly t) (k : t.CoresOnly u) : s.CoresOnly u where
  rest := k.rest.trans (by rw [h.rest])
  tmk := h.tmk.trans k.tmk
  bw := k.bw.trans (by rw [h.bw])

theorem foldl {α : Type} {f : State → α → State} (h : ∀ (s : State) x, s.CoresOnly (f s x)) (l : List α) (s : State) : s.CoresOnly (l.foldl f s) := by
  induction l generalizing s with
  | nil => exact refl s
  | cons x l ih => exact (h s x).trans (ih _)

theorem modCore (c : Nat) (f : Core → Core) (s : State) : s.CoresOnly (s.modCore c f) := ⟨rfl, rfl, rfl⟩

theorem of_drops (h : s.DropsOnly t) : s.CoresOnly t := ⟨h.rest, h.tmk, h.bw⟩

theorem resetCoreOf (c : Nat) (s : State) : s.CoresOnly (s.resetCoreOf c) :=
  (of_drops ((s.dropsOnly_lost c).trans (.clearCe2 ..))).trans (modCore ..)

theorem logicCheck (c : Nat) (s : State) : s.CoresOnly (s.logicCheck c) := by
  rw [State.logicCheck]
  split
  · exact modCore ..
  · exact refl s

end State.CoresOnly

/-! ### Logic domains -/

theorem State.core_logicCheck_ne (hne : x ≠ c) (s : State) : (s.logicCheck c).core x = s.core x := by
  rw [State.logicCheck]
  split
  · exact State.core_modCore_ne _ _ hne
  · rfl

theorem State.core_logicCheck (c : Nat) (s : State) : (s.logicCheck c).core c =
    if s.role c = .beached ∧ (List.range 16).all (fun b => ((s.core c).spd.bank b).st = .off) ∧ c ∉ s.hub.selftest then (s.core c).logicLost else s.core c := by
  rw [State.logicCheck]
  by_cases h : s.role c = .beached ∧ (List.range 16).all (fun b => ((s.core c).spd.bank b).st = .off) ∧ c ∉ s.hub.selftest
  · rw [if_pos h, if_pos (by simpa using h), State.core_modCore]
  · rw [if_neg h, if_neg (by simpa using h)]

theorem State.CoresOnly.role (h : s.CoresOnly t) (x : Nat) : t.role x = s.role x ∧ t.hub = s.hub := by
  rw [h.rest]
  exact ⟨rfl, rfl⟩

theorem State.core_foldl_logicCheck_ne (cs : List Nat) (hx : x ∉ cs) (s : State) : (cs.foldl (fun (s : State) c => s.logicCheck c) s).core x = s.core x := by
  induction cs generalizing s with
  | nil => rfl
  | cons c cs ih =>
    rw [List.mem_cons, not_or] at hx
    exact (ih hx.2 _).trans (State.core_logicCheck_ne hx.1 s)

theorem State.core_foldl_logicCheck (cs : List Nat) (hnodup : cs.Nodup) (hx : x ∈ cs) (s : State) :
    (cs.foldl (fun (s : State) c => s.logicCheck c) s).core x =
      if s.role x = .beached ∧ (List.range 16).all (fun b => ((s.core x).spd.bank b).st = .off) ∧ x ∉ s.hub.selftest then (s.core x).logicLost else s.core x := by
  induction cs generalizing s with
  | nil => exact absurd hx List.not_mem_nil
  | cons c cs ih =>
    rw [List.nodup_cons] at hnodup
    rw [List.foldl_cons]
    by_cases hc : x = c
    · subst hc
      rw [State.core_foldl_logicCheck_ne cs hnodup.1, State.core_logicCheck]
    · have hkept := (State.CoresOnly.logicCheck c s).role x
      rw [ih hnodup.2 ((List.mem_cons.mp hx).resolve_left hc), hkept.1, hkept.2, State.core_logicCheck_ne hc]

end Sys2Proof.Machine
end

section
/-! Die reset, its release, and the resets of units (R277, R395, R399, R400, R449). -/

namespace Sys2Proof.Machine

variable {s t u : State} {c x : Nat}

/-! ### Die reset -/

/-- The cores of a die. -/
def dieCores (d : Nat) : List Nat := (List.range 36).map (36 * d + ·)

theorem nodup_dieCores (d : Nat) : (dieCores d).Nodup := List.nodup_range.map fun _ _ h => Nat.add_left_cancel h

theorem mem_dieCores {d x : Nat} : x ∈ dieCores d ↔ coreDie x = d := by
  rw [dieCores, List.mem_map]
  constructor
  · rintro ⟨l, hl, rfl⟩
    exact coreDie_add (List.mem_range.mp hl)
  · rintro rfl
    exact ⟨coreLocal x, List.mem_range.mpr (coreLocal_lt x), core_of_die_local x⟩

/-- The steps that run layers on a die. -/
def State.stepsOn (d : Nat) (s : State) : List EStep := s.est.steps.filter fun e => e.handed && e.cols.any fun c => c.2.1 = d && c.2.2 ≠ 0
/-- Steps fail with RESET_LOST. -/
def State.failSteps (es : List EStep) (s : State) : State := es.foldl (fun (s : State) e => s.failStep e.num 2) s
/-- The state in which a die's own registers are reset: its steps failed, its cores in reset. -/
def State.dieReady (d : Nat) (s : State) : State :=
  (dieCores d).foldl (fun (s : State) c => s.logicCheck c) ((dieCores d).foldl (fun (s : State) c => s.resetCoreOf c) (s.failSteps (s.stepsOn d)))
/-- A die's registers are reset, with its record. -/
def State.finishDie (d cause : Nat) (w : State) : State :=
  let v := (w.modDie d (Die.reset cause)).awaitRewrite ((dieCores d).filter fun c => (w.claimOf c).isSome)
  v.record 0x0002 d (b8 d ++ b8 cause ++ b8 (v.die d).inc) 0xFF 2

theorem State.dieReset_eq (d cause : Nat) (s : State) : s.dieReset d cause = (s.dieReady d).finishDie d cause := rfl

theorem State.finishDie_only (d cause : Nat) (w : State) : w.ResetsOnly (w.finishDie d cause) ∧ (w.finishDie d cause).bw = w.bw ∧
    (w.finishDie d cause).cores = w.cores ∧ (w.finishDie d cause).dies = (w.modDie d (Die.reset cause)).dies := ⟨⟨rfl⟩, rfl, rfl, rfl⟩

theorem State.revokesOnly_failSteps (es : List EStep) (s : State) : s.RevokesOnly (s.failSteps es) := .foldl (fun _ _ => .failStep ..) _ _

theorem State.coresOnly_dieReady (d : Nat) (s : State) : (s.failSteps (s.stepsOn d)).CoresOnly (s.dieReady d) :=
  (State.CoresOnly.foldl (fun _ _ => .resetCoreOf ..) _ _).trans (State.CoresOnly.foldl (fun _ _ => .logicCheck ..) _ _)

theorem State.resetsOnly_dieReset (d cause : Nat) (s : State) : s.ResetsOnly (s.dieReset d cause) := by
  rw [State.dieReset_eq]
  have hsteps := (s.revokesOnly_failSteps (s.stepsOn d)).rest
  have hready := (s.coresOnly_dieReady d).rest
  refine .trans ?_ ((s.dieReady d).finishDie_only d cause).1
  generalize s.dieReady d = w at hready
  generalize s.failSteps (s.stepsOn d) = v at hsteps hready
  constructor
  rw [hready, hsteps]

theorem State.bw_dieReset (d cause : Nat) (s : State) : ∃ n p q r, (s.dieReset d cause).bw = { s.bw with statStale := n, ce2Prev := p, ce2Cur := q, ce2Last := r } := by
  rw [State.dieReset_eq, ((s.dieReady d).finishDie_only d cause).2.1, (s.coresOnly_dieReady d).bw]
  have hbw : (s.failSteps (s.stepsOn d)).bw = s.bw := by rw [(s.revokesOnly_failSteps (s.stepsOn d)).rest]
  rw [hbw]
  exact ⟨_, _, _, _, rfl⟩

theorem State.die_failSteps (es : List EStep) (e : Nat) (s : State) :
    (s.failSteps es).die e = es.foldl (fun (x : Die) y => x.dropPostings y.num) (s.die e) := by
  induction es generalizing s with
  | nil => rfl
  | cons y es ih => exact (ih _).trans (by rw [State.die_failStep]; rfl)

theorem State.die_dieReady (d e : Nat) (s : State) : (s.dieReady d).die e = (s.failSteps (s.stepsOn d)).die e := by
  rw [State.die, (s.coresOnly_dieReady d).rest, State.die]

/-- A die in reset has its registers at reset; the steps that are failed do not show there. -/
theorem State.die_dieReset (d cause : Nat) (s : State) : (s.dieReset d cause).die d = Die.reset cause (s.die d) := by
  have hfinish : (s.dieReset d cause).die d = ((s.dieReady d).modDie d (Die.reset cause)).die d := by
    rw [State.dieReset_eq, State.die, ((s.dieReady d).finishDie_only d cause).2.2.2, State.die]
  rw [hfinish, State.die_modDie, State.die_dieReady]
  have hrevoked := (s.revokesOnly_failSteps (s.stepsOn d)).die d
  unfold Die.Revoked at hrevoked
  rw [hrevoked]
  rfl

theorem State.die_dieReset_ne {d e : Nat} (h : e ≠ d) (cause : Nat) (s : State) : (s.dieReset d cause).die e = (s.failSteps (s.stepsOn d)).die e := by
  have hfinish : (s.dieReset d cause).die e = ((s.dieReady d).modDie d (Die.reset cause)).die e := by
    rw [State.dieReset_eq, State.die, ((s.dieReady d).finishDie_only d cause).2.2.2, State.die]
  rw [hfinish, State.die_modDie_ne _ _ h, State.die_dieReady]

/-- The postings of several steps are dropped together. -/
theorem Die.ctr_foldl_dropPostings (es : List EStep) (n : Nat) (x : Die) : (es.foldl (fun (x : Die) y => x.dropPostings y.num) x).ctr n =
    { x.ctr n with queue := (x.ctr n).queue.filter fun p => !es.any fun y => decide (y.num = p.step) } := by
  induction es generalizing x with
  | nil => simp
  | cons y es ih =>
    rw [List.foldl_cons, ih, Die.ctr_dropPostings, Counter.dropPostings]
    dsimp only
    rw [List.filter_filter]
    refine congrArg (fun q => ({ x.ctr n with queue := q } : Counter)) (List.filter_congr fun p _ => ?_)
    rw [List.any_cons, Bool.not_or, Bool.and_comm, ← decide_not]
    exact congrArg (· && _) (decide_eq_decide.mpr ne_comm)

theorem Die.fields_foldl_dropPostings (es : List EStep) (x : Die) : (es.foldl (fun (x : Die) y => x.dropPostings y.num) x).leases = x.leases ∧
    (es.foldl (fun (x : Die) y => x.dropPostings y.num) x).evts = x.evts ∧ (es.foldl (fun (x : Die) y => x.dropPostings y.num) x).inc = x.inc := by
  induction es generalizing x with
  | nil => exact ⟨rfl, rfl, rfl⟩
  | cons y es ih => exact ih _

theorem State.core_failSteps (es : List EStep) (x : Nat) (s : State) : (s.failSteps es).core x = s.core x ∧ (s.failSteps es).role x = s.role x ∧
    (s.failSteps es).hub = s.hub := by
  have hrest := (s.revokesOnly_failSteps es).rest
  generalize s.failSteps es = v at hrest ⊢
  rw [hrest]
  exact ⟨rfl, rfl, rfl⟩

theorem State.core_dieReset_eq (d cause x : Nat) (s : State) : (s.dieReset d cause).core x = (s.dieReady d).core x := by
  rw [State.dieReset_eq, State.core, ((s.dieReady d).finishDie_only d cause).2.2.1, State.core]

/-- A core of a die in reset; one that is beached, its self-test aside, also loses its logic domain, its banks being OFF. -/
theorem State.core_dieReset {d : Nat} (cause : Nat) (hx : coreDie x = d) (s : State) : (s.dieReset d cause).core x =
    if s.role x = .beached ∧ x ∉ s.hub.selftest then (s.core x).dieReset.logicLost else (s.core x).dieReset := by
  have hmem := mem_dieCores.mpr hx
  obtain ⟨hcore, hrole, hhub⟩ := s.core_failSteps (s.stepsOn d) x
  have hreset := (State.atReset_foldl (dieCores d) (nodup_dieCores d) hmem (s.failSteps (s.stepsOn d)) (k := s.core x) (by rw [hcore])).core
  obtain ⟨hrole', hhub'⟩ := (State.CoresOnly.foldl (fun (s : State) c => .resetCoreOf c s) (dieCores d) (s.failSteps (s.stepsOn d))).role x
  have hoff : (List.range 16).all (fun b => ((s.core x).dieReset.spd.bank b).st = .off) = true := List.all_eq_true.mpr fun b _ => decide_eq_true rfl
  rw [State.core_dieReset_eq, State.dieReady, State.core_foldl_logicCheck _ (nodup_dieCores d) hmem, hreset, hrole', hrole, hhub', hhub, hoff]
  by_cases h : s.role x = .beached ∧ x ∉ s.hub.selftest
  · rw [if_pos h, if_pos ⟨h.1, rfl, h.2⟩]
  · rw [if_neg h, if_neg fun h' => h ⟨h'.1, h'.2.2⟩]

theorem State.core_dieReset_ne {d : Nat} (cause : Nat) (hx : coreDie x ≠ d) (h : ∀ c ∈ dieCores d, s.NoTraffic c) : (s.dieReset d cause).core x = s.core x := by
  have hmem : x ∉ dieCores d := fun hm => hx (mem_dieCores.mp hm)
  have hquiet : ∀ c ∈ dieCores d, (s.failSteps (s.stepsOn d)).NoTraffic c := fun c hc => by
    have hrest := (s.revokesOnly_failSteps (s.stepsOn d)).rest
    generalize s.failSteps (s.stepsOn d) = v at hrest ⊢
    rw [hrest]
    exact h c hc
  rw [State.core_dieReset_eq, State.dieReady, State.core_foldl_logicCheck_ne _ hmem, State.core_foldl_resetCoreOf _ hmem _ hquiet,
    (s.core_failSteps _ x).1]

theorem State.core_foldl_modCore (f : Core → Core) (cs : List Nat) (hnodup : cs.Nodup) (hx : x ∈ cs) (s : State) :
    (cs.foldl (fun (s : State) c => s.modCore c f) s).core x = f (s.core x) := by
  have hne : ∀ (cs : List Nat) (s : State), x ∉ cs → (cs.foldl (fun (s : State) c => s.modCore c f) s).core x = s.core x := fun cs => by
    induction cs with
    | nil => exact fun _ _ => rfl
    | cons c cs ih =>
      intro s hx
      rw [List.mem_cons, not_or] at hx
      exact (ih _ hx.2).trans (State.core_modCore_ne _ _ hx.1)
  induction cs generalizing s with
  | nil => exact absurd hx List.not_mem_nil
  | cons c cs ih =>
    rw [List.nodup_cons] at hnodup
    by_cases hc : x = c
    · subst hc
      exact (hne cs _ hnodup.1).trans (State.core_modCore ..)
    · exact (ih hnodup.2 ((List.mem_cons.mp hx).resolve_left hc) _).trans (congrArg f (State.core_modCore_ne _ _ hc))

/-- A die that leaves reset lets its cores out, its PLL locked. -/
theorem dieResetRelease_leaves (d : DieId) (hin : (s.die d).inReset = true) (hiso : (s.die d).isolated = false) (hparked : s.bw.parked = false)
    (hwarm : s.hub.warm = false) : ∃ u, exec (.dieResetRelease d) s = .next u ∧ u.die d = { s.die d with inReset := false } ∧
      u.bw.lock = s.bw.lock ||| (1#5 <<< (d : Nat)) ∧ (∀ l < 36, u.core (36 * d + l) = { s.core (36 * d + l) with inReset := false }) ∧
      u.plm = s.plm ∧ u.hub = s.hub := by
  have hexec : exec (.dieResetRelease d) s = execDieResetRelease d s := rfl
  rw [hexec, execDieResetRelease, if_neg (by simp [hin, hiso, hparked, hwarm])]
  have hcores := fun l (hl : l < 36) => State.core_foldl_modCore (x := 36 * d + l) (fun k => { k with inReset := false }) (dieCores d) (nodup_dieCores d)
    (mem_dieCores.mpr (coreDie_add hl)) (s.modDie d fun x => { x with inReset := false })
  have hrest := State.foldl_modCore_eq (fun c => c) (fun k => { k with inReset := false }) (dieCores d) (s.modDie d fun x => { x with inReset := false })
  dsimp only
  rw [← dieCores]
  generalize (dieCores d).foldl (fun (s : State) c => s.modCore c fun k => { k with inReset := false }) (s.modDie d fun x => { x with inReset := false }) = v
    at hcores hrest ⊢
  refine ⟨_, rfl, ?_, ?_, fun l hl => ?_, ?_, ?_⟩
  · refine Eq.trans ?_ (State.die_modDie s d fun x => { x with inReset := false })
    rw [hrest]
    rfl
  · rw [hrest]
    rfl
  · exact hcores l hl
  · rw [hrest]
    rfl
  · rw [hrest]
    rfl

/-! ### Unit resets -/

/-- A failed step keeps its number and stays failed; the failure of its number fails it. -/
theorem State.steps_failSteps (es : List EStep) (s : State) {y : EStep} (hy : y ∈ (s.failSteps es).est.steps) :
    ∃ e ∈ s.est.steps, e.num = y.num ∧ (e.fail ≠ 0 → y.fail ≠ 0) ∧ (y.num ∈ es.map (·.num) → y.fail ≠ 0) := by
  induction es generalizing s with
  | nil => exact ⟨y, hy, rfl, id, fun h => absurd h List.not_mem_nil⟩
  | cons z es ih =>
    obtain ⟨e, he, hnum, hfail, hany⟩ := ih (s.failStep z.num 2) hy
    obtain ⟨e', he', rfl⟩ := List.mem_map.mp he
    refine ⟨e', he', ?_, fun h => hfail ?_, fun h => ?_⟩
    · rw [← hnum]
      split <;> rfl
    · split
      · exact Nat.succ_ne_zero 1
      · exact h
    · rcases List.mem_cons.mp h with h | h
      · refine hfail ?_
        have hsame : e'.num = z.num := by
          refine Eq.trans ?_ (hnum.trans h)
          split <;> rfl
        by_cases hzero : e'.fail = 0
        · rw [if_pos (by simp [hsame, hzero])]
          exact Nat.succ_ne_zero 1
        · rw [if_neg (by simp [hzero])]
          exact hzero
      · exact hany h

theorem State.fail_failSteps_all (s : State) {y : EStep} (hy : y ∈ (s.failSteps s.est.steps).est.steps) : y.fail ≠ 0 := by
  obtain ⟨e, he, hnum, -, hany⟩ := State.steps_failSteps s.est.steps s hy
  exact hany (hnum ▸ List.mem_map_of_mem he)

theorem State.headInc_failSteps (es : List EStep) (d : Nat) (s : State) : ((s.failSteps es).die d).headInc = (s.die d).headInc := by
  have hrevoked := (s.revokesOnly_failSteps es).die d
  unfold Die.Revoked at hrevoked
  rw [hrevoked]

/-- The die Headland's reset fails the steps that run on its die and advances its incarnation alone. -/
theorem State.unitReset_die (d cause : Nat) (s : State) : ((s.unitReset .dieHeadland d cause).die d).headInc = nextInc (s.die d).headInc ∧
    (s.unitReset .dieHeadland d cause).hub = s.hub := by
  have heq : s.unitReset .dieHeadland d cause = (((s.failSteps (s.stepsOn d)).modDie d fun x => { x with headInc := nextInc x.headInc }).record 0x0004
      d (b8 cause) 0xFF (unitCode .dieHeadland)) := rfl
  have hhead := s.headInc_failSteps (s.stepsOn d) d
  have hhub := (s.core_failSteps (s.stepsOn d) 0).2.2
  rw [heq]
  generalize s.failSteps (s.stepsOn d) = v at hhead hhub ⊢
  refine ⟨?_, hhub⟩
  have hdie := State.die_modDie v d fun x => { x with headInc := nextInc x.headInc }
  rw [← hhead]
  exact congrArg Die.headInc hdie

/-- The fence events that the hub Headland forgets. -/
def Die.forgetHub (x : Die) : Die := { x with evts := x.evts.map fun v => { v with hub := v.hub.forget } }

/-- The hub Headland's reset fails every step, and its commands in flight complete with RESET_LOST. -/
theorem State.unitReset_hub (d cause : Nat) (s : State) : ((s.unitReset .hubHeadland d cause).die d).headInc = (s.die d).headInc ∧
    (s.unitReset .hubHeadland d cause).hub = { s.hub with hubInc := nextInc s.hub.hubInc, mbxReissue := none } ∧
      (∀ e ∈ (s.unitReset .hubHeadland d cause).est.steps, e.fail ≠ 0) ∧ (∀ i ∈ (s.unitReset .hubHeadland d cause).sec.cmds, cmdSource i ≠ .hub) ∧
      (s.hub.mbxReissue ≠ none ∨ (∃ i ∈ s.sec.cmds, cmdSource i = .hub) → (s.unitReset .hubHeadland d cause).out.hubStatus = 8) := by
  have hhead := s.headInc_failSteps s.est.steps d
  have hsteps := fun y => State.fail_failSteps_all s (y := y)
  have hrest := (s.revokesOnly_failSteps s.est.steps).rest
  have hdie : Tab.get {} ((s.failSteps s.est.steps).dies.map fun x => (x.1, x.2.forgetHub)) d = ((s.failSteps s.est.steps).die d).forgetHub :=
    Tab.get_map Die.forgetHub {} (s.failSteps s.est.steps).dies d
  have heq : ∃ lost tmk, lost = ((s.failSteps s.est.steps).hub.mbxReissue.isSome || (s.failSteps s.est.steps).sec.cmds.any fun i => cmdSource i = Source.hub) ∧
      s.unitReset .hubHeadland d cause =
    { s.failSteps s.est.steps with
      dies := (s.failSteps s.est.steps).dies.map fun x => (x.1, x.2.forgetHub)
      hub := { (s.failSteps s.est.steps).hub with hubInc := nextInc (s.failSteps s.est.steps).hub.hubInc, mbxReissue := none }
      sec := { (s.failSteps s.est.steps).sec with cmds := (s.failSteps s.est.steps).sec.cmds.filter fun i => cmdSource i ≠ Source.hub }
      out := { (s.failSteps s.est.steps).out with hubStatus := if lost then Status.resetLost.code else (s.failSteps s.est.steps).out.hubStatus }
      tmk := tmk } := ⟨_, _, rfl, rfl⟩
  obtain ⟨lost, tmk, hlost, heq⟩ := heq
  rw [heq]
  generalize s.failSteps s.est.steps = v at hhead hsteps hrest hdie hlost ⊢
  refine ⟨?_, ?_, fun e he => hsteps e he, fun i hi => ?_, fun h => ?_⟩
  · rw [← hhead, State.die]
    dsimp only
    rw [hdie]
    rfl
  · rw [hrest]
  · simpa using (List.mem_filter.mp hi).2
  · have hset : lost = true := by
      rw [hlost, hrest]
      rcases h with h | ⟨i, hi, hsrc⟩
      · rw [Option.isSome_iff_ne_none.mpr h]
        rfl
      · rw [Bool.or_eq_true]
        exact .inr (List.any_eq_true.mpr ⟨i, hi, by simpa using hsrc⟩)
    rw [hset]
    rfl

/-- The update engine's reset aborts the operations and advances its incarnation alone. -/
theorem State.unitReset_update (d cause : Nat) (s : State) : ((s.unitReset .updateEngine d cause).die d) = s.die d ∧
    (s.unitReset .updateEngine d cause).hub = { s.hub with updInc := nextInc s.hub.updInc } := by
  have honly := (State.KlOnly.abortAll ([1, 2, 3, 6].getD (s.draw.1 % 4) 1) s.draw.2).only
  have heq : s.unitReset .updateEngine d cause = ({ s.draw.2.abortAll ([1, 2, 3, 6].getD (s.draw.1 % 4) 1) with
      hub := { (s.draw.2.abortAll ([1, 2, 3, 6].getD (s.draw.1 % 4) 1)).hub with updInc := nextInc (s.draw.2.abortAll ([1, 2, 3, 6].getD (s.draw.1 % 4) 1)).hub.updInc } } :
      State).record 0x0004 4 (b8 cause) 0xFF (unitCode .updateEngine) := rfl
  rw [heq]
  generalize s.draw.2.abortAll ([1, 2, 3, 6].getD (s.draw.1 % 4) 1) = v at honly ⊢
  rw [honly]
  exact ⟨rfl, rfl⟩

/-- Settles O43: a die's reset by the parts of the state that it reaches, and each unit's reset by its branch. -/
theorem dieAndUnitResets : Obligations.DieAndUnitResets := by
  unfold Obligations.DieAndUnitResets
  intro s
  refine ⟨fun src d hsrc ht hrec hidle hd => ⟨fun hiso => ?_, fun hiso hgrants => ?_, fun hiso hgrants => ?_⟩, fun d hin hiso hparked hwarm => ?_,
    fun src code d unit hsrc ht hrec hidle hunit hd => ?_, fun src code d hsrc ht hrec hidle hunit => ?_, fun unit d hparked => ?_⟩
  · have hexec : exec (.dieReset src d) s = execDieReset src d s := rfl
    rw [hexec, execDieReset, State.cmd_inTurn ht (Source.mem_hostBmc hsrc) (.inl hrec) hidle, if_neg (Nat.not_le.mpr hd), if_pos hiso]
  · have hexec : exec (.dieReset src d) s = execDieReset src d s := rfl
    rw [hexec, execDieReset, State.cmd_inTurn ht (Source.mem_hostBmc hsrc) (.inl hrec) hidle, if_neg (Nat.not_le.mpr hd), if_neg (by simp [hiso]),
      if_neg hgrants]
  · have hexec : exec (.dieReset src d) s = execDieReset src d s := rfl
    rw [hexec, execDieReset, State.cmd_inTurn ht (Source.mem_hostBmc hsrc) (.inl hrec) hidle, if_neg (Nat.not_le.mpr hd), if_neg (by simp [hiso]),
      if_pos hgrants]
    refine ⟨_, rfl, ?_, fun l hl => ?_, fun hquiet c hc => ?_, fun e he hed => ?_, (State.answerCmd_fields ..).2.2.2.2, ?_⟩
    · rw [State.die_answerCmd, State.die_dieReset]
    · dsimp only
      rw [State.core_answerCmd, State.core_dieReset 1 (coreDie_add hl)]
    · rw [State.core_answerCmd, State.core_dieReset_ne 1 hc]
      intro c hc
      rw [← core_of_die_local c, mem_dieCores.mp hc]
      exact hquiet _ (coreLocal_lt c)
    · rw [State.die_answerCmd, State.die_dieReset_ne hed]
      refine ⟨?_, ?_, ?_, fun n => ?_⟩
      · rw [State.die_failSteps, (Die.fields_foldl_dropPostings _ _).1]
      · rw [State.die_failSteps, (Die.fields_foldl_dropPostings _ _).2.1]
      · rw [State.die_failSteps, (Die.fields_foldl_dropPostings _ _).2.2]
      · rw [State.die_failSteps, Die.ctr_foldl_dropPostings]
        refine congrArg (fun q => ({ (s.die e).ctr n with queue := q } : Counter)) (List.filter_congr fun p _ => ?_)
        rw [State.stepsOn, List.any_filter]
        refine congrArg (fun f => !s.est.steps.any f) (funext fun y => ?_)
        rw [Bool.and_comm, Bool.and_assoc]
    · rw [(State.answerCmd_units ..).2.2.2.1, (s.resetsOnly_dieReset d 1).rest]
  · exact dieResetRelease_leaves d hin hiso hparked hwarm
  · have hexec : exec (.unitReset src code d) s = execUnitReset src code d s := rfl
    rw [hexec, execUnitReset, State.cmd_inTurn ht (Source.mem_hostBmc hsrc) (.inl hrec) hidle, hunit]
    exact congrArg _ (if_neg fun h => absurd (hd h.1) (Nat.not_lt.mpr h.2))
  · have hexec : exec (.unitReset src code d) s = execUnitReset src code d s := rfl
    rw [hexec, execUnitReset, State.cmd_inTurn ht (Source.mem_hostBmc hsrc) (.inl hrec) hidle, hunit]
  · have hexec : exec (.unitWatchdog unit d) s = .next (s.unitReset unit d 1) := by
      have hexec : exec (.unitWatchdog unit d) s = execUnitWatchdog unit d s := rfl
      rw [hexec, execUnitWatchdog, if_neg (by simp [hparked])]
    refine ⟨_, hexec, ?_⟩
    cases unit with
    | dieHeadland =>
      obtain ⟨hhead, hhub⟩ := s.unitReset_die d 1
      rw [hhead, hhub]
      exact ⟨rfl, rfl, rfl, rfl, fun h => nomatch h⟩
    | hubHeadland =>
      obtain ⟨hhead, hhub, hrest⟩ := s.unitReset_hub d 1
      rw [hhead, hhub]
      exact ⟨rfl, rfl, rfl, rfl, fun _ => hrest⟩
    | updateEngine =>
      obtain ⟨hdie, hhub⟩ := s.unitReset_update d 1
      rw [hdie, hhub]
      exact ⟨rfl, rfl, rfl, rfl, fun h => nomatch h⟩
    | sorzeind => exact ⟨rfl, rfl, rfl, rfl, fun h => nomatch h⟩

end Sys2Proof.Machine
end

section
/-! Supply warning, power failure, losses of clocks and their ends (R369, R385 to R387, R424). -/

namespace Sys2Proof.Machine

variable {s t u : State} {c : Nat}

/-! ### Isolation -/

theorem State.dies_freePage (i p : Nat) (s : State) : (s.freePage i p).dies = s.dies := rfl

/-- The pages that a die's loss frees are no die's registers. -/
theorem State.dies_loseDie (d : Nat) (s : State) : (s.loseDie d).dies = s.dies := by
  have hfold : ∀ (rs : List CopyRec) (s : State), (rs.foldl (fun (s : State) r => s.freePage (4 * r.die + r.chan) r.ppn) s).dies = s.dies := fun rs => by
    induction rs with
    | nil => exact fun _ => rfl
    | cons r rs ih => exact fun s => ih _
  rw [State.loseDie]
  exact hfold _ _

/-- An isolated die is so in its registers. -/
theorem State.isolated_isolate (d : Nat) (s : State) : ((s.isolate d).die d).isolated = true := by
  rw [State.isolate]
  split
  next h => exact h
  next =>
    dsimp only
    have hset : (((s.dieReset d 3).modDie d fun x => { x with isolated := true }).die d).isolated = true := by
      rw [State.die_modDie]
    generalize (s.dieReset d 3).modDie d (fun x => { x with isolated := true }) = w at hset ⊢
    generalize hv : ({ w with bw := { w.bw with fallFree := true } } : State) = v
    have hiso : (v.die d).isolated = true := by
      rw [← hv]
      exact hset
    have hbeach : ((v.beach d (List.range 36) 6).die d).isolated = true := by
      by_cases hnil : v.unfenced d (List.range 36) = []
      · rw [State.beach_nil 6 hnil, hiso]
      · rw [State.die_beach_self d _ 6 v hnil]
        exact hiso
    have hlose : ((v.beach d (List.range 36) 6).loseDie d).die d = (v.beach d (List.range 36) 6).die d := by
      rw [State.die, State.dies_loseDie, State.die]
    exact (congrArg Die.isolated hlose).trans hbeach

/-! ### Supply warning -/

/-- A core whose account is negative freezes. -/
def Core.freezeDebt (k : Core) : Core := if k.account < 0 then { k with pfreeze := true } else k

theorem State.core_freezeDebt (c : Nat) (s : State) : s.freezeDebt.core c = (s.core c).freezeDebt := Tab.get_map Core.freezeDebt {} s.cores c

theorem Core.pfreeze_freezeDebt (k : Core) : k.freezeDebt.pfreeze = (k.pfreeze || decide (k.account < 0)) := by
  rw [Core.freezeDebt]
  by_cases h : k.account < 0 <;> simp [h]

theorem State.warnLow_fields (s : State) : s.warnLow.bw.warn = true ∧ s.warnLow.bw.warnNeap = true ∧ (s.bw.state ≠ .slackWater → s.warnLow.bw.state = .neap) ∧
    (s.bw.warnNeap = false → ∀ c, (s.warnLow.core c).pfreeze = ((s.core c).pfreeze || decide ((s.core c).account < 0))) := by
  have hneap : ∀ b : Bw, b.warnNeap = true → b.slackReg = s.bw.slackReg → b.slack105 = s.bw.slack105 → b.slackWarm = s.bw.slackWarm →
      s.bw.state ≠ .slackWater → b.state = .neap := fun b hwarn hreg h105 hwarm hslack => by
    rw [Bw.state] at hslack ⊢
    rw [hreg, h105, hwarm]
    split at hslack
    · exact absurd rfl hslack
    next h => exact (if_neg h).trans (if_pos (by rw [hwarn]; rfl))
  rw [State.warnLow]
  split
  next h => exact ⟨rfl, h, hneap _ h rfl rfl rfl, fun h' => absurd (h.symm.trans h') (by decide)⟩
  next h =>
    have hpkg := State.pkg_eq (fun b => { b with warn := true, warnNeap := true, neapSince := s.us }) s
    generalize s.pkg (fun b => { b with warn := true, warnNeap := true, neapSince := s.us }) = w at hpkg ⊢
    have hbw : w.freezeDebt.bw = w.bw := rfl
    rw [hbw]
    refine ⟨?_, ?_, hneap _ ?_ ?_ ?_ ?_, fun _ c => ?_⟩
    · rw [hpkg]
    · rw [hpkg]
    · rw [hpkg]
    · rw [hpkg]
    · rw [hpkg]
    · rw [hpkg]
    · have hcore : w.core c = s.core c := by
        rw [hpkg]
        rfl
      rw [State.core_freezeDebt, Core.pfreeze_freezeDebt, hcore]

/-! ### Power failure -/

/-- One abandoned bank write: its command of the BMC is answered STATE. -/
def State.abandonJob (j : BankWrite) (s : State) : State :=
  match sourceOf j.job with
  | some .bmc => s.answerJob j .state
  | _ => s

theorem State.abandonJobs_eq (s : State) : s.abandonJobs =
    s.tmk.jobs.foldl (fun (s : State) j => s.abandonJob j) { s with tmk := { s.tmk with jobs := [] } } := rfl

theorem State.abandonJob_only (j : BankWrite) (s : State) : s.abandonJob j = { s with sec := (s.abandonJob j).sec, out := (s.abandonJob j).out } ∧
    (s.abandonJob j).sec.cmds = s.sec.cmds := by
  rw [State.abandonJob]
  split
  next hsrc =>
    rw [State.answerJob, hsrc]
    dsimp only
    split <;> exact ⟨rfl, rfl⟩
  next => exact ⟨rfl, rfl⟩

/-- Abandoned bank writes are answered to the BMC alone. -/
theorem State.abandonJobs_only (s : State) : s.abandonJobs = { s with tmk := { s.tmk with jobs := [] }, sec := s.abandonJobs.sec, out := s.abandonJobs.out } ∧
    s.abandonJobs.sec.cmds = s.sec.cmds := by
  have hfold : ∀ (js : List BankWrite) (s : State), (js.foldl (fun (s : State) j => s.abandonJob j) s) =
      { s with sec := (js.foldl (fun (s : State) j => s.abandonJob j) s).sec, out := (js.foldl (fun (s : State) j => s.abandonJob j) s).out } ∧
      (js.foldl (fun (s : State) j => s.abandonJob j) s).sec.cmds = s.sec.cmds := fun js => by
    induction js with
    | nil => exact fun s => ⟨rfl, rfl⟩
    | cons j js ih =>
      intro s
      obtain ⟨hstep, hcmds⟩ := s.abandonJob_only j
      obtain ⟨honly, hrest⟩ := ih (s.abandonJob j)
      rw [List.foldl_cons]
      generalize js.foldl (fun (s : State) j => s.abandonJob j) (s.abandonJob j) = t at honly hrest ⊢
      refine ⟨honly.trans ?_, hrest.trans hcmds⟩
      rw [hstep]
  exact hfold _ _

/-- The POWER_FAIL entry. -/
def State.powerFailEntry (uj : Nat) (abandoned : Bool) (s : State) : TmkEntry := s.entry 0x0010 4 (leBytes 4 (min uj max32) ++ b8 0 ++ b8 (b2n abandoned))

/-- A parked package: no grants, links stopped, cores off, with POWER_FAIL at the head of the queue. -/
theorem State.powerFail_fields (uj : Nat) (h : s.bw.parked = false) : ∃ e, (s.powerFail uj).tmk.queue = e :: s.tmk.queue ∧ e.type = 0x10 ∧
    e.payload = leBytes 4 (min uj 4294967295) ++ b8 0 ++ b8 (if s.tmk.jobs.any (·.started) then 1 else 0) ∧ (s.powerFail uj).tmk.jobs = [] ∧
    (s.powerFail uj).sec.cmds = s.sec.cmds ∧ (s.powerFail uj).plm.mem = s.plm.mem ∧ (s.powerFail uj).hub.mgmtUp = s.hub.mgmtUp ∧
    (∀ c < 144, (s.powerFail uj).core c = (s.core c).powerOff) := by
  obtain ⟨honly, hcmds⟩ := s.abandonJobs_only
  have heq : s.powerFail uj = ({ s.abandonJobs with tmk := { s.abandonJobs.tmk with
      queue := s.abandonJobs.powerFailEntry uj (s.tmk.jobs.any (·.started)) :: s.abandonJobs.tmk.queue } } : State).park := by
    rw [State.powerFail, if_neg (by simp [h])]
    rfl
  rw [heq]
  generalize s.abandonJobs = v at honly hcmds ⊢
  refine ⟨v.powerFailEntry uj (s.tmk.jobs.any (·.started)), ?_, rfl, rfl, ?_, hcmds, ?_, ?_, fun c hc => ?_⟩
  · rw [State.park, honly]
  · rw [State.park, honly]
  · rw [State.park, honly]
  · rw [State.park, honly]
  · have hcores : v.cores = s.cores := by rw [honly]
    rw [State.park, State.core]
    dsimp only
    rw [get_allCores _ _ hc, hcores, State.core]

theorem State.powerFail_parked (uj : Nat) (h : s.bw.parked = false) : (s.powerFail uj).bw.parked = true ∧ (s.powerFail uj).bw.pfail = true ∧
    (s.powerFail uj).bw.coreGrant = 0 ∧ (s.powerFail uj).bw.uncoreGrant = 0 ∧ (s.powerFail uj).hub.hubUp = false ∧ (s.powerFail uj).cxl.width = 0 := by
  rw [State.powerFail, if_neg (by simp [h])]
  exact ⟨rfl, rfl, rfl, rfl, rfl, rfl⟩

/-! ### Losses of PLL lock -/

/-- The bit that is cleared reads clear. -/
theorem getLsbD_clear (x : BitVec 5) (k : Nat) (hk : k < 5) : (x &&& ~~~(1#5 <<< k)).getLsbD k = false := by
  simp [hk]

/-- What a loss of PLL lock leaves before what follows from it. -/
def State.pllLost (k : Nat) (s : State) : State :=
  ({ s with bw := { s.bw with lock := s.bw.lock &&& ~~~(1#5 <<< k), pll := s.bw.pll &&& ~~~(1#5 <<< k), fallFree := true } }).record 0x0017 4 (b8 k)

theorem execPllUnlock_die (d : Fin 4) (hup : s.hub.mgmtUp = true) (hparked : s.bw.parked = false) (hiso : (s.die d).isolated = false) :
    exec (.pllUnlock (d.castLE (by decide))) s = .next (let v := (s.pllLost d).modDie d fun x => { x with pllLosses := s.pllRecent d }
      if 3 ≤ (s.pllRecent d).length then v.isolate d else v.dieReset d 2) := by
  have hexec : exec (.pllUnlock (d.castLE (by decide))) s = execPllUnlock (d.castLE (by decide)) s := rfl
  have hk : ¬ ((d.castLE (by decide : 4 ≤ 5) : Fin 5) : Nat) = 4 := by
    have := d.isLt
    simp
    omega
  have hdie : ¬ (((s.pllLost d).die ((d.castLE (by decide : 4 ≤ 5) : Fin 5) : Nat)).isolated = true) := by
    have hsame : (s.pllLost d).die ((d.castLE (by decide : 4 ≤ 5) : Fin 5) : Nat) = s.die d := rfl
    rw [hsame, hiso]
    exact Bool.false_ne_true
  rw [hexec, execPllUnlock, if_neg (by simp [hup, hparked])]
  dsimp only
  rw [if_neg hk]
  exact congrArg _ (if_neg hdie)

theorem State.aerInternal_msi (n : Nat) (s : State) : (s.msi n).cxl.aerInternal = s.cxl.aerInternal := by
  unfold State.msi
  split <;> rfl

/-- The state after the loss of the hub's PLL, before it is reported. -/
def State.hubLost (s : State) : State := { s.pllLost 4 with hub := { s.hub with endOfService := true, hubUp := false } }

theorem execPllUnlock_hub (hup : s.hub.mgmtUp = true) (hparked : s.bw.parked = false) : exec (.pllUnlock 4) s = .next (if s.cxl.viralEn = true
    then { s.hubLost with cxl := { s.cxl with viral := true } } else ({ s.hubLost with cxl := { s.cxl with aerInternal := true } } : State).msi 2) := by
  have hexec : exec (.pllUnlock 4) s = execPllUnlock 4 s := rfl
  rw [hexec, execPllUnlock, if_neg (by simp [hup, hparked])]
  rfl

/-- Settles O52: each pin's event by the branch that its state chooses. -/
theorem supplyAndClockEvents : Obligations.SupplyAndClockEvents := by
  unfold Obligations.SupplyAndClockEvents
  intro s
  refine ⟨rfl, fun hup hparked => ⟨?_, fun uj hcmds => ?_, fun hcmds => ?_, fun d hiso hfew => ?_, fun d hiso hmany => ?_, ?_⟩,
    fun hneap hwarn hparked hus => ?_, fun hparked hhigh => ?_⟩
  · have hexec : exec .pwrWarnAssert s = execPwrWarnAssert s := rfl
    rw [hexec, execPwrWarnAssert, if_neg (by simp [hup, hparked])]
    exact ⟨_, rfl, s.warnLow_fields⟩
  · have hexec : exec (.pwrFailAssert uj) s = execPwrFailAssert uj s := rfl
    rw [hexec, execPwrFailAssert]
    dsimp only
    rw [if_pos hup]
    have hfields := State.powerFail_fields (s := { s with bw := { s.bw with failHigh := false } }) uj hparked
    obtain ⟨hpark, hpfail, hcore, huncore, hhub, hwidth⟩ := State.powerFail_parked (s := { s with bw := { s.bw with failHigh := false } }) uj hparked
    generalize State.powerFail uj { s with bw := { s.bw with failHigh := false } } = v at hfields hpark hpfail hcore huncore hhub hwidth ⊢
    obtain ⟨e, hqueue, htype, hpayload, hjobs, hvcmds, hmem, hmgmt, hcores⟩ := hfields
    rw [State.serveWaiting_none (hvcmds.trans hcmds)]
    refine ⟨_, e, rfl, hpark, hpfail, hcore, huncore, ?_, htype, hpayload, ?_, hjobs, hmgmt.trans hup, hhub, fun c hc => ?_, hwidth, hmem⟩
    · rw [hqueue]
      rfl
    · rw [hqueue]
      rfl
    · rw [hcores c hc]
      exact ⟨rfl, rfl⟩
  · have hexec : exec .refclkLoss s = execRefclkLoss s := rfl
    rw [hexec, execRefclkLoss, if_neg (by simp [hup, hparked])]
    have hfields := State.powerFail_fields (s := s.draw.2.record 0x0018 4 []) s.draw.1 hparked
    have hpark := (State.powerFail_parked (s := s.draw.2.record 0x0018 4 []) s.draw.1 hparked).1
    dsimp only
    generalize State.powerFail s.draw.1 (s.draw.2.record 0x0018 4 []) = v at hfields hpark ⊢
    obtain ⟨e, hqueue, htype, -, -, hvcmds, -⟩ := hfields
    rw [State.serveWaiting_none (hvcmds.trans hcmds)]
    refine ⟨_, rfl, hpark, rfl, ?_⟩
    dsimp only
    rw [hqueue, List.head?_cons, Option.map_some, htype]
  · rw [execPllUnlock_die d hup hparked hiso]
    dsimp only
    rw [if_neg (Nat.not_le.mpr hfew)]
    generalize hv : (s.pllLost d).modDie d (fun x => { x with pllLosses := s.pllRecent d }) = v
    have hvdie : v.die d = { s.die d with pllLosses := s.pllRecent d } := by
      rw [← hv, State.die_modDie]
      rfl
    have hvlock : v.bw.lock = s.bw.lock &&& ~~~(1#5 <<< (d : Nat)) := by rw [← hv]; rfl
    obtain ⟨n, p, q, r, hbw⟩ := v.bw_dieReset d 2
    refine ⟨_, rfl, ?_, ?_, ?_, ?_, ?_⟩
    · rw [State.die_dieReset]
      rfl
    · rw [State.die_dieReset, hvdie]
      rfl
    · rw [State.die_dieReset]
      rfl
    · rw [hbw]
      dsimp only
      rw [hvlock]
      exact getLsbD_clear _ _ (by omega)
    · rw [State.die_dieReset, hvdie]
      exact hiso
  · rw [execPllUnlock_die d hup hparked hiso]
    dsimp only
    rw [if_pos hmany]
    exact ⟨_, rfl, State.isolated_isolate ..⟩
  · rw [execPllUnlock_hub hup hparked]
    have hlock := getLsbD_clear s.bw.lock 4 (by decide)
    by_cases hviral : s.cxl.viralEn = true
    · rw [if_pos hviral]
      exact ⟨_, rfl, rfl, rfl, hlock, by rw [if_pos hviral]; exact ⟨rfl, rfl⟩⟩
    · rw [if_neg hviral]
      refine ⟨_, rfl, ?_, ?_, ?_, by rw [if_neg hviral, State.aerInternal_msi]⟩
      · simp [State.hubLost]
      · simp [State.hubLost]
      · simp only [State.msi_fields]
        exact hlock
  · have hexec : exec .neapExit s = execNeapExit s := rfl
    rw [hexec, execNeapExit, if_pos (by simp [hneap, hwarn, hparked, hus])]
    have hpkg := State.pkg_eq (fun b => { b with warnNeap := false, statDip := satInc b.statDip }) s
    have hstate := State.pkg_state (fun b => { b with warnNeap := false, statDip := satInc b.statDip }) s
    generalize s.pkg (fun b => { b with warnNeap := false, statDip := satInc b.statDip }) = v at hpkg hstate ⊢
    refine ⟨_, rfl, ?_, ?_, fun hreg => ?_, ?_⟩
    · rw [hpkg]
      rfl
    · rw [hpkg]
      rfl
    · refine ne_of_eq_of_ne (b := Bw.state { s.bw with warnNeap := false, statDip := satInc s.bw.statDip }) hstate ?_
      rw [Bw.state]
      simp only [hreg, Bool.or_false, Bool.false_eq_true, if_false]
      split <;> exact nofun
    · rw [hpkg]
      rfl
  · have hexec : exec .powerReturn s = execPowerReturn s := rfl
    rw [hexec, execPowerReturn, if_pos (by simp [hparked, hhigh])]
    exact ⟨_, rfl, rfl, rfl, rfl⟩

end Sys2Proof.Machine
end

section
/-! What an epoch's work leaves of the hub caches' marks and of a core that stays out of it (R359, R374 to R382). -/

namespace Sys2Proof.Machine

variable {s t u : State} {c x : Nat}

/-! ### The marks of the hub caches -/

theorem Tmk.cacheBad_enqueue (e : TmkEntry) (t : Tmk) : (t.enqueue e).cacheBad = t.cacheBad := by
  unfold Tmk.enqueue
  split
  · rfl
  · split
    · rfl
    · split <;> rfl

/-- Work that leaves the marks of bad words in the hub caches. -/
structure State.CacheKept (s t : State) : Prop where
  bad : t.tmk.cacheBad = s.tmk.cacheBad

namespace State.CacheKept

theorem refl (s : State) : s.CacheKept s := ⟨rfl⟩
theorem of_tmk (h : t.tmk = s.tmk) : s.CacheKept t := ⟨by rw [h]⟩
theorem trans (h : s.CacheKept t) (k : t.CacheKept u) : s.CacheKept u := ⟨k.bad.trans h.bad⟩

theorem foldl {α : Type} {f : State → α → State} (h : ∀ (s : State) x, s.CacheKept (f s x)) (l : List α) (s : State) : s.CacheKept (l.foldl f s) := by
  induction l generalizing s with
  | nil => exact refl s
  | cons x l ih => exact (h s x).trans (ih _)

theorem record (ty src : Nat) (pl : List Byte) (core unit : Nat) (s : State) : s.CacheKept (s.record ty src pl core unit) :=
  ⟨Tmk.cacheBad_enqueue _ _⟩

theorem pairError (k : Nat) (s : State) : s.CacheKept (s.pairError k) := by
  unfold State.pairError
  extract_lets t o u
  have hu : s.CacheKept u := ⟨rfl⟩
  split
  · exact hu
  · exact hu.trans (record ..)

theorem modCore (c : Nat) (f : Core → Core) (s : State) : s.CacheKept (s.modCore c f) := ⟨rfl⟩
theorem modSpd (c : Nat) (f : Spad → Spad) (s : State) : s.CacheKept (s.modSpd c f) := ⟨rfl⟩

theorem spdCount (c w : Nat) (o : EccOut) (s : State) : s.CacheKept (s.spdCount c w o) := by
  unfold State.spdCount
  cases o with
  | clean => exact refl s
  | ce1 => exact modSpd ..
  | ce2 => exact modSpd ..
  | ue => exact (modSpd ..).trans (record ..)

theorem spdReadOn (c w : Nat) (s : State) : s.CacheKept (s.spdReadOn c w).2 := by
  unfold State.spdReadOn
  extract_lets m n v
  split
  · exact refl s
  · refine trans (t := v) (of_tmk ?_) (spdCount ..)
    dsimp only [v]
    split <;> rfl

theorem spdDiscard (c r w : Nat) (s : State) : s.CacheKept (s.spdDiscard c r w) := by
  unfold State.spdDiscard
  extract_lets m b v
  have hv : s.CacheKept v := modSpd ..
  split
  · exact hv
  · exact hv.trans (record ..)

theorem storeWord (c r w : Nat) (d : W256) (p : Bool) (s : State) : s.CacheKept (s.storeWord c r w d p).1 := by
  unfold State.storeWord
  split
  · dsimp only
    exact modCore _ _ s
  · exact spdDiscard ..

theorem storeMask (c r w : Nat) (d mask : W256) (p : Bool) (s : State) : s.CacheKept (s.storeMask c r w d mask p).1 := by
  unfold State.storeMask
  split
  · dsimp only
    exact (spdReadOn c w s).trans (modCore _ _ _)
  · exact spdDiscard ..

theorem landWith {pre : Nat → Nat → State → State} (hpre : ∀ c w (u : State), u.CacheKept (pre c w u)) (c : Nat) (l : Landing) (d : W256) (p : Bool) (s : State) :
    s.CacheKept (s.landWith pre c l d p) := by
  unfold State.landWith
  cases l with
  | word dst => exact (hpre ..).trans (storeWord ..)
  | lane base ostr plane lane => exact foldl (fun _ _ => (hpre ..).trans (storeMask ..)) _ _

theorem serveWith {pre : Nat → Nat → State → State} (hpre : ∀ c w (u : State), u.CacheKept (pre c w u)) (c : Nat) (q : QReq) (s : State) :
    s.CacheKept (s.serveWith pre c q) := by
  unfold State.serveWith
  split
  · exact storeWord ..
  · exact (spdReadOn c q.word s).trans (landWith hpre ..)

theorem emptyBank (n c b : Nat) (s : State) : s.CacheKept (s.emptyBank n c b) := by
  induction n generalizing c b s with
  | zero => exact refl s
  | succ n ih =>
    unfold State.emptyBank
    extract_lets x s1 s2
    have h1 : s.CacheKept s1 := modSpd ..
    have h2 : s1.CacheKept s2 := foldl (fun u q => serveWith (fun i w v => by
      split
      · exact ih ..
      · exact refl v) c q u) _ _
    split
    · exact refl s
    · exact (h1.trans h2).trans (modSpd ..)

theorem retireAt (c w : Nat) (s : State) : s.CacheKept (s.retireAt c w) := by
  unfold State.retireAt
  split
  · exact emptyBank ..
  · exact refl s

theorem land (c : Nat) (l : Landing) (d : W256) (p : Bool) (s : State) : s.CacheKept (s.land c l d p) := landWith retireAt c l d p s

theorem landLost (out : List Flight) (held : List QReq) (s : State) : s.CacheKept (s.landLost out held) := by
  refine .trans (.foldl (fun u f => ?_) out s) (.foldl (fun u q => ?_) held _)
  · split
    · exact land ..
    · exact refl u
  · split
    · exact land ..
    · exact refl u

theorem countStale (n : Nat) (s : State) : s.CacheKept (s.countStale n) := by
  rw [State.countStale]
  split <;> exact ⟨rfl⟩

theorem resetLost (c : Nat) (s : State) : s.CacheKept (s.resetLost c) := by
  rw [State.resetLost_eq]
  have hemptied : s.CacheKept (({ s with fabric := s.fabric.filter fun f => !f.goesTo c } : State).modSpd c Spad.emptied) := ⟨rfl⟩
  generalize ({ s with fabric := s.fabric.filter fun f => !f.goesTo c } : State).modSpd c Spad.emptied = v at hemptied ⊢
  exact hemptied.trans ((landLost _ _ v).trans (countStale ..))

theorem resetCoreOf (c : Nat) (s : State) : s.CacheKept (s.resetCoreOf c) := by
  have hread : s.CacheKept (s.dropReads c) := ⟨rfl⟩
  have hlost := resetLost c (s.dropReads c)
  rw [State.resetCoreOf]
  generalize (s.dropReads c).resetLost c = v at hlost ⊢
  exact hread.trans (hlost.trans ⟨rfl⟩)

theorem logicCheck (c : Nat) (s : State) : s.CacheKept (s.logicCheck c) := by
  rw [State.logicCheck]
  split
  · exact modCore ..
  · exact refl s

theorem failSteps (es : List EStep) (s : State) : s.CacheKept (s.failSteps es) := by
  rw [State.failSteps]
  exact foldl (f := fun (s : State) (e : EStep) => s.failStep e.num 2) (fun _ _ => ⟨rfl⟩) es s

theorem dieReady (d : Nat) (s : State) : s.CacheKept (s.dieReady d) := by
  rw [State.dieReady]
  exact (failSteps _ s).trans ((foldl (f := fun (s : State) (c : Nat) => s.resetCoreOf c) (fun s c => resetCoreOf c s) _ _).trans
    (foldl (f := fun (s : State) (c : Nat) => s.logicCheck c) (fun s c => logicCheck c s) _ _))

theorem finishDie (d cause : Nat) (s : State) : s.CacheKept (s.finishDie d cause) := by
  have hready : s.CacheKept ((s.modDie d (Die.reset cause)).awaitRewrite ((dieCores d).filter fun c => (s.claimOf c).isSome)) := ⟨rfl⟩
  rw [State.finishDie]
  exact hready.trans (record _ _ _ _ _ _)

theorem dieReset (d cause : Nat) (s : State) : s.CacheKept (s.dieReset d cause) := by
  rw [State.dieReset_eq]
  exact (dieReady d s).trans (finishDie d cause _)

end State.CacheKept

end Sys2Proof.Machine
end

section
/-! Soft errors and the health words of an epoch (R239, R359, R408, R414). -/

namespace Sys2Proof.Machine

variable {s t u : State} {c x : Nat}

/-! ### Soft errors -/

/-- What soft errors change. -/
structure State.UpsetsOnly (s t : State) : Prop where
  rest : t = { s with cxl := t.cxl, out := t.out, plm := t.plm, tmk := t.tmk, sec := t.sec }
  mem : t.plm.mem = s.plm.mem

namespace State.UpsetsOnly

theorem trans (h : s.UpsetsOnly t) (k : t.UpsetsOnly u) : s.UpsetsOnly u := by
  have hrest := h.rest
  refine ⟨k.rest.trans ?_, k.mem.trans h.mem⟩
  rw [hrest]

theorem foldl {α : Type} {f : State → α → State} (h : ∀ (s : State) x, s.UpsetsOnly (f s x)) (l : List α) (s : State) : s.UpsetsOnly (l.foldl f s) := by
  induction l generalizing s with
  | nil => exact ⟨rfl, rfl⟩
  | cons x l ih => exact (h s x).trans (ih _)

theorem linkCrc (s : State) : s.UpsetsOnly s.linkCrc := by
  unfold State.linkCrc
  split
  · exact ⟨rfl, rfl⟩
  · unfold State.msi
    split <;> exact ⟨rfl, rfl⟩

theorem mramUpset (s : State) (x : MramUpset) : s.UpsetsOnly (s.mramUpset x) := by
  cases x <;> exact ⟨rfl, rfl⟩

end State.UpsetsOnly

theorem State.plm_linkCrc (s : State) : s.linkCrc.plm = s.plm ∧ s.linkCrc.sec = s.sec ∧ s.linkCrc.tmk = s.tmk := by
  unfold State.linkCrc
  split
  · exact ⟨rfl, rfl, rfl⟩
  · unfold State.msi
    split <;> exact ⟨rfl, rfl, rfl⟩

theorem State.sec_foldl_spoil (xs : List DdrUpset) (s : State) : (xs.foldl State.spoil s).sec = s.sec := by
  induction xs generalizing s with
  | nil => rfl
  | cons x xs ih => exact (ih _).trans rfl

theorem State.plm_foldl_mramUpset (xs : List MramUpset) (s : State) : (xs.foldl State.mramUpset s).plm = s.plm := by
  induction xs generalizing s with
  | nil => rfl
  | cons x xs ih =>
    refine (ih _).trans ?_
    cases x <;> rfl

/-- Soft errors leave memory; device memory's errors and the MRAM's are where they struck, and the hub caches' words are marked. -/
theorem State.upsets_only (e : SoftErrors) (s : State) : s.UpsetsOnly (State.upsets e s) ∧ (e.ddr = [] → (State.upsets e s).plm = s.plm) ∧
    (e.mram = [] → (State.upsets e s).sec = s.sec) ∧ ∀ x ∈ e.cache, x ∈ (State.upsets e s).tmk.cacheBad := by
  have hcrc : s.UpsetsOnly (if e.cxlCrc then s.linkCrc else s) ∧ (if e.cxlCrc then s.linkCrc else s).plm = s.plm ∧
      (if e.cxlCrc then s.linkCrc else s).sec = s.sec := by
    split
    · exact ⟨.linkCrc s, s.plm_linkCrc.1, s.plm_linkCrc.2.1⟩
    · exact ⟨⟨rfl, rfl⟩, rfl, rfl⟩
  unfold State.upsets
  generalize (if e.cxlCrc then s.linkCrc else s) = v at hcrc ⊢
  obtain ⟨honly, hplm, hsec⟩ := hcrc
  have hspoil : v.UpsetsOnly (e.ddr.foldl State.spoil v) := .foldl (f := State.spoil) (fun _ _ => ⟨rfl, rfl⟩) _ _
  have hmram : (e.ddr.foldl State.spoil v).UpsetsOnly (e.mram.foldl State.mramUpset (e.ddr.foldl State.spoil v)) := .foldl .mramUpset _ _
  refine ⟨(honly.trans (hspoil.trans hmram)).trans ⟨rfl, rfl⟩, fun h => ?_, fun h => ?_, fun x hx => ?_⟩
  · rw [h]
    exact (State.plm_foldl_mramUpset _ _).trans hplm
  · rw [h]
    exact (State.sec_foldl_spoil _ _).trans hsec
  · by_cases hbad : x ∈ (e.mram.foldl State.mramUpset (e.ddr.foldl State.spoil v)).tmk.cacheBad
    · exact List.mem_append_left _ hbad
    · exact List.mem_append_right _ (List.mem_filter.mpr ⟨hx, by simp [hbad]⟩)

/-! ### Health words -/

/-- What the health words of the cores change, seen from core `c`, which sends a good one. -/
structure State.HealthOnly (c : Nat) (s t : State) : Prop where
  rest : t = { s with
    cores := t.cores
    dies := t.dies
    tmk := t.tmk
    hub := { s.hub with fenceSeq := t.hub.fenceSeq }
    bw := { s.bw with hbeatSeen := t.bw.hbeatSeen, ce2Last := t.bw.ce2Last, ce2Cur := t.bw.ce2Cur, fallCores := t.bw.fallCores } }
  bad : s.CacheKept t
  core : t.core c = s.core c
  fenced : t.fenced c = s.fenced c
  die : t.die (coreDie c) = { s.die (coreDie c) with evts := (t.die (coreDie c)).evts }

namespace State.HealthOnly

theorem refl (c : Nat) (s : State) : s.HealthOnly c s := ⟨rfl, .refl s, rfl, rfl, rfl⟩

theorem trans (h : s.HealthOnly c t) (k : t.HealthOnly c u) : s.HealthOnly c u := by
  have hrest := h.rest
  have hdie := h.die
  refine ⟨k.rest.trans ?_, h.bad.trans k.bad, k.core.trans h.core, k.fenced.trans h.fenced, k.die.trans ?_⟩
  · rw [hrest]
  · rw [hdie]

theorem pairError (c k : Nat) (s : State) : s.HealthOnly c (s.pairError k) := by
  refine ⟨?_, .pairError k s, ?_, ?_, ?_⟩ <;> unfold State.pairError <;> extract_lets t o v <;> split <;> rfl

theorem modCore_of {f : Core → Core} (h : x = c → f (s.core c) = s.core c) : s.HealthOnly c (s.modCore x f) := by
  refine ⟨rfl, ⟨rfl⟩, ?_, rfl, rfl⟩
  by_cases hx : x = c
  · rw [hx, State.core_modCore, h hx]
  · exact State.core_modCore_ne _ _ (Ne.symm hx)

theorem beach (cause : Nat) (h : x ≠ c) (s : State) : s.HealthOnly c (s.beach (coreDie x) [coreLocal x] cause) := by
  by_cases hf : s.fenced x = true
  · have hnil : s.unfenced (coreDie x) [coreLocal x] = [] := by
      rw [State.unfenced, List.filter_cons, core_of_die_local, hf]
      rfl
    rw [State.beach_nil _ hnil]
    exact refl c s
  · have hfx : s.fenced x = false := by simpa using hf
    obtain ⟨v, fall, hbeach⟩ := State.beach_single cause hfx
    obtain ⟨-, hcore, -, -, htmk, -⟩ := State.beach_single_fields cause hfx
    have hself := State.die_beach_self (coreDie x) [coreLocal x] cause s (by rw [State.unfenced_single hfx]; simp)
    have hdie : (s.beach (coreDie x) [coreLocal x] cause).die (coreDie c) = { s.die (coreDie c) with
        evts := ((s.beach (coreDie x) [coreLocal x] cause).die (coreDie c)).evts } := by
      by_cases hd : coreDie c = coreDie x
      · rw [hd, hself]
      · rw [State.die_beach_ne _ _ _ hd]
    refine ⟨?_, ⟨by rw [htmk]⟩, hcore c h.symm, ?_, hdie⟩
    · rw [hbeach]
      rfl
    · by_cases hd : coreDie c = coreDie x
      · have hlocal : coreLocal c ∉ s.unfenced (coreDie x) [coreLocal x] := by
          rw [State.unfenced_single hfx, List.mem_singleton]
          intro hl
          exact h (by rw [← core_of_die_local x, ← core_of_die_local c, hd, hl])
        have hbit : bit (s.beachEvt (coreDie x) [coreLocal x] cause).mask (coreLocal c) = false := by
          rw [← Bool.not_eq_true]
          exact fun hb => hlocal ((bit_mask ((List.pairwise_singleton ..).filter _) _).mp hb)
        rw [State.fenced, State.role_beach, hd, hself, List.any_append, List.any_cons, hbit, State.fenced, hd]
        simp
      · exact State.fenced_beach_ne _ _ _ hd

end State.HealthOnly

/-- A heartbeat of core `c` and its count of corrected errors are taken. -/
def State.heard (c : Nat) (s : State) : State :=
  let k := s.core c
  let v := k.hbeat.toNat
  let seen := match s.bw.hbeatSeen.lookup c with | some (w, t) => if w = v then (w, t) else (v, s.us) | none => (v, s.us)
  let n := k.spd.ce2 % 65536
  let more := (n + 65536 - Tab.get 0 s.bw.ce2Last c) % 65536
  let b := s.bw
  { s with bw := { b with hbeatSeen := Tab.insert b.hbeatSeen c seen, ce2Last := Tab.set 0 b.ce2Last c n,
                          ce2Cur := Tab.set 0 b.ce2Cur c (Tab.get 0 b.ce2Cur c + more) } }

theorem State.heard_only (c x : Nat) (s : State) : s.HealthOnly c (s.heard x) := ⟨rfl, ⟨rfl⟩, rfl, rfl, rfl⟩

/-- The core's own report of uncorrectable errors. -/
def Core.reported (r : ReqWord) (k : Core) : Core := { k with ue := k.ue || r.ue }

theorem Core.reported_eq {r : ReqWord} {k : Core} (hr : r.ue = false) : k.reported r = k := by
  rw [Core.reported, hr, Bool.or_false]

theorem State.health_eq (r : ReqWord) (x : Nat) (s : State) : s.health r x =
    if !s.sends x then s
    else if !r.healthOk then (s.modCore x (Core.reported r)).pairError 2
    else if ((s.modCore x (Core.reported r)).core x).ue then ((s.modCore x (Core.reported r)).heard x).beach (coreDie x) [coreLocal x] 1
    else (s.modCore x (Core.reported r)).heard x := rfl

/-- The health word of a core leaves core `c`, its own aside where it reports no uncorrectable error. -/
theorem State.HealthOnly.health (r : ReqWord) (h : x = c → r.ue = false ∧ (s.core c).ue = false) : s.HealthOnly c (s.health r x) := by
  have hmod : s.HealthOnly c (s.modCore x (Core.reported r)) :=
    .modCore_of fun hx => Core.reported_eq (h hx).1
  rw [State.health_eq]
  split
  · exact .refl c s
  split
  · exact hmod.trans (.pairError ..)
  split
  next hue =>
    have hx : x ≠ c := fun hx => by
      rw [hx, State.core_modCore, Core.reported_eq (h hx).1, (h hx).2] at hue
      exact Bool.noConfusion hue
    exact (hmod.trans (State.heard_only c x _)).trans (.beach 1 hx _)
  next => exact hmod.trans (State.heard_only c x _)

theorem State.HealthOnly.foldl (f : Nat → ReqWord) (xs : List Nat) (s : State) (h : c ∈ xs → (f c).ue = false ∧ (s.core c).ue = false) :
    s.HealthOnly c (xs.foldl (fun (s : State) x => s.health (f x) x) s) := by
  induction xs generalizing s with
  | nil => exact .refl c s
  | cons x xs ih =>
    have hhead : s.HealthOnly c (s.health (f x) x) := .health (f x) fun hx => hx ▸ h (hx ▸ List.mem_cons_self)
    exact hhead.trans (ih _ fun hmem => hhead.core ▸ h (List.mem_cons_of_mem _ hmem))

end Sys2Proof.Machine
end

section
/-! Requests, allocation and grants of an epoch, unit by unit (R374 to R382). -/

namespace Sys2Proof.Machine

variable {s t u : State} {c x : Nat}

/-! ### Requests -/

/-- Requests change what Breakwater knows of the units, and the pair errors. -/
structure State.TakesOnly (s t : State) : Prop where
  rest : t = { s with tmk := t.tmk, bw := { s.bw with grants := t.bw.grants } }
  bad : s.CacheKept t

namespace State.TakesOnly

theorem refl (s : State) : s.TakesOnly s := ⟨rfl, .refl s⟩

theorem trans (h : s.TakesOnly t) (k : t.TakesOnly u) : s.TakesOnly u := by
  have hrest := h.rest
  refine ⟨k.rest.trans ?_, h.bad.trans k.bad⟩
  rw [hrest]

theorem pairError (k : Nat) (s : State) : s.TakesOnly (s.pairError k) ∧ (s.pairError k).bw = s.bw := by
  refine ⟨⟨?_, .pairError k s⟩, ?_⟩ <;> unfold State.pairError <;> extract_lets t o v <;> split <;> rfl

end State.TakesOnly

/-- What a unit's request word tells of it. -/
def State.taken (reqs : List ReqWord) (x : Nat) (s : State) : Grant :=
  (s.bw.grantOf x).take (reqOf reqs x).pairOk (bits (s.requestWord (reqOf reqs x) x).toNat 9 0) (bits (s.requestWord (reqOf reqs x) x).toNat 22 20)

/-- One unit's request word is taken. -/
def State.takeOne (reqs : List ReqWord) (s : State) (x : Nat) : State :=
  let v := { s with bw := { s.bw with grants := Tab.insert s.bw.grants x (s.taken reqs x) } }
  if (reqOf reqs x).pairOk then v else v.pairError 1

theorem State.takeRequests_eq (reqs : List ReqWord) (s : State) : s.takeRequests reqs = allUnits.foldl (State.takeOne reqs) s := rfl

theorem State.takeOne_only (reqs : List ReqWord) (x : Nat) (s : State) : s.TakesOnly (s.takeOne reqs x) ∧
    (s.takeOne reqs x).bw.grants = Tab.insert s.bw.grants x (s.taken reqs x) := by
  unfold State.takeOne
  extract_lets bw v
  have hv : s.TakesOnly v := ⟨rfl, ⟨rfl⟩⟩
  split
  · exact ⟨hv, rfl⟩
  · obtain ⟨honly, hbw⟩ := State.TakesOnly.pairError 1 v
    exact ⟨hv.trans honly, by rw [hbw]⟩

theorem State.grantOf_takeOne (reqs : List ReqWord) (x : Nat) (s : State) : (s.takeOne reqs x).bw.grantOf x = s.taken reqs x := by
  rw [Bw.grantOf, (s.takeOne_only reqs x).2, Tab.get_insert_self]

theorem State.grantOf_takeOne_ne (reqs : List ReqWord) (h : c ≠ x) (s : State) : (s.takeOne reqs x).bw.grantOf c = s.bw.grantOf c := by
  rw [Bw.grantOf, (s.takeOne_only reqs x).2, Tab.get_insert_ne _ _ _ h, Bw.grantOf]

theorem State.takesOnly_foldl (reqs : List ReqWord) (xs : List Nat) (s : State) : s.TakesOnly (xs.foldl (State.takeOne reqs) s) := by
  induction xs generalizing s with
  | nil => exact .refl s
  | cons x xs ih => exact (s.takeOne_only reqs x).1.trans (ih _)

theorem State.grantOf_foldl_takeOne_ne (reqs : List ReqWord) {xs : List Nat} (h : c ∉ xs) (s : State) : (xs.foldl (State.takeOne reqs) s).bw.grantOf c = s.bw.grantOf c := by
  induction xs generalizing s with
  | nil => rfl
  | cons x xs ih =>
    rw [List.mem_cons, not_or] at h
    exact (ih h.2 _).trans (s.grantOf_takeOne_ne reqs h.1)

/-- A unit's word is taken once, as it stands when its turn comes. -/
theorem State.grantOf_foldl_takeOne (reqs : List ReqWord) {xs : List Nat} (hnodup : xs.Nodup) (hc : c ∈ xs) (s : State) :
    ∃ v, s.TakesOnly v ∧ v.bw.grantOf c = s.bw.grantOf c ∧ (xs.foldl (State.takeOne reqs) s).bw.grantOf c = v.taken reqs c := by
  induction xs generalizing s with
  | nil => exact absurd hc List.not_mem_nil
  | cons x xs ih =>
    rw [List.nodup_cons] at hnodup
    by_cases hx : c = x
    · subst hx
      exact ⟨s, .refl s, rfl, (State.grantOf_foldl_takeOne_ne reqs hnodup.1 _).trans (s.grantOf_takeOne reqs c)⟩
    · obtain ⟨v, honly, hbefore, hgrant⟩ := ih hnodup.2 ((List.mem_cons.mp hc).resolve_left hx) (s.takeOne reqs x)
      exact ⟨v, (s.takeOne_only reqs x).1.trans honly, hbefore.trans (s.grantOf_takeOne_ne reqs hx), hgrant⟩

/-- TIER stands in bits 22 to 20 of the word. -/
theorem State.tier_requestWord (r : ReqWord) (c : Nat) (s : State) (h : s.tierOf c ≤ 5) : bits (s.requestWord r c).toNat 22 20 = s.tierOf c := by
  rw [State.requestWord, BitVec.toNat_ofNat, bits, Nat.shiftRight_eq_div_pow]
  have hreq : min (if c < 144 then s.coreReq r c else s.uncoreReq r c) 1023 ≤ 1023 := Nat.min_le_right _ _
  have hmetered : min (s.bw.grantOf c).metered 1023 ≤ 1023 := Nat.min_le_right _ _
  generalize min (if c < 144 then s.coreReq r c else s.uncoreReq r c) 1023 = a at hreq
  generalize min (s.bw.grantOf c).metered 1023 = b at hmetered
  generalize s.tierOf c = tier at h
  generalize s.wakesOf r c = w
  generalize (s.bw.epoch + 1) % 16 = e
  omega

theorem nodup_allUnits : allUnits.Nodup := List.nodup_range

theorem mem_allUnits (h : c < 144) : c ∈ allUnits := List.mem_range.mpr (h.trans_le (Nat.le_add_right ..))

/-- A core whose word is sound is known by it: its tier, and no missing request. -/
theorem State.grantOf_takeRequests (reqs : List ReqWord) (hc : c < 144) (s : State) (hok : (reqOf reqs c).pairOk = true) (htier : (s.coreTier c).getD 0 ≤ 5) :
    ∃ req, (s.takeRequests reqs).bw.grantOf c = { s.bw.grantOf c with lastReq := req, lastTier := (s.coreTier c).getD 0, reqMiss := 0 } := by
  obtain ⟨v, honly, hbefore, hgrant⟩ := State.grantOf_foldl_takeOne reqs nodup_allUnits (mem_allUnits hc) s
  have hrest := honly.rest
  have htierOf : v.tierOf c = (s.coreTier c).getD 0 := by
    rw [State.tierOf, if_pos hc, hrest]
    rfl
  rw [State.takeRequests_eq, hgrant, State.taken, hbefore, Grant.take, if_pos hok, v.tier_requestWord _ _ (htierOf ▸ htier), htierOf]
  exact ⟨_, rfl⟩

/-! ### Who is served -/

theorem raiseShares_asks (need : Nat) (room : Share → Nat) (shares : List Share) : (raiseShares need room shares).map Share.ask = shares.map Share.ask := by
  unfold raiseShares
  extract_lets add
  rw [List.map_map]
  refine List.map_congr_left fun x _ => ?_
  dsimp only [Function.comp]
  split
  · rfl
  · split <;> rfl

/-- A tier serves those that asked in it. -/
theorem serveTier_asks (b : Bw) (limit : Nat) (asks : List Ask) (a : Alloc) (tier : Nat) :
    (b.serveTier limit asks a tier).shares.map Share.ask = a.shares.map Share.ask ++ asks.filter fun x => x.tier = tier := by
  have hmap : ∀ (mine : List Ask) (f : Ask → Share), (∀ x, (f x).ask = x) → (mine.map f).map Share.ask = mine := fun mine f h => by
    rw [List.map_map]
    exact (List.map_congr_left fun x _ => h x).trans (List.map_id _)
  unfold Bw.serveTier
  extract_lets mine fits capU capC cap gs reason total share
  split
  · rw [List.map_append, hmap]
    exact fun _ => rfl
  · rw [List.map_append, hmap]
    intro x
    dsimp only [share]
    split <;> rfl

/-- The tiers serve every unit that asked in one of them. -/
theorem serveTiers_asks (b : Bw) (limit : Nat) (asks : List Ask) (tiers : List Nat) (a : Alloc) :
    (tiers.foldl (b.serveTier limit asks) a).shares.map Share.ask = a.shares.map Share.ask ++ tiers.flatMap fun t => asks.filter fun x => x.tier = t := by
  induction tiers generalizing a with
  | nil => exact (List.append_nil _).symm
  | cons t tiers ih => rw [List.foldl_cons, ih, serveTier_asks, List.flatMap_cons, List.append_assoc]

theorem allocate_asks (b : Bw) (asks : List Ask) (el : Nat → Bool) : (b.allocate asks el).map Share.ask =
    (List.range 6).flatMap fun t => (asks.insertionSort fun x y => x.unit ≤ y.unit).filter fun x => x.tier = t := by
  have hserved := serveTiers_asks b b.budget.1 (asks.insertionSort fun x y => x.unit ≤ y.unit) (List.range 6) { avail := b.budget.2 }
  unfold Bw.allocate
  dsimp only
  split
  · exact hserved
  · rw [raiseShares_asks, raiseShares_asks]
    exact hserved

/-- Each unit has one share at most. -/
theorem allocate_nodup (b : Bw) {asks : List Ask} (el : Nat → Bool) (hnodup : (asks.map (·.unit)).Nodup) :
    ((b.allocate asks el).map fun x => x.ask.unit).Nodup := by
  have hperm := List.perm_insertionSort (fun x y : Ask => x.unit ≤ y.unit) asks
  have hunits := (hperm.map (·.unit)).nodup_iff.mpr hnodup
  have hcomp : (b.allocate asks el).map (fun x => x.ask.unit) = ((b.allocate asks el).map Share.ask).map (·.unit) := by
    rw [List.map_map]
    rfl
  rw [hcomp, allocate_asks]
  generalize (asks.insertionSort fun x y => x.unit ≤ y.unit) = sorted at hunits
  refine List.Nodup.map_on (fun x hx y hy hxy => ?_) (List.nodup_flatMap.mpr ⟨fun t _ => (List.Nodup.of_map _ hunits).filter _, ?_⟩)
  · obtain ⟨i, -, hx⟩ := List.mem_flatMap.mp hx
    obtain ⟨j, -, hy⟩ := List.mem_flatMap.mp hy
    exact List.inj_on_of_nodup_map hunits (List.mem_filter.mp hx).1 (List.mem_filter.mp hy).1 hxy
  · refine List.nodup_range.imp fun {i j} hij x hi hj => hij ?_
    rw [List.mem_filter, decide_eq_true_eq] at hi hj
    exact hi.2.symm.trans hj.2

theorem Bw.exists_share (b : Bw) {asks : List Ask} (el : Nat → Bool) {a : Ask} (ha : a ∈ asks) (ht : a.tier < 6) : ∃ x ∈ b.allocate asks el, x.ask = a := by
  have hmem : a ∈ (b.allocate asks el).map Share.ask := by
    rw [allocate_asks, List.mem_flatMap]
    refine ⟨a.tier, List.mem_range.mpr ht, List.mem_filter.mpr ⟨?_, decide_eq_true rfl⟩⟩
    exact (List.perm_insertionSort (fun x y : Ask => x.unit ≤ y.unit) asks).mem_iff.mpr ha
  exact List.mem_map.mp hmem

theorem State.asks_units (s : State) (reqs : List ReqWord) : (s.asks reqs).map (·.unit) = allUnits := by
  rw [State.asks, List.map_map]
  exact List.map_id _

/-- A core of a tier that is served has a share. -/
theorem State.share_mem (b : Bw) (reqs : List ReqWord) (el : Nat → Bool) (hc : c < 144) (s : State) (htier : (s.bw.grantOf c).lastTier ≤ 5) :
    ∃ x ∈ b.allocate (s.asks reqs) el, x.ask.unit = c := by
  obtain ⟨x, hx, hask⟩ := Bw.exists_share b el (List.mem_map.mpr ⟨c, mem_allUnits hc, rfl⟩ : _ ∈ s.asks reqs) (Nat.lt_succ_of_le htier)
  exact ⟨x, hx, by rw [hask]⟩

/-! ### Grants -/

/-- What the grants change. -/
structure State.DeliversOnly (s t : State) : Prop where
  rest : t = { s with cores := t.cores, tmk := t.tmk, bw := { s.bw with grants := t.bw.grants, wakeGranted := t.bw.wakeGranted } }
  bad : s.CacheKept t

namespace State.DeliversOnly

theorem refl (s : State) : s.DeliversOnly s := ⟨rfl, .refl s⟩

theorem trans (h : s.DeliversOnly t) (k : t.DeliversOnly u) : s.DeliversOnly u := by
  have hrest := h.rest
  refine ⟨k.rest.trans ?_, h.bad.trans k.bad⟩
  rw [hrest]

theorem of_takes (h : s.TakesOnly t) : s.DeliversOnly t := by
  have hrest := h.rest
  refine ⟨hrest.trans ?_, h.bad⟩
  rw [hrest]

end State.DeliversOnly

/-- The grant that a unit has of a share, `g` being what it had. -/
def Bw.grantOver (b : Bw) (reqs : List ReqWord) (x : Share) (g : Grant) : Grant :=
  let r := reqOf reqs x.ask.unit
  let floor := if 144 ≤ x.ask.unit || b.warnNeap || b.pfail then 0 else x.grant
  let epoch := b.epoch % 16
  let g' := ({ g with grant := x.grant, floor := floor, answer := x.answer, reason := x.reason, state := pkgCode b.state, epoch := epoch,
                      metered := r.used } : Grant).receive r.grantOk (r.grantEpoch.getD epoch) epoch
  if 144 ≤ x.ask.unit then g'.ramped x.ask.rated else g'

/-- The grant of a share. -/
def State.granted (reqs : List ReqWord) (x : Share) (s : State) : Grant := s.bw.grantOver reqs x (s.bw.grantOf x.ask.unit)

/-- The grant word reaches its unit. -/
def State.sendGrant (reqs : List ReqWord) (x : Share) (s : State) : State :=
  let r := reqOf reqs x.ask.unit
  let ok := r.grantOk && r.grantEpoch.getD (s.bw.epoch % 16) = s.bw.epoch % 16
  let v := { s with bw := { s.bw with grants := Tab.insert s.bw.grants x.ask.unit (s.granted reqs x),
                                      wakeGranted := if ok && x.answer = 0 then Tab.set 0 s.bw.wakeGranted x.ask.unit x.ask.wakes else s.bw.wakeGranted } }
  if ok then v else v.pairError 1

/-- The core's account over the epoch that ends. -/
def State.credited (reqs : List ReqWord) (x : Share) (s : State) (k : Core) : Core :=
  let g := s.bw.grantOf x.ask.unit
  { k.credit (max (reqOf reqs x.ask.unit).used g.floorNow) g.inForce (s.granted reqs x).inForce (s.granted reqs x).slackSeen with
    ballast := decide (x.ask.req < (s.granted reqs x).floorNow) }

theorem State.deliver_eq (reqs : List ReqWord) (x : Share) (s : State) : s.deliver_ reqs x =
    if x.ask.unit < 144 && (s.sendGrant reqs x).sends x.ask.unit then (s.sendGrant reqs x).modCore x.ask.unit (s.credited reqs x) else s.sendGrant reqs x := rfl

theorem State.sendGrant_only (reqs : List ReqWord) (x : Share) (s : State) : s.DeliversOnly (s.sendGrant reqs x) ∧ (s.sendGrant reqs x).cores = s.cores ∧
    (s.sendGrant reqs x).bw.grants = Tab.insert s.bw.grants x.ask.unit (s.granted reqs x) := by
  unfold State.sendGrant
  extract_lets r ok bw v
  have hv : s.DeliversOnly v := ⟨rfl, ⟨rfl⟩⟩
  split
  · exact ⟨hv, rfl, rfl⟩
  · obtain ⟨honly, hbw⟩ := State.TakesOnly.pairError 1 v
    exact ⟨hv.trans (.of_takes honly), by rw [honly.rest], by rw [hbw]⟩

theorem State.deliver_only (reqs : List ReqWord) (x : Share) (s : State) : s.DeliversOnly (s.deliver_ reqs x) ∧
    (s.deliver_ reqs x).bw.grants = Tab.insert s.bw.grants x.ask.unit (s.granted reqs x) := by
  obtain ⟨honly, -, hgrants⟩ := s.sendGrant_only reqs x
  rw [State.deliver_eq]
  split
  · exact ⟨honly.trans ⟨rfl, ⟨rfl⟩⟩, hgrants⟩
  · exact ⟨honly, hgrants⟩

theorem State.deliver_ne (reqs : List ReqWord) {x : Share} (h : c ≠ x.ask.unit) (s : State) : (s.deliver_ reqs x).core c = s.core c ∧
    (s.deliver_ reqs x).bw.grantOf c = s.bw.grantOf c := by
  refine ⟨?_, ?_⟩
  · have hcores : (s.sendGrant reqs x).core c = s.core c := by rw [State.core, (s.sendGrant_only reqs x).2.1, State.core]
    rw [State.deliver_eq]
    split
    · rw [State.core_modCore_ne _ _ h, hcores]
    · exact hcores
  · rw [Bw.grantOf, (s.deliver_only reqs x).2, Tab.get_insert_ne _ _ _ h, Bw.grantOf]

theorem State.sends_of_delivers (h : s.DeliversOnly t) (hcore : t.core c = s.core c) : t.sends c = s.sends c := by
  have hrest := h.rest
  unfold State.sends
  rw [hcore]
  rw [hrest]
  rfl

/-- The core whose share it is takes its grant and settles its account. -/
theorem State.deliver_self (reqs : List ReqWord) {x : Share} (h : x.ask.unit < 144) (s : State) (hs : s.sends x.ask.unit = true) :
    (s.deliver_ reqs x).core x.ask.unit = s.credited reqs x (s.core x.ask.unit) ∧ (s.deliver_ reqs x).bw.grantOf x.ask.unit = s.granted reqs x := by
  obtain ⟨honly, hcores, -⟩ := s.sendGrant_only reqs x
  have hcore : (s.sendGrant reqs x).core x.ask.unit = s.core x.ask.unit := by rw [State.core, hcores, State.core]
  refine ⟨?_, ?_⟩
  · rw [State.deliver_eq, State.sends_of_delivers honly hcore, hs, decide_eq_true h, Bool.and_self, if_pos rfl, State.core_modCore, hcore]
  · rw [Bw.grantOf, (s.deliver_only reqs x).2, Tab.get_insert_self]

theorem State.deliversOnly_foldl (reqs : List ReqWord) (xs : List Share) (s : State) :
    s.DeliversOnly (xs.foldl (fun (s : State) x => s.deliver_ reqs x) s) := by
  induction xs generalizing s with
  | nil => exact .refl s
  | cons x xs ih => exact (s.deliver_only reqs x).1.trans (ih _)

theorem State.foldl_deliver_ne (reqs : List ReqWord) {xs : List Share} (h : c ∉ xs.map fun x => x.ask.unit) (s : State) :
    (xs.foldl (fun (s : State) x => s.deliver_ reqs x) s).core c = s.core c ∧
      (xs.foldl (fun (s : State) x => s.deliver_ reqs x) s).bw.grantOf c = s.bw.grantOf c := by
  induction xs generalizing s with
  | nil => exact ⟨rfl, rfl⟩
  | cons x xs ih =>
    rw [List.map_cons, List.mem_cons, not_or] at h
    obtain ⟨hcore, hgrant⟩ := ih h.2 (s.deliver_ reqs x)
    obtain ⟨hcore', hgrant'⟩ := s.deliver_ne reqs h.1
    exact ⟨hcore.trans hcore', hgrant.trans hgrant'⟩

theorem State.granted_of_grantOf {reqs : List ReqWord} {x : Share} (h : s.DeliversOnly t) (hg : t.bw.grantOf x.ask.unit = s.bw.grantOf x.ask.unit) :
    t.granted reqs x = s.granted reqs x := by
  have hbw : t.bw = { s.bw with grants := t.bw.grants, wakeGranted := t.bw.wakeGranted } := by rw [h.rest]
  rw [State.granted, hg, hbw]
  rfl

/-- Of the shares, one is the core's: it takes that grant and settles its account by it. -/
theorem State.foldl_deliver_self (reqs : List ReqWord) (hc : c < 144) {xs : List Share} (hnodup : (xs.map fun x => x.ask.unit).Nodup) (s : State)
    (hs : s.sends c = true) (hmem : ∃ x ∈ xs, x.ask.unit = c) : ∃ x : Share, x.ask.unit = c ∧
    (xs.foldl (fun (s : State) x => s.deliver_ reqs x) s).core c = s.credited reqs x (s.core c) ∧
      (xs.foldl (fun (s : State) x => s.deliver_ reqs x) s).bw.grantOf c = s.granted reqs x := by
  induction xs generalizing s with
  | nil => exact absurd hmem (by simp)
  | cons x xs ih =>
    rw [List.map_cons, List.nodup_cons] at hnodup
    by_cases hx : c = x.ask.unit
    · subst hx
      obtain ⟨hcore, hgrant⟩ := State.foldl_deliver_ne reqs hnodup.1 (s.deliver_ reqs x)
      obtain ⟨hself, hself'⟩ := s.deliver_self reqs hc hs
      exact ⟨x, rfl, hcore.trans hself, hgrant.trans hself'⟩
    · obtain ⟨hcore, hgrant⟩ := s.deliver_ne reqs hx
      have honly := (s.deliver_only reqs x).1
      have hothers : ∃ y ∈ xs, y.ask.unit = c := by
        obtain ⟨y, hy, hyc⟩ := hmem
        exact ⟨y, (List.mem_cons.mp hy).resolve_left fun h => hx (by rw [← hyc, h]), hyc⟩
      obtain ⟨y, hy, hcore', hgrant'⟩ := ih hnodup.2 (s.deliver_ reqs x) (by rw [State.sends_of_delivers honly hcore, hs]) hothers
      have hgranted : (s.deliver_ reqs x).granted reqs y = s.granted reqs y := State.granted_of_grantOf honly (by rw [hy, hgrant])
      refine ⟨y, hy, ?_, hgrant'.trans hgranted⟩
      rw [List.foldl_cons, hcore', hcore]
      unfold State.credited
      rw [hgranted, hy, hgrant]

end Sys2Proof.Machine
end

section
/-! The end of an epoch: leases age and the resets that are due come (R229, R399). -/

namespace Sys2Proof.Machine

variable {s t u : State} {c x : Nat}

/-! ### A die's reset, seen from a core of another die -/

theorem State.kept_resetCoreOf (h : x ≠ c) (s : State) : (s.core x).SpdKept ((s.resetCoreOf c).core x) := by
  have hkept := (s.dropsOnly_lost c).core x
  rw [State.resetCoreOf, State.core_modCore_ne _ _ h, State.core_clearCe2]
  exact hkept

theorem State.kept_foldl_resetCoreOf {cs : List Nat} (h : x ∉ cs) (s : State) : (s.core x).SpdKept ((cs.foldl (fun (s : State) c => s.resetCoreOf c) s).core x) := by
  induction cs generalizing s with
  | nil => exact rfl
  | cons c cs ih =>
    rw [List.mem_cons, not_or] at h
    exact (State.kept_resetCoreOf h.1 s).trans (ih h.2 _)

/-- A core keeps all but what lands in its scratchpad when another die is reset. -/
theorem State.kept_dieReset {d : Nat} (cause : Nat) (h : coreDie x ≠ d) (s : State) : (s.core x).SpdKept ((s.dieReset d cause).core x) := by
  have hmem : x ∉ dieCores d := fun hm => h (mem_dieCores.mp hm)
  have hkept := State.kept_foldl_resetCoreOf hmem (s.failSteps (s.stepsOn d))
  rw [(s.core_failSteps _ x).1] at hkept
  rw [State.core_dieReset_eq, State.dieReady, State.core_foldl_logicCheck_ne _ hmem]
  exact hkept

theorem State.due_dieReset_ne {d e : Nat} (h : e ≠ d) (cause : Nat) (s : State) : ((s.dieReset d cause).die e).resetDue = (s.die e).resetDue := by
  have hposts : ∀ (es : List EStep) (x : Die), (es.foldl (fun (x : Die) y => x.dropPostings y.num) x).resetDue = x.resetDue := fun es => by
    induction es with
    | nil => exact fun _ => rfl
    | cons y es ih => exact fun x => ih _
  rw [State.die_dieReset_ne h, State.die_failSteps, hposts]

/-! ### The end of an epoch, seen from a core whose die is not about to be reset -/

/-- What the end of an epoch changes. -/
structure State.EndsOnly (c : Nat) (s t : State) : Prop where
  rest : s.ResetsOnly t
  bw : t.bw = { s.bw with statStale := t.bw.statStale, ce2Prev := t.bw.ce2Prev, ce2Cur := t.bw.ce2Cur, ce2Last := t.bw.ce2Last }
  bad : s.CacheKept t
  core : (s.core c).SpdKept (t.core c)
  due : (t.die (coreDie c)).resetDue = (s.die (coreDie c)).resetDue

/-- The leases of one die age. -/
def State.ageDie (s : State) (d : Nat) : State := s.modDie d fun x => { x with leases := x.leases.map fun l =>
  (l.1, if l.2.pairOk && l.2.st = 1 && !(s.core (leaseCore d l.1)).gstall && !(s.bw.grantOf (leaseCore d l.1)).slackSeen then
      Lease.make l.2.tile l.2.gen (leaseCtl 1 l.2.ctr (min (l.2.age + 1) 0xFFFFFF)) else l.2) }

theorem State.ageLeases_eq (s : State) : s.ageLeases = (List.range 4).foldl State.ageDie s := rfl

namespace State.EndsOnly

theorem refl (c : Nat) (s : State) : s.EndsOnly c s := ⟨⟨rfl⟩, rfl, .refl s, rfl, rfl⟩

theorem trans (h : s.EndsOnly c t) (k : t.EndsOnly c u) : s.EndsOnly c u where
  rest := h.rest.trans k.rest
  bw := k.bw.trans (by rw [h.bw])
  bad := h.bad.trans k.bad
  core := h.core.trans k.core
  due := k.due.trans h.due

theorem modDie (d : Nat) {f : Die → Die} (hf : ∀ y, (f y).resetDue = y.resetDue) (s : State) : s.EndsOnly c (s.modDie d f) := by
  refine ⟨⟨rfl⟩, rfl, ⟨rfl⟩, rfl, ?_⟩
  by_cases hd : coreDie c = d
  · rw [hd, State.die_modDie, hf]
  · rw [State.die_modDie_ne _ _ hd]

theorem dieReset {d : Nat} (cause : Nat) (h : coreDie c ≠ d) (s : State) : s.EndsOnly c (s.dieReset d cause) := by
  obtain ⟨n, p, q, r, hbw⟩ := s.bw_dieReset d cause
  exact ⟨s.resetsOnly_dieReset d cause, by rw [hbw], .dieReset d cause s, s.kept_dieReset cause h, s.due_dieReset_ne h cause⟩

theorem ageLeases (c : Nat) (s : State) : s.EndsOnly c s.ageLeases := by
  rw [State.ageLeases_eq]
  generalize List.range 4 = ds
  induction ds generalizing s with
  | nil => exact refl c s
  | cons d ds ih =>
    have hhead : s.EndsOnly c (s.ageDie d) := by
      rw [State.ageDie]
      refine modDie d (fun y => ?_) s
      rfl
    exact hhead.trans (ih _)

theorem dueResets (h : coreDie c ∈ List.range 4 → (s.die (coreDie c)).resetDue = 0) : s.EndsOnly c s.dueResets := by
  rw [State.dueResets]
  generalize List.range 4 = ds at h
  induction ds generalizing s with
  | nil => exact refl c s
  | cons d ds ih =>
    have hhead : s.EndsOnly c (if (s.die d).resetDue ≠ 0 ∧ s.dieGrants d = 0 then s.dieReset d (s.die d).resetDue else s) := by
      split
      next hdue =>
        refine dieReset _ (fun hd => hdue.1 ?_) s
        rw [← hd]
        exact h (hd ▸ List.mem_cons_self)
      next => exact refl c s
    exact hhead.trans (ih fun hmem => hhead.due.trans (h (List.mem_cons_of_mem _ hmem)))

end State.EndsOnly

end Sys2Proof.Machine
end

section
/-! An epoch passes (R374 to R384). -/

namespace Sys2Proof.Machine

variable {s t u : State} {c x : Nat} {reqs : List ReqWord}

/-! ### The epoch's parts in order -/

/-- The coming epoch has begun, with no wake in it yet. -/
def State.begun (s : State) : State := { s with bw := { s.bw with epoch := s.bw.epoch + 1, wakes := [], wakeGranted := [] } }

/-- The health words of the cores. -/
def State.healths (reqs : List ReqWord) (s : State) : State := (List.range 144).foldl (fun (s : State) c => s.health (reqOf reqs c) c) s

/-- The epoch's totals in Breakwater's registers. -/
def State.totalled (b : Bw) (shares : List Share) (s : State) : State :=
  let core := sumShares true shares
  { s with bw := { s.bw with
    coreGrant := core, uncoreGrant := sumShares false shares, coreDraw := core, uncoreDraw := sumShares false shares, fallDebt := b.fallCores,
    fallCores := 0, limit := b.budget.1, fallFree := false,
    tiers := (List.range 6).foldl (fun (t : Tab Tier) k => Tab.insert t k (tierRegs shares k)) [],
    slewMiss := b.slewMiss || (!b.fallAside && decide (core < b.coreFloor)),
    ballast := b.ballast + ballastOf shares } }

/-- The shares of an epoch whose requests are taken. -/
def State.shares (reqs : List ReqWord) (s : State) : List Share := s.bw.allocate (s.asks reqs) s.takesBallast

/-- The grants of an epoch reach their units. -/
def State.delivered (reqs : List ReqWord) (s : State) : State := (s.shares reqs).foldl (fun (s : State) x => s.deliver_ reqs x) s

/-- The epoch's grants, its registers and what it ends, once the requests are taken. -/
def State.settled (reqs : List ReqWord) (s : State) : State := ((s.delivered reqs).totalled s.bw (s.shares reqs)).ageLeases.dueResets

theorem State.budget_eq (reqs : List ReqWord) (s : State) : s.budget reqs = ((s.begun.healths reqs).takeRequests reqs).settled reqs := by
  unfold State.budget
  extract_lets bw v w x bx shares y core bwy z
  have hw : s.begun.healths reqs = w := rfl
  have hx : w.takeRequests reqs = x := rfl
  rw [hw, hx]
  clear_value x
  have hshares : x.shares reqs = shares := rfl
  have hy : x.delivered reqs = y := rfl
  rw [State.settled, hshares, hy]
  clear_value y shares
  have hz : y.totalled x.bw shares = z := rfl
  rw [hz]

theorem State.totalled_fields (b : Bw) (shares : List Share) (s : State) : (s.totalled b shares).bw.grants = s.bw.grants ∧
    (s.totalled b shares).bw.epoch = s.bw.epoch ∧ (s.totalled b shares).bw.limit = b.budget.1 ∧ (s.totalled b shares).bw.fallFree = false :=
  ⟨rfl, rfl, rfl, rfl⟩

/-- What an epoch leaves of the state, and its registers. -/
theorem State.budget_fields (reqs : List ReqWord) (s : State) : (s.budget reqs).us = s.us ∧ (s.budget reqs).plm = s.plm ∧ (s.budget reqs).sec = s.sec ∧
    (s.budget reqs).tmk.cacheBad = s.tmk.cacheBad ∧ (s.budget reqs).bw.epoch = s.bw.epoch + 1 ∧ (s.budget reqs).bw.limit = s.bw.budget.1 ∧
    (s.budget reqs).bw.fallFree = false := by
  have hhealth : s.begun.HealthOnly 144 (s.begun.healths reqs) := .foldl (reqOf reqs) _ _ fun h => absurd h (by decide)
  have htake := State.takesOnly_foldl reqs allUnits (s.begun.healths reqs)
  rw [← State.takeRequests_eq] at htake
  have hdeliver : ((s.begun.healths reqs).takeRequests reqs).DeliversOnly (((s.begun.healths reqs).takeRequests reqs).delivered reqs) :=
    State.deliversOnly_foldl ..
  rw [State.budget_eq, State.settled]
  generalize s.begun.healths reqs = v at hhealth htake hdeliver ⊢
  generalize v.takeRequests reqs = w at htake hdeliver ⊢
  generalize w.delivered reqs = x at hdeliver ⊢
  generalize w.shares reqs = shares
  have hend : (x.totalled w.bw shares).EndsOnly 144 (x.totalled w.bw shares).ageLeases.dueResets :=
    (State.EndsOnly.ageLeases 144 _).trans (.dueResets fun h => absurd h (by decide))
  have hx : (x.totalled w.bw shares).us = s.us ∧ (x.totalled w.bw shares).plm = s.plm ∧ (x.totalled w.bw shares).sec = s.sec ∧
      (x.totalled w.bw shares).tmk.cacheBad = s.tmk.cacheBad ∧ x.bw.epoch = s.bw.epoch + 1 ∧ w.bw.budget.1 = s.bw.budget.1 := by
    have hbad : x.tmk.cacheBad = s.tmk.cacheBad := hdeliver.bad.bad.trans (htake.bad.bad.trans hhealth.bad.bad)
    refine ⟨?_, ?_, ?_, hbad, ?_, ?_⟩
    · show x.us = s.us
      rw [hdeliver.rest, htake.rest, hhealth.rest]
      rfl
    · show x.plm = s.plm
      rw [hdeliver.rest, htake.rest, hhealth.rest]
      rfl
    · show x.sec = s.sec
      rw [hdeliver.rest, htake.rest, hhealth.rest]
      rfl
    · rw [hdeliver.rest, htake.rest, hhealth.rest]
      rfl
    · rw [htake.rest, hhealth.rest]
      rfl
  obtain ⟨hus, hplm, hsec, hbad, hepoch, hlimit⟩ := hx
  obtain ⟨-, hepoch', hlimit', hfree⟩ := State.totalled_fields w.bw shares x
  generalize x.totalled w.bw shares = y at hend hus hplm hsec hbad hepoch' hlimit' hfree ⊢
  have hrest := hend.rest.rest
  have hbw := hend.bw
  have hcache := hend.bad.bad
  generalize y.ageLeases.dueResets = z at hrest hbw hcache ⊢
  refine ⟨?_, ?_, ?_, hcache.trans hbad, ?_, ?_, ?_⟩
  · rw [hrest]
    exact hus
  · rw [hrest]
    exact hplm
  · rw [hrest]
    exact hsec
  · rw [hbw]
    exact hepoch'.trans hepoch
  · rw [hbw]
    exact hlimit'.trans hlimit
  · rw [hbw]
    exact hfree

/-! ### A core whose words are sound -/

/-- The core holds no request for a tier beyond 5, sends what it has to, and no reset of its die is due. -/
structure State.Sound (reqs : List ReqWord) (c : Nat) (s : State) : Prop where
  core : c < 144
  sends : s.sends c = true
  pairOk : (reqOf reqs c).pairOk = true
  grantOk : (reqOf reqs c).grantOk = true
  wordUe : (reqOf reqs c).ue = false
  ue : (s.core c).ue = false
  tier : (s.coreTier c).getD 0 ≤ 5
  named : (reqOf reqs c).grantEpoch = none ∨ (reqOf reqs c).grantEpoch = some ((s.bw.epoch + 1) % 16)
  due : (s.die (coreDie c)).resetDue = 0

/-- A sound word that names the coming epoch brings its grant into force. -/
theorem Bw.grantOver_sound (b : Bw) {x : Share} {g : Grant} (hc : x.ask.unit < 144) (hok : (reqOf reqs x.ask.unit).grantOk = true)
    (hnamed : (reqOf reqs x.ask.unit).grantEpoch = none ∨ (reqOf reqs x.ask.unit).grantEpoch = some (b.epoch % 16)) :
    (b.grantOver reqs x g).grantMiss = 0 ∧ (b.grantOver reqs x g).inForce = (b.grantOver reqs x g).grant ∧ (b.grantOver reqs x g).reqMiss = g.reqMiss ∧
      (b.grantOver reqs x g).slackSeen = decide (b.state = .slackWater) := by
  have hepoch : (reqOf reqs x.ask.unit).grantEpoch.getD (b.epoch % 16) = b.epoch % 16 := by
    rcases hnamed with h | h <;> rw [h] <;> rfl
  have hstate : decide (pkgCode b.state = 2) = decide (b.state = .slackWater) := by cases b.state <;> rfl
  have hcond : (true && decide (b.epoch % 16 = b.epoch % 16)) = true := by rw [Bool.true_and, decide_eq_true rfl]
  unfold Bw.grantOver
  dsimp only
  rw [if_neg (Nat.not_le.mpr hc), hok, hepoch, Grant.receive, if_pos hcond]
  exact ⟨rfl, rfl, rfl, hstate⟩

/-- The health words and the requests leave a sound core as it was, and Breakwater has its request. -/
theorem State.Sound.taken (h : s.Sound reqs c) : ∃ w, w = (s.begun.healths reqs).takeRequests reqs ∧ w.core c = s.core c ∧ w.sends c = true ∧
    (w.die (coreDie c)).resetDue = 0 ∧ w.bw.epoch = s.bw.epoch + 1 ∧ w.bw.state = s.bw.state ∧
    ∃ req tier, tier ≤ 5 ∧ w.bw.grantOf c = { s.bw.grantOf c with lastReq := req, lastTier := tier, reqMiss := 0 } := by
  have hhealth : s.begun.HealthOnly c (s.begun.healths reqs) := .foldl (reqOf reqs) _ _ fun _ => ⟨h.wordUe, h.ue⟩
  generalize s.begun.healths reqs = v at hhealth ⊢
  have hrest := hhealth.rest
  have htier : (v.coreTier c).getD 0 = (s.coreTier c).getD 0 := by
    have hdie := hhealth.die
    have hcore := hhealth.core
    unfold State.coreTier
    rw [hdie, hcore]
    rw [hrest]
    rfl
  have hsends : v.sends c = true := by
    have hrole : v.role c = s.role c := by
      rw [hrest]
      rfl
    have hall := h.sends
    unfold State.sends at hall ⊢
    rw [hhealth.fenced, hhealth.core, hrole]
    exact hall
  obtain ⟨req, hgrant⟩ := State.grantOf_takeRequests reqs h.core v h.pairOk (htier ▸ h.tier)
  have htake := State.takesOnly_foldl reqs allUnits v
  rw [← State.takeRequests_eq] at htake
  have htakeRest := htake.rest
  have hcore : (v.takeRequests reqs).core c = v.core c := by rw [htakeRest]; rfl
  have hsends' := State.sends_of_delivers (.of_takes htake) hcore
  generalize v.takeRequests reqs = w at *
  refine ⟨w, rfl, hcore.trans hhealth.core, hsends'.trans hsends, ?_, ?_, ?_, req, (v.coreTier c).getD 0, htier ▸ h.tier, ?_⟩
  · have hdie : w.die (coreDie c) = v.die (coreDie c) := by
      rw [htakeRest]
      rfl
    rw [hdie, hhealth.die]
    exact h.due
  · rw [htakeRest, hrest]
    rfl
  · rw [htakeRest, hrest]
    rfl
  · rw [hgrant, hrest]
    rfl

/-- A sound core's grant is in force at once, and its account is settled by it. -/
theorem State.Sound.budget (h : s.Sound reqs c) : ((s.budget reqs).bw.grantOf c).grantMiss = 0 ∧ ((s.budget reqs).bw.grantOf c).reqMiss = 0 ∧
    ((s.budget reqs).bw.grantOf c).inForce = ((s.budget reqs).bw.grantOf c).grant ∧
    ((s.budget reqs).core c).account = min ((s.core c).account - (max (reqOf reqs c).used (s.bw.grantOf c).floorNow : Nat))
      ((s.bw.grantOf c).inForce : Int) + (((s.budget reqs).bw.grantOf c).grant : Int) ∧
    ((s.budget reqs).core c).gstall = (decide (s.bw.state = .slackWater) || decide (((s.budget reqs).core c).account ≤ 0)) := by
  obtain ⟨w, hw, hcore, hsends, hdue, hepoch, hstate, req, tier, htier, hgrant⟩ := h.taken
  rw [State.budget_eq, ← hw]
  have hlast : (w.bw.grantOf c).lastTier ≤ 5 := by rw [hgrant]; exact htier
  have hnodup : ((w.shares reqs).map fun x => x.ask.unit).Nodup := allocate_nodup w.bw w.takesBallast (by rw [State.asks_units]; exact nodup_allUnits)
  obtain ⟨x, hx, hcore', hgrant'⟩ := State.foldl_deliver_self reqs h.core hnodup w hsends (State.share_mem w.bw reqs w.takesBallast h.core w hlast)
  rw [← State.delivered] at hcore' hgrant'
  have hsame : ((w.delivered reqs).die (coreDie c)).resetDue = 0 := by
    have hrest := (State.deliversOnly_foldl reqs (w.shares reqs) w).rest
    rw [← State.delivered] at hrest
    rw [hrest]
    exact hdue
  have hover := Bw.grantOver_sound (reqs := reqs) w.bw (x := x) (g := w.bw.grantOf x.ask.unit) (hx ▸ h.core) (hx ▸ h.grantOk)
    (by rw [hx, hepoch]; exact h.named)
  rw [← State.granted] at hover
  obtain ⟨hmiss, hforce, hreqMiss, hslack⟩ := hover
  rw [State.settled]
  obtain ⟨hgrants, -⟩ := State.totalled_fields w.bw (w.shares reqs) (w.delivered reqs)
  have hcore'' : ((w.delivered reqs).totalled w.bw (w.shares reqs)).core c = w.credited reqs x (w.core c) := hcore'
  have hdue' : (((w.delivered reqs).totalled w.bw (w.shares reqs)).die (coreDie c)).resetDue = 0 := hsame
  have hgrantOf : ((w.delivered reqs).totalled w.bw (w.shares reqs)).bw.grantOf c = w.granted reqs x := by
    rw [Bw.grantOf, hgrants]
    exact hgrant'
  generalize (w.delivered reqs).totalled w.bw (w.shares reqs) = y at hcore'' hdue' hgrantOf ⊢
  have hend : y.EndsOnly c y.ageLeases.dueResets := (State.EndsOnly.ageLeases c y).trans (.dueResets fun _ => (State.EndsOnly.ageLeases c y).due.trans hdue')
  have hbw := hend.bw
  have hkept := hend.core
  generalize y.ageLeases.dueResets = z at hbw hkept ⊢
  have hz : z.bw.grantOf c = w.granted reqs x := by
    rw [hbw]
    exact hgrantOf
  unfold Core.SpdKept at hkept
  have hacc : (z.core c).account = (w.credited reqs x (w.core c)).account ∧ (z.core c).gstall = (w.credited reqs x (w.core c)).gstall := by
    rw [hkept, hcore'']
    exact ⟨rfl, rfl⟩
  obtain ⟨haccount, hgstall⟩ := hacc
  have hvalue : (w.credited reqs x (w.core c)).account = min ((s.core c).account - (max (reqOf reqs c).used (s.bw.grantOf c).floorNow : Nat))
      ((s.bw.grantOf c).inForce : Int) + ((w.granted reqs x).grant : Int) := by
    rw [← hforce, State.credited, hx, hgrant, hcore]
    rfl
  have hstall : (w.credited reqs x (w.core c)).gstall = (decide (s.bw.state = .slackWater) || decide ((w.credited reqs x (w.core c)).account ≤ 0)) := by
    rw [← hstate, ← hslack]
    rfl
  rw [hz]
  refine ⟨hmiss, hreqMiss.trans ?_, hforce, haccount.trans hvalue, ?_⟩
  · rw [hx, hgrant]
  · rw [hgstall, hstall, haccount]

/-! ### The obligation -/

/-- What soft errors leave as it was. -/
theorem State.sound_upsets {errs : SoftErrors} (h : s.Sound reqs c) : (State.upsets errs { s with us := s.us + 1 }).Sound reqs c := by
  have hrest := (State.upsets_only errs { s with us := s.us + 1 }).1.rest
  generalize State.upsets errs { s with us := s.us + 1 } = v at hrest ⊢
  rw [hrest]
  obtain ⟨hcore, hsends, hpair, hgrant, hword, hue, htier, hnamed, hdue⟩ := h
  exact ⟨hcore, hsends, hpair, hgrant, hword, hue, htier, hnamed, hdue⟩

/-- While the package runs, an epoch budgets it, and the uncore units serve what waited. -/
theorem budgetEpoch_running (reqs : List ReqWord) (errs : SoftErrors) (s : State) (hup : s.hub.mgmtUp = true) (hparked : s.bw.parked = false) :
    exec (.budgetEpoch reqs errs) s = .next (((State.upsets errs { s with us := s.us + 1 }).budget reqs).serveHeld.pumpAll.resumeRing.drainCq) := by
  have hrest := (State.upsets_only errs { s with us := s.us + 1 }).1.rest
  have hexec : exec (.budgetEpoch reqs errs) s = execBudgetEpoch reqs errs s := rfl
  rw [hexec, execBudgetEpoch]
  generalize State.upsets errs { s with us := s.us + 1 } = v at hrest ⊢
  have hup' : v.hub.mgmtUp = true := by rw [hrest]; exact hup
  have hparked' : v.bw.parked = false := by rw [hrest]; exact hparked
  dsimp only
  rw [hup', hparked']
  rfl

/-- While the package is parked or not managed, an epoch passes time. -/
theorem budgetEpoch_idle (reqs : List ReqWord) (errs : SoftErrors) (s : State)
    (h : s.hub.mgmtUp = false ∨ s.bw.parked = true ∧ s.us + 1 ≠ s.bw.pfailUs + 100) :
    exec (.budgetEpoch reqs errs) s = .next (State.upsets errs { s with us := s.us + 1 }) := by
  have hrest := (State.upsets_only errs { s with us := s.us + 1 }).1.rest
  have hexec : exec (.budgetEpoch reqs errs) s = execBudgetEpoch reqs errs s := rfl
  rw [hexec, execBudgetEpoch]
  generalize State.upsets errs { s with us := s.us + 1 } = v at hrest ⊢
  have hlose : s.bw.parked = true ∧ s.us + 1 ≠ s.bw.pfailUs + 100 → v.bw.parked = true ∧ v.loseEntries = v := fun ⟨hparked, hus⟩ => by
    have hlater : v.us ≠ v.bw.pfailUs + 100 := by rw [hrest]; exact hus
    refine ⟨by rw [hrest]; exact hparked, ?_⟩
    rw [State.loseEntries, if_neg hlater]
  have hup : v.hub.mgmtUp = s.hub.mgmtUp := by rw [hrest]
  dsimp only
  rcases h with h | h
  · rw [hup, h]
    rfl
  · obtain ⟨hparked, hsame⟩ := hlose h
    rw [hparked, hsame, if_pos rfl, ite_self]

/-- A wake that is granted switches the logic domain of a core in self-test on. -/
theorem domainWakeDone_wakes (c : CoreId) (s : State) (hoff : (s.core c).logicOff = true) (htest : (c : Nat) ∈ s.hub.selftest)
    (hleft : 0 < Tab.get 0 s.bw.wakeGranted c) (hroom : Tab.get 0 s.bw.wakes (coreDie c) < 16) :
    exec (.domainWakeDone c) s = .next (({ s with bw := { s.bw with
      wakeGranted := Tab.set 0 s.bw.wakeGranted c (Tab.get 0 s.bw.wakeGranted c - 1)
      wakes := Tab.set 0 s.bw.wakes (coreDie c) (Tab.get 0 s.bw.wakes (coreDie c) + 1) } } : State).modCore c fun k => { k with logicOff := false }) := by
  have hexec : exec (.domainWakeDone c) s = execDomainWakeDone c s := rfl
  rw [hexec, execDomainWakeDone]
  dsimp only
  rw [if_pos (by simp [hoff, htest, hleft, hroom])]

/-- Settles O49, part by part: what arises with the epoch, the cores' health, their requests, the shares and the grants. -/
theorem budgetEpoch : Obligations.BudgetEpoch := by
  unfold Obligations.BudgetEpoch
  intro s
  refine ⟨?_, ?_, ?_, ?_, ?_⟩
  · intro reqs errs hup hparked
    obtain ⟨honly, hplm, hsec, hcache⟩ := State.upsets_only errs { s with us := s.us + 1 }
    refine ⟨_, budgetEpoch_running reqs errs s hup hparked, ?_⟩
    have hsound (c : Nat) (h : s.Sound reqs c) := (State.sound_upsets (errs := errs) h).budget
    have hrest := honly.rest
    have hmem := honly.mem
    generalize State.upsets errs { s with us := s.us + 1 } = v at *
    have hbw : v.bw = s.bw := by rw [hrest]
    have hcore (c : Nat) : v.core c = s.core c := by
      rw [hrest]
      rfl
    have hus : v.us = s.us + 1 := by rw [hrest]
    obtain ⟨hus', hplm', hsec', hbad, hepoch, hlimit, hfree⟩ := v.budget_fields reqs
    generalize v.budget reqs = u at *
    rw [hbw] at hepoch hlimit hsound
    refine ⟨hus'.trans hus, hepoch, hlimit, hfree, by rw [hplm', hmem], fun h => hplm'.trans (hplm h), fun h => hsec'.trans (hsec h), fun x hx => ?_, ?_⟩
    · rw [hbad]
      exact hcache x hx
    · intro c hc hf hr hrole hpair hgrant hword hue htier hnamed hdue
      have hsends : s.sends c = true := by simp [State.sends, hf, hr, hrole]
      have hbudget := hsound c ⟨hc, hsends, hpair, hgrant, hword, hue, htier, hnamed, hdue⟩
      rw [hcore] at hbudget
      exact hbudget
  · exact fun reqs errs _ hparked hus => budgetEpoch_idle reqs errs s (.inr ⟨hparked, hus⟩)
  · exact fun reqs errs hup => budgetEpoch_idle reqs errs s (.inl hup)
  · intro c hoff htest hleft hroom
    refine ⟨_, domainWakeDone_wakes c s hoff htest hleft hroom, State.core_modCore .., fun x hx => State.core_modCore_ne _ _ hx, ?_, ?_⟩
    · exact Tab.get_set_self 0 s.bw.wakes (coreDie c) (Tab.get 0 s.bw.wakes (coreDie c) + 1)
    · exact Tab.get_set_self 0 s.bw.wakeGranted c (Tab.get 0 s.bw.wakeGranted c - 1)
  · intro r hok hup
    have hexec : exec (.baseRecalibrate r) s = execBaseRecalibrate r s := rfl
    rw [hexec, execBaseRecalibrate, if_pos (by rw [hok, hup]; rfl)]

end Sys2Proof.Machine
end

section
/-! The stream keys (R429). `Obligations.StreamKeys` says that enrolling a key leaves the failure of the store's tag as it was. A store whose tag
has failed keeps the tag that it holds (log entry 180), and whether that one is the tag of the longer store only `Config.keyTag` tells, which no
proof sees: so O46 stands here as what it asks of that function (`streamKeys_iff`), and with that function open it is neither proved nor refuted. -/

namespace Sys2Proof.Machine

variable {s : State} {src : Source}

/-- A key that is enrolled leaves the tag of the store under a key KSK. -/
def EnrolKeepsTag : Prop := ∀ (ksk : List Byte) (keys : List KeyEnt) (key : List Byte), key.length = 57 → keys.length < 16 →
  Config.keyTag ksk (keyStoreBytes (keys ++ [⟨key, false⟩])) = Config.keyTag ksk (keyStoreBytes keys)

/-! ### The store's tag -/

/-- A store whose tag is sound gets a sound one. -/
theorem Sec.tagBad_retag_of_sound {x : Sec} (h : x.tagBad = false) (keys : List KeyEnt) : (x.retag keys).tagBad = false := by
  have hfail : x.tagFail = false := (Bool.or_eq_false_iff.mp h).1
  have htag : (x.retag keys).keyTag = some (Config.keyTag x.ksk (keyStoreBytes keys)) := by
    rw [Sec.retag, h]
    rfl
  rw [Sec.tagBad, htag]
  simp [Sec.retag, hfail]

/-- A store whose tag has failed keeps it, and with a function that gives the longer store the same tag it stays a failure. -/
theorem Sec.tagBad_retag_of_same {x : Sec} {keys : List KeyEnt} (hbad : x.tagBad = true)
    (hsame : Config.keyTag x.ksk (keyStoreBytes keys) = Config.keyTag x.ksk (keyStoreBytes x.keys)) : (x.retag keys).tagBad = true := by
  rw [Sec.retag, hbad, if_pos rfl]
  rw [Sec.tagBad] at hbad
  rw [Sec.tagBad, hsame, hbad]

/-! ### The commands -/

/-- The lock that refuses the host is not set. -/
theorem Source.not_locked (h : src = .host → s.hub.lock = false) : ¬ ((decide (src = .host) && s.hub.lock) = true) := by
  rw [Bool.and_eq_true, decide_eq_true_eq]
  rintro ⟨hhost, hset⟩
  rw [h hhost] at hset
  cases hset

/-- The store with a new key, its record made. -/
def State.enrolled (key : List Byte) (s : State) : State :=
  ({ s with sec := s.sec.retag (s.sec.keys ++ [⟨key, false⟩]) } : State).record 0x0079 4 (leBytes 8 (keyIdOf key))

theorem keyEnroll_eq (hsrc : src ≠ .hub) (ht : s.takesFrom src = true) (hrec : s.sec.recovery = false) (hidle : s.serving = false) (key : List Byte) :
    exec (.keyEnroll src key) s = .next (if (decide (src = .host) && s.hub.lock) = true then s.answerCmd src 0xC040 .locked []
      else if key.length ≠ 57 then s.answerCmd src 0xC040 .invalid []
      else if 16 ≤ s.sec.keys.length then s.answerCmd src 0xC040 .state [] else (s.enrolled key).answerCmd src 0xC040 .success []) := by
  have hexec : exec (.keyEnroll src key) s = execKeyEnroll src key s := rfl
  rw [hexec, execKeyEnroll, State.cmd_inTurn ht (Source.mem_hostBmc hsrc) (.inl hrec) hidle]
  rfl

theorem keyEnroll_appends (hsrc : src ≠ .hub) (ht : s.takesFrom src = true) (hrec : s.sec.recovery = false) (hidle : s.serving = false) {key : List Byte}
    (hlock : src = .host → s.hub.lock = false) (hlen : key.length = 57) (hroom : s.sec.keys.length < 16) :
    exec (.keyEnroll src key) s = .next ((s.enrolled key).answerCmd src 0xC040 .success []) := by
  rw [keyEnroll_eq hsrc ht hrec hidle, if_neg (Source.not_locked hlock), if_neg (not_not.mpr hlen), if_neg (Nat.not_le.mpr hroom)]

/-- A command's answer leaves the key store. -/
theorem State.store_answerCmd (src : Source) (op : Nat) (st : Status) (data : List Byte) (s : State) : (s.answerCmd src op st data).sec.keys = s.sec.keys ∧
    (s.answerCmd src op st data).sec.tagBad = s.sec.tagBad := by
  cases src
  · have hsec : (s.answerCmd .host op st data).sec = { s.sec with cmdLast := op, cmdStatus := st.code, cmdSource := srcNum .host, cmdCount := satInc s.sec.cmdCount } := by
      simp [State.answerCmd]
    rw [hsec]
    exact ⟨rfl, rfl⟩
  · exact ⟨rfl, rfl⟩
  · exact ⟨rfl, rfl⟩

/-- The keys with those of a KEYID revoked. -/
def revokeKeys (n : Nat) (keys : List KeyEnt) : List KeyEnt := keys.map fun k => if keyIdOf k.key = n then { k with revoked := true } else k

theorem keys_revokeKeys (n : Nat) (keys : List KeyEnt) : (revokeKeys n keys).map (·.key) = keys.map (·.key) := by
  rw [revokeKeys, List.map_map]
  refine List.map_congr_left fun k _ => ?_
  dsimp only [Function.comp]
  split <;> rfl

theorem revoked_of_mem {n : Nat} {keys : List KeyEnt} {k : KeyEnt} (hk : k ∈ revokeKeys n keys) (hid : keyIdOf k.key = n) : k.revoked = true := by
  obtain ⟨x, -, hx⟩ := List.mem_map.mp hk
  split at hx
  next => rw [← hx]
  next hne => exact absurd (hx ▸ hid) hne

theorem mem_revokeKeys_of_ne {n : Nat} {keys : List KeyEnt} {k : KeyEnt} (hid : keyIdOf k.key ≠ n) : k ∈ revokeKeys n keys ↔ k ∈ keys := by
  refine ⟨fun hk => ?_, fun hk => List.mem_map.mpr ⟨k, hk, if_neg hid⟩⟩
  obtain ⟨x, hmem, hx⟩ := List.mem_map.mp hk
  split at hx
  next heq => exact absurd (by rw [← hx]; exact heq) hid
  next => exact hx ▸ hmem

theorem keyRevoke_revokes (hsrc : src ≠ .hub) (ht : s.takesFrom src = true) (hrec : s.sec.recovery = false) (hidle : s.serving = false) {n : Nat}
    (hmem : ∃ k ∈ s.sec.keys, keyIdOf k.key = n) : ∃ u, exec (.keyRevoke src n) s = .next u ∧ u.sec.cmdStatus = 0 ∧ u.sec.keys = revokeKeys n s.sec.keys := by
  have hexec : exec (.keyRevoke src n) s = execKeyRevoke src n s := rfl
  have hany : (s.sec.keys.any fun k => decide (keyIdOf k.key = n)) = true := by simpa [List.any_eq_true] using hmem
  rw [hexec, execKeyRevoke, State.cmd_inTurn ht (Source.mem_hostBmc hsrc) (.inl hrec) hidle]
  dsimp only
  rw [hany, if_neg (by decide)]
  refine ⟨_, rfl, (State.answerCmd_fields ..).2.2.2.2, (State.store_answerCmd ..).1.trans ?_⟩
  split <;> rfl

/-- What O46 asks of `Config.keyTag`: where a key's enrolment leaves the tag of each store, the obligation holds, and nowhere else. -/
theorem streamKeys_iff : Obligations.StreamKeys ↔ EnrolKeepsTag := by
  unfold Obligations.StreamKeys
  constructor
  · intro h ksk keys key hlen hroom
    by_contra hne
    let s : State := { hub := { mgmtUp := true }, sec := { ksk := ksk, keys := keys, keyTag := some (Config.keyTag ksk (keyStoreBytes (keys ++ [⟨key, false⟩]))) } }
    have hidle : s.serving = false := rfl
    have hbad : s.sec.tagBad = true := decide_eq_true hne
    obtain ⟨hclause, -⟩ := h .bmc s (by decide) rfl rfl hidle
    obtain ⟨u, hu, -, htag, -⟩ := hclause key (fun hhost => absurd hhost (by decide)) hlen hroom
    rw [keyEnroll_appends (by decide) rfl rfl hidle (fun hhost => absurd hhost (by decide)) hlen hroom] at hu
    cases hu
    rw [(State.store_answerCmd ..).2, hbad] at htag
    have hkept : (s.sec.retag (keys ++ [⟨key, false⟩])).tagBad = false := by
      rw [Sec.retag, hbad, if_pos rfl]
      exact decide_eq_false (not_not.mpr rfl)
    exact absurd (htag.symm.trans hkept) (by decide)
  · intro htag src s hsrc ht hrec hidle
    refine ⟨fun key hlock hlen hroom => ?_, fun key hfull hlen hlock => ?_, fun key hlen hlock => ?_, fun key hhost hlock => ?_, fun n hmem => ?_, fun n hnone => ?_, ?_⟩
    · refine ⟨_, keyEnroll_appends hsrc ht hrec hidle hlock hlen hroom, (State.store_answerCmd ..).1, (State.store_answerCmd ..).2.trans ?_,
        (State.answerCmd_fields ..).2.2.2.2, (State.answerCmd_fields ..).1⟩
      show (s.sec.retag (s.sec.keys ++ [⟨key, false⟩])).tagBad = s.sec.tagBad
      by_cases hbad : s.sec.tagBad = true
      · rw [hbad]
        exact Sec.tagBad_retag_of_same hbad (htag _ _ key hlen hroom)
      · have hsound : s.sec.tagBad = false := by simpa using hbad
        rw [hsound]
        exact Sec.tagBad_retag_of_sound hsound _
    · rw [keyEnroll_eq hsrc ht hrec hidle, if_neg (Source.not_locked hlock), if_neg (not_not.mpr hlen), if_pos (Nat.le_of_eq hfull.symm)]
    · rw [keyEnroll_eq hsrc ht hrec hidle, if_neg (Source.not_locked hlock), if_pos hlen]
    · rw [keyEnroll_eq hsrc ht hrec hidle, if_pos (by simp [hhost, hlock])]
    · obtain ⟨u, hu, hstatus, hkeys⟩ := keyRevoke_revokes hsrc ht hrec hidle hmem
      refine ⟨u, hu, hstatus, ?_, ?_, ?_⟩ <;> rw [hkeys]
      · exact keys_revokeKeys n _
      · exact fun k hk hid => revoked_of_mem hk hid
      · exact fun k hid => mem_revokeKeys_of_ne hid
    · have hexec : exec (.keyRevoke src n) s = execKeyRevoke src n s := rfl
      have hany : (s.sec.keys.any fun k => decide (keyIdOf k.key = n)) = false := by simpa [List.any_eq_false] using hnone
      rw [hexec, execKeyRevoke, State.cmd_inTurn ht (Source.mem_hostBmc hsrc) (.inl hrec) hidle]
      dsimp only
      rw [hany, if_pos (by decide)]
    · have hexec : exec (.keyList src) s = execKeyList src s := rfl
      rw [hexec, execKeyList, State.cmd_inTurn ht (Source.mem_hostBmc hsrc) (.inl hrec) hidle]
      have hentry : (s.sec.keys.flatMap fun k => leBytes 8 (keyIdOf k.key) ++ b8 (b2n (k.revoked || s.sec.tagBad))) =
          s.sec.keys.flatMap fun k => leBytes 8 (keyIdOf k.key) ++ b8 (if k.revoked = true ∨ s.sec.tagBad = true then 1 else 0) := by
        refine List.flatMap_congr fun k _ => ?_
        rw [b2n]
        simp only [Bool.or_eq_true]
      rw [hentry]

/-- With one tag for all stores the obligation holds. -/
theorem streamKeys_of_one_tag (h : ∀ ksk a b, Config.keyTag ksk a = Config.keyTag ksk b) : Obligations.StreamKeys :=
  streamKeys_iff.mpr fun ksk _ _ _ _ => h ksk _ _

/-- With a tag of its own for each store it fails. -/
theorem streamKeys_fails_of_injective (h : ∀ ksk, Function.Injective (Config.keyTag ksk)) : ¬ Obligations.StreamKeys := fun hkeys => by
  have hsame := h [] (streamKeys_iff.mp hkeys [] [] (List.replicate 57 0) (List.length_replicate ..) (by decide))
  have hlen := congrArg List.length hsame
  simp [keyStoreBytes] at hlen

end Sys2Proof.Machine
end

section
/-! Cold reset (R396, R397, R437). In `Obligations.ColdReset` the logic domain of a core out of RECOVERY is off exactly where `s.role` says DISABLED.
Cold reset keeps the DISABLED entries of the roles alone, and of two entries for one core the first counts, so that with a first entry that is not
DISABLED and a second that is the statement fails, in every boot that starts an image. Whether any image passes its checks only the fuses and Ed448
tell, which no proof sees; without one every boot goes to RECOVERY, and there the obligation holds. So it is neither proved nor refuted here: it
holds exactly where no image passes. -/

namespace Sys2Proof.Machine

variable {s t u : State}

/-! ### What a boot without an image keeps -/

/-- No image passes the checks of R437. -/
def NoImagePasses : Prop := ∀ (x : Sec) (slot : Nat), x.sk = deviceKey "SLOT" [] 32 → x.verify slot ≠ none

/-- The queue grows at its end, unless it has been full. -/
structure Tmk.Grows (x y : Tmk) : Prop where
  full : tmkDepth ≤ x.queue.length → tmkDepth ≤ y.queue.length
  longer : x.queue <+: y.queue ∨ tmkDepth ≤ y.queue.length

theorem Tmk.Grows.trans {x y z : Tmk} (h : x.Grows y) (k : y.Grows z) : x.Grows z := by
  refine ⟨fun hx => k.full (h.full hx), ?_⟩
  rcases h.longer with hxy | hxy
  · exact k.longer.imp_left hxy.trans
  · exact .inr (k.full hxy)

theorem Tmk.grows_of_queue {x y : Tmk} (h : y.queue = x.queue) : x.Grows y := ⟨fun hx => h ▸ hx, .inl (h ▸ List.prefix_rfl)⟩

theorem dropLastInfo_length {q r : List TmkEntry} (h : dropLastInfo q = some r) : r.length + 1 = q.length := by
  induction q generalizing r with
  | nil => exact absurd h (by simp [dropLastInfo])
  | cons e q ih =>
    rw [dropLastInfo] at h
    split at h
    next r' hr =>
      cases h
      rw [List.length_cons, List.length_cons, ih hr]
    next =>
      split at h
      · cases h
        rfl
      · cases h

theorem Tmk.grows_enqueue (e : TmkEntry) (t : Tmk) : t.Grows (t.enqueue e) := by
  by_cases hroom : t.queue.length < tmkDepth
  · rw [Tmk.enqueue_of_room e hroom]
    exact ⟨fun h => absurd h (Nat.not_le.mpr hroom), .inl (List.prefix_append ..)⟩
  · have hfull : tmkDepth ≤ (t.enqueue e).queue.length := by
      rw [Tmk.enqueue, if_neg hroom]
      split
      · exact Nat.not_lt.mp hroom
      · split
        next q hq =>
          have := dropLastInfo_length hq
          rw [List.length_append, List.length_singleton, this]
          exact Nat.not_lt.mp hroom
        next => exact Nat.not_lt.mp hroom
    exact ⟨fun _ => hfull, .inr hfull⟩

/-- What the steps of a boot that starts no image keep. -/
structure State.BootKept (s t : State) : Prop where
  rest : t = { s with tmk := t.tmk, sec := t.sec, bw := t.bw, fresh := t.fresh }
  queue : s.tmk.Grows t.tmk
  slots : t.tmk.slots = s.tmk.slots
  floor : t.tmk.floor = s.tmk.floor
  head : t.tmk.head = s.tmk.head
  bootCount : t.tmk.bootCount = s.tmk.bootCount
  flash0 : t.sec.flash0 = s.sec.flash0
  flash1 : t.sec.flash1 = s.sec.flash1
  keys : t.sec.keys = s.sec.keys
  sigRevoked : t.sec.sigRevoked = s.sec.sigRevoked
  rollback : t.sec.rollback = s.sec.rollback
  sk : t.sec.sk = s.sec.sk
  lock : t.bw.lock = s.bw.lock
  cause : t.bw.rstCause = s.bw.rstCause
  warnNeap : t.bw.warnNeap = s.bw.warnNeap

/-- A bank's write leaves the ring and its queue. -/
theorem Tmk.setBank_ring (isB : Bool) (b : SetBank) (t : Tmk) : (t.setBank isB b).queue = t.queue ∧ (t.setBank isB b).slots = t.slots ∧
    (t.setBank isB b).floor = t.floor ∧ (t.setBank isB b).head = t.head ∧ (t.setBank isB b).bootCount = t.bootCount := by
  cases isB <;> exact ⟨rfl, rfl, rfl, rfl, rfl⟩

namespace State.BootKept

theorem refl (s : State) : s.BootKept s := by
  refine ⟨rfl, Tmk.grows_of_queue rfl, ?_, ?_, ?_, ?_, ?_, ?_, ?_, ?_, ?_, ?_, ?_, ?_, ?_⟩ <;> rfl

theorem trans (h : s.BootKept t) (k : t.BootKept u) : s.BootKept u where
  rest := k.rest.trans (by rw [h.rest])
  queue := h.queue.trans k.queue
  slots := k.slots.trans h.slots
  floor := k.floor.trans h.floor
  head := k.head.trans h.head
  bootCount := k.bootCount.trans h.bootCount
  flash0 := k.flash0.trans h.flash0
  flash1 := k.flash1.trans h.flash1
  keys := k.keys.trans h.keys
  sigRevoked := k.sigRevoked.trans h.sigRevoked
  rollback := k.rollback.trans h.rollback
  sk := k.sk.trans h.sk
  lock := k.lock.trans h.lock
  cause := k.cause.trans h.cause
  warnNeap := k.warnNeap.trans h.warnNeap

/-- Work on the boot's choice alone. -/
theorem of_sec {x : Sec} (hflash0 : x.flash0 = s.sec.flash0) (hflash1 : x.flash1 = s.sec.flash1) (hkeys : x.keys = s.sec.keys)
    (hsig : x.sigRevoked = s.sec.sigRevoked) (hroll : x.rollback = s.sec.rollback) (hsk : x.sk = s.sec.sk) : s.BootKept { s with sec := x } :=
  ⟨rfl, Tmk.grows_of_queue rfl, rfl, rfl, rfl, rfl, hflash0, hflash1, hkeys, hsig, hroll, hsk, rfl, rfl, rfl⟩

/-- Work on the settings' banks and the bank writes alone. -/
theorem of_tmk {x : Tmk} (hqueue : x.queue = s.tmk.queue) (hslots : x.slots = s.tmk.slots) (hfloor : x.floor = s.tmk.floor) (hhead : x.head = s.tmk.head)
    (hcount : x.bootCount = s.tmk.bootCount) : s.BootKept { s with tmk := x } :=
  ⟨rfl, Tmk.grows_of_queue hqueue, hslots, hfloor, hhead, hcount, rfl, rfl, rfl, rfl, rfl, rfl, rfl, rfl, rfl⟩

theorem record (ty src : Nat) (pl : List Byte) (core unit : Nat) (s : State) : s.BootKept (s.record ty src pl core unit) := by
  have hsame : s.tmk.Same (s.tmk.enqueue (s.entry ty src pl core unit)) := Tmk.same_enqueue ..
  have hgrows := Tmk.grows_enqueue (s.entry ty src pl core unit) s.tmk
  rw [State.record]
  generalize s.tmk.enqueue (s.entry ty src pl core unit) = x at hsame hgrows
  unfold Tmk.Same at hsame
  refine ⟨rfl, hgrows, ?_, ?_, ?_, ?_, rfl, rfl, rfl, rfl, rfl, rfl, rfl, rfl, rfl⟩ <;> dsimp only <;> rw [hsame]

theorem draw (s : State) : s.BootKept s.draw.2 := by
  refine ⟨rfl, Tmk.grows_of_queue rfl, ?_, ?_, ?_, ?_, ?_, ?_, ?_, ?_, ?_, ?_, ?_, ?_, ?_⟩ <;> rfl

theorem startJob (s : State) : s.BootKept s.startJob := by
  obtain ⟨b, js, he | he⟩ := s.startJob_eq <;> rw [he]
  · obtain ⟨hqueue, hslots, hfloor, hhead, hcount⟩ := Tmk.setBank_ring s.tmk.target b s.tmk
    exact .of_tmk hqueue hslots hfloor hhead hcount
  · exact .refl s

theorem queueJob (job : BankJob) (s : State) : s.BootKept (s.queueJob job) :=
  (of_tmk (x := { s.tmk with jobs := s.tmk.jobs ++ [({ job := job } : BankWrite)] }) rfl rfl rfl rfl rfl).trans (.startJob _)

/-- A write of the ROM, whether or not it is over. -/
theorem bankWrite {j : BankWrite} (hj : s.tmk.jobs = [j]) (hrom : j.job = .romBoot) : s.BootKept (s.bankWrite true) := by
  have hsrc : sourceOf j.job = none := by rw [hrom]; rfl
  simp only [State.bankWrite, hj, State.answerJob_of_no_source _ hsrc]
  generalize ({ (s.tmk.bank s.tmk.target).written j.format s.tmk.nextSeq j.payload with bad := !true } : SetBank) = b
  obtain ⟨hqueue, hslots, hfloor, hhead, hcount⟩ := Tmk.setBank_ring s.tmk.target b s.tmk
  split
  · rw [hrom, State.jobDone, State.startJob_of_no_jobs (State.record_jobs ..)]
    refine .trans ?_ (.record _ _ _ _ _ _)
    exact .of_tmk hqueue hslots hfloor hhead hcount
  · split
    · exact .of_tmk hqueue hslots hfloor hhead hcount
    · rw [if_neg (by simp [hrom]), State.startJob_of_no_jobs (State.record_jobs ..)]
      refine .trans ?_ (.record _ _ _ _ _ _)
      exact .of_tmk hqueue hslots hfloor hhead hcount

end State.BootKept

/-- A write of the ROM is over, or is to be repeated. -/
theorem State.bankWrite_jobs {j : BankWrite} (hj : s.tmk.jobs = [j]) (hrom : j.job = .romBoot) :
    (s.bankWrite true).tmk.jobs = [] ∨ ((s.bankWrite true).tmk.jobs = [{ j with repeated := true }] ∧ j.repeated = false) := by
  have hsrc : sourceOf j.job = none := by rw [hrom]; rfl
  simp only [State.bankWrite, hj, State.answerJob_of_no_source _ hsrc]
  split
  · rw [hrom, State.jobDone, State.startJob_of_no_jobs (State.record_jobs ..)]
    exact .inl (State.record_jobs ..)
  · split
    next hrep => exact .inr ⟨rfl, by simpa using hrep⟩
    next =>
      rw [if_neg (by simp [hrom]), State.startJob_of_no_jobs (State.record_jobs ..)]
      exact .inl (State.record_jobs ..)

/-- The ROM's write of the BOOT item, with the jobs that it leaves. -/
theorem State.bootWrite_kept (hj : s.tmk.jobs = []) : s.BootKept s.bootWrite ∧ s.bootWrite.tmk.jobs = [] := by
  obtain ⟨j, hjobs, hrom⟩ := s.queueJob_jobs .romBoot hj
  have hfirst : s.BootKept ((s.queueJob .romBoot).bankWrite true) := (State.BootKept.queueJob .romBoot s).trans (.bankWrite hjobs hrom)
  rw [State.bootWrite]
  rcases State.bankWrite_jobs hjobs hrom with hnone | ⟨hone, -⟩
  · rw [if_pos hnone]
    exact ⟨hfirst, hnone⟩
  · rw [if_neg (by simp [hone])]
    refine ⟨hfirst.trans (.bankWrite hone hrom), (State.bankWrite_jobs hone hrom).resolve_right fun h => ?_⟩
    exact Bool.noConfusion h.2

/-! ### No image, so RECOVERY -/

/-- A boot that starts no image ends in RECOVERY. -/
structure State.Recovers (s t : State) : Prop where
  kept : s.BootKept t
  recovery : t.sec.recovery = true

theorem State.Recovers.of_kept (h : s.BootKept t) (k : t.Recovers u) : s.Recovers u := ⟨h.trans k.kept, k.recovery⟩

theorem State.startRecovery_recovers (s : State) : s.Recovers { s with sec := s.sec.startRecovery } := ⟨.of_sec rfl rfl rfl rfl rfl rfl, rfl⟩

theorem State.bootActive_recovers (hno : NoImagePasses) (hsk : s.sec.sk = deviceKey "SLOT" [] 32) : s.Recovers s.bootActive := by
  have hfails (slot : Nat) : (s.sec.verify slot).isNone = false := by
    rw [← Bool.not_eq_true, Option.isNone_iff_eq_none]
    exact hno s.sec slot hsk
  rw [State.bootActive]
  dsimp only
  rw [hfails, hfails, Bool.and_false, if_neg (by decide), if_neg (by decide)]
  exact .of_kept (.draw s) (.of_kept (.record ..) (State.startRecovery_recovers _))

theorem State.revert_recovers (hno : NoImagePasses) (hsk : s.sec.sk = deviceKey "SLOT" [] 32) (hj : s.tmk.jobs = []) (cause : Nat) :
    s.Recovers (s.revert cause) := by
  have hgiven : s.BootKept { s with sec := { s.sec.setSlotSt s.sec.trial 1 with trial := 0xFF } } := by
    refine .of_sec ?_ ?_ ?_ ?_ ?_ ?_ <;> unfold Sec.setSlotSt <;> split <;> rfl
  obtain ⟨hwrite, -⟩ := State.bootWrite_kept (s := { s with sec := { s.sec.setSlotSt s.sec.trial 1 with trial := 0xFF } }) hj
  have hkept := (hgiven.trans hwrite).trans (.record 0x0076 4 (b8 s.sec.trial ++ b8 cause) 0xFF 0 _)
  exact .of_kept hkept (State.bootActive_recovers hno (hkept.sk.trans hsk))

theorem State.bootChoice_recovers (hno : NoImagePasses) (hsk : s.sec.sk = deviceKey "SLOT" [] 32) (hj : s.tmk.jobs = []) : s.Recovers s.bootChoice := by
  rw [State.bootChoice]
  dsimp only
  split
  · exact State.bootActive_recovers hno hsk
  split
  · exact State.revert_recovers hno hsk hj 0
  have htry : s.BootKept { s with sec := { s.sec with attempts := s.sec.attempts - 1 } } := .of_sec rfl rfl rfl rfl rfl rfl
  obtain ⟨hwrite, hjobs⟩ := State.bootWrite_kept (s := { s with sec := { s.sec with attempts := s.sec.attempts - 1 } }) hj
  have hkept := htry.trans hwrite
  have hsk' := hkept.sk.trans hsk
  rw [if_neg]
  · exact .of_kept hkept (State.revert_recovers hno hsk' hjobs 1)
  · rw [Option.isNone_iff_eq_none]
    exact hno _ _ hsk'

/-! ### The settings, in RECOVERY -/

/-- Settings that come into force leave what the boot has chosen. -/
structure State.SettingsKept (s t : State) : Prop where
  kept : s.BootKept t
  recovery : t.sec.recovery = s.sec.recovery
  started : t.sec.started = s.sec.started

theorem State.SettingsKept.trans (h : s.SettingsKept t) (k : t.SettingsKept u) : s.SettingsKept u :=
  ⟨h.kept.trans k.kept, k.recovery.trans h.recovery, k.started.trans h.started⟩

theorem State.SettingsKept.applySetting (id : Nat) (v : List Byte) (s : State) : s.SettingsKept (s.applySetting id v) := by
  unfold State.applySetting
  split <;> refine ⟨⟨rfl, Tmk.grows_of_queue rfl, ?_, ?_, ?_, ?_, ?_, ?_, ?_, ?_, ?_, ?_, ?_, ?_, ?_⟩, ?_, ?_⟩ <;> rfl

theorem State.SettingsKept.applyAll (items : Items) (s : State) : s.SettingsKept (s.applyAll items) := by
  have hstart : s.SettingsKept { s with tmk := { s.tmk with inForce := items } } := ⟨.of_tmk rfl rfl rfl rfl rfl, rfl, rfl⟩
  rw [State.applyAll]
  dsimp only
  generalize ({ s with tmk := { s.tmk with inForce := items } } : State) = v at hstart ⊢
  generalize List.range' 1 9 = ids
  induction ids generalizing v with
  | nil => exact hstart
  | cons id ids ih => exact ih _ (hstart.trans (.applySetting id _ v))

/-- The settings of the selected bank, or the defaults. -/
def State.bankSettings (s : State) : State :=
  match s.tmk.selected with
  | none => s.applyAll []
  | some b => if b.format = s.sec.setFmt then s.applyAll (Items.settle b.items)
    else if s.sec.trialRun || s.sec.recovery then ({ s with tmk := { s.tmk with defaulted := true } }).applyAll []
    else s.reformat

theorem State.loadSettings_eq (s : State) : s.loadSettings =
    if s.bankSettings.sec.recovery || s.bankSettings.sec.trialRun then s.bankSettings else s.bankSettings.raiseRollback := rfl

theorem State.SettingsKept.reformat (s : State) : s.SettingsKept s.reformat := by
  rw [State.reformat]
  split
  · have hdefault : s.SettingsKept { s with tmk := { s.tmk with defaulted := true } } := ⟨.of_tmk rfl rfl rfl rfl rfl, rfl, rfl⟩
    have hrecord (v : State) : v.SettingsKept (v.record 0x0060 4 (b8 1)) := ⟨.record .., rfl, rfl⟩
    have hqueue (v : State) : v.SettingsKept (v.queueJob .format) := by
      have hsec : (v.queueJob .format).sec = v.sec := State.queueJob_sec _ _
      exact ⟨.queueJob .format v, by rw [hsec], by rw [hsec]⟩
    exact ((hdefault.trans (hrecord _)).trans (.applyAll [] _)).trans (hqueue _)
  · exact ⟨.refl s, rfl, rfl⟩

theorem State.SettingsKept.bankSettings (s : State) : s.SettingsKept s.bankSettings := by
  unfold State.bankSettings
  split
  · exact .applyAll [] s
  · split
    · exact .applyAll _ s
    · split
      · have hdefault : s.SettingsKept { s with tmk := { s.tmk with defaulted := true } } := ⟨.of_tmk rfl rfl rfl rfl rfl, rfl, rfl⟩
        exact hdefault.trans (.applyAll [] _)
      · exact .reformat s

/-- In RECOVERY no rollback is raised. -/
theorem State.SettingsKept.loadSettings (hrec : s.sec.recovery = true) : s.SettingsKept s.loadSettings := by
  have hload := State.SettingsKept.bankSettings s
  rw [State.loadSettings_eq, hload.recovery, hrec, Bool.true_or, if_pos rfl]
  exact hload

/-! ### The boot in RECOVERY, from its first step to its last -/

theorem State.logReset_kept (cause : Nat) (s : State) : (s.record 0x0001 4 (b8 cause)).BootKept (s.logReset cause) ∧ s.BootKept (s.record 0x0001 4 (b8 cause)) := by
  refine ⟨?_, .record ..⟩
  rw [State.logReset]
  dsimp only
  generalize s.record 0x0001 4 (b8 cause) = v
  split
  · exact .refl v
  · have hdefault : v.BootKept { v with tmk := { v.tmk with defaulted := true } } := .of_tmk rfl rfl rfl rfl rfl
    exact hdefault.trans (.record ..)

theorem State.chooseImage_recovers (hno : NoImagePasses) (hsk : s.sec.sk = deviceKey "SLOT" [] 32) (hj : s.tmk.jobs = []) (p : BootPins) :
    s.Recovers (s.chooseImage p) := by
  rw [State.chooseImage]
  split
  · exact s.startRecovery_recovers
  · exact State.bootChoice_recovers hno hsk hj

/-- In RECOVERY no component starts, and the planes do not. -/
theorem State.startImage_recovers (hrec : s.sec.recovery = true) (p : BootPins) : s.Recovers (s.startImage p) ∧ (s.startImage p).sec.started = [] := by
  have hendorsed : s.BootKept { s with sec := s.sec.endorse.runs 2 } := .of_sec rfl rfl rfl rfl rfl rfl
  have hstarted : (s.sec.endorse.runs 2).started = [] := by
    rw [Sec.runs]
    exact if_pos hrec
  have hrec' : ({ s with sec := s.sec.endorse.runs 2 } : State).sec.recovery = true := hrec
  have hload := State.SettingsKept.loadSettings hrec'
  rw [State.startImage, State.startPlanes]
  generalize ({ s with sec := s.sec.endorse.runs 2 } : State).loadSettings = v at hload ⊢
  have hv := hload.recovery.trans hrec'
  rw [if_pos hv]
  exact ⟨⟨hendorsed.trans hload.kept, hv⟩, hload.started.trans hstarted⟩

/-- A low supply warning enters neap and freezes accounts; nothing else changes. -/
theorem State.actOnWarn_fields (hneap : s.bw.warnNeap = false) (p : BootPins) :
    s.actOnWarn p = { s with bw := (s.actOnWarn p).bw, cores := (s.actOnWarn p).cores } ∧ (s.actOnWarn p).bw.lock = s.bw.lock ∧
      (s.actOnWarn p).bw.rstCause = s.bw.rstCause ∧ (s.actOnWarn p).bw.warnNeap = p.warnLow ∧
      ∀ c, ((s.actOnWarn p).core c).inReset = (s.core c).inReset ∧ ((s.actOnWarn p).core c).logicOff = (s.core c).logicOff := by
  rw [State.actOnWarn]
  split
  next hlow =>
    rw [State.warnLow, hneap, if_neg Bool.false_ne_true]
    have hpkg (f : Bw → Bw) (hf : ∀ b, (f b).lock = b.lock ∧ (f b).rstCause = b.rstCause ∧ (f b).warnNeap = true) :
        (s.pkg f).bw.lock = s.bw.lock ∧ (s.pkg f).bw.rstCause = s.bw.rstCause ∧ (s.pkg f).bw.warnNeap = true := by
      rw [State.pkg]
      dsimp only
      split <;> exact hf s.bw
    obtain ⟨hlock, hcause, hwarn⟩ := hpkg (fun b => { b with warn := true, warnNeap := true, neapSince := s.us }) fun _ => ⟨rfl, rfl, rfl⟩
    refine ⟨rfl, hlock, hcause, hwarn.trans hlow.symm, fun c => ?_⟩
    have hcore : ((s.pkg fun b => { b with warn := true, warnNeap := true, neapSince := s.us }).freezeDebt).core c = (s.core c).freezeDebt :=
      State.core_freezeDebt c _
    rw [hcore, Core.freezeDebt]
    split <;> exact ⟨rfl, rfl⟩
  next hlow =>
    exact ⟨rfl, rfl, rfl, by rw [hneap, Bool.eq_false_of_not_eq_true hlow], fun _ => ⟨rfl, rfl⟩⟩

/-- What stays of a state that is held in cold reset. -/
structure State.Kept (s u : State) : Prop where
  floor : u.tmk.floor = s.tmk.floor
  slots : u.tmk.slots = s.tmk.slots
  flash0 : u.sec.flash0 = s.sec.flash0
  flash1 : u.sec.flash1 = s.sec.flash1
  keys : u.sec.keys = s.sec.keys
  sigRevoked : u.sec.sigRevoked = s.sec.sigRevoked
  hostMem : u.out.hostMem = s.out.hostMem
  us : u.us = 0
  mem : u.plm.mem = []
  map : u.plm.map = []
  regions : u.plm.regions = []
  est : u.est = {}
  ldr : u.ldr = {}
  lock : u.hub.lock = false

/-- Cold reset's clauses keep these in the order in which the obligation lists them. -/
theorem State.Kept.all (h : s.Kept u) : u.tmk.floor = s.tmk.floor ∧ u.tmk.slots = s.tmk.slots ∧ u.sec.flash0 = s.sec.flash0 ∧ u.sec.flash1 = s.sec.flash1 ∧
    u.sec.keys = s.sec.keys ∧ u.sec.sigRevoked = s.sec.sigRevoked ∧ u.out.hostMem = s.out.hostMem ∧ u.us = 0 ∧ u.plm.mem = [] ∧ u.plm.map = [] ∧
    u.plm.regions = [] ∧ u.est = {} ∧ u.ldr = {} ∧ u.hub.lock = false := by
  obtain ⟨hfloor, hslots, hflash0, hflash1, hkeys, hsig, hmem, hus, hplm, hmap, hregions, hest, hldr, hlock⟩ := h
  exact ⟨hfloor, hslots, hflash0, hflash1, hkeys, hsig, hmem, hus, hplm, hmap, hregions, hest, hldr, hlock⟩

/-- The management plane's start keeps what cold reset keeps, and every core in reset with its logic domain off. -/
theorem State.kept_startMgmt (p : BootPins) (s : State) : s.Kept (s.startMgmt p) := by
  constructor <;> rfl

theorem State.core_coldHold {c : Nat} (hc : c < 144) (s : State) : s.coldHold.core c = { inReset := true, logicOff := true } := get_allCores Core.off [] hc

theorem State.Kept.of_boot (h : s.Kept t) (k : t.BootKept u) : s.Kept u := by
  have hrest := k.rest
  refine ⟨k.floor.trans h.floor, k.slots.trans h.slots, k.flash0.trans h.flash0, k.flash1.trans h.flash1, k.keys.trans h.keys, k.sigRevoked.trans h.sigRevoked,
    ?_, ?_, ?_, ?_, ?_, ?_, ?_, ?_⟩ <;> rw [hrest]
  exacts [h.hostMem, h.us, h.mem, h.map, h.regions, h.est, h.ldr, h.lock]

/-- The state in which a boot looks for an image. -/
def State.logged (p : BootPins) (s : State) : State := (s.startMgmt p).logReset (coldCause p)

/-- The RESET entry of a cold reset. -/
def State.resetEntry (p : BootPins) (s : State) : TmkEntry := (s.startMgmt p).entry 0x0001 4 (b8 (coldCause p))

theorem State.resetEntry_fields (p : BootPins) (s : State) : (s.resetEntry p).type = 1 ∧ (s.resetEntry p).payload = b8 (if p.powerOn = true then 0 else 1) ∧
    (s.resetEntry p).boot = min (s.tmk.bootCount + 1) 4294967295 ∧ (s.resetEntry p).time = 0 := ⟨rfl, rfl, rfl, rfl⟩

/-- Without an image the state after cold reset is that of its first step, but for what a boot in RECOVERY does. -/
theorem State.boot_recovers (hno : NoImagePasses) (p : BootPins) (s : State) : ∃ v, ((s.logged p).deriveKeys.chooseImage p).startImage p = v ∧
    (s.logged p).deriveKeys.Recovers v ∧ v.sec.started = [] := by
  have hjobs : (s.logged p).deriveKeys.tmk.jobs = [] := (State.logReset_jobs _ _).trans (s.startMgmt_jobs p)
  have hchosen := State.chooseImage_recovers (s := (s.logged p).deriveKeys) hno rfl hjobs p
  obtain ⟨hstart, hstarted⟩ := State.startImage_recovers hchosen.recovery p
  exact ⟨_, rfl, .of_kept hchosen.kept hstart, hstarted⟩

/-- The RESET entry is first, since the queue has never been full. -/
theorem State.reset_first {p : BootPins} {x : Tmk} {e : TmkEntry} {es : List TmkEntry}
    (hgrows : ((s.startMgmt p).record 0x0001 4 (b8 (coldCause p))).tmk.Grows x) (hq : x.queue = e :: es) (hlen : es.length ≤ 24) : e = s.resetEntry p := by
  have hfirst : ((s.startMgmt p).record 0x0001 4 (b8 (coldCause p))).tmk.queue = [s.resetEntry p] := rfl
  rcases hgrows.longer with hprefix | hfull
  · rw [hfirst, hq] at hprefix
    exact (List.cons_prefix_cons.mp hprefix).1.symm
  · rw [hq, List.length_cons, tmkDepth] at hfull
    omega

theorem State.deriveKeys_kept (h : s.Kept t) : s.Kept t.deriveKeys :=
  ⟨h.floor, h.slots, h.flash0, h.flash1, h.keys, h.sigRevoked, h.hostMem, h.us, h.mem, h.map, h.regions, h.est, h.ldr, h.lock⟩

/-- What a boot in RECOVERY ends with. -/
structure State.InRecovery (p : BootPins) (s u : State) : Prop where
  kept : s.Kept u
  hub : u.hub = { (s.startMgmt p).hub with mgmtUp := true }
  head : u.tmk.head = s.tmk.nextHead
  bootCount : u.tmk.bootCount = min (s.tmk.bootCount + 1) 4294967295
  rollback : u.sec.rollback = s.sec.rollback
  recovery : u.sec.recovery = true
  started : u.sec.started = []
  lock : u.bw.lock = 0x10
  cause : u.bw.rstCause = coldCause p
  warnNeap : u.bw.warnNeap = p.warnLow
  core : ∀ c < 144, (u.core c).inReset = true ∧ (u.core c).logicOff = true
  first : u.tmk.queue.head? = some (s.resetEntry p)

/-- Without an image every boot ends in RECOVERY. -/
theorem coldReset_inRecovery (hno : NoImagePasses) {p : BootPins} (htest : p.testEn = false) (hfail : p.failLow = false) (s : State) :
    ∃ u, exec (.coldReset p) s = .next u ∧ s.InRecovery p u := by
  obtain ⟨v, hv, ⟨hboot, hrec⟩, hstarted⟩ := State.boot_recovers hno p s
  obtain ⟨hlogged, hrecorded⟩ := State.logReset_kept (coldCause p) (s.startMgmt p)
  have hbefore := hrecorded.trans hlogged
  have hkept := (State.deriveKeys_kept ((s.kept_startMgmt p).of_boot hbefore)).of_boot hboot
  have hexec := exec_coldReset htest hfail s
  obtain ⟨w, hw, hhead, e, es, hq, -, -, hlen⟩ := coldReset_resetFirst htest hfail s
  rw [hexec] at hw
  cases hw
  have hneap : v.bw.warnNeap = false := hboot.warnNeap.trans hbefore.warnNeap
  have hvend : ((((s.startMgmt p).logReset (coldCause p)).deriveKeys.chooseImage p).startImage p) = v := hv
  rw [hvend] at hexec hhead hq
  obtain ⟨hrest, hlock, hcause, hwarn, hcore⟩ := State.actOnWarn_fields hneap p
  refine ⟨_, hexec, ?_⟩
  generalize v.actOnWarn p = u at *
  have htmk : u.tmk = v.tmk := by rw [hrest]
  have hsec : u.sec = v.sec := by rw [hrest]
  have hloggedCores : (s.logged p).deriveKeys.cores = (s.startMgmt p).cores := by
    rw [State.deriveKeys, State.logged, hbefore.rest]
  have hloggedHub : (s.logged p).deriveKeys.hub = (s.startMgmt p).hub := by
    rw [State.deriveKeys, State.logged, hbefore.rest]
  have hvcores : v.cores = (s.startMgmt p).cores := by
    rw [hboot.rest]
    exact hloggedCores
  have hgrows : ((s.startMgmt p).record 0x0001 4 (b8 (coldCause p))).tmk.Grows u.tmk := by
    rw [htmk]
    exact hlogged.queue.trans hboot.queue
  refine ⟨?_, ?_, hhead, ?_, ?_, hsec ▸ hrec, hsec ▸ hstarted, ?_, ?_, hwarn, fun c hc => ?_, ?_⟩
  · rw [hrest]
    exact ⟨hkept.floor, hkept.slots, hkept.flash0, hkept.flash1, hkept.keys, hkept.sigRevoked, hkept.hostMem, hkept.us, hkept.mem, hkept.map,
      hkept.regions, hkept.est, hkept.ldr, hkept.lock⟩
  · rw [hrest, hboot.rest]
    exact hloggedHub
  · rw [htmk]
    exact hboot.bootCount.trans hbefore.bootCount
  · rw [hsec]
    exact hboot.rollback.trans hbefore.rollback
  · exact hlock.trans (hboot.lock.trans hbefore.lock)
  · exact hcause.trans (hboot.cause.trans hbefore.cause)
  · obtain ⟨hreset, hoff⟩ := hcore c
    have hvcore : v.core c = { inReset := true, logicOff := true } := by
      rw [State.core, hvcores]
      exact s.core_coldHold hc
    rw [hvcore] at hreset hoff
    exact ⟨hreset, hoff⟩
  · rw [hq, List.head?_cons, State.reset_first hgrows hq hlen]

/-! ### A boot that starts an image -/

/-- The checks of R437 read the image, the rollback, the revoke fuses and SK. -/
theorem Sec.verify_congr {x y : Sec} {i j : Nat} (himg : x.flash i = y.flash j) (hsig : x.sigRevoked = y.sigRevoked) (hroll : x.rollback = y.rollback)
    (hsk : x.sk = y.sk) : x.verify i = y.verify j := by
  have hsigner : x.signer = y.signer := funext fun h => by rw [Sec.signer, Sec.signer, hsig]
  unfold Sec.verify
  rw [himg, hsigner, hroll, hsk]

theorem State.findModule_kept (ms : List (Option DdrModule)) (s : State) (x : Nat × Option DdrModule) :
    (s.findModule ms x).cores = s.cores ∧ (s.findModule ms x).sec = s.sec := by
  unfold State.findModule
  extract_lets i c v
  split
  · exact ⟨rfl, rfl⟩
  · split
    · exact ⟨rfl, rfl⟩
    · split
      · split <;> exact ⟨rfl, rfl⟩
      · exact ⟨rfl, rfl⟩

theorem State.findModules_kept (dimms : List (Option DdrModule)) (s : State) : (s.findModules dimms).cores = s.cores ∧ (s.findModules dimms).sec = s.sec := by
  rw [State.findModules]
  generalize ((List.range 16).map fun i => dimms.getD i none) = ms
  generalize (ms.mapIdx fun i m => (i, m)) = xs
  induction xs generalizing s with
  | nil => exact ⟨rfl, rfl⟩
  | cons x xs ih =>
    obtain ⟨hcores, hsec⟩ := s.findModule_kept ms x
    exact ⟨(ih _).1.trans hcores, (ih _).2.trans hsec⟩

/-- A boot out of RECOVERY switches the logic domain of core 0 on unless the roles that it keeps say DISABLED. -/
theorem State.startImage_starts (hrec : s.sec.recovery = false) (p : BootPins) : (s.startImage p).sec.recovery = false ∧
    ((s.startImage p).core 0).logicOff = decide (s.role 0 = .disabled) := by
  have hload := State.SettingsKept.bankSettings { s with sec := s.sec.endorse.runs 2 }
  have hroles : ({ s with sec := s.sec.endorse.runs 2 } : State).loadSettings.roles = s.roles ∧
      ({ s with sec := s.sec.endorse.runs 2 } : State).loadSettings.sec.recovery = false := by
    have hrest := hload.kept.rest
    have hrecovery := hload.recovery
    rw [State.loadSettings_eq]
    generalize ({ s with sec := s.sec.endorse.runs 2 } : State).bankSettings = v at hrest hrecovery ⊢
    have hv : v.roles = s.roles ∧ v.sec.recovery = false := ⟨by rw [hrest], hrecovery.trans hrec⟩
    split
    · exact hv
    · rw [State.raiseRollback]
      split <;> exact hv
  rw [State.startImage, State.startPlanes]
  generalize ({ s with sec := s.sec.endorse.runs 2 } : State).loadSettings = v at hroles ⊢
  obtain ⟨hroles, hrecovery⟩ := hroles
  rw [if_neg (by rw [hrecovery]; decide)]
  have hsame : v.role 0 = s.role 0 := by rw [State.role, State.role, hroles]
  rw [State.core, (State.findModules_kept _ _).1, (State.findModules_kept _ _).2, ← hsame]
  exact ⟨hrecovery, rfl⟩

/-- Two entries for core 0, of which the first is no DISABLED. -/
def twoRoles : Tab (Option Role) := [(0, some .inService), (0, some .disabled)]

/-- A state with one image in both slots, and two entries for core 0. -/
def shipped (img : List Byte) (sigRevoked : BitVec 4) (rollback : Nat) : State :=
  { roles := twoRoles, sec := { flash0 := img, flash1 := img, sigRevoked := sigRevoked, rollback := rollback } }

/-- The pins of a power-on. -/
def powerOnPins : BootPins := ⟨true, 0, 0, false, false, false, [], true, true, true⟩

theorem State.sec_logReset (cause : Nat) (s : State) : (s.logReset cause).sec = s.sec ∧ (s.logReset cause).roles = s.roles := by
  rw [State.logReset]
  dsimp only
  split <;> exact ⟨rfl, rfl⟩

theorem shipped_sec (img : List Byte) (sigRevoked : BitVec 4) (rollback : Nat) : let x := (((shipped img sigRevoked rollback).logged powerOnPins).deriveKeys).sec
    x.active = 0 ∧ x.trial = 0xFF ∧ x.flash0 = img ∧ x.sigRevoked = sigRevoked ∧ x.rollback = rollback ∧ x.sk = deviceKey "SLOT" [] 32 := by
  have hsec : ((shipped img sigRevoked rollback).logged powerOnPins).sec = ((shipped img sigRevoked rollback).startMgmt powerOnPins).sec :=
    (State.sec_logReset _ _).1
  rw [State.deriveKeys, hsec]
  exact ⟨rfl, rfl, rfl, rfl, rfl, rfl⟩

/-- An image that passes its checks starts from slot 0, and core 0 is then off by its second entry. -/
theorem shipped_starts {x : Sec} {slot : Nat} (hsk : x.sk = deviceKey "SLOT" [] 32) (hpass : x.verify slot = none) :
    ∃ u, exec (.coldReset powerOnPins) (shipped (x.flash slot) x.sigRevoked x.rollback) = .next u ∧ u.sec.recovery = false ∧ (u.core 0).logicOff = true := by
  obtain ⟨hactive, htrial, hflash, hsig, hroll, hsk'⟩ := shipped_sec (x.flash slot) x.sigRevoked x.rollback
  have hroles : ((shipped (x.flash slot) x.sigRevoked x.rollback).logged powerOnPins).deriveKeys.roles = [(0, some .disabled)] :=
    (State.sec_logReset _ _).2
  have hexec := exec_coldReset (p := powerOnPins) rfl rfl (shipped (x.flash slot) x.sigRevoked x.rollback)
  rw [← State.logged] at hexec
  refine ⟨_, hexec, ?_⟩
  generalize ((shipped (x.flash slot) x.sigRevoked x.rollback).logged powerOnPins).deriveKeys = v at *
  have hverify : v.sec.verify v.sec.active = none := by
    rw [← hpass, hactive]
    exact Sec.verify_congr hflash hsig hroll (hsk'.trans hsk.symm)
  have hchosen : v.chooseImage powerOnPins = { v with sec := v.sec.start v.sec.active } := by
    rw [State.chooseImage, if_neg (by decide), State.bootChoice]
    dsimp only
    rw [if_pos htrial, State.bootActive]
    dsimp only
    rw [hverify, Option.isNone_none, if_pos rfl]
  rw [hchosen]
  obtain ⟨hrec, hoff⟩ := State.startImage_starts (s := { v with sec := v.sec.start v.sec.active }) rfl powerOnPins
  have hwarn (w : State) : w.actOnWarn powerOnPins = w := rfl
  rw [hwarn]
  refine ⟨hrec, hoff.trans (decide_eq_true ?_)⟩
  rw [State.role, hroles]
  rfl

/-! ### The obligation -/

/-- What O53 asks of the fuses and of Ed448: where no image passes its checks the obligation holds, and nowhere else. -/
theorem coldReset_iff : Obligations.ColdReset ↔ NoImagePasses := by
  unfold Obligations.ColdReset
  constructor
  · intro h x slot hsk hpass
    obtain ⟨-, -, hclause⟩ := h (shipped (x.flash slot) x.sigRevoked x.rollback)
    obtain ⟨u, hu, -, -, -, -, -, -, -, -, -, -, -, -, hcores, -⟩ := hclause powerOnPins rfl rfl
    obtain ⟨u', hu', hrec, hoff⟩ := shipped_starts hsk hpass
    cases hu.symm.trans hu'
    obtain ⟨-, hcore, -⟩ := hcores 0 (by decide)
    have hrole : (shipped (x.flash slot) x.sigRevoked x.rollback).role 0 = .inService := rfl
    rw [hoff, hrec, hrole] at hcore
    exact Bool.noConfusion hcore
  · intro hno s
    refine ⟨?_, fun p htest => ?_, fun p htest hfail => ?_⟩
    · have hkept : s.Kept { s.coldHold with hub := { s.coldHold.hub with perst := true } } := by constructor <;> rfl
      exact ⟨_, rfl, hkept.all, rfl, rfl, rfl, fun c hc => s.core_coldHold hc, fun d hd => get_allDies (fun x => { x with inReset := true }) [] hd,
        rfl, rfl, rfl, rfl⟩
    · have hexec : exec (.coldReset p) s = .next { s.coldHold with hub := { s.coldHold.hub with
          bootsrc := p.bootsrc % 4
          sbaddr := p.sbaddr % 8
          testEn := p.testEn } } := by
        have hrun : exec (.coldReset p) s = execColdReset p s := rfl
        rw [hrun, execColdReset]
        dsimp only
        rw [if_pos htest]
      have hkept : s.Kept { s.coldHold with hub := { s.coldHold.hub with bootsrc := p.bootsrc % 4, sbaddr := p.sbaddr % 8, testEn := p.testEn } } := by
        constructor <;> rfl
      exact ⟨_, hexec, hkept.all, rfl, htest, rfl⟩
    · obtain ⟨u, hexec, hkept, hhub, hhead, hcount, hroll, hrec, hstarted, hlock, hcause, hwarn, hcore, hfirst⟩ := coldReset_inRecovery hno htest hfail s
      obtain ⟨htype, hpayload, hboot, htime⟩ := s.resetEntry_fields p
      refine ⟨u, hexec, hkept.all, ?_, ?_, hhead, hcount, Nat.le_of_eq hroll.symm, ?_, hcause, ?_, ?_, fun _ => hrec, hwarn, fun c hc => ?_, ?_,
        fun hnot => ?_, s.resetEntry p, hfirst, htype, hpayload, hboot, htime⟩
      · rw [hhub]
      · rw [hhub]
        rfl
      · rw [hrec, hlock, if_pos rfl]
      · rw [hhub]
        rfl
      · rw [hhub, hrec]
        exact ⟨fun h => absurd h (by simp [State.startMgmt, State.coldHold]), fun h => absurd h (by decide)⟩
      · obtain ⟨hreset, hoff⟩ := hcore c hc
        rw [hreset, hoff, hrec, Bool.true_or]
        exact ⟨rfl, rfl, fun h => absurd h (by decide)⟩
      · rw [hrec, if_pos rfl, hstarted]
      · rw [hrec] at hnot
        exact absurd hnot (by decide)

/-! ### Fuses of either kind -/

/-- With no signing slot programmed the obligation holds: no image has a signer. -/
theorem coldReset_of_no_signing_slot (h : Config.signingPresent = 0) : Obligations.ColdReset := by
  refine coldReset_iff.mpr fun x slot _ => ?_
  have hsigner (img : List Byte) : x.signer img = none := by
    rw [Sec.signer, List.find?_eq_none]
    intro k _
    simp [h]
  unfold Sec.verify
  simp [hsigner]

/-- A component's entry, for an empty plaintext. -/
def emptyComp (k : Nat) : List Byte := b8 k ++ List.replicate 63 0 ++ shake256 64 []
/-- The header of an image of five empty components, signed by the key of zeros. -/
def emptyImage : List Byte :=
  [0x46, 0x56, 0x4B, 0x34] ++ leBytes 2 1 ++ List.replicate 26 0 ++ leBytes 4 5 ++ List.replicate 28 0 ++ (List.range 5).flatMap emptyComp ++ List.replicate 320 0

theorem emptyImage_format : badFormat emptyImage = false := by decide +kernel
theorem emptyImage_digests : ∀ k ∈ List.range 5, shake256 64 [] = cut (compEntry emptyImage k) 64 64 := by decide +kernel
theorem emptyImage_signer : cut emptyImage 882 57 = List.replicate 57 0 := by decide +kernel
theorem emptyImage_fields : hdrField emptyImage 18 2 = 0 ∧ byteAt emptyImage 6 = 0 ∧ hdrField emptyImage 12 4 = 0 ∧
    ∀ i ∈ List.range 5, ∀ j ∈ List.range 5, hdrField (compEntry emptyImage j) (44 + 2 * i) 2 = 0 := by decide +kernel

theorem emptyImage_compat : badCompat emptyImage = false := by
  obtain ⟨hapi, hstep, -, hcomps⟩ := emptyImage_fields
  rw [badCompat, hapi, hstep, Bool.or_eq_false_iff, Bool.or_eq_false_iff]
  refine ⟨⟨decide_eq_false (Nat.not_lt_zero _), decide_eq_false (Nat.not_lt_zero _)⟩, List.any_eq_false.mpr fun i hi => ?_⟩
  rw [Bool.not_eq_true]
  refine List.any_eq_false.mpr fun j hj => ?_
  rw [hcomps i hi j hj, decide_eq_false (Nat.not_lt_zero _), Bool.and_false]
  exact Bool.false_ne_true

/-- With a signing slot for that key, and checks that it passes, the obligation fails. -/
theorem coldReset_fails_of_image (hslot : Config.signingPresent.getLsbD 0 = true) (hdigest : Config.signingDigest 0 = shake256 64 (List.replicate 57 0))
    (hsig : ∀ key msg ctx sig, Config.ed448Verify key msg ctx sig = true) (hopen : ∀ key iv text tag, Config.aesGcmOpen key iv text tag = some []) :
    ¬ Obligations.ColdReset := fun h => by
  let x : Sec := { flash0 := emptyImage, sk := deviceKey "SLOT" [] 32 }
  refine coldReset_iff.mp h x 0 rfl ?_
  have hsigner : x.signer emptyImage = some 0 := by
    rw [Sec.signer, emptyImage_signer]
    exact List.find?_cons_of_pos (by simp [hslot, hdigest, x])
  have hbad : badSig emptyImage = false := by rw [badSig, hsig, Bool.not_true]
  have hcomp : ((List.range 5).find? fun k => !compOk emptyImage [] k) = none := by
    refine List.find?_eq_none.mpr fun k hk => ?_
    have hok : compOk emptyImage [] k = true := by
      rw [compOk]
      dsimp only
      rw [hopen]
      exact decide_eq_true (emptyImage_digests k hk)
    rw [hok]
    decide
  have hkey : contentKey x.sk emptyImage = some [] := hopen ..
  have himg : x.flash 0 = emptyImage := rfl
  obtain ⟨-, -, hroll, -⟩ := emptyImage_fields
  unfold Sec.verify
  rw [himg]
  dsimp only
  rw [emptyImage_format, hsigner, hbad, emptyImage_compat, hroll, hkey]
  dsimp only
  rw [hcomp]
  rfl

end Sys2Proof.Machine
end
